-- ==== Sys2Proof/Word.lean ====
section
/-! DEFINITION. The word types of the module and their plainest arithmetic (R8, R10): bit 0 is the least
significant bit, every multi-byte field the device defines is little-endian. -/

namespace Sys2Proof

/-- A 64-bit register, descriptor or command word (R557). -/
abbrev W64 := BitVec 64
/-- A 32-bit lane, slot or scalar register (R77). -/
abbrev W32 := BitVec 32
/-- One byte of memory. -/
abbrev Byte := BitVec 8

/-- The bits `[hi:lo]` of a word, as a number (R10: both ends included). -/
def W64.bits (w : W64) (hi lo : Nat) : Nat := (w.toNat >>> lo) % 2 ^ (hi + 1 - lo)

/-- Bit `i` of a word. -/
def W64.bit (w : W64) (i : Nat) : Bool := w.getLsbD i

end Sys2Proof
end

