-- ==== Sys2Proof/Syntax.lean ====
section
/-! DEFINITION. The commands of the block: one constructor of `Instr` per row of spec/opcode_table.json, and the data
an event carries (an instruction's fields, a token, a flit, a frame, a slot, a register write). Field widths follow the
rule each docstring names. -/

namespace Sys2Proof

/-- One 1,024-bit row with its poison marks, one per 64-bit word (R78, R80, R97). -/
structure Row where
  data : BitVec 1024
  poison : BitVec 16
deriving DecidableEq, Repr

/-- A token: one row, its marks and END (R97). -/
structure Token where
  row : Row
  fin : Bool
deriving DecidableEq, Repr

/-- The fields of mma (R116). -/
structure MmaF where
  c : BitVec 3
  b : BitVec 3
  a : BitVec 3
  asrc : BitVec 1
  mm1 : BitVec 5
  nm1 : BitVec 5
  km1 : BitVec 5
  afmt : BitVec 3
  bfmt : BitVec 3
  aconv : BitVec 1
  bconv : BitVec 1
  pair : BitVec 1
  zc : BitVec 1
deriving DecidableEq, Repr

/-- The fields of a vector instruction (R121); `tform` is its class, V-form 0x2 or T-form 0x3 (R111). -/
structure VecF where
  tform : Bool
  pred : BitVec 3
  pneg : BitVec 1
  dst : BitVec 6
  sa : BitVec 6
  sb : BitVec 6
  sc : BitVec 6
  sidx : BitVec 5
  ty : BitVec 3
deriving DecidableEq, Repr

/-- The fields of the predicate class (R124). -/
structure PredF where
  pred : BitVec 3
  pneg : BitVec 1
  pd : BitVec 3
  pa : BitVec 3
  pb : BitVec 3
  sa : BitVec 6
  sb : BitVec 6
  sidx : BitVec 5
  ty : BitVec 3
  ss : BitVec 5
deriving DecidableEq, Repr

/-- The fields of the reduce class (R126). -/
structure RedF where
  pred : BitVec 3
  pneg : BitVec 1
  dst : BitVec 6
  src : BitVec 6
  axis : BitVec 1
  ty : BitVec 3
deriving DecidableEq, Repr

/-- The fields of the move and queue class (R127). -/
structure MoveF where
  pred : BitVec 3
  pneg : BitVec 1
  reg : BitVec 6
  pmask : BitVec 4
  mm1 : BitVec 5
  sa : BitVec 5
  sb : BitVec 5
  imm : BitVec 5
  rsel : BitVec 1
deriving DecidableEq, Repr

/-- The fields of loop (R131). -/
structure LoopF where
  l : BitVec 2
  csrc : BitVec 1
  count : BitVec 16
  sidx : BitVec 5
  endpc : BitVec 11
deriving DecidableEq, Repr

/-- The fields of a scalar operation (R133). -/
structure ScalF where
  sd : BitVec 5
  sa : BitVec 5
  sb : BitVec 5
  bimm : BitVec 1
  imm : BitVec 32
deriving DecidableEq, Repr

/-- The vector operations (R122). -/
inductive VecOp where
  | add | sub | mul | fma | min | max | and | or | xor | shl | shr | sar | sel | mov
  | exp2 | log2 | rsqrt | rcp | cvtFi | cvtIf | cvtF19
deriving DecidableEq, Repr

/-- The predicate operations (R124). -/
inductive PredOp where
  | eq | ne | lt | le | gt | ge | pand | por | pxor | pandn | pset | pget
deriving DecidableEq, Repr

/-- The reductions (R126). -/
inductive RedOp where
  | sum | max | min
deriving DecidableEq, Repr

/-- The move and queue operations (R127). -/
inductive MoveOp where
  | pop | push | drop | rowget | rowput | lget | lput | rld | rst
deriving DecidableEq, Repr

/-- The scalar operations (R133). -/
inductive ScalOp where
  | sli | sadd | ssub | smul | sand | sor | sxor | sshl | sshr | ssar | smin | smax
deriving DecidableEq, Repr

/-- One unit instruction (R110, R111). -/
inductive Zelux where
  | mma (f : MmaF)
  | vec (o : VecOp) (f : VecF)
  | red (o : RedOp) (f : RedF)
  | move (o : MoveOp) (f : MoveF)
  | pred (o : PredOp) (f : PredF)
  | loop (f : LoopF)
  | scal (o : ScalOp) (f : ScalF)
  | setmode (mask value aclr : BitVec 8)
  | getstat (sd : BitVec 5)
  | nop
  | endp
  | yld (sv : Bool) (succ : BitVec 2)
  | waitStep (count : BitVec 16)
  | waitSb (ld st : Bool)
  | waitDrain
  | mark (tag : BitVec 16)
deriving DecidableEq, Repr

/-- An endpoint of the package network (R197, R205): a unit y*64+x, a slice 16*die+s, an OU, a half-stack's PE agent,
the hub, a link die or a flash die. -/
inductive Endpoint where
  | unit (u : Nat)
  | slice (i : Nat)
  | ou (q : Nat)
  | pe (d : Nat)
  | hub
  | ld (k : Nat)
  | fd (n : Nat)
deriving DecidableEq, Repr

/-- The kinds of flit (R198). A domain-down answer is the `down` kind. -/
inductive FlitKind where
  | readReq | writeReq | control | readReply | ack | nack | down | bulk
deriving DecidableEq, Repr

/-- The virtual channel of a kind: 0 REQ, 1 RSP, 2 BLK (R198). -/
def FlitKind.vc : FlitKind → Nat
  | .readReq | .writeReq | .control => 0
  | .readReply | .ack | .nack | .down => 1
  | .bulk => 2

/-- One flit of the package network (R198): its kind, the header's tag (region, or 256 for the hub), source, destination, the
address it names, the write mask, the data field, the request's tag and generation, an answer's status, and, for one copy of a
multicast reply, the number of requesters that the reply serves (R209); 1 for a unicast flit. -/
structure Flit where
  kind : FlitKind
  rtag : Nat
  src : Endpoint
  dst : Endpoint
  addr : Nat
  mask : BitVec 16
  row : Row
  tag : Nat
  gen : Nat
  down : Bool
  copies : Nat
deriving DecidableEq, Repr

/-- A schedule action at its firing (R265, R266): its region, its table index, the instance whose timer fires it
(none for an absolute entry), its BASE and its OPERAND. -/
structure Fire where
  region : Nat
  index : Nat
  inst : Option Nat
  base : Nat
  op : W64
deriving DecidableEq, Repr

/-- One slot of a Glogal frame: its header and its data (R407). -/
structure Slot where
  sk : BitVec 2
  dvc : BitVec 1
  dst : BitVec 16
  src : BitVec 16
  slink : BitVec 6
  tag : BitVec 11
  gen : BitVec 4
  op : BitVec 4
  job : BitVec 16
  wm : BitVec 32
  offset : BitVec 40
  poison : BitVec 32
  data : BitVec 2048
deriving DecidableEq, Repr

/-- A journal record that has become durable: the command it belongs to, and how many blocks of the two flash dies failed to program on
the way (R306, R311). -/
structure FlashCommit where
  handle : W64
  bad0 : Nat
  bad1 : Nat
deriving DecidableEq, Repr

/-- A sheet read from NAND: the stored units whose read retry was exhausted, and those that needed more than 96 corrected bits (R299,
R305, R306). -/
structure SheetFetch where
  sheet : Nat
  lost : List Nat
  weak : List Nat
deriving DecidableEq, Repr

/-- How a leaf's stored unit was decoded: its read retry was exhausted, or it needed more than 96 corrected bits (R305, R306). -/
structure LeafEcc where
  uncorr : Bool
  weak : Bool
deriving DecidableEq, Repr

/-- A block relocated: how many fresh blocks were taken and failed to program, and whether its own erase failed (R306). -/
structure Relocation where
  block : Nat
  fresh : Nat
  eraseFails : Bool
deriving DecidableEq, Repr

/-- One Glogal frame (R407, R408). -/
structure Frame where
  seq : BitVec 12
  lack : BitVec 12
  nak : Bool
  rpl : Bool
  cr0 : BitVec 16
  cr1 : BitVec 16
  ca0 : BitVec 16
  ca1 : BitVec 16
  txt : W64
  rxt : W64
  eseq : BitVec 12
  depth : BitVec 6
  tlock : Bool
  ev : Bool
  slots : List Slot
  acks : List W64
  crc : BitVec 32
deriving DecidableEq, Repr

/-- The contents of a capability message (R403). -/
structure Capability where
  node : BitVec 14
  dx : BitVec 7
  dy : BitVec 7
  dz : BitVec 7
  dir : Nat
  k : Nat
  flevel : BitVec 16
  variant : BitVec 4
deriving DecidableEq, Repr

/-- One entry of the defect list (R486). -/
structure Defect where
  kind : Nat
  origin : Nat
  index : Nat
  row : Nat
  pos : Nat
  slice : Nat
  way : Nat
  addr : Nat
deriving DecidableEq, Repr

/-- The windows in which registers lie (R557): the PF BAR0, a function's FN_ page, port B's status page; and port A's SR-IOV capability,
by the offsets of its own registers (R337, R340; log entry 17). -/
inductive RegWindow where
  | pf
  | fn (n : Nat)
  | portB
  | sriov
deriving DecidableEq, Repr

/-- One memory write request that falls into register space (R557, R558). -/
structure RegWrite where
  win : RegWindow
  off : Nat
  bytes : List Byte
deriving DecidableEq, Repr

/-- The commands and events of the block, one per row of spec/opcode_table.json. -/
inductive Instr where
  /-- MMA: R118. -/
  | mma (u : Nat) (f : MmaF)
  /-- SHIFT_END: R83. -/
  | shiftEnd (u : Nat)
  /-- ADD: R122. -/
  | add (u : Nat) (f : VecF)
  /-- SUB: R122. -/
  | sub (u : Nat) (f : VecF)
  /-- MUL: R122. -/
  | mul (u : Nat) (f : VecF)
  /-- FMA: R122. -/
  | fma (u : Nat) (f : VecF)
  /-- MIN: R122. -/
  | vmin (u : Nat) (f : VecF)
  /-- MAX: R122. -/
  | vmax (u : Nat) (f : VecF)
  /-- AND: R122. -/
  | vand (u : Nat) (f : VecF)
  /-- OR: R122. -/
  | vor (u : Nat) (f : VecF)
  /-- XOR: R122. -/
  | vxor (u : Nat) (f : VecF)
  /-- SHL: R122. -/
  | shl (u : Nat) (f : VecF)
  /-- SHR: R122. -/
  | shr (u : Nat) (f : VecF)
  /-- SAR: R122. -/
  | sar (u : Nat) (f : VecF)
  /-- SEL: R123. -/
  | sel (u : Nat) (f : VecF)
  /-- MOV: R122. -/
  | mov (u : Nat) (f : VecF)
  /-- EXP2: R122. -/
  | exp2 (u : Nat) (f : VecF)
  /-- LOG2: R122. -/
  | log2 (u : Nat) (f : VecF)
  /-- RSQRT: R122. -/
  | rsqrt (u : Nat) (f : VecF)
  /-- RCP: R122. -/
  | rcp (u : Nat) (f : VecF)
  /-- CVT_FI: R122. -/
  | cvtFi (u : Nat) (f : VecF)
  /-- CVT_IF: R122. -/
  | cvtIf (u : Nat) (f : VecF)
  /-- CVT_F19: R122. -/
  | cvtF19 (u : Nat) (f : VecF)
  /-- CMP_EQ: R124. -/
  | cmpEq (u : Nat) (f : PredF)
  /-- CMP_NE: R124. -/
  | cmpNe (u : Nat) (f : PredF)
  /-- CMP_LT: R124. -/
  | cmpLt (u : Nat) (f : PredF)
  /-- CMP_LE: R124. -/
  | cmpLe (u : Nat) (f : PredF)
  /-- CMP_GT: R124. -/
  | cmpGt (u : Nat) (f : PredF)
  /-- CMP_GE: R124. -/
  | cmpGe (u : Nat) (f : PredF)
  /-- PAND: R124. -/
  | pand (u : Nat) (f : PredF)
  /-- POR: R124. -/
  | por (u : Nat) (f : PredF)
  /-- PXOR: R124. -/
  | pxor (u : Nat) (f : PredF)
  /-- PANDN: R124. -/
  | pandn (u : Nat) (f : PredF)
  /-- PSET: R124. -/
  | pset (u : Nat) (f : PredF)
  /-- PGET: R124. -/
  | pget (u : Nat) (f : PredF)
  /-- RSUM: R126. -/
  | rsum (u : Nat) (f : RedF)
  /-- RMAX: R126. -/
  | rmax (u : Nat) (f : RedF)
  /-- RMIN: R126. -/
  | rmin (u : Nat) (f : RedF)
  /-- POP: R127. -/
  | pop (u : Nat) (f : MoveF)
  /-- PUSH: R127. -/
  | push (u : Nat) (f : MoveF)
  /-- DROP: R127. -/
  | drop (u : Nat) (f : MoveF)
  /-- ROWGET: R127. -/
  | rowget (u : Nat) (f : MoveF)
  /-- ROWPUT: R127. -/
  | rowput (u : Nat) (f : MoveF)
  /-- LGET: R127. -/
  | lget (u : Nat) (f : MoveF)
  /-- LPUT: R127. -/
  | lput (u : Nat) (f : MoveF)
  /-- RLD: R127. -/
  | rld (u : Nat) (f : MoveF)
  /-- RST: R127. -/
  | rst (u : Nat) (f : MoveF)
  /-- LOOP: R131. -/
  | loop (u : Nat) (f : LoopF)
  /-- SLI: R133. -/
  | sli (u : Nat) (f : ScalF)
  /-- SADD: R133. -/
  | sadd (u : Nat) (f : ScalF)
  /-- SSUB: R133. -/
  | ssub (u : Nat) (f : ScalF)
  /-- SMUL: R133. -/
  | smul (u : Nat) (f : ScalF)
  /-- SAND: R133. -/
  | sand (u : Nat) (f : ScalF)
  /-- SOR: R133. -/
  | sor (u : Nat) (f : ScalF)
  /-- SXOR: R133. -/
  | sxor (u : Nat) (f : ScalF)
  /-- SSHL: R133. -/
  | sshl (u : Nat) (f : ScalF)
  /-- SSHR: R133. -/
  | sshr (u : Nat) (f : ScalF)
  /-- SSAR: R133. -/
  | ssar (u : Nat) (f : ScalF)
  /-- SMIN: R133. -/
  | smin (u : Nat) (f : ScalF)
  /-- SMAX: R133. -/
  | smax (u : Nat) (f : ScalF)
  /-- SETMODE: R136. -/
  | setmode (u : Nat) (mask value aclr : BitVec 8)
  /-- GETSTAT: R136. -/
  | getstat (u : Nat) (sd : BitVec 5)
  /-- NOP: R138. -/
  | nop (u : Nat)
  /-- END: R139. -/
  | endProg (u : Nat)
  /-- YIELD: R139. -/
  | yieldCtx (u : Nat) (sv : Bool) (succ : BitVec 2)
  /-- WAIT_STEP: R140. -/
  | waitStep (u : Nat) (count : BitVec 16)
  /-- WAIT_SB: R138. -/
  | waitSb (u : Nat) (ld st : Bool)
  /-- WAIT_DRAIN: R138. -/
  | waitDrain (u : Nat)
  /-- MARK: R138. -/
  | mark (u : Nat) (tag : BitVec 16)
  /-- CONTEXT_SWITCH: R104. -/
  | contextSwitch (u : Nat)
  /-- TOKEN_ARRIVE: R100: the token arrives at unit u on its link. -/
  | tokenArrive (u link chan : Nat) (t : Token)
  /-- CREDIT_RETURN: R98: to the transmitter of unit u on its link. -/
  | creditReturn (u link chan : Nat)
  /-- DEV_TO_SP: R175. -/
  | devToSp (m e : Nat)
  /-- DEV_TO_LINK: R175. -/
  | devToLink (m e : Nat)
  /-- SP_TO_LINK: R175. -/
  | spToLink (m e : Nat)
  /-- SP_TO_DEV: R175. -/
  | spToDev (m e : Nat)
  /-- LINK_TO_SP: R175. -/
  | linkToSp (m e : Nat)
  /-- LINK_TO_DEV: R175. -/
  | linkToDev (m e : Nat)
  /-- COMPARE_AND_COUNT: R184. -/
  | compareAndCount (m e : Nat)
  /-- DESCRIPTOR_BURST_ARRIVE: R164. -/
  | descriptorBurstArrive (m e : Nat)
  /-- SCOREBOARD_RETIRE: R176. -/
  | scoreboardRetire (m e : Nat)
  /-- PEER_RELEASE: R179. -/
  | peerRelease (m e : Nat)
  /-- LIST_END: R163. -/
  | listEnd (m e : Nat)
  /-- READ_REQUEST: R198. -/
  | readRequest (f : Flit)
  /-- WRITE_REQUEST: R198. -/
  | writeRequest (f : Flit)
  /-- CONTROL_MESSAGE: R198. -/
  | controlMessage (f : Flit)
  /-- READ_REPLY: R198. -/
  | readReply (f : Flit)
  /-- ACKNOWLEDGEMENT: R198. -/
  | acknowledgement (f : Flit)
  /-- NACK: R199. -/
  | nack (f : Flit)
  /-- NACK_RESEND: R199. -/
  | nackResend (f : Flit)
  /-- DOMAIN_DOWN_ANSWER: R217. -/
  | domainDownAnswer (f : Flit)
  /-- BULK: R198. -/
  | bulk (f : Flit)
  /-- MISS_FILL: R209. -/
  | missFill (slice line tag : Nat)
  /-- STEP_BOUNDARY: R269. -/
  | stepBoundary
  /-- DRAIN_DECLARE: R245. -/
  | drainDeclare (r g : Nat)
  /-- FENCE_RELEASE: R213. -/
  | fenceRelease (r : Nat)
  /-- WEDGE_DECLARE: R241. -/
  | wedgeDeclare (r : Nat)
  /-- REGION_RESET: R241. -/
  | regionReset (r : Nat)
  /-- NOP_ACTION: R266. -/
  | nopAction (f : Fire)
  /-- CTXSTART: R266. -/
  | ctxStart (f : Fire)
  /-- LISTSTART: R163. -/
  | listStart (f : Fire)
  /-- RELEASE: R179. -/
  | release (f : Fire)
  /-- FENCE_ACTION: R213. -/
  | fenceAction (f : Fire)
  /-- DEADLINE: R270. -/
  | deadline (f : Fire)
  /-- ARM: R268. -/
  | arm (f : Fire)
  /-- MARK_ACTION: R266. -/
  | markAction (f : Fire)
  /-- SLOT: R266. -/
  | slotOpen (f : Fire)
  /-- SLOT_WINDOW_CLOSE: R266. -/
  | slotWindowClose (r link : Nat)
  /-- DETECTOR_EDGE: R268. -/
  | detectorEdge (r d : Nat) (second : Bool)
  /-- DETECTOR_COMPLETE: R268. -/
  | detectorComplete (r d : Nat)
  /-- SCHED_SWAP_COMMIT: R274. -/
  | schedSwapCommit (r : Nat)
  /-- BANK_COPY_DONE: R274. -/
  | bankCopyDone (r : Nat)
  /-- REDIRECTION_START: R303. -/
  | redirectionStart (r : Nat)
  /-- REQUEST_DISPATCH: R369: q is the request's handle slot. -/
  | requestDispatch (q : Nat)
  /-- ANSWER_READY: R370. -/
  | answerReady (q : Nat)
  /-- BACKSTOP: R271. -/
  | backstop (q : Nat)
  /-- RESPONSE_SEND: R368. -/
  | responseSend (q : Nat)
  /-- FEED_FRAME: R367. -/
  | feedFrame (p : Nat) (bytes : List Byte) (arrival : Nat)
  /-- LOAD: R235. -/
  | load (h : W64)
  /-- LOAD_RESUME: R147. -/
  | loadResume (h : W64)
  /-- LOAD_GUEST: R389. -/
  | loadGuest (h : W64)
  /-- UNLOAD: R349. -/
  | unload (h : W64)
  /-- RUN: R36. -/
  | run (h : W64)
  /-- STEP: R36. -/
  | stepCmd (h : W64)
  /-- XFER: R349. -/
  | xfer (h : W64)
  /-- ALL_REDUCE: R433. -/
  | allReduce (h : W64)
  /-- REDUCE_SCATTER: R434. -/
  | reduceScatter (h : W64)
  /-- ALL_GATHER: R434. -/
  | allGather (h : W64)
  /-- BROADCAST: R434. -/
  | broadcast (h : W64)
  /-- PERMUTE: R441. -/
  | permute (h : W64)
  /-- FENCE: R351. -/
  | fence (h : W64)
  /-- SCRUB: R463. -/
  | scrub (h : W64)
  /-- SCHED_WRITE: R273. -/
  | schedWrite (h : W64)
  /-- SCHED_SWAP: R274. -/
  | schedSwap (h : W64)
  /-- COUNTERS_REGION: R525. -/
  | countersRegion (h : W64)
  /-- COUNTERS_UNIT: R526. -/
  | countersUnit (h : W64)
  /-- COUNTERS_PHASE: R528. -/
  | countersPhase (h : W64)
  /-- COUNTERS_WINDOWS: R527. -/
  | countersWindows (h : W64)
  /-- COUNTERS_FUNCTION: R534. -/
  | countersFunction (h : W64)
  /-- COUNTERS_SAMPLE: R524. -/
  | countersSample (h : W64)
  /-- FLASH_WRITE: R309. -/
  | flashWrite (h : W64)
  /-- FLASH_WRITE_COMMIT: R311. -/
  | flashWriteCommit (h : FlashCommit)
  /-- QUIESCE: R359. -/
  | quiesce (h : W64)
  /-- RESHARD_PERMUTE: R442. -/
  | reshardPermute (h : W64)
  /-- RESHARD_CHECKPOINT: R443. -/
  | reshardCheckpoint (h : W64)
  /-- WATERMARK: R349. -/
  | watermark (h : W64)
  /-- COMMAND_FETCH: R345. -/
  | commandFetch (fn r : Nat)
  /-- FN_SQ_DB: R344. -/
  | fnSqDb (fn r : Nat) (v : W64)
  /-- FN_CQ_DB: R344. -/
  | fnCqDb (fn r : Nat) (v : W64)
  /-- FN_SQ_CFG_WRITE: R343. -/
  | fnSqCfgWrite (fn r : Nat) (v : W64)
  /-- FN_CQ_CFG_WRITE: R343. -/
  | fnCqCfgWrite (fn r : Nat) (v : W64)
  /-- PORT_A_LINK_DOWN: R358. -/
  | portALinkDown
  /-- PORT_A_LINK_RETURN: R358. -/
  | portALinkReturn
  /-- PORT_A_HOLD_EXPIRY: R358. -/
  | portAHoldExpiry
  /-- FLR: R359. -/
  | flr (fn : Nat)
  /-- ZEROING_DONE: R395. -/
  | zeroingDone (fn : Nat)
  /-- HOST_READ_COMPLETION: R458. -/
  | hostReadCompletion (portB : Bool) (h : W64) (ep : Bool)
  /-- PASS_START: R318: pass p of OU q. -/
  | passStart (q p : Nat)
  /-- OU_CHUNK: R321. -/
  | ouChunk (q p : Nat)
  /-- PASS_END: R324. -/
  | passEnd (q p : Nat)
  /-- PASS_UNBOUND_TIMEOUT: R326. -/
  | passUnboundTimeout (q p : Nat)
  /-- SLOW_PULL: R329: slow set i of region r's STEP. -/
  | slowPull (r i : Nat)
  /-- SLOW_RELEASE: R329. -/
  | slowRelease (r i : Nat)
  /-- OFFLOAD_END: R332. -/
  | offloadEnd (r i : Nat)
  /-- SHEET_FETCH_DONE: R299. -/
  | sheetFetchDone (dom : Nat) (sheet : SheetFetch)
  /-- FLASH_LEAF_READ: R301. -/
  | flashLeafRead (dom leaf : Nat) (uncorr : LeafEcc) (crcBad : Bool)
  /-- SHADOW_PIN_DONE: R302. -/
  | shadowPinDone (h : W64)
  /-- REFRESH_RELOCATION: R306. -/
  | refreshRelocation (fd : Nat) (block : Relocation)
  /-- PATROL_WINDOW: R460. -/
  | patrolWindow (q : Nat)
  /-- SP_PATROL: R460. -/
  | spPatrol (m : Nat)
  /-- DIGEST_RECOMPUTE: R448: group entry g; 64 is the module watermark. -/
  | digestRecompute (g : Nat)
  /-- DIE_POWER_DOWN: R216. -/
  | diePowerDown (d : Nat)
  /-- REFUSE_STATE_ENTRY: R216. -/
  | refuseStateEntry (d : Nat)
  /-- POWER_DOWN_WRITEBACK_DONE: R216. -/
  | powerDownWritebackDone (d : Nat)
  /-- SELF_REFRESH_CONFIRMED: R216. -/
  | selfRefreshConfirmed (d : Nat)
  /-- REFUSE_HOLD_EXPIRY: R216. -/
  | refuseHoldExpiry (d : Nat)
  /-- DIE_POWER_UP: R219. -/
  | diePowerUp (d : Nat)
  /-- POWER_UP_DONE: R219. -/
  | powerUpDone (d : Nat)
  /-- PAV_CTL_WRITE: R253. -/
  | pavCtlWrite (v : W64)
  /-- TLOAD: R256. -/
  | tload
  /-- EPOCH_EDGE: R253: the device time at which the edge crossed. -/
  | epochEdge (t : Nat)
  /-- PAV_LOCK: R254. -/
  | pavLock
  /-- REFERENCE_LOSS: R257. -/
  | referenceLoss
  /-- HOLDOVER_EXPIRY: R254. -/
  | holdoverExpiry
  /-- REFERENCE_REQUALIFY: R258. -/
  | referenceRequalify
  /-- FOLLOWER_STEP: R256: the source's time. -/
  | followerStep (t : Nat)
  /-- PAV_GRID_AT: R252. -/
  | pavGridAt (v : W64)
  /-- GRID_CHANGE_APPLY: R252. -/
  | gridChangeApply
  /-- PAV_SRC_WRITE: R255. -/
  | pavSrcWrite (v : W64)
  /-- PAV_ALLOT_COMMIT: R262. -/
  | pavAllotCommit
  /-- ALLOT_APPLY: R262. -/
  | allotApply
  /-- HUB_PART_COMMIT: R194. -/
  | hubPartCommit
  /-- PARTITION_APPLY: R194. -/
  | partitionApply
  /-- HUB_MAP_COMMIT: R378. -/
  | hubMapCommit
  /-- MAP_APPLY: R378. -/
  | mapApply
  /-- HUB_FNRING_COMMIT: R341. -/
  | hubFnringCommit
  /-- FNRING_APPLY: R341. -/
  | fnringApply
  /-- PLC_CTL_EN: R286. -/
  | plcCtlEn (en : Bool)
  /-- PLC_CTL_CLR: R286. -/
  | plcCtlClr
  /-- PLC_RGN_WRITE: R287. -/
  | plcRgnWrite (n : Nat) (v : W64)
  /-- FEED_SLOT_WRITE: R366. -/
  | feedSlotWrite (n : Nat) (v : W64)
  /-- HUB_GUEST_WRITE: R388. -/
  | hubGuestWrite (n j : Nat) (v : W64)
  /-- CE_GRP_WRITE: R427. -/
  | ceGrpWrite (n : Nat) (v : W64)
  /-- GL_NODE_WRITE: R397. -/
  | glNodeWrite (v : W64)
  /-- GL_BYP_CLOSE: R421. -/
  | glBypClose (k : Nat) (v : W64)
  /-- GL_LCTL_HOLD: R422. -/
  | glLctlHold (l : Nat) (hold : Bool)
  /-- GL_LCTL_RETRAIN: R422. -/
  | glLctlRetrain (l : Nat)
  /-- HUB_STAGE_GO: R479. -/
  | hubStageGo (v : W64)
  /-- HUB_FWCTL_PROG: R494. -/
  | hubFwctlProg
  /-- FW_PROGRAM_DONE: R494. -/
  | fwProgramDone (verified : Bool)
  /-- HUB_WMTAG_WRITE: R498. -/
  | hubWmtagWrite (v : W64)
  /-- WATERMARK_RECOMPUTE: R498. -/
  | watermarkRecompute
  /-- MEM_TRAIN_GO: R493. -/
  | memTrainGo (q chan : Nat)
  /-- RETRAIN_DONE: R493. -/
  | retrainDone (q : Nat) (ok : Bool)
  /-- DRIFT_TRACK: R493. -/
  | driftTrack (q chan : Nat)
  /-- OU_SKIPCLR: R335. -/
  | ouSkipclr (q : Nat)
  /-- OBS_TRC_WRITE: R531. -/
  | obsTrcWrite (n : Nat) (v : W64)
  /-- REGISTER_WRITE: R17. -/
  | registerWrite (w : RegWrite)
  /-- TRACE_RECORD_ARRIVE: R532: the oldest record of that die's buffer. -/
  | traceRecordArrive (die : Nat)
  /-- FRAME_SEND: R406. -/
  | frameSend (l : Nat)
  /-- FRAME_RECEIVE: R408. -/
  | frameReceive (l : Nat) (f : Frame) (fecBad : Bool) (arrival : Nat)
  /-- NAK_REPEAT: R408. -/
  | nakRepeat (l : Nat)
  /-- ACK_ENTRY: R414. -/
  | ackEntry (l : Nat) (a : W64)
  /-- TAG_TIMEOUT: R414. -/
  | tagTimeout (l tag : Nat)
  /-- LINK_DOWN_NOFRAME: R408. -/
  | linkDownNoframe (l : Nat)
  /-- LINK_DOWN_LANE: R405. -/
  | linkDownLane (l : Nat)
  /-- LIGHT_DETECT: R402. -/
  | lightDetect (l : Nat)
  /-- LINK_TRAIN_DONE: R402. -/
  | linkTrainDone (l : Nat) (laneok : Byte)
  /-- LINK_ALIGN_DONE: R402. -/
  | linkAlignDone (l : Nat)
  /-- LINK_TRAIN_TIMEOUT: R402. -/
  | linkTrainTimeout (l : Nat)
  /-- CAPABILITY_MESSAGE: R403. -/
  | capabilityMessage (l : Nat) (c : Capability)
  /-- LINK_UP: R404. -/
  | linkUp (l : Nat)
  /-- CALIBRATION_MESSAGE: R405. -/
  | calibrationMessage (l : Nat)
  /-- DELAY_MEASURE: R416. -/
  | delayMeasure (l : Nat)
  /-- MIXLONG_EXPIRY: R404. -/
  | mixlongExpiry
  /-- SWITCH_SETTLED: R418. -/
  | switchSettled (k pair : Nat)
  /-- PLUG_WITHDRAW: R552. -/
  | plugWithdraw
  /-- PLUG_SEAT: R424. -/
  | plugSeat
  /-- READY_SLOT: R432. -/
  | readySlot (l : Nat) (s : Slot)
  /-- REDUCE_SLOT: R433. -/
  | reduceSlot (l : Nat) (s : Slot)
  /-- PLACE_SLOT: R433. -/
  | placeSlot (l : Nat) (s : Slot)
  /-- BARRIER_SLOT: R443. -/
  | barrierSlot (l : Nat) (s : Slot)
  /-- READY_RESEND: R449. -/
  | readyResend (g k : Nat)
  /-- COLL_STALL_TIMEOUT: R438. -/
  | collStallTimeout (g : Nat)
  /-- HEARTBEAT_SEND: R447. -/
  | heartbeatSend (l : Nat)
  /-- WATERMARK_EXCHANGE: R447. -/
  | watermarkExchange (l : Nat) (bytes : List Byte)
  /-- AUX_GOOD: R472. -/
  | auxGood (straps : BitVec 2)
  /-- AUX_LOSS: R473. -/
  | auxLoss
  /-- PWR_EN_ASSERT: R472. -/
  | pwrEnAssert
  /-- PWR_EN_DEASSERT: R473. -/
  | pwrEnDeassert
  /-- PGOOD_ASSERT: R472; R562: the hub draws its entropy at a cold start. -/
  | pgoodAssert (pairTag : W64)
  /-- POWER_FAIL: R473. -/
  | powerFail
  /-- RESET_N_ASSERT: R474. -/
  | resetNAssert
  /-- RESET_N_DEASSERT: R471. -/
  | resetNDeassert
  /-- FIRMWARE_BOOT: R481. -/
  | firmwareBoot (ok0 ok1 : Bool) (flevel : BitVec 16) (build : BitVec 32)
  /-- PERST_N_ASSERT: R361. -/
  | perstNAssert
  /-- PERST_N_DEASSERT: R472. -/
  | perstNDeassert
  /-- WF_RESET_N: R476. -/
  | wfResetN
  /-- WALLFLOWER_RESTART_DONE: R512. -/
  | wallflowerRestartDone
  /-- BRINGUP_STAGE_0: R480. -/
  | bringupStage0 (auxOk wfOk : Bool)
  /-- BRINGUP_STAGE_1: R492. -/
  | bringupStage1 (fuseOk : Bool) (variant : BitVec 4) (factory : List Defect)
  /-- BRINGUP_STAGE_2: R480. -/
  | bringupStage2 (unlocked : Option Nat)
  /-- BRINGUP_STAGE_3: R487. -/
  | bringupStage3 (found : List Defect) (noSpare : Option Nat) (wfOk : Bool)
  /-- BRINGUP_STAGE_4: R489. -/
  | bringupStage4
  /-- BRINGUP_STAGE_5: R454. -/
  | bringupStage5 (badBase : Option Nat)
  /-- BRINGUP_STAGE_6: R490. -/
  | bringupStage6 (badTrain : Option Nat) (rows : List Defect)
  /-- BRINGUP_STAGE_7: R485. -/
  | bringupStage7 (badMount : Option Nat) (wfOk : Bool)
  /-- BRINGUP_STAGE_8: R423: bit 3k + j, pair j of link die k fails its loopback. -/
  | bringupStage8 (badPairs : BitVec 18)
  /-- BRINGUP_STAGE_9: R498. -/
  | bringupStage9
  /-- BRINGUP_STAGE_10: R483. -/
  | bringupStage10
  /-- STAGE_COMPLETE: R479. -/
  | stageComplete (us : BitVec 32)
  /-- HCP_HEARTBEAT: R503. -/
  | hcpHeartbeat
  /-- HEARTBEAT_LOSS: R503. -/
  | heartbeatLoss
  /-- SENSOR_SAMPLE: R503. -/
  | sensorSample (n : Nat) (v : Int)
  /-- SENSOR_MISSING: R501. -/
  | sensorMissing (n : Nat)
  /-- GATE_DIE: R504. -/
  | gateDie
  /-- UNGATE_DIE: R506. -/
  | ungateDie
  /-- HW_COMPARATOR_TRIP: R502. -/
  | hwComparatorTrip (die : Nat)
  /-- RESET_HELD_EXPIRY: R511. -/
  | resetHeldExpiry
  /-- ERRTOT_REFRESH: R519. -/
  | errtotRefresh
  /-- VERSION: R515. -/
  | smbVersion
  /-- STATE: R515. -/
  | smbState
  /-- ALERT_READ: R517. -/
  | alertRead
  /-- ALERT_CLEAR: R516. -/
  | alertClear (w : BitVec 16) (pec : Option Byte)
  /-- ALERTMASK_READ: R515. -/
  | alertmaskRead
  /-- ALERTMASK_WRITE: R515. -/
  | alertmaskWrite (w : BitVec 16) (pec : Option Byte)
  /-- GATED: R515. -/
  | smbGated
  /-- PLIMIT_READ: R515. -/
  | plimitRead
  /-- PLIMIT_WRITE: R505. -/
  | plimitWrite (w : BitVec 16) (pec : Option Byte)
  /-- GORDER_READ: R515. -/
  | gorderRead
  /-- GORDER_WRITE: R505. -/
  | gorderWrite (bytes : List Byte) (pec : Option Byte)
  /-- LASTCMD: R515. -/
  | lastcmd
  /-- RESETHELD: R511. -/
  | resetheld
  /-- CMD_GATE: R515. -/
  | cmdGate (w : BitVec 16) (pec : Option Byte)
  /-- CMD_UNGATE: R506. -/
  | cmdUngate (w : BitVec 16) (pec : Option Byte)
  /-- CMD_BYPASS_CLOSE: R507. -/
  | cmdBypassClose (pec : Option Byte)
  /-- CMD_BYPASS_RELEASE: R507. -/
  | cmdBypassRelease (pec : Option Byte)
  /-- SENSOR_N: R501. -/
  | sensorN (n : Nat)
  /-- ERRTOT: R519. -/
  | errtot
  /-- LOG: R518. -/
  | wfLog
  /-- ALERT_RESPONSE: R516. -/
  | alertResponse
  /-- LOAD_VERIFY_DONE: R237. -/
  | loadVerifyDone (h : W64)
  /-- SCRUB_PASS_DONE: R463. -/
  | scrubPassDone (h : W64)
  /-- FEED_LINK_UP: R362. -/
  | feedLinkUp (p : Nat)
  /-- FEED_LINK_DOWN: R362. -/
  | feedLinkDown (p : Nat)
  /-- PORT_B_LINK_DOWN: R567. -/
  | portBLinkDown
  /-- PORT_B_LINK_UP: R567. -/
  | portBLinkUp
  /-- HOST_READ_TIMEOUT: R567. -/
  | hostReadTimeout (portB : Bool) (h : W64)
  /-- RETENTION_TRIGGER: R306. -/
  | retentionTrigger (fd block : Nat)
deriving DecidableEq, Repr

end Sys2Proof
end

