-- ==== Sys2Proof/WellFormed.lean ====
section
/-! DEFINITION. What makes an instruction legal at LOAD as far as the one instruction shows it (R112–R138), and what
makes a command well formed: every coordinate it names lies in its range. -/

namespace Sys2Proof

/-- The x of a unit id y*64 + x. -/
def unitX (u : Nat) : Nat := u % 64
/-- The y of a unit id. -/
def unitY (u : Nat) : Nat := u / 64
/-- Unit (x, y) is a CU when x + y is even (R28). -/
def isCu (u : Nat) : Bool := (unitX u + unitY u) % 2 == 0
/-- Unit (x, y) is an MU when x + y is odd (R28). -/
def isMu (u : Nat) : Bool := (unitX u + unitY u) % 2 == 1

/-- A V register code (R113). -/
def isVreg (c : BitVec 6) : Bool := decide (c.toNat < 16)
/-- A T register code (R113). -/
def isTreg (c : BitVec 6) : Bool := decide (16 ≤ c.toNat) && decide (c.toNat < 24)
/-- A source code legal in V-form (R113). -/
def vSource (c : BitVec 6) : Bool := isVreg c || (decide (0x20 ≤ c.toNat) && decide (c.toNat ≤ 0x23))
/-- A source code legal in T-form (R113). -/
def tSource (c : BitVec 6) : Bool := isVreg c || isTreg c || (decide (0x20 ≤ c.toNat) && decide (c.toNat ≤ 0x24))

/-- The TYPE values an operation accepts (R122): F32 only, I32 only, an integer type, or any. -/
def VecOp.types : VecOp → Nat → Bool
  | .add, t | .sub, t | .mul, t | .min, t | .max, t | .sel, t | .mov, t => decide (t ≤ 3)
  | .fma, t | .exp2, t | .log2, t | .rsqrt, t | .rcp, t | .cvtF19, t => t == 0
  | .and, t | .or, t | .xor, t => t == 1
  | .shl, t | .shr, t | .sar, t | .cvtFi, t | .cvtIf, t => decide (1 ≤ t) && decide (t ≤ 3)

/-- Whether an operation reads its source b (R122). -/
def VecOp.usesB : VecOp → Bool
  | .mov | .exp2 | .log2 | .rsqrt | .rcp | .cvtFi | .cvtIf | .cvtF19 => false
  | _ => true

/-- A format is a block format (R117). -/
def isBlockFmt (f : BitVec 3) : Bool := decide (1 ≤ f.toNat) && decide (f.toNat ≤ 5)
/-- Both formats are 4- or 6-bit: the 4-bit rate class (R84). -/
def MmaF.fourBit (f : MmaF) : Bool := decide (3 ≤ f.afmt.toNat) && decide (f.afmt.toNat ≤ 5) && decide (3 ≤ f.bfmt.toNat) && decide (f.bfmt.toNat ≤ 5)
/-- Either operand is F32 or F19: the F19 rate class (R84). -/
def MmaF.f19 (f : MmaF) : Bool := f.afmt == 0 || f.bfmt == 0

/-- The number of ports a mask names. -/
def popcount4 (m : BitVec 4) : Nat := m.toNat % 2 + m.toNat / 2 % 2 + m.toNat / 4 % 2 + m.toNat / 8 % 2

/-- What LOAD checks of one instruction by itself; the REG of a drop, which moves no register, is held to the codes and the MM1 rule
of the other operations (R127; log entry 77) under VCODE 0x04 (R112, R113, R117, R122, R127, R132, R136, R138). -/
def Zelux.legal : Zelux → Bool
  | .mma f =>
    decide (f.afmt.toNat ≤ 5) && decide (f.bfmt.toNat ≤ 5) && (f.asrc == 0 || decide (f.a.toNat < 4)) &&
    (f.b != f.c) && (f.asrc == 1 || (f.a != f.b && f.a != f.c)) && (f.afmt == 0 || f.aconv == 0) &&
    (f.bfmt == 0 || f.bconv == 0) && (f.pair == 0 || f.fourBit) && (f.pair == 0 || f.asrc == 0)
  | .vec o f =>
    o.types f.ty.toNat && (if f.tform then isTreg f.dst else isVreg f.dst) &&
    (if f.tform then tSource f.sa else vSource f.sa) &&
    (if f.tform then tSource f.sb else vSource f.sb) &&
    (if o == .fma then (if f.tform then tSource f.sc else vSource f.sc) else f.sc == 0)
  | .red _ f => isVreg f.dst && (isTreg f.src || f.src == 0x20) && decide (f.ty.toNat ≤ 3)
  | .move o f =>
    (match o with
     | .rowput => true
     | _ => f.pred == 0 && f.pneg == 0) &&
    (match o with
     | .pop => (isTreg f.reg && decide (f.reg.toNat + popcount4 f.pmask ≤ 24) && decide (1 ≤ popcount4 f.pmask)) ||
         (isVreg f.reg && popcount4 f.pmask == 1 && f.mm1 == 0)
     | .push => (isTreg f.reg || (isVreg f.reg && f.mm1 == 0)) && popcount4 f.pmask == 1
     | .drop => popcount4 f.pmask == 1 && (isTreg f.reg || (isVreg f.reg && f.mm1 == 0))
     | .rowget | .rowput => isTreg f.reg && f.mm1 == 0
     | .lget | .lput => isVreg f.reg && f.mm1 == 0 && f.pmask == 0
     | .rld | .rst => (isTreg f.reg || (isVreg f.reg && f.mm1 == 0)) && f.pmask == 0)
  | .pred o f =>
    (match o with
     | .eq | .ne | .lt | .le | .gt | .ge => vSource f.sa && vSource f.sb && f.sa != 0x20 && f.sb != 0x20 && decide (f.ty.toNat ≤ 3)
     | .pget => f.pd == 0 && f.pred == 0 && f.pneg == 0 && vSource f.sa && vSource f.sb && decide (f.ty.toNat ≤ 3)
     | _ => f.pred == 0 && f.pneg == 0 && vSource f.sa && vSource f.sb && decide (f.ty.toNat ≤ 3))
  | .loop _ => true
  | .scal _ _ => true
  | .setmode mask value aclr =>
    (value &&& mask &&& 0xf8) == 0 && !((value &&& mask).getLsbD 1) && !(aclr.getLsbD 7)
  | .getstat _ => true
  | .nop | .endp | .waitDrain => true
  | .yld _ _ => true
  | .waitStep c => c != 0
  | .waitSb ld st => ld || st
  | .mark _ => true

/-- A command names only coordinates that exist. -/
def Instr.wf : Instr → Bool
  | .mma u _ => (decide (u < 4096) && isCu u)
  | .shiftEnd u => (decide (u < 4096) && isCu u)
  | .add u _ => (decide (u < 4096) && isCu u)
  | .sub u _ => (decide (u < 4096) && isCu u)
  | .mul u _ => (decide (u < 4096) && isCu u)
  | .fma u _ => (decide (u < 4096) && isCu u)
  | .vmin u _ => (decide (u < 4096) && isCu u)
  | .vmax u _ => (decide (u < 4096) && isCu u)
  | .vand u _ => (decide (u < 4096) && isCu u)
  | .vor u _ => (decide (u < 4096) && isCu u)
  | .vxor u _ => (decide (u < 4096) && isCu u)
  | .shl u _ => (decide (u < 4096) && isCu u)
  | .shr u _ => (decide (u < 4096) && isCu u)
  | .sar u _ => (decide (u < 4096) && isCu u)
  | .sel u _ => (decide (u < 4096) && isCu u)
  | .mov u _ => (decide (u < 4096) && isCu u)
  | .exp2 u _ => (decide (u < 4096) && isCu u)
  | .log2 u _ => (decide (u < 4096) && isCu u)
  | .rsqrt u _ => (decide (u < 4096) && isCu u)
  | .rcp u _ => (decide (u < 4096) && isCu u)
  | .cvtFi u _ => (decide (u < 4096) && isCu u)
  | .cvtIf u _ => (decide (u < 4096) && isCu u)
  | .cvtF19 u _ => (decide (u < 4096) && isCu u)
  | .cmpEq u _ => (decide (u < 4096) && isCu u)
  | .cmpNe u _ => (decide (u < 4096) && isCu u)
  | .cmpLt u _ => (decide (u < 4096) && isCu u)
  | .cmpLe u _ => (decide (u < 4096) && isCu u)
  | .cmpGt u _ => (decide (u < 4096) && isCu u)
  | .cmpGe u _ => (decide (u < 4096) && isCu u)
  | .pand u _ => (decide (u < 4096) && isCu u)
  | .por u _ => (decide (u < 4096) && isCu u)
  | .pxor u _ => (decide (u < 4096) && isCu u)
  | .pandn u _ => (decide (u < 4096) && isCu u)
  | .pset u _ => (decide (u < 4096) && isCu u)
  | .pget u _ => (decide (u < 4096) && isCu u)
  | .rsum u _ => (decide (u < 4096) && isCu u)
  | .rmax u _ => (decide (u < 4096) && isCu u)
  | .rmin u _ => (decide (u < 4096) && isCu u)
  | .pop u _ => (decide (u < 4096) && isCu u)
  | .push u _ => (decide (u < 4096) && isCu u)
  | .drop u _ => (decide (u < 4096) && isCu u)
  | .rowget u _ => (decide (u < 4096) && isCu u)
  | .rowput u _ => (decide (u < 4096) && isCu u)
  | .lget u _ => (decide (u < 4096) && isCu u)
  | .lput u _ => (decide (u < 4096) && isCu u)
  | .rld u _ => (decide (u < 4096) && isCu u)
  | .rst u _ => (decide (u < 4096) && isCu u)
  | .loop u _ => (decide (u < 4096) && isCu u)
  | .sli u _ => (decide (u < 4096) && isCu u)
  | .sadd u _ => (decide (u < 4096) && isCu u)
  | .ssub u _ => (decide (u < 4096) && isCu u)
  | .smul u _ => (decide (u < 4096) && isCu u)
  | .sand u _ => (decide (u < 4096) && isCu u)
  | .sor u _ => (decide (u < 4096) && isCu u)
  | .sxor u _ => (decide (u < 4096) && isCu u)
  | .sshl u _ => (decide (u < 4096) && isCu u)
  | .sshr u _ => (decide (u < 4096) && isCu u)
  | .ssar u _ => (decide (u < 4096) && isCu u)
  | .smin u _ => (decide (u < 4096) && isCu u)
  | .smax u _ => (decide (u < 4096) && isCu u)
  | .setmode u _ _ _ => (decide (u < 4096) && isCu u)
  | .getstat u _ => (decide (u < 4096) && isCu u)
  | .nop u => (decide (u < 4096) && isCu u)
  | .endProg u => (decide (u < 4096) && isCu u)
  | .yieldCtx u _ _ => (decide (u < 4096) && isCu u)
  | .waitStep u _ => (decide (u < 4096) && isCu u)
  | .waitSb u _ _ => (decide (u < 4096) && isCu u)
  | .waitDrain u => (decide (u < 4096) && isCu u)
  | .mark u _ => (decide (u < 4096) && isCu u)
  | .contextSwitch u => (decide (u < 4096) && isCu u)
  | .tokenArrive u link chan _ => decide (u < 4096) && decide (link < 4) && decide (chan < 4)
  | .creditReturn u link chan => decide (u < 4096) && decide (link < 4) && decide (chan < 4)
  | .devToSp m e => (decide (m < 4096) && isMu m) && decide (e < 4)
  | .devToLink m e => (decide (m < 4096) && isMu m) && decide (e < 4)
  | .spToLink m e => (decide (m < 4096) && isMu m) && decide (e < 4)
  | .spToDev m e => (decide (m < 4096) && isMu m) && decide (e < 4)
  | .linkToSp m e => (decide (m < 4096) && isMu m) && decide (e < 4)
  | .linkToDev m e => (decide (m < 4096) && isMu m) && decide (e < 4)
  | .compareAndCount m e => (decide (m < 4096) && isMu m) && decide (e < 4)
  | .descriptorBurstArrive m e => (decide (m < 4096) && isMu m) && decide (e < 4)
  | .scoreboardRetire m e => (decide (m < 4096) && isMu m) && decide (e < 4)
  | .peerRelease m e => (decide (m < 4096) && isMu m) && decide (e < 4)
  | .listEnd m e => (decide (m < 4096) && isMu m) && decide (e < 4)
  | .readRequest f => f.kind == .readReq
  | .writeRequest f => f.kind == .writeReq
  | .controlMessage f => f.kind == .control
  | .readReply f => f.kind == .readReply
  | .acknowledgement f => f.kind == .ack
  | .nack f => f.kind == .nack
  | .nackResend f => f.kind.vc == 0
  | .domainDownAnswer f => f.kind == .down
  | .bulk f => f.kind == .bulk
  | .missFill slice _ tag => decide (slice < 256) && decide (tag ≤ 256)
  | .stepBoundary => true
  | .drainDeclare r g => decide (r < 256) && decide (g < 256)
  | .fenceRelease r => decide (r < 256)
  | .wedgeDeclare r => decide (r < 256)
  | .regionReset r => decide (r < 256)
  | .nopAction f => decide (f.region < 256)
  | .ctxStart f => decide (f.region < 256)
  | .listStart f => decide (f.region < 256)
  | .release f => decide (f.region < 256)
  | .fenceAction f => decide (f.region < 256)
  | .deadline f => decide (f.region < 256)
  | .arm f => decide (f.region < 256)
  | .markAction f => decide (f.region < 256)
  | .slotOpen f => decide (f.region < 256)
  | .slotWindowClose r link => decide (r < 256) && decide (link < 36)
  | .detectorEdge r d _ => decide (r < 256) && decide (d < 8)
  | .detectorComplete r d => decide (r < 256) && decide (d < 8)
  | .schedSwapCommit r => decide (r < 256)
  | .bankCopyDone r => decide (r < 256)
  | .redirectionStart r => decide (r < 256)
  | .requestDispatch q => decide (q < 65536)
  | .answerReady q => decide (q < 65536)
  | .backstop q => decide (q < 65536)
  | .responseSend q => decide (q < 65536)
  | .feedFrame p _ _ => decide (p < 2)
  | .load _ => true
  | .loadResume _ => true
  | .loadGuest _ => true
  | .unload _ => true
  | .run _ => true
  | .stepCmd _ => true
  | .xfer _ => true
  | .allReduce _ => true
  | .reduceScatter _ => true
  | .allGather _ => true
  | .broadcast _ => true
  | .permute _ => true
  | .fence _ => true
  | .scrub _ => true
  | .schedWrite _ => true
  | .schedSwap _ => true
  | .countersRegion _ => true
  | .countersUnit _ => true
  | .countersPhase _ => true
  | .countersWindows _ => true
  | .countersFunction _ => true
  | .countersSample _ => true
  | .flashWrite _ => true
  | .flashWriteCommit _ => true
  | .quiesce _ => true
  | .reshardPermute _ => true
  | .reshardCheckpoint _ => true
  | .watermark _ => true
  | .commandFetch fn r => decide (fn < 4096) && decide (r < 16)
  | .fnSqDb fn r _ => decide (fn < 4096) && decide (r < 16)
  | .fnCqDb fn r _ => decide (fn < 4096) && decide (r < 16)
  | .fnSqCfgWrite fn r _ => decide (fn < 4096) && decide (r < 16)
  | .fnCqCfgWrite fn r _ => decide (fn < 4096) && decide (r < 16)
  | .portALinkDown => true
  | .portALinkReturn => true
  | .portAHoldExpiry => true
  | .flr fn => decide (fn < 4096)
  | .zeroingDone fn => decide (fn < 4096)
  | .hostReadCompletion _ _ _ => true
  | .passStart q _ => decide (q < 16)
  | .ouChunk q _ => decide (q < 16)
  | .passEnd q _ => decide (q < 16)
  | .passUnboundTimeout q _ => decide (q < 16)
  | .slowPull r _ => decide (r < 256)
  | .slowRelease r _ => decide (r < 256)
  | .offloadEnd r _ => decide (r < 256)
  | .sheetFetchDone dom _ => decide (dom ≤ 256)
  | .flashLeafRead dom _ _ _ => decide (dom ≤ 256)
  | .shadowPinDone _ => true
  | .refreshRelocation fd _ => decide (fd < 2)
  | .patrolWindow q => decide (q < 16)
  | .spPatrol m => (decide (m < 4096) && isMu m)
  | .digestRecompute g => decide (g ≤ 64)
  | .diePowerDown d => decide (d < 16)
  | .refuseStateEntry d => decide (d < 16)
  | .powerDownWritebackDone d => decide (d < 16)
  | .selfRefreshConfirmed d => decide (d < 16)
  | .refuseHoldExpiry d => decide (d < 16)
  | .diePowerUp d => decide (d < 16)
  | .powerUpDone d => decide (d < 16)
  | .pavCtlWrite _ => true
  | .tload => true
  | .epochEdge _ => true
  | .pavLock => true
  | .referenceLoss => true
  | .holdoverExpiry => true
  | .referenceRequalify => true
  | .followerStep _ => true
  | .pavGridAt _ => true
  | .gridChangeApply => true
  | .pavSrcWrite _ => true
  | .pavAllotCommit => true
  | .allotApply => true
  | .hubPartCommit => true
  | .partitionApply => true
  | .hubMapCommit => true
  | .mapApply => true
  | .hubFnringCommit => true
  | .fnringApply => true
  | .plcCtlEn _ => true
  | .plcCtlClr => true
  | .plcRgnWrite n _ => decide (n < 256)
  | .feedSlotWrite n _ => decide (n < 4096)
  | .hubGuestWrite n j _ => decide (n < 256) && decide (j < 16)
  | .ceGrpWrite n _ => decide (n < 64)
  | .glNodeWrite _ => true
  | .glBypClose k _ => decide (k < 6)
  | .glLctlHold l _ => decide (l < 36)
  | .glLctlRetrain l => decide (l < 36)
  | .hubStageGo _ => true
  | .hubFwctlProg => true
  | .fwProgramDone _ => true
  | .hubWmtagWrite _ => true
  | .watermarkRecompute => true
  | .memTrainGo q chan => decide (q < 16) && decide (chan < 16)
  | .retrainDone q _ => decide (q < 16)
  | .driftTrack q chan => decide (q < 16) && decide (chan < 16)
  | .ouSkipclr q => decide (q < 16)
  | .obsTrcWrite n _ => decide (n < 256)
  | .registerWrite _ => true
  | .traceRecordArrive die => decide (die < 16)
  | .frameSend l => decide (l < 36)
  | .frameReceive l _ _ _ => decide (l < 36)
  | .nakRepeat l => decide (l < 36)
  | .ackEntry l _ => decide (l < 36)
  | .tagTimeout l tag => decide (l < 36) && decide (tag < 2048)
  | .linkDownNoframe l => decide (l < 36)
  | .linkDownLane l => decide (l < 36)
  | .lightDetect l => decide (l < 36)
  | .linkTrainDone l _ => decide (l < 36)
  | .linkAlignDone l => decide (l < 36)
  | .linkTrainTimeout l => decide (l < 36)
  | .capabilityMessage l _ => decide (l < 36)
  | .linkUp l => decide (l < 36)
  | .calibrationMessage l => decide (l < 36)
  | .delayMeasure l => decide (l < 36)
  | .mixlongExpiry => true
  | .switchSettled k pair => decide (k < 6) && decide (pair < 3)
  | .plugWithdraw => true
  | .plugSeat => true
  | .readySlot l _ => decide (l < 36)
  | .reduceSlot l _ => decide (l < 36)
  | .placeSlot l _ => decide (l < 36)
  | .barrierSlot l _ => decide (l < 36)
  | .readyResend g k => decide (g < 64) && decide (k < 6)
  | .collStallTimeout g => decide (g < 64)
  | .heartbeatSend l => decide (l < 36)
  | .watermarkExchange l _ => decide (l < 36)
  | .auxGood _ => true
  | .auxLoss => true
  | .pwrEnAssert => true
  | .pwrEnDeassert => true
  | .pgoodAssert _ => true
  | .powerFail => true
  | .resetNAssert => true
  | .resetNDeassert => true
  | .firmwareBoot _ _ _ _ => true
  | .perstNAssert => true
  | .perstNDeassert => true
  | .wfResetN => true
  | .wallflowerRestartDone => true
  | .bringupStage0 _ _ => true
  | .bringupStage1 _ _ _ => true
  | .bringupStage2 _ => true
  | .bringupStage3 _ _ _ => true
  | .bringupStage4 => true
  | .bringupStage5 _ => true
  | .bringupStage6 _ _ => true
  | .bringupStage7 _ _ => true
  | .bringupStage8 _ => true
  | .bringupStage9 => true
  | .bringupStage10 => true
  | .stageComplete _ => true
  | .hcpHeartbeat => true
  | .heartbeatLoss => true
  | .sensorSample n _ => decide (n < 42)
  | .sensorMissing n => decide (n < 42)
  | .gateDie => true
  | .ungateDie => true
  | .hwComparatorTrip die => decide (die < 25)
  | .resetHeldExpiry => true
  | .errtotRefresh => true
  | .smbVersion => true
  | .smbState => true
  | .alertRead => true
  | .alertClear _ _ => true
  | .alertmaskRead => true
  | .alertmaskWrite _ _ => true
  | .smbGated => true
  | .plimitRead => true
  | .plimitWrite _ _ => true
  | .gorderRead => true
  | .gorderWrite _ _ => true
  | .lastcmd => true
  | .resetheld => true
  | .cmdGate _ _ => true
  | .cmdUngate _ _ => true
  | .cmdBypassClose _ => true
  | .cmdBypassRelease _ => true
  | .sensorN n => decide (n < 42)
  | .errtot => true
  | .wfLog => true
  | .alertResponse => true
  | .loadVerifyDone _ => true
  | .scrubPassDone _ => true
  | .feedLinkUp p => decide (p < 2)
  | .feedLinkDown p => decide (p < 2)
  | .portBLinkDown => true
  | .portBLinkUp => true
  | .hostReadTimeout _ _ => true
  | .retentionTrigger fd _ => decide (fd < 2)

end Sys2Proof
end

