-- ==== Sys2Proof/Decode.lean ====
section
/-! DEFINITION. The table gives its rows no bits, so no word spells a command. The unit instructions that LOAD images
carry do have encodings (R110–R138): `encodeZelux` and `decodeZelux` are written from those tables. -/

namespace Sys2Proof

/-- The command that a word spells by the table's bits: the table gives no row any. -/
def decodeTableWord (_nbits _w : Nat) : Option Instr := none

/-- The OP of a vector operation (R122). -/
def VecOp.code : VecOp → BitVec 6
  | .add => 0x00 | .sub => 0x01 | .mul => 0x02 | .fma => 0x03 | .min => 0x04 | .max => 0x05 | .and => 0x08
  | .or => 0x09 | .xor => 0x0a | .shl => 0x0c | .shr => 0x0d | .sar => 0x0e | .sel => 0x10 | .mov => 0x11
  | .exp2 => 0x18 | .log2 => 0x19 | .rsqrt => 0x1a | .rcp => 0x1b | .cvtFi => 0x20 | .cvtIf => 0x21 | .cvtF19 => 0x22

/-- The vector operation of an OP; unused values are reserved (R122). -/
def VecOp.ofCode (c : BitVec 6) : Option VecOp :=
  match c.toNat with
  | 0x00 => some .add | 0x01 => some .sub | 0x02 => some .mul | 0x03 => some .fma | 0x04 => some .min
  | 0x05 => some .max | 0x08 => some .and | 0x09 => some .or | 0x0a => some .xor | 0x0c => some .shl
  | 0x0d => some .shr | 0x0e => some .sar | 0x10 => some .sel | 0x11 => some .mov | 0x18 => some .exp2
  | 0x19 => some .log2 | 0x1a => some .rsqrt | 0x1b => some .rcp | 0x20 => some .cvtFi | 0x21 => some .cvtIf
  | 0x22 => some .cvtF19 | _ => none

/-- The OP of a predicate operation (R124). -/
def PredOp.code : PredOp → BitVec 6
  | .eq => 0 | .ne => 1 | .lt => 2 | .le => 3 | .gt => 4 | .ge => 5 | .pand => 8 | .por => 9 | .pxor => 0xa
  | .pandn => 0xb | .pset => 0xc | .pget => 0xd

/-- The predicate operation of an OP (R124). -/
def PredOp.ofCode (c : BitVec 6) : Option PredOp :=
  match c.toNat with
  | 0 => some .eq | 1 => some .ne | 2 => some .lt | 3 => some .le | 4 => some .gt | 5 => some .ge | 8 => some .pand
  | 9 => some .por | 0xa => some .pxor | 0xb => some .pandn | 0xc => some .pset | 0xd => some .pget | _ => none

/-- The OP of a reduction (R126). -/
def RedOp.code : RedOp → BitVec 6
  | .sum => 0 | .max => 1 | .min => 2

/-- The reduction of an OP (R126). -/
def RedOp.ofCode (c : BitVec 6) : Option RedOp :=
  match c.toNat with
  | 0 => some .sum | 1 => some .max | 2 => some .min | _ => none

/-- The OP of a move or queue operation (R127). -/
def MoveOp.code : MoveOp → BitVec 6
  | .pop => 0 | .push => 1 | .drop => 2 | .rowget => 4 | .rowput => 5 | .lget => 6 | .lput => 7 | .rld => 8 | .rst => 9

/-- The move or queue operation of an OP (R127). -/
def MoveOp.ofCode (c : BitVec 6) : Option MoveOp :=
  match c.toNat with
  | 0 => some .pop | 1 => some .push | 2 => some .drop | 4 => some .rowget | 5 => some .rowput | 6 => some .lget
  | 7 => some .lput | 8 => some .rld | 9 => some .rst | _ => none

/-- The OP of a scalar operation (R133). -/
def ScalOp.code : ScalOp → BitVec 6
  | .sli => 0x10 | .sadd => 0x11 | .ssub => 0x12 | .smul => 0x13 | .sand => 0x14 | .sor => 0x15 | .sxor => 0x16
  | .sshl => 0x17 | .sshr => 0x18 | .ssar => 0x19 | .smin => 0x1a | .smax => 0x1b

/-- The scalar operation of an OP (R133). -/
def ScalOp.ofCode (c : BitVec 6) : Option ScalOp :=
  match c.toNat with
  | 0x10 => some .sli | 0x11 => some .sadd | 0x12 => some .ssub | 0x13 => some .smul | 0x14 => some .sand
  | 0x15 => some .sor | 0x16 => some .sxor | 0x17 => some .sshl | 0x18 => some .sshr | 0x19 => some .ssar
  | 0x1a => some .smin | 0x1b => some .smax | _ => none

/-- One bit from a flag. -/
def flagBit (b : Bool) : BitVec 1 := if b then 1 else 0

/-- The word of an instruction: CLASS, OP, PRED and PNEG, then the class fields (R110, R116, R121, R124, R126, R127,
R131, R133, R136, R138). -/
def encodeZelux : Zelux → W64
  | .mma f => 0x1#4 ++ 0#6 ++ 0#4 ++ f.c ++ f.b ++ f.a ++ f.asrc ++ f.mm1 ++ f.nm1 ++ f.km1 ++ f.afmt ++ f.bfmt ++
      f.aconv ++ f.bconv ++ f.pair ++ f.zc ++ 0#15
  | .vec o f => (if f.tform then 0x3#4 else 0x2#4) ++ o.code ++ f.pred ++ f.pneg ++ f.dst ++ f.sa ++ f.sb ++ f.sc ++
      f.sidx ++ f.ty ++ 0#18
  | .red o f => 0x4#4 ++ o.code ++ f.pred ++ f.pneg ++ f.dst ++ f.src ++ f.axis ++ f.ty ++ 0#34
  | .move o f => 0x5#4 ++ o.code ++ f.pred ++ f.pneg ++ f.reg ++ f.pmask ++ f.mm1 ++ f.sa ++ f.sb ++ f.imm ++ f.rsel ++
      0#19
  | .pred o f => 0x6#4 ++ o.code ++ f.pred ++ f.pneg ++ f.pd ++ f.pa ++ f.pb ++ f.sa ++ f.sb ++ f.sidx ++ f.ty ++ f.ss ++
      0#16
  | .loop f => 0x7#4 ++ 0#6 ++ 0#4 ++ f.l ++ f.csrc ++ f.count ++ f.sidx ++ f.endpc ++ 0#15
  | .scal o f => 0x7#4 ++ o.code ++ 0#4 ++ f.sd ++ f.sa ++ f.sb ++ f.bimm ++ 0#2 ++ f.imm
  | .setmode mask value aclr => 0x8#4 ++ 0#6 ++ 0#4 ++ mask ++ value ++ aclr ++ 0#26
  | .getstat sd => 0x8#4 ++ 1#6 ++ 0#4 ++ sd ++ 0#45
  | .nop => 0x0#4 ++ 0#6 ++ 0#54
  | .endp => 0x0#4 ++ 1#6 ++ 0#54
  | .yld sv succ => 0x0#4 ++ 2#6 ++ 0#4 ++ flagBit sv ++ succ ++ 0#47
  | .waitStep c => 0x0#4 ++ 3#6 ++ 0#4 ++ c ++ 0#34
  | .waitSb ld st => 0x0#4 ++ 4#6 ++ 0#4 ++ flagBit ld ++ flagBit st ++ 0#48
  | .waitDrain => 0x0#4 ++ 5#6 ++ 0#54
  | .mark tag => 0x0#4 ++ 6#6 ++ 0#4 ++ tag ++ 0#34

/-- The low `n` bits of a word are zero. -/
def lowZero (w : W64) (n : Nat) : Bool := w.toNat % 2 ^ n == 0

/-- The field of `n` bits at bit `lo`. -/
abbrev fld (w : W64) (lo n : Nat) : BitVec n := w.extractLsb' lo n

/-- Decode the sync class (R138). -/
def decodeSync (w : W64) : Option Zelux :=
  if fld w 50 4 ≠ 0 then none else
  match (fld w 54 6).toNat with
  | 0 => if lowZero w 54 then some .nop else none
  | 1 => if lowZero w 54 then some .endp else none
  | 2 => if lowZero w 47 then some (.yld (w.getLsbD 49) (fld w 47 2)) else none
  | 3 => if lowZero w 34 then some (.waitStep (fld w 34 16)) else none
  | 4 => if lowZero w 48 then some (.waitSb (w.getLsbD 49) (w.getLsbD 48)) else none
  | 5 => if lowZero w 54 then some .waitDrain else none
  | 6 => if lowZero w 34 then some (.mark (fld w 34 16)) else none
  | _ => none

/-- Decode the matrix class (R116). -/
def decodeMma (w : W64) : Option Zelux :=
  if fld w 50 4 = 0 ∧ fld w 54 6 = 0 ∧ lowZero w 15 then
    some (.mma { c := fld w 47 3, b := fld w 44 3, a := fld w 41 3, asrc := fld w 40 1, mm1 := fld w 35 5,
                 nm1 := fld w 30 5, km1 := fld w 25 5, afmt := fld w 22 3, bfmt := fld w 19 3, aconv := fld w 18 1,
                 bconv := fld w 17 1, pair := fld w 16 1, zc := fld w 15 1 })
  else none

/-- Decode the vector classes (R121). -/
def decodeVec (t : Bool) (w : W64) : Option Zelux :=
  if lowZero w 18 then
    (VecOp.ofCode (fld w 54 6)).map fun o =>
      .vec o { tform := t, pred := fld w 51 3, pneg := fld w 50 1, dst := fld w 44 6, sa := fld w 38 6, sb := fld w 32 6,
               sc := fld w 26 6, sidx := fld w 21 5, ty := fld w 18 3 }
  else none

/-- Decode the reduce class (R126). -/
def decodeRed (w : W64) : Option Zelux :=
  if lowZero w 34 then
    (RedOp.ofCode (fld w 54 6)).map fun o =>
      .red o { pred := fld w 51 3, pneg := fld w 50 1, dst := fld w 44 6, src := fld w 38 6, axis := fld w 37 1, ty := fld w 34 3 }
  else none

/-- Decode the move and queue class (R127). -/
def decodeMove (w : W64) : Option Zelux :=
  if lowZero w 19 then
    (MoveOp.ofCode (fld w 54 6)).map fun o =>
      .move o { pred := fld w 51 3, pneg := fld w 50 1, reg := fld w 44 6, pmask := fld w 40 4, mm1 := fld w 35 5,
                sa := fld w 30 5, sb := fld w 25 5, imm := fld w 20 5, rsel := fld w 19 1 }
  else none

/-- Decode the predicate class (R124). -/
def decodePred (w : W64) : Option Zelux :=
  if lowZero w 16 then
    (PredOp.ofCode (fld w 54 6)).map fun o =>
      .pred o { pred := fld w 51 3, pneg := fld w 50 1, pd := fld w 47 3, pa := fld w 44 3, pb := fld w 41 3,
                sa := fld w 35 6, sb := fld w 29 6, sidx := fld w 24 5, ty := fld w 21 3, ss := fld w 16 5 }
  else none

/-- Decode the loop and scalar class (R131, R133). -/
def decodeScal (w : W64) : Option Zelux :=
  if fld w 50 4 ≠ 0 then none
  else if fld w 54 6 = 0 then
    if lowZero w 15 then
      some (.loop { l := fld w 48 2, csrc := fld w 47 1, count := fld w 31 16, sidx := fld w 26 5, endpc := fld w 15 11 })
    else none
  else if fld w 32 2 = 0 then
    (ScalOp.ofCode (fld w 54 6)).map fun o =>
      .scal o { sd := fld w 45 5, sa := fld w 40 5, sb := fld w 35 5, bimm := fld w 34 1, imm := fld w 0 32 }
  else none

/-- Decode the mode class (R136). -/
def decodeModeClass (w : W64) : Option Zelux :=
  if fld w 50 4 ≠ 0 then none else
  match (fld w 54 6).toNat with
  | 0 => if lowZero w 26 then some (.setmode (fld w 42 8) (fld w 34 8) (fld w 26 8)) else none
  | 1 => if lowZero w 45 then some (.getstat (fld w 45 5)) else none
  | _ => none

/-- The instruction of a word, none for a reserved CLASS or OP or a non-zero reserved bit (R111, R112). -/
def decodeZelux (w : W64) : Option Zelux :=
  match (fld w 60 4).toNat with
  | 0 => decodeSync w
  | 1 => decodeMma w
  | 2 => decodeVec false w
  | 3 => decodeVec true w
  | 4 => decodeRed w
  | 5 => decodeMove w
  | 6 => decodePred w
  | 7 => decodeScal w
  | 8 => decodeModeClass w
  | _ => none

end Sys2Proof
end

