-- ==== Sys2Proof/Config.lean ====
section
/-! DEFINITION. What the spec leaves open, as constants without a body: no proof can see their values. -/

namespace Sys2Proof.Config

/-- A fresh value each time: applied to the counter `State.free` (log entry 7). -/
opaque freeValue : Nat → W64

/-- How far the special function `op` (0 exp2, 1 log2, 2 rsqrt, 3 rcp) lies from the correctly rounded result for this
operand, in units of the last place; used only where it keeps within the bound of R65 (log entry 8). -/
opaque specialOffset : Nat → W32 → Int

/-- The syndrome that an uncorrectable word shows (R468 SYND): the spec gives no check matrix (log entry 7). -/
opaque syndrome : Nat → BitVec 8

/-- The version word that Wallflower's ROM reports (R515 VERSION): the spec gives no number (log entry 7). -/
opaque romVersion : BitVec 16

end Sys2Proof.Config
end

