-- ==== Sys2Proof/Machine/Flags.lean ====
section
/-! DEFINITION. Number formats and arithmetic (R45–R75): exact values, one rounding, and the events of ASTAT and SSTAT
(R68, R173). Every operation answers its result bits and its events. -/

namespace Sys2Proof.Machine

/-! ### Events (R68) -/

/-- A set of events: the bits of ASTAT. -/
abbrev Ev := Byte
/-- INV (R68). -/
def evInv : Ev := 0x01
/-- DZ (R68). -/
def evDz : Ev := 0x02
/-- OVF (R68). -/
def evOvf : Ev := 0x04
/-- UNF (R68). -/
def evUnf : Ev := 0x08
/-- ISAT (R68). -/
def evIsat : Ev := 0x10
/-- QSAT (R68). -/
def evQsat : Ev := 0x20
/-- NANIN (R68). -/
def evNanin : Ev := 0x40
/-- Events under a condition. -/
def evIf (b : Bool) (e : Ev) : Ev := if b then e else 0

/-! ### Formats (R45, R46, R50) -/

/-- What the top exponent encodes: infinities and NaN as IEEE 754, one NaN (E4M3), or ordinary values. -/
inductive Special where
  | ieee | e4m3 | plain
deriving DecidableEq, Repr

/-- A binary floating format: exponent bits, fraction bits, bias. -/
structure Fmt where
  eb : Nat
  mb : Nat
  bias : Int
  spec : Special
deriving DecidableEq, Repr

/-- IEEE 754 binary32. -/
def fmtF32 : Fmt := ⟨8, 23, 127, .ieee⟩
/-- IEEE 754 binary16. -/
def fmtF16 : Fmt := ⟨5, 10, 15, .ieee⟩
/-- The 19 bits of an F19 container (R46). -/
def fmtF19 : Fmt := ⟨8, 10, 127, .ieee⟩
/-- E4M3 (R50). -/
def fmtB8E4 : Fmt := ⟨4, 3, 7, .e4m3⟩
/-- E5M2 (R50). -/
def fmtB8E5 : Fmt := ⟨5, 2, 15, .ieee⟩
/-- E3M2 (R50). -/
def fmtB6E3 : Fmt := ⟨3, 2, 3, .plain⟩
/-- E2M3 (R50). -/
def fmtB6E2 : Fmt := ⟨2, 3, 1, .plain⟩
/-- E2M1 (R50). -/
def fmtB4 : Fmt := ⟨2, 1, 1, .plain⟩

/-- The block format of a code 1–5 (R117, R168). -/
def blockFmt (code : Nat) : Fmt :=
  if code = 1 then fmtB8E4 else if code = 2 then fmtB8E5 else if code = 3 then fmtB6E3 else if code = 4 then fmtB6E2 else fmtB4

/-- The bits of an element. -/
def Fmt.width (f : Fmt) : Nat := 1 + f.eb + f.mb
/-- The exponent of the smallest normal value. -/
def Fmt.emin (f : Fmt) : Int := 1 - f.bias
/-- The exponent of the subnormal spacing. -/
def Fmt.qmin (f : Fmt) : Int := f.emin - f.mb
/-- The magnitude code of the largest finite value. -/
def Fmt.maxCode (f : Fmt) : Nat :=
  match f.spec with
  | .ieee => (2 ^ f.eb - 1) * 2 ^ f.mb - 1
  | .e4m3 => 2 ^ (f.eb + f.mb) - 2
  | .plain => 2 ^ (f.eb + f.mb) - 1
/-- The unbiased exponent of the largest finite value (R50 emax). -/
def Fmt.emax (f : Fmt) : Int := ((f.maxCode / 2 ^ f.mb : Nat) : Int) - f.bias

/-! ### Exact values -/

/-- A value a format can hold: NaN, an infinity, or ± m · 2^e. -/
inductive Fp where
  | nan
  | inf (neg : Bool)
  | fin (neg : Bool) (m : Nat) (e : Int)
deriving DecidableEq, Repr

/-- The magnitude code, exponent and fraction together, as a finite value's significand and exponent (R47). -/
def Fmt.magnitude (f : Fmt) (mag : Nat) : Nat × Int :=
  let e := mag / 2 ^ f.mb
  let m := mag % 2 ^ f.mb
  if e = 0 then (m, f.qmin) else (2 ^ f.mb + m, f.qmin + (e : Int) - 1)

/-- The value of a bit pattern (R45–R50). -/
def Fmt.decode (f : Fmt) (bits : Nat) : Fp :=
  let neg := bits / 2 ^ (f.eb + f.mb) % 2 == 1
  let mag := bits % 2 ^ (f.eb + f.mb)
  if mag ≤ f.maxCode then .fin neg (f.magnitude mag).1 (f.magnitude mag).2
  else if f.spec = .ieee ∧ mag = f.maxCode + 1 then .inf neg
  else .nan

/-- The bit length of a number. -/
def bitLen (n : Nat) : Nat := if n = 0 then 0 else Nat.log2 n + 1

/-- Rounding modes: the context's two, and stochastic with its 16 random bits (R69, R73). -/
inductive Rnd where
  | rne
  | rtz
  | stoch (r : Nat)
deriving DecidableEq, Repr

/-- Whether the kept significand `q` grows by one, for the dropped part `rem` of `2 ^ k`. -/
def roundUp (mode : Rnd) (q rem k : Nat) : Bool :=
  match mode with
  | .rne => decide (2 ^ k < 2 * rem) || (2 * rem == 2 ^ k && q % 2 == 1)
  | .rtz => false
  | .stoch r => decide (65536 ≤ rem * 65536 / 2 ^ k + r)

/-- Round m · 2^e to a format's grid, unbounded above: the significand, its exponent, and whether it is inexact. -/
def Fmt.round (f : Fmt) (mode : Rnd) (m : Nat) (e : Int) : Nat × Int × Bool :=
  let qe := max (e + bitLen m - (f.mb + 1 : Nat)) f.qmin
  if qe ≤ e then (m * 2 ^ (e - qe).toNat, qe, false)
  else
    let k := (qe - e).toNat
    let q := m / 2 ^ k
    let rem := m % 2 ^ k
    ((if roundUp mode q rem k then q + 1 else q), qe, rem != 0)

/-- The sign bit of a format's encoding. -/
def Fmt.signBit (f : Fmt) (neg : Bool) : Nat := if neg then 2 ^ (f.eb + f.mb) else 0

/-- Round and encode a finite value: `sat` is the saturation of R72; otherwise overflow goes to infinity under RNE and to
the largest finite value under RTZ (R49, R64, R68). A value that truncation brings down to the largest finite one from below
the next step of its grid, as R49 truncates to 0x7F7FE000, is no overflow and sets no OVF (log entry 68). -/
def Fmt.encode (f : Fmt) (mode : Rnd) (sat : Bool) (neg : Bool) (m : Nat) (e : Int) : Nat × Ev :=
  let (q, qe, inexact) := f.round mode m e
  let code := q + (qe - f.qmin).toNat * 2 ^ f.mb
  let tiny := inexact && decide (code < 2 ^ f.mb)
  if q = 0 then (f.signBit neg, evIf tiny evUnf)
  else if code ≤ f.maxCode then (f.signBit neg + code, evIf tiny evUnf)
  else if sat then (f.signBit neg + f.maxCode, evQsat)
  else if mode = .rtz then (f.signBit neg + f.maxCode, evOvf)
  else (f.signBit neg + (f.maxCode + 1), evOvf)

/-! ### F32, F16 and F19 -/

/-- The canonical NaN (R46, R75). -/
def canonNan : W32 := 0x7fc00000
/-- ±∞ in F32. -/
def f32Inf (neg : Bool) : W32 := if neg then 0xff800000 else 0x7f800000
/-- ±0 in F32. -/
def f32Zero (neg : Bool) : W32 := if neg then 0x80000000 else 0
/-- The value of an F32 word. -/
def f32 (w : W32) : Fp := fmtF32.decode w.toNat
/-- Whether an F32 word is NaN. -/
def f32IsNan (w : W32) : Bool := f32 w == .nan

/-- Round an exact value once to F32. -/
def f32Encode (mode : Rnd) (neg : Bool) (m : Nat) (e : Int) : W32 × Ev :=
  let r := fmtF32.encode mode false neg m e
  (BitVec.ofNat 32 r.1, r.2)

/-- Encode an exact value that may be special. -/
def f32Of (mode : Rnd) : Fp → W32 × Ev
  | .nan => (canonNan, 0)
  | .inf n => (f32Inf n, 0)
  | .fin n m e => f32Encode mode n m e

/-- F16 widened exactly (R48). -/
def f16ToF32 (h : Nat) : W32 × Ev :=
  match fmtF16.decode h with
  | .nan => (canonNan, evNanin)
  | v => f32Of .rne v

/-- F32 to F16 (R71). -/
def f32ToF16 (mode : Rnd) (w : W32) : Nat × Ev :=
  match f32 w with
  | .nan => (0x7e00, evNanin)
  | .inf n => ((if n then 0xfc00 else 0x7c00), 0)
  | .fin n m e => fmtF16.encode mode false n m e

/-- F32 to the F19 container: RNE, or truncation (R49). -/
def f32ToF19 (mode : Rnd) (w : W32) : W32 × Ev :=
  match f32 w with
  | .nan => (canonNan, evNanin)
  | .inf n => (f32Inf n, 0)
  | .fin n m e =>
    let r := fmtF19.encode mode false n m e
    (BitVec.ofNat 32 (r.1 * 2 ^ 13), r.2)

/-! ### Exact sums and products -/

/-- A signed significand. -/
def signedM (neg : Bool) (m : Nat) : Int := if neg then -(m : Int) else m

/-- The sum of two finite values, exactly. -/
def addExact (x y : Int × Int) : Int × Int :=
  let e := min x.2 y.2
  (x.1 * 2 ^ (x.2 - e).toNat + y.1 * 2 ^ (y.2 - e).toNat, e)

/-- Add two values, rounding once to F32; an exact zero sum is +0 unless both terms are negative (R64). -/
def f32AddFp (mode : Rnd) (x y : Fp) : W32 × Ev :=
  match x, y with
  | .nan, _ => (canonNan, evNanin)
  | _, .nan => (canonNan, evNanin)
  | .inf a, .inf b => if a = b then (f32Inf a, 0) else (canonNan, evInv)
  | .inf a, .fin _ _ _ => (f32Inf a, 0)
  | .fin _ _ _, .inf b => (f32Inf b, 0)
  | .fin a m e, .fin b n f =>
    let s := addExact (signedM a m, e) (signedM b n, f)
    if s.1 = 0 then (f32Zero (a && b), 0) else f32Encode mode (decide (s.1 < 0)) s.1.natAbs s.2

/-- The exact product of two values. -/
def mulFp (x y : Fp) : Option Fp :=
  match x, y with
  | .nan, _ => some .nan
  | _, .nan => some .nan
  | .inf a, .inf b => some (.inf (a != b))
  | .inf a, .fin b n _ => if n = 0 then none else some (.inf (a != b))
  | .fin a m _, .inf b => if m = 0 then none else some (.inf (a != b))
  | .fin a m e, .fin b n f => some (.fin (a != b) (m * n) (e + f))

/-- A negated value. -/
def negFp : Fp → Fp
  | .nan => .nan
  | .inf a => .inf (!a)
  | .fin a m e => .fin (!a) m e

/-- F32 addition (R64). -/
def f32Add (mode : Rnd) (a b : W32) : W32 × Ev := f32AddFp mode (f32 a) (f32 b)
/-- F32 subtraction (R64). -/
def f32Sub (mode : Rnd) (a b : W32) : W32 × Ev := f32AddFp mode (f32 a) (negFp (f32 b))
/-- F32 multiplication (R64). -/
def f32Mul (mode : Rnd) (a b : W32) : W32 × Ev :=
  match mulFp (f32 a) (f32 b) with
  | none => (canonNan, evInv)
  | some .nan => (canonNan, evNanin)
  | some v => f32Of mode v
/-- F32 fused multiply-add: formed exactly, rounded once (R64). -/
def f32Fma (mode : Rnd) (a b c : W32) : W32 × Ev :=
  if f32IsNan a || f32IsNan b || f32IsNan c then (canonNan, evNanin)
  else match mulFp (f32 a) (f32 b) with
    | none => (canonNan, evInv)
    | some v => f32AddFp mode v (f32 c)

/-- a ≤ b by value; false where either is NaN (R66). -/
def fpLe : Fp → Fp → Bool
  | .nan, _ => false
  | _, .nan => false
  | .inf true, _ => true
  | _, .inf false => true
  | .inf false, _ => false
  | _, .inf true => false
  | .fin a m e, .fin b n f => decide ((addExact (signedM a m, e) (-(signedM b n), f)).1 ≤ 0)

/-- Value order with −0 below +0 (R66). -/
def f32OrderLe (a b : W32) : Bool :=
  if fpLe (f32 a) (f32 b) && fpLe (f32 b) (f32 a) then a.getLsbD 31 || !(b.getLsbD 31) else fpLe (f32 a) (f32 b)

/-- F32 minimum (R66). -/
def f32Min (a b : W32) : W32 × Ev :=
  if f32IsNan a || f32IsNan b then (canonNan, evNanin) else ((if f32OrderLe a b then a else b), 0)
/-- F32 maximum (R66). -/
def f32Max (a b : W32) : W32 × Ev :=
  if f32IsNan a || f32IsNan b then (canonNan, evNanin) else ((if f32OrderLe a b then b else a), 0)

/-! ### Integers (R56, R64) -/

/-- The bits of a TYPE: 0 F32, 1 I32, 2 I16, 3 I8 (R121). -/
def typeWidth (ty : Nat) : Nat := if ty = 2 then 16 else if ty = 3 then 8 else 32

/-- The two's-complement value of the low `w` bits. -/
def sext (w : Nat) (n : Nat) : Int :=
  let v := n % 2 ^ w
  if v < 2 ^ (w - 1) then v else (v : Int) - 2 ^ w

/-- Saturate to `w` bits (R56). -/
def saturate (w : Nat) (v : Int) : Int × Ev :=
  if v < -(2 ^ (w - 1)) then (-(2 ^ (w - 1)), evIsat)
  else if 2 ^ (w - 1) ≤ v then (2 ^ (w - 1) - 1, evIsat)
  else (v, 0)

/-- A signed number as a lane. -/
def lane (v : Int) : W32 := BitVec.ofInt 32 v

/-- A saturated integer result (R56). -/
def intResult (w : Nat) (v : Int) : W32 × Ev := (lane (saturate w v).1, (saturate w v).2)

/-- Round an exact value to an integer (R64). -/
def roundInt (mode : Rnd) (neg : Bool) (m : Nat) (e : Int) : Int :=
  if 0 ≤ e then signedM neg (m * 2 ^ e.toNat)
  else
    let k := (-e).toNat
    let q := m / 2 ^ k
    signedM neg (if roundUp mode q (m % 2 ^ k) k then q + 1 else q)

/-- F32 to an integer of `w` bits: NaN gives 0, values beyond the range saturate (R64, R71). -/
def f32ToInt (mode : Rnd) (w : Nat) (a : W32) : W32 × Ev :=
  match f32 a with
  | .nan => (0, evInv ||| evNanin)
  | .inf n => (lane (if n then -(2 ^ (w - 1)) else 2 ^ (w - 1) - 1), evIsat)
  | .fin n m e => intResult w (roundInt mode n m e)

/-- An integer to F32 (R64). -/
def intToF32 (mode : Rnd) (v : Int) : W32 × Ev :=
  if v = 0 then (0, 0) else f32Encode mode (decide (v < 0)) v.natAbs 0

/-! ### Special functions (R64, R65) -/

/-- Fraction bits of the working precision. -/
def specPrec : Nat := 96

/-- The roots 2^(2^-1), 2^(2^-2), … in fixed point with `specPrec` fraction bits. -/
def exp2Roots : Nat → Nat → List Nat
  | 0, _ => []
  | n + 1, r => let r' := Nat.sqrt (r * 2 ^ specPrec); r' :: exp2Roots n r'

/-- 2^f for the fraction bits of `f`, highest first. -/
def exp2Frac : List Nat → Nat → Nat → Nat → Nat
  | [], _, _, acc => acc
  | r :: rs, bit, f, acc => exp2Frac rs (bit / 2) f (if f / bit % 2 = 1 then acc * r / 2 ^ specPrec else acc)

/-- 2^(± m · 2^e) for |m · 2^e| < 2^9: a significand with a sticky low bit where it is inexact, an exponent, and whether
it is exact. -/
def exp2Approx (neg : Bool) (m : Nat) (e : Int) : Nat × Int × Bool :=
  if 0 ≤ e then (1, signedM neg (m * 2 ^ e.toNat), true)
  else
    let k := (-e).toNat
    let n := signedM neg m / (2 ^ k : Nat)
    let r := (signedM neg m % (2 ^ k : Nat)).toNat
    if r = 0 then (1, n, true)
    else (2 * exp2Frac (exp2Roots specPrec (2 * 2 ^ specPrec)) (2 ^ (specPrec - 1)) (r * 2 ^ specPrec / 2 ^ k) (2 ^ specPrec) + 1,
      n - (specPrec + 1 : Nat), false)

/-- The binary digits of log2 of a number in [1, 2) held with `specPrec` fraction bits. -/
def log2Digits : Nat → Nat → Nat → Nat
  | 0, _, acc => acc
  | n + 1, y, acc =>
    let y2 := y * y / 2 ^ specPrec
    if 2 * 2 ^ specPrec ≤ y2 then log2Digits n (y2 / 2) (2 * acc + 1) else log2Digits n y2 (2 * acc)

/-- log2 of m · 2^e, m positive, as a signed fixed-point number of `specPrec` fraction bits with a sticky low bit. -/
def log2Approx (m : Nat) (e : Int) : Int × Int × Bool :=
  let k := bitLen m - 1
  let exact := m == 2 ^ k
  let whole : Int := e + k
  if exact then (whole, 0, true)
  else
    let f := log2Digits specPrec (m * 2 ^ (specPrec - k)) 0
    (2 * (whole * 2 ^ specPrec + f) + 1, -(specPrec + 1 : Nat), false)

/-- 1 / (m · 2^e) with a sticky low bit. -/
def rcpApprox (m : Nat) (e : Int) : Nat × Int × Bool :=
  let k := specPrec + bitLen m
  let q := 2 ^ k / m
  let exact := 2 ^ k % m == 0
  (2 * q + (if exact then 0 else 1), -e - (k + 1 : Nat), exact)

/-- 1 / √(m · 2^e) with a sticky low bit. -/
def rsqrtApprox (m : Nat) (e : Int) : Nat × Int × Bool :=
  let (m, e) := if e % 2 = 0 then (m, e) else (2 * m, e - 1)
  let k := 2 * (specPrec + bitLen m)
  let q := Nat.sqrt (2 ^ k / m)
  let exact := q * q * m == 2 ^ k
  (2 * q + (if exact then 0 else 1), -(e / 2) - (k / 2 + 1 : Nat), exact)

/-- Whether a finite F32 magnitude code lies within `bound` units in the last place of the value `x`. -/
def withinUlp (bound : Nat) (code : Nat) (x : Nat × Int) : Bool :=
  let v := fmtF32.magnitude code
  let u := if x.1 = 0 then fmtF32.qmin else max (x.2 + bitLen x.1 - 24) fmtF32.qmin
  let d := addExact ((v.1 : Int), v.2) (-(x.1 : Int), x.2)
  let g := addExact ((d.1.natAbs : Int), d.2) (-(bound : Int), u)
  decide (g.1 ≤ 0)

/-- The result of a special function whose exact value is ± x: the correctly rounded one moved by the open offset where
that stays within the bound (R65). -/
def specialResult (op bound : Nat) (a : W32) (neg : Bool) (m : Nat) (e : Int) (exact : Bool) : W32 × Ev :=
  let r := fmtF32.encode .rne false false m e
  let cand := ((r.1 : Int) + Config.specialOffset op a).toNat
  let code := if decide (cand ≤ fmtF32.maxCode) && decide (r.1 ≤ fmtF32.maxCode) && decide (0 ≤ (r.1 : Int) + Config.specialOffset op a)
      && withinUlp bound cand (m, e) then cand else r.1
  let tiny := decide (code < 2 ^ 23) && decide (m ≠ 0) && !(exact && code == r.1 && r.2 &&& evUnf == 0)
  (BitVec.ofNat 32 (fmtF32.signBit neg + code), evIf (decide (fmtF32.maxCode < code)) evOvf ||| evIf tiny evUnf)

/-- exp2 (R64, R65). -/
def f32Exp2 (a : W32) : W32 × Ev :=
  match f32 a with
  | .nan => (canonNan, evNanin)
  | .inf n => ((if n then 0 else f32Inf false), 0)
  | .fin n m e =>
    if decide (9 < e + bitLen m) then (if n then (0, evUnf) else (f32Inf false, evOvf))
    else let x := exp2Approx n m e; specialResult 0 2 a false x.1 x.2.1 x.2.2

/-- log2 (R64, R65). -/
def f32Log2 (a : W32) : W32 × Ev :=
  match f32 a with
  | .nan => (canonNan, evNanin)
  | .inf n => if n then (canonNan, evInv) else (f32Inf false, 0)
  | .fin n m e =>
    if m = 0 then (f32Inf true, evDz)
    else if n then (canonNan, evInv)
    else let x := log2Approx m e; specialResult 1 2 a (decide (x.1 < 0)) x.1.natAbs x.2.1 x.2.2

/-- rsqrt (R64, R65). -/
def f32Rsqrt (a : W32) : W32 × Ev :=
  match f32 a with
  | .nan => (canonNan, evNanin)
  | .inf n => if n then (canonNan, evInv) else (0, 0)
  | .fin n m e =>
    if m = 0 then (f32Inf n, evDz)
    else if n then (canonNan, evInv)
    else let x := rsqrtApprox m e; specialResult 2 2 a false x.1 x.2.1 x.2.2

/-- rcp (R64, R65). -/
def f32Rcp (a : W32) : W32 × Ev :=
  match f32 a with
  | .nan => (canonNan, evNanin)
  | .inf n => (f32Zero n, 0)
  | .fin n m e =>
    if m = 0 then (f32Inf n, evDz)
    else let x := rcpApprox m e; specialResult 3 1 a n x.1 x.2.1 x.2.2

/-! ### Vector operations (R122) -/

/-- The integer operations of a TYPE's width (R122). -/
def intOp (o : VecOp) (w : Nat) (a b : W32) : W32 × Ev :=
  let n := b.toNat % 256
  match o with
  | .add => intResult w (a.toInt + b.toInt)
  | .sub => intResult w (a.toInt - b.toInt)
  | .mul => intResult w (a.toInt * b.toInt)
  | .min => intResult w (min a.toInt b.toInt)
  | .max => intResult w (max a.toInt b.toInt)
  | .shl => (if w ≤ n then 0 else lane (sext w (a.toNat * 2 ^ n)), 0)
  | .shr => (if w ≤ n then 0 else lane (sext w (a.toNat % 2 ^ w / 2 ^ n)), 0)
  | .sar => (lane (sext w a.toNat / 2 ^ min n w), 0)
  | _ => (0, 0)

/-- One lane of a vector operation other than sel (R122). An integer mov saturates at the TYPE width as every integer
operation but the shifts and the logical ones does (R56, R122; log entry 69). -/
def vecLane (o : VecOp) (mode : Rnd) (ty : Nat) (a b c : W32) : W32 × Ev :=
  match o with
  | .sel => (a, 0)
  | .mov => if ty = 0 then (a, 0) else intResult (typeWidth ty) a.toInt
  | .and => (a &&& b, 0)
  | .or => (a ||| b, 0)
  | .xor => (a ^^^ b, 0)
  | .exp2 => f32Exp2 a
  | .log2 => f32Log2 a
  | .rsqrt => f32Rsqrt a
  | .rcp => f32Rcp a
  | .cvtFi => f32ToInt mode (typeWidth ty) a
  | .cvtIf => intToF32 mode (sext (typeWidth ty) a.toNat)
  | .cvtF19 => f32ToF19 mode a
  | .fma => f32Fma mode a b c
  | .add => if ty = 0 then f32Add mode a b else intOp .add (typeWidth ty) a b
  | .sub => if ty = 0 then f32Sub mode a b else intOp .sub (typeWidth ty) a b
  | .mul => if ty = 0 then f32Mul mode a b else intOp .mul (typeWidth ty) a b
  | .min => if ty = 0 then f32Min a b else intOp .min (typeWidth ty) a b
  | .max => if ty = 0 then f32Max a b else intOp .max (typeWidth ty) a b
  | .shl => intOp .shl (typeWidth ty) a b
  | .shr => intOp .shr (typeWidth ty) a b
  | .sar => intOp .sar (typeWidth ty) a b

/-- One lane of a compare (R66, R124). -/
def cmpLane (o : PredOp) (ty : Nat) (a b : W32) : Bool × Ev :=
  let nan := ty == 0 && (f32IsNan a || f32IsNan b)
  let le := if ty = 0 then fpLe (f32 a) (f32 b) else decide (a.toInt ≤ b.toInt)
  let ge := if ty = 0 then fpLe (f32 b) (f32 a) else decide (b.toInt ≤ a.toInt)
  let r := match o with
    | .eq => le && ge
    | .ne => !(le && ge)
    | .lt => !ge
    | .le => le
    | .gt => !le
    | _ => ge
  ((if nan then o == .ne else r), evIf nan evNanin)

/-- The identity of a reduction (R126). -/
def redIdentity (o : RedOp) (ty : Nat) : W32 :=
  match o with
  | .sum => 0
  | .max => if ty = 0 then f32Inf true else lane (-(2 ^ (typeWidth ty - 1)))
  | .min => if ty = 0 then f32Inf false else lane (2 ^ (typeWidth ty - 1) - 1)

/-- One node of the reduction tree (R67). -/
def redNode (o : RedOp) (mode : Rnd) (ty : Nat) (a b : W32) : W32 × Ev :=
  match o with
  | .sum => vecLane .add mode ty a b 0
  | .max => vecLane .max mode ty a b 0
  | .min => vecLane .min mode ty a b 0

/-- One level of the tree: neighbours in pairs (R67). -/
def redLevel (o : RedOp) (mode : Rnd) (ty : Nat) : List W32 → List W32 × Ev
  | a :: b :: l =>
    let r := redNode o mode ty a b
    let t := redLevel o mode ty l
    (r.1 :: t.1, r.2 ||| t.2)
  | l => (l, 0)

/-- The fixed pairwise tree over 32 elements: five levels (R67). -/
def redTree (o : RedOp) (mode : Rnd) (ty : Nat) (l : List W32) : W32 × Ev :=
  let r := (List.range 5).foldl (fun (acc : List W32 × Ev) _ =>
    let t := redLevel o mode ty acc.1; (t.1, acc.2 ||| t.2)) (l, 0)
  (r.1.headD 0, r.2)

/-- A scalar operation: wrapping, shifts of 32 or more give 0 or the sign fill (R133). -/
def scalLane (o : ScalOp) (a b : W32) : W32 :=
  let n := b.toNat % 256
  match o with
  | .sli => b
  | .sadd => a + b
  | .ssub => a - b
  | .smul => a * b
  | .sand => a &&& b
  | .sor => a ||| b
  | .sxor => a ^^^ b
  | .sshl => a <<< n
  | .sshr => a >>> n
  | .ssar => a.sshiftRight n
  | .smin => if a.toInt ≤ b.toInt then a else b
  | .smax => if a.toInt ≤ b.toInt then b else a

/-! ### The matrix product (R57–R62) -/

/-- An operand element: the significand scaled to 11 bits and the unbiased exponent with its block scale (R57). -/
def mmaOperand (fmt : Nat) (rne : Bool) (w : W32) : Fp :=
  if fmt = 0 then
    match fmtF19.decode ((f32ToF19 (if rne then .rne else .rtz) w).1.toNat / 2 ^ 13) with
    | .fin n m e => .fin n m (e + 10)
    | v => v
  else
    let f := blockFmt fmt
    let scale := w.toNat / 256 % 256
    if scale = 255 then .nan
    else match f.decode (w.toNat % 2 ^ f.width) with
      | .fin n m e => .fin n (m * 2 ^ (10 - f.mb)) (e + f.mb + scale - 127)
      | v => v

/-- What a group's products come to: a NaN with its events, infinities of the signs seen, and the finite products. -/
structure GroupAcc where
  nan : Bool
  inv : Bool
  posInf : Bool
  negInf : Bool
  prods : List (Bool × Nat × Int)
deriving DecidableEq, Repr

/-- Take one product into a group (R57, R59 step 1, R62). -/
def groupTake (g : GroupAcc) (a b : Fp) : GroupAcc :=
  match a, b with
  | .nan, _ => { g with nan := true }
  | _, .nan => { g with nan := true }
  | _, _ =>
    match mulFp a b with
    | none => { g with inv := true }
    | some .nan => { g with nan := true }
    | some (.inf n) => if n then { g with negInf := true } else { g with posInf := true }
    | some (.fin n m e) => if m = 0 then g else { g with prods := (n, m, e) :: g.prods }

/-- The largest E of the remaining products (R59 step 2). -/
def groupEmax : List (Bool × Nat × Int) → Int → Int
  | [], e => e
  | p :: l, e => groupEmax l (max e p.2.2)

/-- The aligned sum S: each P × 8 shifted right by Emax − E on the magnitude (R59 steps 3 and 4). -/
def groupSum (emax : Int) (l : List (Bool × Nat × Int)) : Int :=
  l.foldl (fun s p => s + signedM p.1 (p.2.1 * 8 / 2 ^ (emax - p.2.2).toNat)) 0

/-- C after one group (R60, R62). -/
def groupApply (c : W32) (g : GroupAcc) : W32 × Ev :=
  let bad := evIf g.nan evNanin ||| evIf (g.inv || (g.posInf && g.negInf)) evInv
  if bad ≠ 0 then (canonNan, bad)
  else if g.posInf || g.negInf then f32AddFp .rne (f32 c) (.inf g.negInf)
  else match g.prods with
    | [] => (c, 0)
    | p :: l =>
      let emax := groupEmax l p.2.2
      let s := groupSum emax (p :: l)
      if s = 0 then (c, 0) else f32AddFp .rne (f32 c) (.fin (decide (s < 0)) s.natAbs (emax - 23))

/-- One group of one output element: C ← RNE(C + G) over the operand pairs of its unmasked k (R59–R62). -/
def mmaGroup (c : W32) (pairs : List (Fp × Fp)) : W32 × Ev :=
  groupApply c (pairs.foldl (fun g p => groupTake g p.1 p.2) ⟨false, false, false, false, []⟩)

/-! ### Block conversions (R51, R52, R71–R73) -/

/-- A block element to F32 (R71). -/
def blockToF32 (fmt : Nat) (scale code : Nat) : W32 × Ev :=
  if scale = 255 then (canonNan, evNanin)
  else match (blockFmt fmt).decode code with
    | .nan => (canonNan, evNanin)
    | .inf n => (f32Inf n, 0)
    | .fin n m e => f32Encode .rne n m (e + scale - 127)

/-- The generator's next state (R73). -/
def genNext (s : W32) : W32 := if s.getLsbD 0 then (s >>> 1) ^^^ 0x80200003 else s >>> 1

/-- The draws of a block, in element order, and the generator after them (R73). -/
def genDraws : Nat → W32 → List Nat × W32
  | 0, s => ([], s)
  | n + 1, s => let s' := genNext s; let r := genDraws n s'; (s'.toNat % 65536 :: r.1, r.2)

/-- Whether an F32 word is finite. -/
def f32Finite (w : W32) : Bool := match f32 w with | .fin _ _ _ => true | _ => false

/-- The magnitude of a finite F32 word as an exponent of its leading bit; none for a zero (R72). -/
def f32Exp (w : W32) : Option Int := match f32 w with | .fin _ m e => if m = 0 then none else some (e + bitLen m - 1) | _ => none

/-- The largest leading exponent of a block, none when every element is zero (R72). -/
def blockExp : List W32 → Option Int
  | [] => none
  | w :: l => match f32Exp w, blockExp l with
    | none, r => r
    | some e, none => some e
    | some e, some r => some (max e r)

/-- One element quantised with the scale 2^e (R72). -/
def quantElem (f : Fmt) (e : Int) (mode : Rnd) (w : W32) : Nat × Ev :=
  match f32 w with
  | .fin n m x => let r := f.encode mode true n m (x - e); (r.1, r.2 &&& (evQsat ||| evUnf))
  | _ => (0, 0)

/-- Quantise the real elements of one block: the scale byte, the encodings, the events and the generator, which every real
element advances, rounded or not and whatever the mode (R72, R73, R172; log entry 70). `rnd` is 0 RNE, 1 RTZ, 2 stochastic
(R167). -/
def quantBlock (fmt : Nat) (rnd : Nat) (gen : W32) (l : List W32) : Nat × List Nat × Ev × W32 :=
  let f := blockFmt fmt
  let d := genDraws l.length gen
  let gen' := d.2
  if l.any (fun w => !f32Finite w) then
    (255, l.map (fun _ => 0), evInv ||| evIf (l.any f32IsNan) evNanin, gen')
  else match blockExp l with
    | none => (0x7f, l.map (fun _ => 0), 0, gen')
    | some x =>
      let e := min (max (x - f.emax) (-127)) 127
      let rs := (l.zip d.1).map fun p => quantElem f e (if rnd = 0 then .rne else if rnd = 1 then .rtz else .stoch p.2) p.1
      ((e + 127).toNat, rs.map (·.1), rs.foldl (fun a r => a ||| r.2) 0, gen')

end Sys2Proof.Machine
end

