-- ==== Sys2Proof/Machine/FMap.lean ====
section
/-! DEFINITION. Sparse data by key, in one canonical form: keys strictly rising, no entry equal to what an unlisted key
reads as. `Mem` is the case of bytes (Host.Cell), whose unlisted addresses read as zero. -/

namespace Sys2Proof.Machine

/-- A finite map from numbers, as a list of pairs with rising keys. -/
abbrev FMap (α : Type) := List (Nat × α)

/-- The value at `k`, `d` where none is listed. -/
def FMap.get {α : Type} (d : α) : FMap α → Nat → α
  | [], _ => d
  | (k', v) :: m, k => if k' = k then v else FMap.get d m k

/-- List the value `v` at `k`, in its place among rising keys. -/
def FMap.ins {α : Type} : FMap α → Nat → α → FMap α
  | [], k, v => [(k, v)]
  | (k', v') :: m, k, v =>
    if k = k' then (k, v) :: m
    else if k < k' then (k, v) :: (k', v') :: m
    else (k', v') :: FMap.ins m k v

/-- Set the value at `k`; a value equal to `d` removes the entry. -/
def FMap.set {α : Type} [DecidableEq α] (d : α) (m : FMap α) (k : Nat) (v : α) : FMap α :=
  if v = d then m.filter (fun e => e.1 != k) else FMap.ins m k v

/-- The canonical form: keys strictly rising, no entry equal to `d`. -/
def FMap.wf {α : Type} [DecidableEq α] (d : α) : FMap α → Bool
  | [] => true
  | [(_, v)] => decide (v ≠ d)
  | (k, v) :: (k', v') :: m => decide (v ≠ d) && decide (k < k') && FMap.wf d ((k', v') :: m)

/-- Change the value at `k` by `f`. -/
def FMap.upd {α : Type} [DecidableEq α] (d : α) (m : FMap α) (k : Nat) (f : α → α) : FMap α :=
  FMap.set d m k (f (FMap.get d m k))

/-- Keep the entries whose key satisfies `p`. -/
def FMap.keep {α : Type} (m : FMap α) (p : Nat → Bool) : FMap α := m.filter fun e => p e.1

/-- A memory: bytes by address, an unlisted address reading as zero. -/
abbrev Mem := List Host.Cell

/-- One byte of a memory. -/
def Mem.byte (m : Mem) (a : Nat) : Byte := FMap.get (0 : Byte) m a

/-- Write one byte. -/
def Mem.put (m : Mem) (a : Nat) (b : Byte) : Mem := FMap.set (0 : Byte) m a b

/-- The canonical form of a memory. -/
abbrev Mem.wf (m : Mem) : Bool := FMap.wf (0 : Byte) m

/-- `n` bytes from `a`, as a little-endian number (R10). -/
def Mem.readNat (m : Mem) (a : Nat) : Nat → Nat
  | 0 => 0
  | n + 1 => (Mem.byte m a).toNat + 256 * Mem.readNat m (a + 1) n

/-- Write the low `n` bytes of `v` from `a`, little-endian (R10). -/
def Mem.writeNat (m : Mem) (a v : Nat) : Nat → Mem
  | 0 => m
  | n + 1 => Mem.writeNat (Mem.put m a (BitVec.ofNat 8 v)) (a + 1) (v / 256) n

/-- Write a list of bytes from `a`. -/
def Mem.writeBytes (m : Mem) (a : Nat) : List Byte → Mem
  | [] => m
  | b :: bs => Mem.writeBytes (Mem.put m a b) (a + 1) bs

/-- `n` bytes from `a` as a list. -/
def Mem.readBytes (m : Mem) (a : Nat) : Nat → List Byte
  | 0 => []
  | n + 1 => Mem.byte m a :: Mem.readBytes m (a + 1) n

/-- Drop every listed byte of [a, a + n): those addresses read as zero again. -/
def Mem.clear (m : Mem) (a n : Nat) : Mem := m.filter fun e => decide (e.1 < a) || decide (a + n ≤ e.1)

/-- A set of numbers, rising, without repeats. -/
abbrev NatSet := List Nat

/-- Membership. -/
def NatSet.mem (s : NatSet) (k : Nat) : Bool := s.any (· == k)

/-- Insert, keeping the order. -/
def NatSet.ins : NatSet → Nat → NatSet
  | [], k => [k]
  | x :: s, k => if k = x then x :: s else if k < x then k :: x :: s else x :: NatSet.ins s k

/-- Remove. -/
def NatSet.del (s : NatSet) (k : Nat) : NatSet := s.filter (· != k)

/-- Remove the members of [a, a + n). -/
def NatSet.delRange (s : NatSet) (a n : Nat) : NatSet := s.filter fun x => decide (x < a) || decide (a + n ≤ x)

/-- Insert or remove by a flag. -/
def NatSet.put (s : NatSet) (k : Nat) (b : Bool) : NatSet := if b then NatSet.ins s k else NatSet.del s k

end Sys2Proof.Machine
end

