-- ==== Sys2Proof/Machine/State.lean ====
section
/-! DEFINITION. The state of the module as the spec gives it, as plain data; what stops a step; the state after reset.
INVENTORY.md lists every piece with its rule. Registers are held by BAR0 offset in `regs` (R560), a function's page in
`fnRegs` at 65,536 * function + offset (R566); what a register stages and what is in force are kept apart (R564). -/

namespace Sys2Proof.Machine

/-- Why the block stops with a fault. -/
inductive Fault where
  /-- A flit or a hub access names an address the spec says does not exist (R27). Raised by the endpoints of the package
  network. Safe: the machine stops where no verified program arrives. -/
  | absentAddress (a : Nat)
deriving DecidableEq, Repr

/-- Why a command has no meaning. -/
inductive Refusal where
  /-- A row of the table that the model gives no meaning. Raised by the dispatcher. Safe. -/
  | notModelled (mnemonic : String)
  /-- An instruction that LOAD refuses is presented for issue: R112 says no run-time behaviour exists for one. Raised by
  the issue unit. Safe. -/
  | illegalEncoding
deriving DecidableEq, Repr

/-- The module's states (R40). -/
inductive ModState where
  | off | standby | reset | bringup | ready
deriving DecidableEq, Repr

/-- The states of a context (R81). -/
inductive CtxState where
  | empty | ready | active | done | faulted
deriving DecidableEq, Repr

/-- The states of a stream engine (R163). -/
inductive EngState where
  | empty | idle | run | hold | wait | faulted
deriving DecidableEq, Repr

/-- The states of a link (R401). -/
inductive LinkState where
  | off | bypass | train | align | negotiate | up
deriving DecidableEq, Repr

/-- Where a compute die stands in the power sequences (R216, R219), or that it is removed or fused off (R491, R492). -/
inductive DiePhase where
  | powered | fencing | refusing | selfRefresh | holding | gated | poweringUp | removed | fusedOff
deriving DecidableEq, Repr

/-- A scalar or predicate register with its poison bit (R134). -/
structure Scal where
  val : W32
  poi : Bool
deriving DecidableEq, Repr

/-- An mma or a pair in the array, queued, or saved with its context (R82, R83, R88). `rows` are the A rows taken from a
Q port; `bad` marks a Q-sourced mma cut short by a queue fault at that many rows (R143). -/
structure MmaRun where
  ctx : Nat
  f : MmaF
  partner : Option MmaF
  shift : Nat
  rows : List Row
  bad : Option Nat
deriving DecidableEq, Repr

/-- A pop, drop or Q-sourced mma that holds issue (R120, R128): rows taken so far on each port. -/
structure Hold where
  got : FMap Nat
deriving DecidableEq, Repr

/-- A push whose rows still wait for places (R128). -/
structure PushRun where
  port : Nat
  reg : Nat
  row : Nat
  m : Nat
deriving DecidableEq, Repr

/-- A remote row awaited or a remote write unacknowledged (R130, R138). -/
structure Remote where
  load : Bool
  reg : Nat
  row : Nat
  tag : Nat
deriving DecidableEq, Repr

/-- One context of a CU (R77, R81, R82). `t` is keyed 32*register + row; `upset` holds the state of instruction words that do not decode
CLEAN: 1 CORR, 2 CHKONLY, 3 UNCORR, 4 UNCORR and logged (R455). -/
structure Ctx where
  st : CtxState
  t : FMap Row
  v : FMap Row
  sr : FMap Scal
  p : FMap Scal
  l : FMap (BitVec 16)
  pc : Nat
  mode : Byte
  astat : Byte
  late : Byte
  imem : List W64
  entry : Nat
  rowLo : Nat
  rowHi : Nat
  rv : Bool
  rem : Option MmaRun
  que : Option MmaRun
  flag : Option MmaRun
  hold : Option Hold
  pushes : List PushRun
  remote : List Remote
  rtag : Nat
  waitTo : Option Nat
  stalls : FMap Nat
  upset : FMap Nat
deriving DecidableEq, Repr

/-- The binding of a port: its context and its (link, channel), if any (R99, R232). -/
structure PortBind where
  ctx : Option Nat
  wire : Option (Nat × Nat)
deriving DecidableEq, Repr

/-- The context that a start action of boundary `time` made ACTIVE on a CU without one, as it was before (R104, R151). -/
structure StartMark where
  time : Nat
  ctx : Nat
  st : CtxState
  pc : Nat
deriving DecidableEq, Repr

/-- A compute unit (R76). Links are keyed 4*link + channel. -/
structure Cu where
  ctx : FMap Ctx
  active : Option Nat
  pendSw : Option Nat
  swByAction : Bool
  arr : Option MmaRun
  que : Option MmaRun
  latch : Option (Nat × MmaF)
  qbuf : FMap (List Token)
  obuf : FMap (List Token)
  qbind : FMap PortBind
  obind : FMap PortBind
  shiftStall : Nat
  noops : Nat
  cancelled : Nat
  startMark : Option StartMark
  faultAt : Option Nat
deriving DecidableEq, Repr

/-- What every unit holds on its neighbour links: the route table, the pass-through registers and the places of the
receivers that its transmitters know to be taken (R98, R100). -/
structure Fabric where
  route : FMap Byte
  pass : FMap (List Token)
  used : FMap Nat
  disc : Nat
deriving DecidableEq, Repr

/-- A scoreboard entry (R176): `desc` is its engine's count of descriptors begun, which names the descriptor; `done` says the
last write is granted. -/
structure SbEntry where
  eng : Nat
  desc : Nat
  lo : Nat
  hi : Nat
  group : Nat
  done : Bool
deriving DecidableEq, Repr

/-- One 128-byte device request of a row: its line address, its tag (64 while it is not sent) and what has come back
(R169, R181). -/
structure LineReq where
  line : Nat
  tag : Nat
  got : Option Row
  acked : Bool
deriving DecidableEq, Repr

/-- The words of one line that an engine's stores have yet to send (R169). -/
structure LineWrite where
  line : Nat
  row : Row
  mask : BitVec 16
deriving DecidableEq, Repr

/-- A row whose device requests are in flight, with its descriptor's words (R175): its element and scale addresses, its
real lanes, and its requests. `sp` is the scratchpad row of a copy. -/
structure RowJob where
  dw : List W64
  row : Nat
  a : Nat
  lanes : Nat
  b : Nat
  sp : Nat
  reqs : List LineReq
  write : Bool
  desc : Nat
deriving DecidableEq, Repr

/-- A row held for quantisation (R171): its element address, its scale address, its lanes and its data. -/
structure QRow where
  a : Nat
  b : Nat
  lanes : Nat
  row : Row
deriving DecidableEq, Repr

/-- The running results of a compare-and-count (R185). -/
structure CmpAcc where
  hist : FMap Nat
  count : Nat
  nan : Nat
  sum : W32
  sumsq : W32
  maxabs : W32
  seen : Nat
  poison : Bool
deriving DecidableEq, Repr

/-- A stream engine and its task (R153, R163). `upset` holds the state of the words of its AGP store that do not decode CLEAN, word i of
program p at 64 · p + i (R455). -/
structure Eng where
  st : EngState
  agps : List (List W64)
  lists : List (Nat × Nat)
  banks : FMap (List W64)
  tags : Nat
  staged : Nat
  list : Nat
  burst : Option Nat
  queue : List (Nat × List W64 × BitVec 8)
  started : Bool
  bank : Nat
  desc : Option (Nat × List W64)
  row : Nat
  passed0 : Bool
  passed1 : Bool
  rc : Nat
  jobs : List RowJob
  latches : NatSet
  inbuf : List Token
  outbuf : List Token
  quant : List QRow
  scales : FMap Byte
  cmp : Option CmpAcc
  sstat : Byte
  gen : W32
  resume : Bool
  cnt : FMap Nat
  wq : List LineWrite
  nth : Nat
  burstAsk : Option Nat
  upset : FMap Nat
deriving DecidableEq, Repr

/-- A memory unit (R153). -/
structure Mu where
  eng : FMap Eng
  sb : List SbEntry
  gens : FMap Nat
  busy : FMap Bool
  park : List Flit
  nacked : List Flit
  cmpOwner : Option Nat
  rwait : Nat
  resend : Nat
deriving DecidableEq, Repr

/-- One valid line of a die-cache slice (R205–R208): the partition that holds it (none: the shared pool), its data, and
the order of its last use. `upset` holds the state of stored words that do not decode CLEAN: 1 CORR, 2 CHKONLY, 3 UNCORR
(R451). -/
structure Line where
  way : Nat
  addr : Nat
  part : Option Nat
  dirty : Bool
  row : Row
  use : Nat
  upset : FMap Nat
deriving DecidableEq, Repr

/-- A miss entry with the requests merged into it (R208, R209). `filled` says that its line's data has arrived: nothing merges
into it any more, and it stands until its last request is performed (R210). -/
structure Miss where
  line : Nat
  rtag : Nat
  part : Option Nat
  reqs : List Flit
  filled : Bool
deriving DecidableEq, Repr

/-- A die-cache slice (R205). `order` lists the requests accepted and not yet performed, in the order in which they arrived (R210);
`tags` holds, for way w of set t, at 16t + w the state of its two tag copies, the first plus four times the second (R456);
`disabled` lists the ways 16t + w that take no part; `merges` and `saved` count merged reads and the DRAM reads they saved
(R209). -/
structure Slice where
  lines : List Line
  miss : List Miss
  park : List Flit
  nacked : List Flit
  disabled : NatSet
  clock : Nat
  order : List Flit
  tags : FMap Nat
  merges : Nat
  saved : Nat
deriving DecidableEq, Repr

/-- What the package network keeps beside the flits in flight: the resends counted at requesters other than units, keyed by endpoint
(R199); the replies dropped at each router of a refusing die (R217); and the generation of each context's remote rows, at
4 · unit + context (R220). -/
structure NetSt where
  resends : FMap Nat
  dropped : FMap Nat
  gens : FMap Nat
deriving DecidableEq, Repr

/-- What a region's image fixed at LOAD (R230, R231, R297). `bufs`: 4096 · section index + unit, first and last row. -/
structure Img where
  style : Nat
  mmp : Bool
  intlv : Nat
  wdog : Nat
  ngrp : Nat
  fra : Nat
  desca : Nat
  descl : Nat
  bufs : List (Nat × Nat × Nat)
  demand : List (Nat × Nat)
  windows : FMap (List Nat)
deriving DecidableEq, Repr

/-- A timer: the device time at which it fires, and its own copy of the entry (R265, R275). -/
structure Timer where
  due : Nat
  index : Nat
  w0 : W64
  w1 : W64
deriving DecidableEq, Repr

/-- An instance of a region's relative entries (R268, R270): kind 0 run, 1 request, 2 detector; `bank` counts the region's swaps before its
timers were armed (R275). -/
structure Inst where
  id : Nat
  kind : Nat
  handle : W64
  bank : Nat
  t0 : Nat
  deadline : Option Nat
  fb : Bool
  late : Bool
  timers : List Timer
  begins : FMap Nat
  ends : FMap Nat
  drains : NatSet
  lay : Nat
  oper : Nat
deriving DecidableEq, Repr

/-- A detector (R268): 0 IDLE, 1 ARMED, 2 FIRST, 3 both edges latched. -/
structure Det where
  st : Nat
  op : W64
deriving DecidableEq, Repr

/-- The STEP or RUN that a region has taken up (R36, R146). `since` is when; `slow` holds, for slow set i, at 2i its stage (0 its
pull is awaited, 1 pulled, 2 its id released) and at 2i + 1 whether its gradients are pushed (R329); `off` the stage of
off-load entry i (0 its drain is awaited, 1 running, 2 ended, 3 its id released) (R332); `upd` and `pb` the first begin and
the last end of its passes and of its port B transfers (R333); `drained` says that its last group's drain is declared (R36). -/
structure RunState where
  handle : W64
  isStep : Bool
  since : Nat
  begun : Bool
  inst : Nat
  slow : FMap Nat
  nslow : Nat
  off : FMap Nat
  noff : Nat
  passSkip : Nat
  skipped : Nat
  status : Nat
  stale : Nat
  upd : Option (Nat × Nat)
  pb : Option (Nat × Nat)
  drained : Bool
deriving DecidableEq, Repr

/-- A phase record (R528). -/
structure PhaseRec where
  handle : W64
  tstart : Nat
  tdone : Nat
  status : Nat
  isStep : Bool
  begins : FMap Nat
  ends : FMap Nat
deriving DecidableEq, Repr

/-- A region: what it holds beyond its registers (R192, R268, R240). `fence`: 0 none, 1 placed, 2 holding; `wedged`:
0 no, 1 declared and being reset, 2 reset and waiting for a LOAD. `redirAsk` asks for redirection from the next boundary
(R303). `absDrain` holds, plus one, when each group's drain was last declared (2 · group) and when each absolute DEADLINE last
fired (2 · index + 1) (R270). `group` is the group whose drain is pending, NGRP or more where none is; `declared` holds the groups
declared since the last wave of groups began, `faults` the contexts that faulted in it (4 · unit + context) (R245, R246); `swaps`
counts the swaps committed (R275). -/
structure Region where
  img : Option Img
  insts : List Inst
  nextInst : Nat
  dets : FMap Det
  fence : Nat
  group : Nat
  run : Option RunState
  idle : Nat
  progress : Bool
  wedged : Nat
  held : Option (Nat × Nat)
  fstat : Option (Nat × Nat)
  seq : Nat
  phases : List PhaseRec
  redir : Bool
  redirAsk : Bool
  slots : List (Nat × Nat)
  swap : Option W64
  copying : Bool
  trSeq : Nat
  trFig : Nat
  trLost : Nat
  ctr : FMap Nat
  absDrain : FMap Nat
  declared : NatSet
  faults : NatSet
  swaps : Nat
deriving DecidableEq, Repr

/-- A record in a die's trace buffer (R530). -/
structure TraceRec where
  region : Nat
  time : Nat
  kind : Nat
  x : Nat
  y : Nat
  ce : Nat
  data : W32
  lay : Nat
  oper : Nat
  handle : W64
deriving DecidableEq, Repr

/-- A function address map entry in force (R377). -/
structure MapEnt where
  idx : Nat
  base : Nat
  len : Nat
  haddr : Nat
  owner : Nat
  kind : Nat
  rd : Bool
  wr : Bool
  ports : Nat
deriving DecidableEq, Repr

/-- Configuration in force, as the last accepted commits left it (R565). -/
structure InForce where
  part0 : FMap W64
  part1 : FMap W64
  tdiv0 : FMap W64
  tdiv1 : FMap W64
  map : List MapEnt
  fnring : FMap W64
  allot : FMap W64
  bankB : NatSet
  feed0 : FMap W64
  feed1 : FMap W64
  guest : FMap W64
  plc0 : FMap W64
  plc1 : FMap W64
  grp : FMap (List W64)
  trc0 : FMap W64
  trc1 : FMap W64
  wmtag : W64
  stepdt : Nat
  steps : Nat
  cycle : Nat
deriving DecidableEq, Repr

/-- The words of the partition map and of HUB_TDIV_n, committed together (R380). -/
structure PartTables where
  part0 : FMap W64
  part1 : FMap W64
  tdiv0 : FMap W64
  tdiv1 : FMap W64
deriving DecidableEq, Repr

/-- Configuration accepted and waiting for its boundary. `pavCtl` is the word of PAV_CTL that is in force until then. -/
structure Pending where
  part : Option PartTables
  map : Option (List MapEnt)
  fnring : Option (FMap W64)
  allot : Option (FMap W64)
  feed : FMap (Option (W64 × W64))
  guest : FMap (Option W64)
  plc : FMap (Option (W64 × W64))
  grp : FMap (Option (List W64))
  wmtag : Option W64
  gridAt : Option Nat
  pavCtl : Option W64
  tload : Bool
  die : NatSet
  digests : NatSet
deriving DecidableEq, Repr

/-- Device time and its source (R249–R258). `toBak` says that the follower switches to its backup at the next figure
boundary; `epochMiss` and `epochGood` count the bad and the good EPOCH edges in a row (R254, R257); `lostFor` is the device time since
the last loss (R255). -/
structure TimeSt where
  now : Nat
  running : Bool
  epochMiss : Nat
  epochGood : Nat
  lostFor : Option Nat
  toBak : Bool
  srcDepth : Option Nat
deriving DecidableEq, Repr

/-- Where a command in flight stands (R349): fetched and waiting, at work, or done and due for its completion. -/
inductive CmdPhase where
  | fetched | running | due
deriving DecidableEq, Repr

/-- A command in flight, or a feed request (R345, R352). -/
structure Cmd where
  handle : W64
  fn : Nat
  sq : Nat
  cq : Nat
  seq : Nat
  ntfy : Bool
  words : List W64
  phase : CmdPhase
  status : Nat
  detail : W64
  sstat : Nat
  stale : Nat
  passSkip : Nat
  region : Nat
  aux : FMap Nat
  text : List Byte
deriving DecidableEq, Repr

/-- A handle slot (R346). -/
structure HSlot where
  gen : Nat
  fn : Option Nat
deriving DecidableEq, Repr

/-- A completion or notify write held while port A is down (R358). -/
structure HeldWrite where
  fn : Nat
  cq : Nat
  handle : W64
  words : List W64
  ntfy : Bool
deriving DecidableEq, Repr

/-- A port B transfer that has started: off-load entry or slow set `idx` of the run of region `region` (R330). -/
structure PbJob where
  region : Nat
  off : Bool
  idx : Nat
deriving DecidableEq, Repr

/-- The host interface beyond its registers (R337–R361). Rings are keyed 16*function + ring. `mute` holds the 4 KiB pages of the host bus
whose accesses end in a completer error, a property of the host that no row changes (R342, R358); `pbq` the port B transfers in the order
in which they started (R330); `vfOn` is VF Enable and `numVfs` NumVFs of port A's SR-IOV capability (R340). -/
structure HostSt where
  mem : Mem
  poison : NatSet
  portA : Bool
  portB : Bool
  vfOn : Bool
  numVfs : Nat
  slots : FMap HSlot
  cmds : List Cmd
  held : List HeldWrite
  sqTail : FMap Nat
  cqHead : FMap Nat
  cqResv : FMap Nat
  subSeq : FMap Nat
  resetting : NatSet
  zeroing : NatSet
  dirty : NatSet
  fnCtr : FMap Nat
  portBBusy : Bool
  mute : NatSet
  pbq : List PbJob
deriving DecidableEq, Repr

/-- A feed request (R367–R370). `k` is its instance buffer; `win` and `winLen` its reserved window, in 25ths of dt; `answered` the
graded answer. -/
structure FeedReq where
  slot : Nat
  handle : W64
  port : Nat
  mslot : Nat
  w0 : W64
  w1 : W64
  reqid : Nat
  srcMac : Nat
  srcIp : Nat
  srcPort : Nat
  arrival : Nat
  deadline : Nat
  win : Nat
  winLen : Nat
  payload : List Byte
  k : Option Nat
  inst : Option Nat
  written : Bool
  marks : NatSet
  answered : Option (Nat × List Byte)
  sent : Bool
deriving DecidableEq, Repr

/-- The feed ports (R362–R371). `out` lists the response frames that have left; `discarded` counts the answers that a backstop
gave up (R271). -/
structure FeedSt where
  reqs : List FeedReq
  link : NatSet
  fec : NatSet
  out : List (Nat × List Byte)
  discarded : Nat
deriving DecidableEq, Repr

/-- A flash-window range with its class (R291, R309). -/
structure FRange where
  base : Nat
  len : Nat
  cls : Nat
  pf : Nat
  qfmt : Nat
  bs : Nat
  axis : Nat
  rowlen : Nat
  shadow : Nat
deriving DecidableEq, Repr

/-- One NAND block as the couch layer knows it (R306). -/
structure NandBlock where
  reads : Nat
  old : Bool
  hard : Bool
deriving DecidableEq, Repr

/-- A placement copy or fetch of a sheet in a domain (R282, R290, R298). `raised` says that a read has raised its heat, so that `rgn` is the
region whose read did so last (R287); `win` that a window asked for the fetch. -/
structure Copy where
  heat : Nat
  t2 : Bool
  die : Nat
  pins : NatSet
  fetch : Option Nat
  rgn : Nat
  raised : Bool
  win : Bool
deriving DecidableEq, Repr

/-- DRAM, scratchpad, flash and placement (R26, R154, R278). Scratchpad bytes are keyed 2^19 * MU + offset. `upset` holds
the state of stored words that do not decode CLEAN: 1 CORR, 2 CHKONLY, 3 UNCORR (R451). `journal` holds what the couch layer
keeps in NAND: for die n, at 4n the source bytes written, at 4n + 1 the units delivered poisoned, at 4n + 2 the blocks
retired, at 4n + 3 the blocks erased, which levelling spreads evenly over its blocks (R306–R308). `abandoned` counts fills given up for
want of a granule (R290), `passed` the leaves that passed through without one (R300). `ecc` holds the state of
schedule bank entries that do not decode CLEAN, entry i of bank b at 4096 · b + i (R455). -/
structure MemSt where
  dram : Mem
  dramPoison : NatSet
  spad : Mem
  spadPoison : NatSet
  flash : Mem
  leafStored : FMap (List Byte)
  flashBad : NatSet
  ranges : List FRange
  writing : List (W64 × FRange)
  blocks : FMap NandBlock
  refresh : NatSet
  copies : FMap Copy
  upset : FMap Nat
  patrol : FMap Nat
  filled : Bool
  journal : FMap Nat
  abandoned : Nat
  passed : Nat
  ecc : FMap Nat
deriving DecidableEq, Repr

/-- A pass of the optimiser (R318): set `id` % 4096 of the STEP's list on OU `q`, its descriptor at `addr`. `ph`: 0 its drain is
awaited, 1 its norm is, 2 it has begun and waits for a place, 3 it runs. `bound` is the COLL bound to it (R326), `at_` when its
drain was declared, and from phase 2 on when it began. -/
structure Pass where
  q : Nat
  id : Nat
  region : Nat
  handle : W64
  addr : Nat
  ph : Nat
  at_ : Nat
  bound : Option W64
  next : Nat
  gen : W32
  lr : W32
  c1 : W32
  c2 : W32
  keepf : W32
  gs : W32
  t : Nat
deriving DecidableEq, Repr

/-- A link tag in use: the group entry and the command it serves, and the READY it carries (R414, R449). -/
structure TagUse where
  grp : Nat
  handle : W64
  ready : Option Slot
deriving DecidableEq, Repr

/-- One link (R401–R416), beyond its registers. `missing` says that the expected frame is awaited after a drop, `nak` that the next
frame says so; `retry` holds the last 128 frames, `resend` those to be sent again; `dataq`,
`ctlq` and `ackq` what waits to leave, a routed slot or entry with the link and the channel whose place it still holds (R409; log entry
99); channels are numbered 0 D0, 1 D1, 2 A0, 3 A1 in `credit` (places freed as the far end tells), `sent` and `freed` (places freed
here); `txts` holds the TXT of sent frames by SEQ. -/
structure Link where
  st : LinkState
  light : Bool
  next : Nat
  expect : Nat
  nak : Bool
  missing : Bool
  retry : List Frame
  resend : List Frame
  tries : FMap Nat
  dataq : List (Slot × Option (Nat × Nat))
  ctlq : List Slot
  ackq : List (W64 × Option (Nat × Nat))
  credit : FMap Nat
  sent : FMap Nat
  freed : FMap Nat
  tagGen : FMap Nat
  tagUse : FMap (Option TagUse)
  lastRx : Option (Nat × Nat)
  txts : FMap Nat
  echoes : Nat
  echoSum : Int
  peer : Option Capability
  passed : Bool
  peerDepth : Option Nat
  hbFrom : Nat
  out : List Frame
deriving DecidableEq, Repr

/-- A Promenade pair (R418): its sensed position, the position it is being driven to, and whether an entry of KIND 7 keeps it
closed (R490). -/
structure Pair where
  cross : Bool
  target : Option Bool
  stuck : Bool
deriving DecidableEq, Repr

/-- The running collective of a group on this module (R429–R443). Lanes are link die numbers k; `phase` holds each lane's
phase; maps keyed 8·k + i belong to phase i of lane k: slots received, READYs received, and slots that wait for a READY.
`txq` waits for tags. `part` holds, plus one, the partial of each element, `quant` the block codes and scale of each block;
`rgot` the bytes received for each receive entry of a plan on each lane; `fail` is the status it is to end with, 0 none. -/
structure CollRun where
  handle : W64
  reshard : Bool
  via : Nat
  cop : Nat
  narrow : Bool
  dfmt : Nat
  root : Nat
  src : Nat
  dst : Nat
  len : Nat
  plan : Nat
  phase : FMap Nat
  got : FMap Nat
  ready : NatSet
  holdq : FMap (List Slot)
  txq : List Slot
  part : FMap Nat
  partPoison : NatSet
  quant : FMap (List Byte)
  rgot : FMap Nat
  outst : Nat
  poisoned : Bool
  sstat : Byte
  durable : Bool
  fail : Nat
deriving DecidableEq, Repr

/-- A collective group as this member holds it, beyond its registers (R426, R432, R449): READYs held for each lane, and those
refused that are to be sent again. -/
structure Group where
  run : Option CollRun
  readyHeld : FMap (List Slot)
  refused : FMap (List Slot)
deriving DecidableEq, Repr

/-- A decision log record of Wallflower (R518). -/
structure WfRec where
  ms : Nat
  action : Nat
  cause : Nat
  obj : Nat
  state : Nat
  value : Nat
deriving DecidableEq, Repr

/-- Wallflower (R500–R520). `samples` holds each sensor's last readings, `gatedBy` the cause that gated a die, plus one, `order` the
gated dies, the last one first; `pend` the gatings that wait, each with its object (a die; a stack's sensor under cause 2; 16 under
cause 3) and its cause; `cond` the alert conditions that hold, `answered` that SMB_ALERT_N was released; `sub` the part of a millisecond
beyond `ms`, in dt; `errtot` the six counts; `out` the data of the last SMBus read. -/
structure WfSt where
  running : Bool
  taking : Bool
  samples : FMap (List Int)
  missing : NatSet
  gatedBy : FMap Nat
  order : List Nat
  hostReq : NatSet
  pend : List (Nat × Nat)
  hbAbsent : Bool
  wfhold : Bool
  trip : Bool
  hwtrip : Bool
  alert : BitVec 16
  mask : BitVec 16
  cond : BitVec 16
  answered : Bool
  lastcmd : Nat
  plimit : Nat
  gorder : List Nat
  log : List WfRec
  ms : Nat
  sub : Nat
  curHold : Nat
  lastHold : Nat
  heldSet : Bool
  errtot : List Nat
  straps : BitVec 2
  defects : List Defect
  pecErrs : Nat
  out : List Byte
deriving DecidableEq, Repr

/-- The pins and supplies (R43, R472–R476, R537–R549), and where bring-up stands (R471, R478).
`fwSlots` marks the firmware slots that an interrupted programming left invalid (R499); `upAsk` holds the dies asked to be powered up while their power-down sequence runs (R219). -/
structure PowerSt where
  st : ModState
  aux : Bool
  pwrEn : Bool
  v48 : Bool
  pgood : Bool
  resetN : Bool
  perstN : Bool
  wfResetN : Bool
  seated : Bool
  cold : Bool
  everStage3 : Bool
  keepFw : Bool
  fwSlots : BitVec 2
  fwImage : Bool
  stageOk : Option (Nat × Nat)
  variant : BitVec 4
  defects : List Defect
  flashDefects : List Defect
  factory : List Defect
  ifSettings : NatSet
  rowMap : FMap (List Nat)
  dies : FMap DiePhase
  retrain : FMap Nat
  upAsk : NatSet
deriving DecidableEq, Repr

/-- The state of the module, and the queue of commands that wait. `ouLast` holds for each OU the place in its order, plus one, of the
pass that it served last (R318). -/
structure State where
  power : PowerSt
  time : TimeSt
  regs : FMap W64
  fnRegs : FMap W64
  pbRegs : FMap W64
  cfg : InForce
  pend : Pending
  cus : FMap Cu
  mus : FMap Mu
  fab : FMap Fabric
  flits : List Flit
  net : NetSt
  wires : FMap (List Token)
  slices : FMap Slice
  rgns : FMap Region
  banks : FMap (W64 × W64)
  host : HostSt
  feed : FeedSt
  mem : MemSt
  passes : List Pass
  ouLast : FMap Nat
  links : FMap Link
  pairs : FMap Pair
  groups : FMap Group
  traces : FMap (List TraceRec)
  log : FMap (List W64)
  wf : WfSt
  wmDigest : BitVec 128
  digestBad : NatSet
  free : Nat
  pending : List Instr
deriving DecidableEq, Repr

/-! ### What an unlisted part reads as -/

/-- A row of zeros without poison. -/
def Row.zero : Row := ⟨0, 0⟩
/-- A scalar register never written. -/
def Scal.zero : Scal := ⟨0, false⟩
/-- A context that is EMPTY (R81). -/
def Ctx.empty : Ctx := ⟨.empty, [], [], [], [], [], 0, 0, 0, 0, [], 0, 0, 0, false, none, none, none, none, [], [], 0, none, [], []⟩
/-- A CU with four EMPTY contexts. -/
def Cu.empty : Cu := ⟨[], none, none, false, none, none, none, [], [], [], [], 0, 0, 0, none, none⟩
/-- A port bound to nothing. -/
def PortBind.free : PortBind := ⟨none, none⟩
/-- A unit's links with every route unused. -/
def Fabric.empty : Fabric := ⟨[], [], [], 0⟩
/-- An engine that is EMPTY (R163). -/
def Eng.empty : Eng :=
  ⟨.empty, [], [], [], 0, 0, 0, none, [], false, 0, none, 0, false, false, 0, [], [], [], [], [], [], none, 0, 1, false, [], [], 0, none, []⟩
/-- An MU with four EMPTY engines. -/
def Mu.empty : Mu := ⟨[], [], [], [], [], [], none, 0, 0⟩
/-- A slice that holds no line. -/
def Slice.empty : Slice := ⟨[], [], [], [], [], 0, [], [], 0, 0⟩
/-- A detector that is IDLE. -/
def Det.idle : Det := ⟨0, 0⟩
/-- A region with nothing loaded. -/
def Region.empty : Region :=
  ⟨none, [], 0, [], 0, 0, none, 0, false, 0, none, none, 1, [], false, false, [], none, false, 1, 0, 0, [], [], [], [], 0⟩
/-- A handle slot never allocated. -/
def HSlot.free : HSlot := ⟨0, none⟩
/-- A NAND block just programmed. -/
def NandBlock.fresh : NandBlock := ⟨0, false, false⟩
/-- A sheet without heat, copy or pin. -/
def Copy.none : Copy := ⟨0, false, 0, [], .none, 0, false, false⟩
/-- A link in OFF. -/
def Link.off : Link :=
  ⟨.off, false, 0, 0, false, false, [], [], [], [], [], [], [], [], [], [], [], none, [], 0, 0, none, false, none, 0, []⟩
/-- A pair latched in cross (R420, R421). -/
def Pair.crossed : Pair := ⟨true, none, false⟩
/-- A group with nothing running. -/
def Group.idle : Group := ⟨none, [], []⟩

/-! ### Reset -/

/-- Nothing committed: every table at its Reset values, the grid of R13 and R251. -/
def InForce.reset : InForce :=
  ⟨[], [], [], [], [], [], [], [], [], [], [], [], [], [], [], [], 0, 128, 256, 1⟩
/-- Nothing waits for a boundary. -/
def Pending.reset : Pending := ⟨none, none, none, none, [], [], [], [], none, none, none, false, [], []⟩
/-- Device time before bring-up stage 2 starts it at 0 (R480). -/
def TimeSt.reset : TimeSt := ⟨0, false, 0, 0, none, false, none⟩
/-- No command in flight, both ports down (PERST_N asserted). -/
def HostSt.reset : HostSt := ⟨[], [], false, false, false, 0, [], [], [], [], [], [], [], [], [], [], [], false, [], []⟩
/-- No request, both feed links down. -/
def FeedSt.reset : FeedSt := ⟨[], [], [], [], 0⟩
/-- Nothing counted in the network. -/
def NetSt.reset : NetSt := ⟨[], [], []⟩
/-- Nothing listed in any memory. -/
def MemSt.reset : MemSt := ⟨[], [], [], [], [], [], [], [], [], [], [], [], [], [], false, [], 0, 0, []⟩
/-- Wallflower after a cold start: PLIMIT 2,100 W and GORDER 15, 14, …, 0 (R505), ALERTMASK 0x7FFF (R515). -/
def WfSt.reset : WfSt :=
  ⟨false, false, [], [], [], [], [], [], false, false, false, false, 0, 0x7fff, 0, false, 0, 21000,
   [15, 14, 13, 12, 11, 10, 9, 8, 7, 6, 5, 4, 3, 2, 1, 0], [], 0, 0, 0, 0, false, [0, 0, 0, 0, 0, 0], 0, [], 0, []⟩
/-- The module in Off (R40): no aux power and PWR_EN, RESET_N and PERST_N low; 48 V applied, WF_RESET_N high and the module seated
(DESIGN CHOICE, log entry 3). -/
def PowerSt.reset : PowerSt :=
  ⟨.off, false, false, true, false, false, false, true, true, true, false, false, 0, false, none, 0xf, [], [], [], [], [], [], [], []⟩

/-- The module before its cold start (R471): every register at its Reset value (R16), the module Off, nothing queued. -/
def State.reset : State :=
  { power := PowerSt.reset, time := TimeSt.reset, regs := [], fnRegs := [], pbRegs := [], cfg := InForce.reset,
    pend := Pending.reset, cus := [], mus := [], fab := [], flits := [], net := NetSt.reset, wires := [], slices := [], rgns := [],
    banks := [], host := HostSt.reset, feed := FeedSt.reset, mem := MemSt.reset, passes := [], ouLast := [], links := [],
    pairs := [], groups := [], traces := [], log := [], wf := WfSt.reset, wmDigest := 0, digestBad := [], free := 0,
    pending := [] }

end Sys2Proof.Machine
end

