-- ==== Sys2Proof/Machine/Operands.lean ====
section
/-! DEFINITION. The operand forms of unit instructions (R113): lanes of a row with their poison marks, source codes,
predicate masks, and the results of the vector, predicate and reduce classes over them. -/

namespace Sys2Proof.Machine

/-- A lane and the poison mark of the 64-bit word that holds it (R80). -/
abbrev Ln := W32 × Bool

end Sys2Proof.Machine

namespace Sys2Proof
open Sys2Proof.Machine

/-- Lane `j` of a row (R78). -/
def Row.lane (r : Row) (j : Nat) : W32 := r.data.extractLsb' (32 * j) 32
/-- The mark of lane `j`'s word. -/
def Row.mark (r : Row) (j : Nat) : Bool := r.poison.getLsbD (j / 2)
/-- The 32 lanes of a row. -/
def Row.lanes (r : Row) : List Ln := (List.range 32).map fun j => (r.lane j, r.mark j)

/-- The data of a list of lanes, lane 0 lowest. -/
def packData : List Ln → Nat
  | [] => 0
  | l :: ls => l.1.toNat + 2 ^ 32 * packData ls

/-- The marks of a list of lanes: a word is marked when either lane is. -/
def packMarks : List Ln → Nat
  | a :: b :: ls => (if a.2 || b.2 then 1 else 0) + 2 * packMarks ls
  | [a] => if a.2 then 1 else 0
  | [] => 0

/-- A row from its lanes. -/
def Row.ofLanes (l : List Ln) : Row := ⟨BitVec.ofNat 1024 (packData l), BitVec.ofNat 16 (packMarks l)⟩

/-- A row with lane `j` changed; its word's mark becomes `p` or stays (R134 lput: the other lane's mark stays with it). -/
def Row.setLane (r : Row) (j : Nat) (w : Ln) : Row := Row.ofLanes (r.lanes.set j w)

/-- The rows a vector instruction writes: one in V-form, rows 0–31 in T-form (R93). -/
def VecF.rows (f : VecF) : List Nat := if f.tform then List.range 32 else [0]

end Sys2Proof

namespace Sys2Proof.Machine

/-- Row `i` of tile register `k` (R77). -/
def Ctx.tRow (x : Ctx) (k i : Nat) : Row := FMap.get Row.zero x.t (32 * k + i)
/-- Write row `i` of tile register `k`. -/
def Ctx.setTRow (x : Ctx) (k i : Nat) (r : Row) : Ctx := { x with t := FMap.set Row.zero x.t (32 * k + i) r }
/-- V register `k`. -/
def Ctx.vReg (x : Ctx) (k : Nat) : Row := FMap.get Row.zero x.v k
/-- Write V register `k`. -/
def Ctx.setVReg (x : Ctx) (k : Nat) (r : Row) : Ctx := { x with v := FMap.set Row.zero x.v k r }
/-- S register `k`. -/
def Ctx.sReg (x : Ctx) (k : Nat) : Scal := FMap.get Scal.zero x.sr k
/-- Write S register `k`. -/
def Ctx.setSReg (x : Ctx) (k : Nat) (v : Scal) : Ctx := { x with sr := FMap.set Scal.zero x.sr k v }
/-- P register `k`; P0 reads as all ones (R77). -/
def Ctx.pReg (x : Ctx) (k : Nat) : Scal := if k = 0 then ⟨0xffffffff, false⟩ else FMap.get Scal.zero x.p k
/-- Write P register `k`; a write to P0 is ignored (R77). -/
def Ctx.setPReg (x : Ctx) (k : Nat) (v : Scal) : Ctx := if k = 0 then x else { x with p := FMap.set Scal.zero x.p k v }
/-- Loop counter `k`. -/
def Ctx.lReg (x : Ctx) (k : Nat) : BitVec 16 := FMap.get (0 : BitVec 16) x.l k
/-- Write loop counter `k`. -/
def Ctx.setLReg (x : Ctx) (k : Nat) (v : BitVec 16) : Ctx := { x with l := FMap.set (0 : BitVec 16) x.l k v }
/-- Row `i` of the register an operand code names: a V register has one row (R113). -/
def Ctx.regRow (x : Ctx) (code i : Nat) : Row := if code < 16 then x.vReg code else x.tRow (code - 16) i
/-- Write row `i` of the register an operand code names. -/
def Ctx.setRegRow (x : Ctx) (code i : Nat) (r : Row) : Ctx :=
  if code < 16 then x.setVReg code r else x.setTRow (code - 16) i r
/-- The rounding mode of a context (R135). -/
def Ctx.rnd (x : Ctx) : Rnd := if x.mode.toNat % 4 = 1 then .rtz else .rne
/-- Record arithmetic events of a row that has completed (R68). -/
def Ctx.flagEv (x : Ctx) (e : Ev) : Ctx := { x with astat := x.astat ||| e }
/-- Events of an instruction that has issued and whose rows may still be on their way (R137; log entry 72). -/
def Ctx.lateEv (x : Ctx) (e : Ev) : Ctx := { x with late := x.late ||| e }
/-- Every event of the work issued so far has occurred (R137, R138, R145). -/
def Ctx.settle (x : Ctx) : Ctx := { x with astat := x.astat ||| x.late, late := 0 }
/-- Some of the events still on their way occur, as the open value `v` says: its bits [7:0] which have, its bits [15:8] which of
those may occur again (R137; log entry 72). -/
def Ctx.land (x : Ctx) (v : W64) : Ctx :=
  let now := x.late &&& v.extractLsb' 0 8
  { x with astat := x.astat ||| now, late := x.late &&& (~~~now ||| v.extractLsb' 8 8) }

/-- The destination code of the vector instruction that immediately precedes index `i` in program order; `tOnly` looks for
CLASS 0x3 alone (R123, R126). -/
def fwdCode (imem : List W64) (tOnly : Bool) : Nat → Nat
  | 0 => 0
  | i + 1 =>
    let w := imem.getD i 0
    let c := w.bits 63 60
    if c = 3 || (c = 2 && !tOnly) then w.bits 49 44 else fwdCode imem tOnly i

/-- The lanes that a source code gives in row `r` (R113). -/
def Ctx.source (x : Ctx) (fwd : Nat) (sidx code r : Nat) : List Ln :=
  if code < 24 then (x.regRow code r).lanes
  else if code = 0x20 then (x.regRow fwd r).lanes
  else if code = 0x21 then List.replicate 32 ((x.sReg sidx).val, (x.sReg sidx).poi)
  else if code = 0x23 then (List.range 32).map fun j => (BitVec.ofNat 32 j, false)
  else if code = 0x24 then List.replicate 32 (BitVec.ofNat 32 r, false)
  else List.replicate 32 (0, false)

/-- The lane mask of PRED and PNEG (R110). -/
def Ctx.mask (x : Ctx) (pred : BitVec 3) (pneg : BitVec 1) (j : Nat) : Bool :=
  (x.pReg pred.toNat).val.getLsbD j != (pneg == 1)
/-- Whether the predicate register is poisoned (R134). -/
def Ctx.maskPoison (x : Ctx) (pred : BitVec 3) : Bool := (x.pReg pred.toNat).poi

/-- One lane of a vector instruction: its new value and mark, and its events (R123, R134). -/
def vecCell (o : VecOp) (mode : Rnd) (ty : Nat) (m mp : Bool) (old a b c : Ln) : Ln × Ev :=
  if o = .sel then (((if m then a.1 else b.1), (if m then a.2 else b.2) || mp), 0)
  else if m then
    let r := vecLane o mode ty a.1 b.1 c.1
    ((r.1, a.2 || (o.usesB && b.2) || (o == .fma && c.2) || mp), r.2)
  else (old, 0)

/-- One row of a vector instruction (R121–R123). -/
def Ctx.vecRow (x : Ctx) (o : VecOp) (f : VecF) (r : Nat) : Row × Ev :=
  let fwd := fwdCode x.imem false x.pc
  let old := (x.regRow f.dst.toNat r).lanes
  let a := x.source fwd f.sidx.toNat f.sa.toNat r
  let b := x.source fwd f.sidx.toNat f.sb.toNat r
  let c := x.source fwd f.sidx.toNat f.sc.toNat r
  let z := (List.range 32).map fun j =>
    vecCell o x.rnd f.ty.toNat (x.mask f.pred f.pneg j) (x.maskPoison f.pred) (old.getD j (0, false)) (a.getD j (0, false))
      (b.getD j (0, false)) (c.getD j (0, false))
  (Row.ofLanes (z.map (·.1)), z.foldl (fun e p => e ||| p.2) 0)

/-- The context after a vector instruction's results (R122, R123). -/
def Ctx.vec (x : Ctx) (o : VecOp) (f : VecF) : Ctx :=
  f.rows.foldl (fun y r => let z := y.vecRow o f r; (y.setRegRow f.dst.toNat r z.1).lateEv z.2) x

/-- A word from 32 lane bits. -/
def maskWord (f : Nat → Bool) : W32 :=
  BitVec.ofNat 32 ((List.range 32).foldr (fun j n => (if f j then 1 else 0) + 2 * n) 0)

/-- The context after a compare (R124, R134): a masked lane keeps its bit. -/
def Ctx.cmp (x : Ctx) (o : PredOp) (f : PredF) : Ctx :=
  let fwd := fwdCode x.imem false x.pc
  let a := x.source fwd f.sidx.toNat f.sa.toNat 0
  let b := x.source fwd f.sidx.toNat f.sb.toNat 0
  let old := x.pReg f.pd.toNat
  let cell := fun j => cmpLane o f.ty.toNat (a.getD j (0, false)).1 (b.getD j (0, false)).1
  let on := fun j => x.mask f.pred f.pneg j
  let ev := (List.range 32).foldl (fun e j => if on j then e ||| (cell j).2 else e) 0
  let poi := (List.range 32).any fun j => on j && ((a.getD j (0, false)).2 || (b.getD j (0, false)).2)
  let kept := (List.range 32).any fun j => !(on j)
  (x.setPReg f.pd.toNat ⟨maskWord fun j => if on j then (cell j).1 else old.val.getLsbD j,
    poi || x.maskPoison f.pred || (kept && old.poi)⟩).lateEv ev

/-- The context after a predicate operation of the scalar unit (R124, R134). -/
def Ctx.predOp (x : Ctx) (o : PredOp) (f : PredF) : Ctx :=
  let a := x.pReg f.pa.toNat
  let b := x.pReg f.pb.toNat
  match o with
  | .pand => x.setPReg f.pd.toNat ⟨a.val &&& b.val, a.poi || b.poi⟩
  | .por => x.setPReg f.pd.toNat ⟨a.val ||| b.val, a.poi || b.poi⟩
  | .pxor => x.setPReg f.pd.toNat ⟨a.val ^^^ b.val, a.poi || b.poi⟩
  | .pandn => x.setPReg f.pd.toNat ⟨a.val &&& ~~~b.val, a.poi || b.poi⟩
  | .pset => x.setPReg f.pd.toNat (x.sReg f.ss.toNat)
  | .pget => x.setSReg f.ss.toNat a
  | _ => x.cmp o f

/-- The column `j` of a list of rows of lanes. -/
def column (rows : List (List Ln)) (j : Nat) : List Ln := rows.map fun r => r.getD j (0, false)

/-- The context after a reduction (R95, R126): lane r holds row r's result, or lane j slot j's. A masked slot enters as the
identity and its mark is not consumed. -/
def Ctx.red (x : Ctx) (o : RedOp) (f : RedF) : Ctx :=
  let fwd := fwdCode x.imem true x.pc
  let src := if f.src.toNat = 0x20 then fwd else f.src.toNat
  let cell := fun (j : Nat) (l : Ln) => if x.mask f.pred f.pneg j then l else (redIdentity o f.ty.toNat, false)
  let rows := (List.range 32).map fun r => ((x.regRow src r).lanes.zipIdx).map fun p => cell p.2 p.1
  let sets := if f.axis = 0 then rows else (List.range 32).map (column rows)
  let z := sets.map fun l => (redTree o x.rnd f.ty.toNat (l.map (·.1)), l.any (·.2))
  (x.setVReg f.dst.toNat (Row.ofLanes (z.map fun p => (p.1.1, p.2 || x.maskPoison f.pred)))).lateEv
    (z.foldl (fun e p => e ||| p.1.2) 0)

/-- The context after a scalar operation (R133, R134). -/
def Ctx.scal (x : Ctx) (o : ScalOp) (f : ScalF) : Ctx :=
  let a := x.sReg f.sa.toNat
  let b : Scal := if o = .sli || f.bimm = 1 then ⟨f.imm, false⟩ else x.sReg f.sb.toNat
  x.setSReg f.sd.toNat ⟨scalLane o a.val b.val, (if o = .sli then false else a.poi) || b.poi⟩

/-! ### Loops (R131, R132) -/

/-- The loops whose bodies close at index `e`, innermost first: counter and first body index. -/
def loopsAt (imem : List W64) (e : Nat) : List (Nat × Nat) :=
  (List.range e).foldl (fun l i =>
    let w := imem.getD i 0
    if w.bits 63 50 = 0x1c00 && w.bits 25 15 = e then (w.bits 49 48, i + 1) :: l else l) []

/-- Close the listed loops in order (R131 close). -/
def Ctx.closeLoops (x : Ctx) (skip : Option Nat) (e : Nat) : List (Nat × Nat) → Ctx
  | [] => { x with pc := e + 1 }
  | (c, first) :: ls =>
    if skip = some c then Ctx.closeLoops x skip e ls
    else if 1 < (x.lReg c).toNat then { x.setLReg c (x.lReg c - 1) with pc := first }
    else Ctx.closeLoops (x.setLReg c 0) skip e ls

/-- PC after the instruction at it completes its issue (R114, R131). -/
def Ctx.advance (x : Ctx) : Ctx := x.closeLoops none x.pc (loopsAt x.imem x.pc)

/-- Issue of loop L with count `c` (R131). -/
def Ctx.loop (x : Ctx) (f : LoopF) (c : Nat) : Ctx :=
  let y := x.setLReg f.l.toNat (BitVec.ofNat 16 c)
  if 0 < c then { y with pc := y.pc + 1 }
  else y.closeLoops (some f.l.toNat) f.endpc.toNat (loopsAt y.imem f.endpc.toNat)

end Sys2Proof.Machine
end

