-- ==== Sys2Proof/Machine/Regs.lean ====
section
/-! DEFINITION. The register file (R557–R567): where every register lies, its Reset value, the bits a write sets and the
bits that clear by a one (R15). What a write sets in motion lies with the register's own rule. -/

namespace Sys2Proof.Machine

/-! ### Offsets in the PF BAR0 (R560–R563) -/

def aHubId : Nat := 0x0
def aHubStage : Nat := 0x8
def aStageGo : Nat := 0x10
def aDefCtl : Nat := 0x20
def aFwCtl : Nat := 0x30
def aFwSrc : Nat := 0x38
def aWmTag : Nat := 0x40
def aWmLo : Nat := 0x48
def aWmHi : Nat := 0x50
def aWmTime : Nat := 0x58
def aPairTag : Nat := 0x60
def aStime (n : Nat) : Nat := 0x100 + 8 * n
def aDefect (n w : Nat) : Nat := 0x10000 + 16 * n + 8 * w
def aMap (n w : Nat) : Nat := 0x20000 + 32 * n + 8 * w
def aFnring (n : Nat) : Nat := 0xA0000 + 8 * n
def aFnringCtl : Nat := 0xA8000
def aMapCtl : Nat := 0xA8008
def aPartCtl : Nat := 0xA8010
def aFeedCtl (p : Nat) : Nat := 0xB0000 + 0x100 * p
def aFeedMac (p : Nat) : Nat := 0xB0008 + 0x100 * p
def aFeedIp (p : Nat) : Nat := 0xB0010 + 0x100 * p
def aFeedStat (p : Nat) : Nat := 0xB0018 + 0x100 * p
def aFeedDisc (p k : Nat) : Nat := 0xB0040 + 0x100 * p + 8 * k
def aFeedSlotStat : Nat := 0xB0800
def aFeedSlot (n w : Nat) : Nat := 0xC0000 + 16 * n + 8 * w
def aGuest (n j : Nat) : Nat := 0xD0000 + 128 * n + 8 * j
def aTdiv (n w : Nat) : Nat := 0xD8000 + 16 * n + 8 * w
def aGuestStat : Nat := 0xD9000
def aPart (n w : Nat) : Nat := 0xE0000 + 16 * n + 8 * w
def aPavCtl : Nat := 0x100000
def aPavStatus : Nat := 0x100008
def aPavTime : Nat := 0x100010
def aPavTlval : Nat := 0x100018
def aPavPer : Nat := 0x100020
def aPavGrid : Nat := 0x100028
def aPavGridNext : Nat := 0x100030
def aPavGridAt : Nat := 0x100038
def aPavSrc : Nat := 0x100040
def aPavOffset : Nat := 0x100048
def aPavHold : Nat := 0x100050
def aPavLdly (n : Nat) : Nat := 0x100100 + 8 * n
def aAllot (n : Nat) : Nat := 0x101000 + 8 * n
def aAllotCtl : Nat := 0x101800
def aBanksel (w : Nat) : Nat := 0x101C00 + 8 * w
def aPlcCtl : Nat := 0x800000
def aPlcStatus : Nat := 0x800008
def aPlcPool (q : Nat) : Nat := 0x800100 + 8 * q
def aPlcRgn (n w : Nat) : Nat := 0x801000 + 16 * n + 8 * w
def aPlcRstat (n : Nat) : Nat := 0x802000 + 8 * n
def aObsStale : Nat := 0x900000
def aObsTrcStat : Nat := 0x900008
def aObsHs (q w : Nat) : Nat := 0x900100 + 16 * q + 8 * w
def aObsFd (n : Nat) : Nat := 0x900300 + 8 * n
def aObsGl (n w : Nat) : Nat := 0x900400 + 16 * n + 8 * w
def aObsPa (w : Nat) : Nat := 0x900800 + 8 * w
def aObsPb (w : Nat) : Nat := 0x900810 + 8 * w
def aObsFeed (p : Nat) : Nat := 0x900820 + 8 * p
def aObsTrc (n w : Nat) : Nat := 0x901000 + 16 * n + 8 * w
def aObsRtr (n : Nat) : Nat := 0x902000 + 8 * n
def aOuStat (q : Nat) : Nat := 0xA00000 + 0x100 * q
def aOuParams (q : Nat) : Nat := 0xA00008 + 0x100 * q
def aOuSkipp (q : Nat) : Nat := 0xA00010 + 0x100 * q
def aOuPassskip (q : Nat) : Nat := 0xA00018 + 0x100 * q
def aOuSkiplog (q k : Nat) : Nat := 0xA00020 + 0x100 * q + 8 * k
def aOuSkipclr (q : Nat) : Nat := 0xA00060 + 0x100 * q
def aMemCtl : Nat := 0xC00000
def aMemChkinc : Nat := 0xC00010
def aMemFeedpois : Nat := 0xC00018
def aMemLoghead : Nat := 0xC00020
def aMemLogack : Nat := 0xC00028
def aMemTrain (q : Nat) : Nat := 0xC00100 + 8 * q
def aMemCnt (s w : Nat) : Nat := 0xC01000 + 0x40 * s + 8 * w
def aMemLog (i w : Nat) : Nat := 0xC08000 + 0x20 * i + 8 * w
def aLd (k : Nat) : Nat := 0x1000000 + 0x100000 * k
def aGlNode (k : Nat) : Nat := aLd k
def aGlFlevel (k : Nat) : Nat := aLd k + 8
def aGlByp (k : Nat) : Nat := aLd k + 0x10
/-- A register of link l = 6k + d. -/
def aGl (l o : Nat) : Nat := aLd (l / 6) + 0x1000 + 0x100 * (l % 6) + o
def aGlLstat (l : Nat) : Nat := aGl l 0x00
def aGlLctl (l : Nat) : Nat := aGl l 0x08
def aGlAsym (l : Nat) : Nat := aGl l 0x10
def aGlCrcerr (l : Nat) : Nat := aGl l 0x18
def aGlReplay (l : Nat) : Nat := aGl l 0x20
def aGlFeccorr (l : Nat) : Nat := aGl l 0x28
def aGlFecunc (l : Nat) : Nat := aGl l 0x30
def aGlRetrain (l : Nat) : Nat := aGl l 0x38
def aGlTags (l : Nat) : Nat := aGl l 0x40
def aCeGstat (k : Nat) : Nat := aLd k + 0x7F00
/-- Word w of CE_GRP_n; every link die's block shows the module's one group table (R426), link die 0's block holds it. -/
def aCeGrp (n w : Nat) : Nat := aLd 0 + 0x8000 + 0x40 * n + 8 * w
def aFd (n : Nat) : Nat := 0x2000000 + 0x100000 * n
def aFlStatus (n : Nat) : Nat := aFd n
def aFlHostw (n : Nat) : Nat := aFd n + 0x8
def aFlUncorr (n : Nat) : Nat := aFd n + 0x10
def aFlRetired (n : Nat) : Nat := aFd n + 0x18
def aWfStat : Nat := 0x200000
def aWfPlimit : Nat := 0x200008
def aWfSens (n : Nat) : Nat := 0x200100 + 8 * n
def aWfLog (i w : Nat) : Nat := 0x200400 + 16 * i + 8 * w
/-- The window of function 0's FN_ page (R560). -/
def aFnPage : Nat := 0x3000000

/-! ### Offsets in a FN_ page (R566) -/

def fId : Nat := 0x0
def fTime : Nat := 0x8
def fStatus : Nat := 0x10
def fSlots : Nat := 0x18
def fSqBase (r : Nat) : Nat := 0x100 + 0x20 * r
def fSqCfg (r : Nat) : Nat := 0x108 + 0x20 * r
def fSqHead (r : Nat) : Nat := 0x110 + 0x20 * r
def fCqBase (r : Nat) : Nat := 0x400 + 0x20 * r
def fCqCfg (r : Nat) : Nat := 0x408 + 0x20 * r
def fCqTail (r : Nat) : Nat := 0x410 + 0x20 * r
def fCqNaddr (r : Nat) : Nat := 0x418 + 0x20 * r
def fSqDb (r : Nat) : Nat := 0x1000 + 8 * r
def fCqDb (r : Nat) : Nat := 0x1080 + 8 * r

/-! ### Offsets in port B's page (R567) -/

def pbPair : Nat := 0x0
def pbStatus : Nat := 0x8
def pbRdb : Nat := 0x10
def pbWrb : Nat := 0x18
def pbXfers : Nat := 0x20
def pbTime : Nat := 0x28

/-! ### Reset values and access -/

/-- The bits [hi:lo] as a mask. -/
def maskBits (hi lo : Nat) : Nat := 2 ^ (hi + 1) - 2 ^ lo

/-- An offset lies in an array of `n` elements of `stride` bytes at `base`. -/
def inArr (off base stride n : Nat) : Bool := decide (base ≤ off) && decide (off < base + stride * n)

/-- The byte within its element of an offset in an array. -/
def within (off base stride : Nat) : Nat := (off - base) % stride

/-- The Reset value of a PF BAR0 register (R16); zero where nothing else is stated. -/
def pfReset (off : Nat) : W64 :=
  if off < 0x100000 then
    if off = aHubId then 0xf
    else if off = aHubStage then 0xff
    else if inArr off 0xA0000 8 4096 then 1 + 1 <<< 5 + 1024 <<< 10
    else if off = aFeedCtl 0 || off = aFeedCtl 1 then 64 <<< 8 + 0x88B5 <<< 16
    else if inArr off 0xC0000 16 4096 && within off 0xC0000 16 = 0 then 2000 <<< 20
    else 0
  else if off < 0x200000 then
    if off = aPavStatus then 63 <<< 16
    else if off = aPavPer then 0x3B9ACA000
    else if off = aPavGrid || off = aPavGridNext then 128 + 256 <<< 16 + 1 <<< 33
    else 0
  else if off = aWfPlimit then 21000
  else if inArr off 0x200100 8 42 then 0x8000
  else if inArr off 0x801000 16 256 && within off 0x801000 16 = 0 then 8 + 2 <<< 8 + 4 <<< 24 + 1 <<< 27
  else if inArr off 0x901000 16 256 then (if within off 0x901000 16 = 0 then 6 <<< 52 else 256 <<< 8)
  else if off = aMemCtl then 3
  else if inArr off 0x1000000 0x100000 6 then
    let o := off % 0x100000
    if o = 0 then 1 <<< 18 + 1 <<< 25 + 1 <<< 32
    else if o = 0x10 then 0x3f
    else if inArr o 0x8000 0x40 64 && within o 0x8000 0x40 = 8 then 1 <<< 18 + 1 <<< 25 + 1 <<< 32
    else 0
  else 0

/-- The bits that a plain write sets: RW and RWS fields that carry no action of their own (R15, R564). -/
def pfRw (off : Nat) : Nat :=
  if off < 0x100000 then
    if off = aDefCtl then maskBits 0 0 + maskBits 17 2
    else if off = aFwCtl then maskBits 0 0 + maskBits 63 32
    else if off = aFwSrc then maskBits 51 0
    else if off = aWmTag then maskBits 63 0
    else if inArr off 0x20000 32 16384 then
      (if within off 0x20000 32 < 16 then maskBits 51 0 else if within off 0x20000 32 = 16 then maskBits 63 0 else maskBits 18 0)
    else if inArr off 0xA0000 8 4096 then maskBits 26 0
    else if off = aFeedCtl 0 || off = aFeedCtl 1 then maskBits 2 0 + maskBits 47 8
    else if off = aFeedMac 0 || off = aFeedMac 1 then maskBits 47 0
    else if off = aFeedIp 0 || off = aFeedIp 1 then maskBits 31 0
    else if inArr off 0xC0000 16 4096 then (if within off 0xC0000 16 = 0 then maskBits 58 0 else maskBits 61 0)
    else if inArr off 0xD0000 8 4096 then maskBits 12 0
    else if inArr off 0xD8000 16 256 then (if within off 0xD8000 16 = 0 then maskBits 5 0 else maskBits 63 0)
    else if inArr off 0xE0000 16 256 then (if within off 0xE0000 16 = 0 then maskBits 29 0 + maskBits 36 32 else maskBits 31 0)
    else 0
  else if off < 0x200000 then
    if off = aPavCtl then maskBits 3 0
    else if off = aPavTlval then maskBits 63 0
    else if off = aPavPer then maskBits 47 0
    else if off = aPavGridNext then maskBits 45 0
    else if off = aPavSrc then maskBits 13 0
    else if inArr off 0x101000 8 256 then maskBits 24 0
    else 0
  else if off = aPlcCtl then maskBits 0 0
  else if inArr off 0x800100 8 16 then maskBits 45 0
  else if inArr off 0x801000 16 256 then (if within off 0x801000 16 = 0 then maskBits 29 0 else maskBits 22 0)
  else if inArr off 0x901000 16 256 then (if within off 0x901000 16 = 0 then maskBits 57 0 else maskBits 20 1)
  else if off = aMemCtl then maskBits 1 0
  else if off = aMemLogack then maskBits 31 0
  else if inArr off 0xC00100 8 16 then maskBits 3 0
  else if inArr off 0x1000000 0x100000 6 then
    let o := off % 0x100000
    if o = 0 then maskBits 38 0
    else if o = 0x10 then maskBits 2 0
    else if inArr o 0x1000 0x100 6 then
      (if within o 0x1000 0x100 = 8 then maskBits 0 0 else if within o 0x1000 0x100 = 0x10 then maskBits 15 0 else 0)
    else if inArr o 0x8000 0x40 64 then
      (if within o 0x8000 0x40 = 0 then maskBits 61 0 else if within o 0x8000 0x40 = 8 then maskBits 41 0
       else if within o 0x8000 0x40 = 16 then maskBits 63 0 else 0)
    else 0
  else 0

/-- The bits that a written one clears (R15 W1C). -/
def pfW1c (off : Nat) : Nat :=
  if off = aHubStage then maskBits 9 9
  else if off = aFeedSlotStat then maskBits 0 0
  else if off = aGuestStat then maskBits 0 0
  else if off = aPavStatus then maskBits 5 3 + maskBits 11 7
  else if off = aPlcStatus then maskBits 3 1
  else if off = aObsTrcStat then maskBits 0 0
  else if off = aMemLoghead then maskBits 40 40
  else if inArr off 0xC00100 8 16 then maskBits 7 6
  else if inArr off 0x1000000 0x100000 6 then
    let o := off % 0x100000
    if o = 0 then maskBits 63 63 else if o = 0x7F00 then maskBits 0 0 + maskBits 7 7 else 0
  else 0

/-- The bits kept through every bring-up but a cold start: RWS fields (R15, R16). -/
def pfSticky (off : Nat) : Nat :=
  if off = aPavCtl then maskBits 3 0
  else if off = aPavPer then maskBits 47 0
  else if off = aPavSrc then maskBits 13 0
  else if off = aDefCtl then maskBits 0 0 + maskBits 17 2 + maskBits 28 18
  else if off = aFwCtl then maskBits 0 0
  else if off = aFeedMac 0 || off = aFeedMac 1 then maskBits 47 0
  else if off = aPairTag then maskBits 63 0
  else if inArr off 0x10000 16 512 then maskBits 63 0
  else if off = aMemChkinc || off = aMemFeedpois then maskBits 63 0
  else if off = aMemLoghead then maskBits 39 8
  else if inArr off 0xC01000 0x40 64 || inArr off 0xC08000 0x20 256 then maskBits 63 0
  else if inArr off 0x1000000 0x100000 6 then
    let o := off % 0x100000
    if o = 0 then maskBits 38 0
    else if inArr o 0x1000 0x100 6 && within o 0x1000 0x100 = 0x10 then maskBits 15 0 else 0
  else 0

/-- The Reset value of a FN_ page register (R342); computed fields are filled at a read. -/
def fnReset (off : Nat) : W64 :=
  if inArr off 0x100 0x20 16 then (if within off 0x100 0x20 = 8 then 6 else 0)
  else if inArr off 0x400 0x20 16 then
    (if within off 0x400 0x20 = 8 then 6 else if within off 0x400 0x20 = 0x10 then 1 <<< 16 else 0)
  else 0

/-- The bits that a write sets in a FN_ page (R342). -/
def fnRw (off : Nat) : Nat :=
  if inArr off 0x100 0x20 16 then (if within off 0x100 0x20 = 0 then maskBits 63 12 else if within off 0x100 0x20 = 8 then maskBits 9 0 else 0)
  else if inArr off 0x400 0x20 16 then
    (if within off 0x400 0x20 = 0 then maskBits 63 12 else if within off 0x400 0x20 = 8 then maskBits 5 0
     else if within off 0x400 0x20 = 0x18 then maskBits 0 0 + maskBits 63 3 else 0)
  else 0

/-- The bits that a written one clears in a FN_ page (R342). -/
def fnW1c (off : Nat) : Nat := if off = fStatus then maskBits 4 2 else 0

/-! ### Reading and writing the held values -/

/-- Set the bits of `mask` in `old` from `v`. -/
def mergeBits (old v : W64) (mask : Nat) : W64 :=
  let m := BitVec.ofNat 64 mask
  (old &&& ~~~m) ||| (v &&& m)

/-- A PF BAR0 register as held. -/
def State.reg (s : State) (off : Nat) : W64 := FMap.get (pfReset off) s.regs off
/-- Set a PF BAR0 register as held. -/
def State.setReg (s : State) (off : Nat) (v : W64) : State := { s with regs := FMap.set (pfReset off) s.regs off v }
/-- The bits `[hi:lo]` of a register. -/
def State.regBits (s : State) (off hi lo : Nat) : Nat := (s.reg off).bits hi lo
/-- Set the bits `[hi:lo]` of a register. -/
def State.setRegBits (s : State) (off hi lo v : Nat) : State :=
  s.setReg off (mergeBits (s.reg off) (BitVec.ofNat 64 (v * 2 ^ lo)) (maskBits hi lo))
/-- Set one bit of a register. -/
def State.setRegBit (s : State) (off i : Nat) : State := s.setRegBits off i i 1
/-- Add to a 64-bit counter. -/
def State.addReg (s : State) (off n : Nat) : State := s.setReg off (s.reg off + BitVec.ofNat 64 n)
/-- Add to a field that saturates. -/
def State.addRegSat (s : State) (off hi lo n : Nat) : State :=
  s.setRegBits off hi lo (min (s.regBits off hi lo + n) (2 ^ (hi + 1 - lo) - 1))

/-- A FN_ page register as held. -/
def State.fnReg (s : State) (fn off : Nat) : W64 := FMap.get (fnReset off) s.fnRegs (65536 * fn + off)
/-- Set a FN_ page register as held. -/
def State.setFnReg (s : State) (fn off : Nat) (v : W64) : State :=
  { s with fnRegs := FMap.set (fnReset off) s.fnRegs (65536 * fn + off) v }
/-- Set one bit of a FN_ page register. -/
def State.setFnBit (s : State) (fn off i : Nat) (b : Bool) : State :=
  s.setFnReg fn off (mergeBits (s.fnReg fn off) (if b then BitVec.ofNat 64 (2 ^ i) else 0) (maskBits i i))

/-- A port B page register as held. -/
def State.pbReg (s : State) (off : Nat) : W64 := FMap.get (0 : W64) s.pbRegs off
/-- Set a port B page register. -/
def State.setPbReg (s : State) (off : Nat) (v : W64) : State := { s with pbRegs := FMap.set (0 : W64) s.pbRegs off v }

end Sys2Proof.Machine
end

