-- ==== Sys2Proof/Machine/Ops.lean ====
section
/-! DEFINITION. The named operations over the state that many commands share: its parts, device memory as every observer
sees it (R211), regions and their units, commands in flight, the error log, and taking a fault (R142–R146, R187). -/

namespace Sys2Proof.Machine

/-- What a command answers. -/
abbrev Out := Host.Outcome State Fault Refusal

/-! ### Parts of the state -/

/-- Compute unit `u`. -/
def State.cu (s : State) (u : Nat) : Cu := FMap.get Cu.empty s.cus u
/-- Replace compute unit `u`. -/
def State.setCu (s : State) (u : Nat) (c : Cu) : State := { s with cus := FMap.set Cu.empty s.cus u c }
/-- Context `k` of a CU. -/
def Cu.ctxAt (c : Cu) (k : Nat) : Ctx := FMap.get Ctx.empty c.ctx k
/-- Replace context `k` of a CU. -/
def Cu.setCtx (c : Cu) (k : Nat) (x : Ctx) : Cu := { c with ctx := FMap.set Ctx.empty c.ctx k x }
/-- Change compute unit `u`. -/
def State.updCu (s : State) (u : Nat) (f : Cu → Cu) : State := s.setCu u (f (s.cu u))
/-- Change context `k` of compute unit `u`. -/
def State.updCtx (s : State) (u k : Nat) (f : Ctx → Ctx) : State := s.updCu u fun c => c.setCtx k (f (c.ctxAt k))
/-- Memory unit `m`. -/
def State.mu (s : State) (m : Nat) : Mu := FMap.get Mu.empty s.mus m
/-- Replace memory unit `m`. -/
def State.setMu (s : State) (m : Nat) (x : Mu) : State := { s with mus := FMap.set Mu.empty s.mus m x }
/-- Engine `e` of an MU. -/
def Mu.engAt (x : Mu) (e : Nat) : Eng := FMap.get Eng.empty x.eng e
/-- Replace engine `e` of an MU. -/
def Mu.setEng (x : Mu) (e : Nat) (g : Eng) : Mu := { x with eng := FMap.set Eng.empty x.eng e g }
/-- Change memory unit `m`. -/
def State.updMu (s : State) (m : Nat) (f : Mu → Mu) : State := s.setMu m (f (s.mu m))
/-- Engine `e` of memory unit `m`. -/
def State.eng (s : State) (m e : Nat) : Eng := (s.mu m).engAt e
/-- Change engine `e` of memory unit `m`. -/
def State.updEng (s : State) (m e : Nat) (f : Eng → Eng) : State := s.updMu m fun x => x.setEng e (f (x.engAt e))
/-- The link side of unit `u`. -/
def State.fabric (s : State) (u : Nat) : Fabric := FMap.get Fabric.empty s.fab u
/-- Change the link side of unit `u`. -/
def State.updFab (s : State) (u : Nat) (f : Fabric → Fabric) : State := { s with fab := FMap.set Fabric.empty s.fab u (f (s.fabric u)) }
/-- Slice `i` = 16 · die + s. -/
def State.slice (s : State) (i : Nat) : Slice := FMap.get Slice.empty s.slices i
/-- Change slice `i`. -/
def State.updSlice (s : State) (i : Nat) (f : Slice → Slice) : State := { s with slices := FMap.set Slice.empty s.slices i (f (s.slice i)) }
/-- Region `r`. -/
def State.rgn (s : State) (r : Nat) : Region := FMap.get Region.empty s.rgns r
/-- Change region `r`. -/
def State.updRgn (s : State) (r : Nat) (f : Region → Region) : State := { s with rgns := FMap.set Region.empty s.rgns r (f (s.rgn r)) }
/-- Link `l`. -/
def State.link (s : State) (l : Nat) : Link := FMap.get Link.off s.links l
/-- Change link `l`. -/
def State.updLink (s : State) (l : Nat) (f : Link → Link) : State := { s with links := FMap.set Link.off s.links l (f (s.link l)) }
/-- Promenade pair `p` = 3k + axis. -/
def State.pair (s : State) (p : Nat) : Pair := FMap.get Pair.crossed s.pairs p
/-- Change pair `p`. -/
def State.updPair (s : State) (p : Nat) (f : Pair → Pair) : State := { s with pairs := FMap.set Pair.crossed s.pairs p (f (s.pair p)) }
/-- Group entry `g`. -/
def State.group (s : State) (g : Nat) : Group := FMap.get Group.idle s.groups g
/-- Change group entry `g`. -/
def State.updGroup (s : State) (g : Nat) (f : Group → Group) : State := { s with groups := FMap.set Group.idle s.groups g (f (s.group g)) }
/-- Change memory. -/
def State.updMem (s : State) (f : MemSt → MemSt) : State := { s with mem := f s.mem }
/-- Change the host interface. -/
def State.updHost (s : State) (f : HostSt → HostSt) : State := { s with host := f s.host }
/-- Change Wallflower. -/
def State.updWf (s : State) (f : WfSt → WfSt) : State := { s with wf := f s.wf }
/-- Change the power state. -/
def State.updPower (s : State) (f : PowerSt → PowerSt) : State := { s with power := f s.power }
/-- A fresh open value, and the state past it (log entry 7). -/
def State.fresh (s : State) : W64 × State := (Config.freeValue s.free, { s with free := s.free + 1 })
/-- Add to a count held by number. -/
def bump (m : FMap Nat) (k n : Nat) : FMap Nat := FMap.set 0 m k (FMap.get 0 m k + n)
/-- The value of a count. -/
def count (m : FMap Nat) (k : Nat) : Nat := FMap.get 0 m k

/-! ### The module's shape (R5, R22, R26, R27) -/

/-- The bytes of one half-stack (R26). -/
def halfStack : Nat := 0x600000000
/-- The compute die 4r + c of unit `u` (R22). -/
def unitDie (u : Nat) : Nat := 4 * (unitY u / 16) + unitX u / 16
/-- The block column of a unit. -/
def unitBx (u : Nat) : Nat := unitX u / 4
/-- The block row of a unit. -/
def unitBy (u : Nat) : Nat := unitY u / 4
/-- The phase of compute die `d` (R216). -/
def State.die (s : State) (d : Nat) : DiePhase := FMap.get DiePhase.powered s.power.dies d
/-- Set the phase of compute die `d`. -/
def State.setDie (s : State) (d : Nat) (p : DiePhase) : State :=
  s.updPower fun w => { w with dies := FMap.set DiePhase.powered w.dies d p }
/-- Die `d` exists in this module: not fused off, not removed (R5, R491). -/
def State.dieExists (s : State) (d : Nat) : Bool :=
  decide (d < 16) && s.die d != .removed && s.die d != .fusedOff
/-- The routers of die `d` refuse its traffic (R216 rows 2–6, R219). -/
def State.dieRefuses (s : State) (d : Nat) : Bool :=
  match s.die d with
  | .powered | .fencing => false
  | _ => true
/-- Half-stack `q` is populated (R3, R5). -/
def State.stackPresent (s : State) (q : Nat) : Bool :=
  decide (q < 16) && (if s.power.variant = 1 then decide (q % 4 < 2) else if s.power.variant = 3 then decide (q < 12) else true)
/-- The half-stack that holds a DRAM address (R26). -/
def stackOf (a : Nat) : Nat := a / halfStack
/-- [a, a + n) lies in populated DRAM (R27). -/
def State.isDram (s : State) (a n : Nat) : Bool :=
  decide (a + n ≤ 16 * halfStack) && s.stackPresent (stackOf a) && s.stackPresent (stackOf (a + n - 1))
/-- First address of the flash window (R27). -/
def flashBase : Nat := 0x100000000000
/-- One past the flash window (R27). -/
def flashEnd : Nat := 0x1E8D4A510000
/-- [a, a + n) lies in the flash window. -/
def isFlash (a n : Nat) : Bool := decide (flashBase ≤ a) && decide (a + n ≤ flashEnd)
/-- [a, a + n) lies in the host windows' range (R27). -/
def isHostWin (a n : Nat) : Bool := decide (0x800000000000 ≤ a) && decide (a + n ≤ 0x1000000000000)

/-- A stackless die homes its lines until its dirty lines are written back (R215, R216 row 3). -/
def State.homesLines (s : State) (d : Nat) : Bool :=
  match s.die d with
  | .powered | .fencing | .refusing => true
  | _ => false
/-- The die on which a DRAM address is homed: the stackless dies of the FX-2536L serve the upper halves (R205). -/
def State.homeDie (s : State) (a : Nat) : Nat :=
  let q := stackOf a
  if s.power.variant = 1 && a / 2 ^ 21 % 2 == 1 && s.homesLines (q + 2) then q + 2 else q
/-- The home slice of a DRAM address (R205). -/
def State.homeSlice (s : State) (a : Nat) : Nat := 16 * s.homeDie a + a / 128 % 16
/-- The line address of an address. -/
def lineOf (a : Nat) : Nat := a / 128 * 128

/-! ### Regions and units (R192–R195) -/

/-- Word 0 of HUB_PART_n in force. -/
def State.part0 (s : State) (r : Nat) : W64 := FMap.get (0 : W64) s.cfg.part0 r
/-- Word 1 of HUB_PART_n in force. -/
def State.part1 (s : State) (r : Nat) : W64 := FMap.get (0 : W64) s.cfg.part1 r
/-- An entry defines a region (R193). -/
def partValid (w : W64) : Bool := w.bit 29
/-- The entry's rectangle holds block (bx, by). -/
def partHas (w : W64) (bx b : Nat) : Bool :=
  decide (w.bits 3 0 ≤ bx) && decide (bx ≤ w.bits 11 8) && decide (w.bits 7 4 ≤ b) && decide (b ≤ w.bits 15 12)
/-- The entry's owner. -/
def partOwner (w : W64) : Nat := w.bits 27 16
/-- The entry is strict. -/
def partStrict (w : W64) : Bool := w.bit 28
/-- Unit `u` lies in region `r`. -/
def State.inRegion (s : State) (r u : Nat) : Bool :=
  partValid (s.part0 r) && partHas (s.part0 r) (unitBx u) (unitBy u)
/-- The region of a unit, if any (R192). -/
def State.regionOf (s : State) (u : Nat) : Option Nat :=
  (s.cfg.part0.find? fun e => partValid e.2 && partHas e.2 (unitBx u) (unitBy u)).map (·.1)
/-- The units of region `r`, in the order (y, x). -/
def State.regionUnits (s : State) (r : Nat) : List Nat :=
  let w := s.part0 r
  if partValid w then
    (List.range (4 * (w.bits 15 12 + 1 - w.bits 7 4))).flatMap fun dy =>
      (List.range (4 * (w.bits 11 8 + 1 - w.bits 3 0))).map fun dx => 64 * (4 * w.bits 7 4 + dy) + 4 * w.bits 3 0 + dx
  else []
/-- The CUs of a region that hold a context, and its bound MUs: only listed units hold anything (R192). -/
def State.regionCus (s : State) (r : Nat) : List Nat := (s.cus.map (·.1)).filter fun u => s.inRegion r u
/-- The MUs of a region that hold anything. -/
def State.regionMus (s : State) (r : Nat) : List Nat := (s.mus.map (·.1)).filter fun u => s.inRegion r u
/-- The partition that a tag uses in a slice of die `d`: a strict region's own where DIES names the die (R207). -/
def State.partitionOf (s : State) (tag d : Nat) : Option Nat :=
  if decide (tag < 256) && partValid (s.part0 tag) && partStrict (s.part0 tag) && (s.part1 tag).bit (16 + d) then some tag else none
/-- The dies on which region `r` has a block. -/
def State.regionDies (s : State) (r : Nat) : List Nat :=
  (List.range 16).filter fun d =>
    let w := s.part0 r
    partValid w && decide (w.bits 3 0 ≤ 4 * (d % 4) + 3) && decide (4 * (d % 4) ≤ w.bits 11 8) &&
      decide (w.bits 7 4 ≤ 4 * (d / 4) + 3) && decide (4 * (d / 4) ≤ w.bits 15 12)
/-- A die that holds a block of region `r` is being powered down, or is not powered (R216). -/
def State.rgnStopped (s : State) (r : Nat) : Bool := (s.regionDies r).any fun d => s.die d != .powered
/-- The neighbour of unit `u` on link 0 N, 1 E, 2 S, 3 W, if it lies on the grid (R100). -/
def neighbour (u link : Nat) : Option Nat :=
  if link = 0 then (if unitY u < 63 then some (u + 64) else none)
  else if link = 1 then (if unitX u < 63 then some (u + 1) else none)
  else if link = 2 then (if 0 < unitY u then some (u - 64) else none)
  else (if 0 < unitX u then some (u - 1) else none)
/-- The link at the far end. -/
def oppositeLink (link : Nat) : Nat := (link + 2) % 4
/-- The link is fenced: its units lie in different regions, or one lies in none (R195). -/
def State.fenced (s : State) (u link : Nat) : Bool :=
  match neighbour u link with
  | none => true
  | some v => match s.regionOf u, s.regionOf v with
    | some a, some b => a != b
    | _, _ => true

/-! ### The error log (R467–R469) -/

/-- Write one record. -/
def State.logRec (s : State) (src kind synd whr : Nat) (own : Option (Nat × Nat)) : State :=
  let next := s.regBits aMemLoghead 7 0
  let total := min (s.regBits aMemLoghead 39 8 + 1) (2 ^ 32 - 1)
  let old := ((FMap.get ([] : List W64) s.log next).getD 3 0).bits 31 0
  let ovf := decide (s.regBits aMemLogack 31 0 < old)
  let w2 := src % 128 + kind % 16 * 2 ^ 7 + synd % 256 * 2 ^ 11 +
    (match own with | some (fn, r) => fn % 4096 * 2 ^ 19 + r % 256 * 2 ^ 31 + 2 ^ 39 | none => 0)
  let record := [BitVec.ofNat 64 s.time.now, BitVec.ofNat 64 whr, BitVec.ofNat 64 w2, BitVec.ofNat 64 total]
  let s := { s with log := FMap.set ([] : List W64) s.log next record }
  let s := s.setRegBits aMemLoghead 7 0 ((next + 1) % 256)
  let s := s.setRegBits aMemLoghead 39 8 total
  if ovf then s.setRegBit aMemLoghead 40 else s
/-- Count one decode of source `src`: 0 CORR, 1 CHKONLY, 2 UNCORR, 3 POISONRD, 4 REFETCH (R467). -/
def State.countErr (s : State) (src k : Nat) : State := if src < 64 then s.addReg (aMemCnt src k) 1 else s
/-- The region and function that own a unit, for a record. -/
def State.ownerOf (s : State) (u : Nat) : Option (Nat × Nat) :=
  (s.regionOf u).map fun r => (partOwner (s.part0 r), r)

/-! ### Region counters and progress (R240, R525) -/

/-- The key of part `p` of counter word `w` of R525. -/
def ctrKey (w p : Nat) : Nat := 8 * w + p
/-- Add to a region counter. -/
def State.addCtr (s : State) (r w p n : Nat) : State := s.updRgn r fun g => { g with ctr := bump g.ctr (ctrKey w p) n }
/-- Add to a counter of the region that holds unit `u`. -/
def State.addUnitCtr (s : State) (u w p n : Nat) : State :=
  match s.regionOf u with
  | some r => s.addCtr r w p n
  | none => s
/-- The region of unit `u` made progress in this figure (R240). -/
def State.progressAt (s : State) (u : Nat) : State :=
  match s.regionOf u with
  | some r => s.updRgn r fun g => { g with progress := true }
  | none => s
/-- A no-op schedule action of region `r` (R525 SCHED). -/
def State.noopSched (s : State) (r : Nat) : State := s.addCtr r 25 0 1

/-- Count the demand decode of one word of source `src`: its upset state, its mark, its place and its owner (R451, R455,
R467). -/
def State.countWord (s : State) (src upset : Nat) (poi : Bool) (whr : Nat) (own : Option (Nat × Nat)) : State :=
  let ecc := fun (s : State) (p : Nat) => match own with | some (_, r) => s.addCtr r 27 p 1 | none => s
  if upset = 1 then ecc (s.countErr src 0) 0
  else if upset = 2 then ecc (s.countErr src 1) 0
  else if upset = 3 then ecc ((s.countErr src 2).logRec src 1 (Config.syndrome (whr + upset)).toNat whr own) 1
  else if poi then ecc (s.countErr src 3) 1
  else s
/-! ### Flash-window sheets, domains and home dies (R281–R283) -/

/-- The sheet of a flash-window address (R281). -/
def sheetOf (a : Nat) : Nat := (a - flashBase) / 65536
/-- The domain of a request's tag: a strict region is its own, 256 is the shared domain (R282). -/
def State.domainOf (s : State) (tag : Nat) : Nat := if decide (tag < 256) && partValid (s.part0 tag) && partStrict (s.part0 tag) then tag else 256
/-- The die set of a domain (R283). -/
def State.domainDies (s : State) (dom : Nat) : List Nat :=
  (List.range 16).filter fun d => (s.die d == .powered || NatSet.mem s.pend.die d) && (if dom < 256 then (s.part1 dom).bit (16 + d) else true)
/-- The home die of a sheet in a domain (R283). -/
def State.sheetDie (s : State) (dom sheet : Nat) : Nat :=
  let l := s.domainDies dom
  l.getD (sheet % l.length) 0
/-- The key of a domain's entry for a sheet (R282). -/
def copyKey (dom sheet : Nat) : Nat := 2 ^ 28 * dom + sheet

/-! ### Device memory (R205–R211) -/

/-- The state of a stored DRAM word under R451. -/
def upsetDram (a : Nat) : Nat := 2 * (a / 8)
/-- The key of a scratchpad word's state; `k` is its byte key. -/
def upsetSpad (k : Nat) : Nat := 2 * (k / 8) + 1
/-- The marks of the 16 words at a line-aligned key. -/
def rowMarks (p : NatSet) (k : Nat) (u : FMap Nat) (uk : Nat → Nat) : BitVec 16 :=
  BitVec.ofNat 16 ((List.range 16).foldr (fun w n =>
    (if NatSet.mem p (k / 8 + w) || count u (uk (k + 8 * w)) = 3 then 1 else 0) + 2 * n) 0)
/-- The DRAM line at a line address, as the half-stack holds it. -/
def MemSt.dramRow (m : MemSt) (a : Nat) : Row :=
  ⟨BitVec.ofNat 1024 (Mem.readNat m.dram a 128), rowMarks m.dramPoison a m.upset upsetDram⟩
/-- Put marks of words into a set. -/
def putMarks (p : NatSet) (k : Nat) (marks : BitVec 16) (mask : BitVec 16) : NatSet :=
  (List.range 16).foldl (fun q w => if mask.getLsbD w then NatSet.put q (k / 8 + w) (marks.getLsbD w) else q) p
/-- Write the words of a row that a mask names into bytes at a line key. -/
def putRow (m : Mem) (k : Nat) (r : Row) (mask : BitVec 16) : Mem :=
  (List.range 16).foldl (fun q w =>
    if mask.getLsbD w then Mem.writeNat q (k + 8 * w) (r.data.extractLsb' (64 * w) 64).toNat 8 else q) m
/-- The whole row's mask. -/
def fullMask : BitVec 16 := 0xffff
/-- A written word decodes CLEAN again (R452). -/
def clearUpsets (u : FMap Nat) (uk : Nat → Nat) (k : Nat) (mask : BitVec 16) : FMap Nat :=
  (List.range 16).foldl (fun q w => if mask.getLsbD w then FMap.set 0 q (uk (k + 8 * w)) 0 else q) u
/-- Write words of a DRAM line at the half-stack. -/
def MemSt.putDramRow (m : MemSt) (a : Nat) (r : Row) (mask : BitVec 16) : MemSt :=
  { m with dram := putRow m.dram a r mask, dramPoison := putMarks m.dramPoison a r.poison mask,
           upset := clearUpsets m.upset upsetDram a mask }
/-- The row of `new` in the words of the mask, `old` elsewhere. -/
def Row.merge (old new : Row) (mask : BitVec 16) : Row :=
  let bit := fun (w : Nat) => mask.getLsbD w
  let d := (List.range 16).foldr (fun w n =>
    (if bit w then (new.data.extractLsb' (64 * w) 64).toNat else (old.data.extractLsb' (64 * w) 64).toNat) + 2 ^ 64 * n) 0
  ⟨BitVec.ofNat 1024 d, (old.poison &&& ~~~mask) ||| (new.poison &&& mask)⟩

/-- The byte key of a scratchpad offset (R154). -/
def spadKey (m o : Nat) : Nat := 2 ^ 19 * m + o
/-- The scratchpad row that holds offset `o` of MU `m` (R154). -/
def State.spadRow (s : State) (m o : Nat) : Row :=
  let k := spadKey m (lineOf o)
  ⟨BitVec.ofNat 1024 (Mem.readNat s.mem.spad k 128), rowMarks s.mem.spadPoison k s.mem.upset upsetSpad⟩
/-- Write words of a scratchpad row (R154). -/
def State.putSpadRow (s : State) (m o : Nat) (r : Row) (mask : BitVec 16) : State :=
  let k := spadKey m (lineOf o)
  s.updMem fun x => { x with spad := putRow x.spad k r mask, spadPoison := putMarks x.spadPoison k r.poison mask,
                             upset := clearUpsets x.upset upsetSpad k mask }

/-! ### Die-cache slices (R205–R208, R455, R456) -/

/-- The set of an address (R205). -/
def setOf (a : Nat) : Nat := a / 2048 % 1024
/-- Strict regions that name die `d`. -/
def State.strictOn (s : State) (d : Nat) : List Nat :=
  (s.cfg.part0.map (·.1)).filter fun r => (s.partitionOf r d).isSome
/-- The ways of a partition on die `d` (R207). -/
def State.waysOf (s : State) (part : Option Nat) (d : Nat) : List Nat :=
  match part with
  | some r => (List.range 16).filter fun w => (s.part1 r).bit w
  | none => (List.range 16).filter fun w => !((s.strictOn d).any fun r => (s.part1 r).bit w)
/-- The ways in which slice `i` may hold line `a`: none for a line that it serves for an unpowered stackless die (R215). -/
def State.waysAt (s : State) (part : Option Nat) (i a : Nat) : List Nat :=
  if s.power.variant = 1 && s.isDram a 1 && a / 2 ^ 21 % 2 == 1 && stackOf a == i / 16 then [] else s.waysOf part (i / 16)
/-- The place of a way in `tags` and `disabled`. -/
def wayKey (set way : Nat) : Nat := 16 * set + way
/-- The line of a slice that holds an address for a partition. -/
def Slice.find (c : Slice) (part : Option Nat) (a : Nat) : Option Line := c.lines.find? fun l => l.addr == a && l.part == part
/-- Any valid line of a slice that holds an address, a dirty one first. -/
def Slice.any (c : Slice) (a : Nat) : Option Line :=
  match c.lines.find? fun l => l.addr == a && l.dirty with
  | some l => some l
  | none => c.lines.find? fun l => l.addr == a
/-- A line's row as it is delivered: an uncorrectable word is marked (R451, R455). -/
def Line.shown (l : Line) : Row :=
  ⟨l.row.data, l.row.poison ||| BitVec.ofNat 16 ((List.range 16).foldr (fun w n => (if count l.upset w = 3 then 1 else 0) + 2 * n) 0)⟩
/-- A clean line of a DRAM address with an uncorrectable or poisoned word is not used: its line is fetched again (R455). -/
def Line.refetched (l : Line) : Bool := !l.dirty && decide (l.addr < flashBase) && l.shown.poison != 0
/-- The current contents of a DRAM line: the home slice's copy where one is held, else the half-stack's (R211). -/
def State.lineRow (s : State) (a : Nat) : Row :=
  let l := lineOf a
  match (s.slice (s.homeSlice l)).any l with
  | some x => if x.refetched then s.mem.dramRow l else x.shown
  | none => s.mem.dramRow l
/-- Count `n` bytes read (0) or written (1) at the half-stack that holds an address (R533). -/
def State.countHs (s : State) (a w n : Nat) : State := if stackOf a < 16 then s.addReg (aObsHs (stackOf a) w) n else s
/-- Count bytes of the memory traffic of a tag's region: word 6 T1_HIT, 7 T1_MISS, 9 T2_RD, 10 T2_WR (R522, R525). -/
def State.countT (s : State) (rtag w n : Nat) : State := if rtag < 256 then s.addCtr rtag w 0 n else s
/-- The owner that a record of a tag's access names. -/
def State.tagOwner (s : State) (rtag : Nat) : Option (Nat × Nat) := if rtag < 256 then some (partOwner (s.part0 rtag), rtag) else none
/-- Write words of a line at the half-stack for a tag, whose region counts them (R522, R525, R533; log entry 90). -/
def State.writeBack (s : State) (who a : Nat) (r : Row) (mask : BitVec 16) : State :=
  ((s.updMem fun m => m.putDramRow a r mask).countHs a 1 128).countT who 10 128
/-- Decode every word of a DRAM line (R451). -/
def State.decodeDram (s : State) (l : Nat) (own : Option (Nat × Nat)) : State :=
  (List.range 16).foldl (fun s w =>
    s.countWord (stackOf l) (count s.mem.upset (upsetDram (l + 8 * w))) (NatSet.mem s.mem.dramPoison (l / 8 + w)) (l + 8 * w) own) s
/-- Read a DRAM line at its half-stack for a tag: its words are decoded and its bytes counted (R451, R522, R533). -/
def State.readDram (s : State) (who l : Nat) : State := ((s.decodeDram l (s.tagOwner who)).countHs l 0 128).countT who 9 128

/-- Write back the copies of a line that lie outside a partition and are dirty; they stay, clean (R207, log entry 85). -/
def State.cleanOthers (s : State) (who i : Nat) (part : Option Nat) (l : Nat) : State :=
  let c := s.slice i
  let s := c.lines.foldl (fun s x => if x.addr = l && x.part != part && x.dirty then s.writeBack who l x.shown fullMask else s) s
  s.updSlice i fun c => { c with lines := c.lines.map fun x =>
    if x.addr == l && x.part != part && x.dirty then { x with row := x.shown, upset := [], dirty := false } else x }
/-- Write back and invalidate the copies of a line that lie outside a partition (R207). -/
def State.dropOthers (s : State) (who i : Nat) (part : Option Nat) (l : Nat) : State :=
  (s.cleanOthers who i part l).updSlice i fun c => { c with lines := c.lines.filter fun x => !(x.addr == l && x.part != part) }

/-- Put a line into its partition: the lowest invalid way, else the least recently used one, whose dirty line is written back
(R206, R208). Disabled ways take no part (R456). A partition without ways allocates nothing. -/
def State.allocLine (s : State) (who i : Nat) (part : Option Nat) (a : Nat) (dirty : Bool) (row : Row) : State :=
  let c := s.slice i
  let set := setOf a
  let ways := (s.waysAt part i a).filter fun w => !(NatSet.mem c.disabled (wayKey set w))
  let here := c.lines.filter fun l => setOf l.addr == set
  let new := fun (w : Nat) => (⟨w, a, part, dirty, row, c.clock, []⟩ : Line)
  match ways.find? fun w => !(here.any fun l => l.way == w) with
  | some w => s.updSlice i fun c => { c with lines := c.lines ++ [new w], clock := c.clock + 1 }
  | none =>
    match (here.filter fun l => ways.contains l.way).foldl (fun (b : Option Line) l =>
        match b with | none => some l | some x => if l.use < x.use then some l else some x) none with
    | none => if dirty then s.writeBack who a row fullMask else s
    | some v =>
      let s := if v.dirty then s.writeBack who v.addr v.shown fullMask else s
      s.updSlice i fun c => { c with
        lines := (c.lines.filter fun l => !(setOf l.addr == set && l.way == v.way)) ++ [new v.way], clock := c.clock + 1 }
/-- Note the use of a line. -/
def State.touchLine (s : State) (i : Nat) (part : Option Nat) (a : Nat) : State :=
  s.updSlice i fun c => { c with
    lines := c.lines.map (fun l => if l.addr == a && l.part == part then { l with use := c.clock } else l), clock := c.clock + 1 }

/-- A lookup reads the tag copies of one way (R456): the first that is not uncorrectable is used, and the other is rewritten from it;
where both are, the way is disabled, its line absent, and the loss logged. -/
def State.lookWay (s : State) (i set w : Nat) : State :=
  let k := wayKey set w
  let x := count (s.slice i).tags k
  let src := 16 + i / 16
  let put := fun (s : State) (v : Nat) => s.updSlice i fun c => { c with tags := FMap.set 0 c.tags k v }
  let counted := fun (s : State) (o : Nat) => if o = 0 then s else s.countErr src (o - 1)
  if x = 0 then s
  else
    let s := counted s (x % 4)
    if x % 4 != 3 then put s (x % 4)
    else
      let s := counted s (x / 4)
      if x / 4 != 3 then put s (4 * (x / 4))
      else
        let whr := i % 16 * 2 ^ 14 + w * 2 ^ 10 + set
        ((put s 0).logRec src 6 0 whr none).updSlice i fun c => { c with
          disabled := NatSet.ins c.disabled k, lines := c.lines.filter fun l => !(setOf l.addr == set && l.way == w) }
/-- A lookup of a set reads the tags of its ways (R456). -/
def State.lookTags (s : State) (i set : Nat) : State := (List.range 16).foldl (fun s w => s.lookWay i set w) s
/-- Look a line up in its partition for a read: its words are decoded, and a clean line that they spoil is invalidated and counted
as fetched again; a spoilt flash-window line is delivered and leaves, with its domain's T2 copy (R206, R455, R456). Answers the row,
if the slice delivers one. -/
def State.lookLine (s : State) (who i : Nat) (part : Option Nat) (a : Nat) : State × Option Row :=
  let s := s.lookTags i (setOf a)
  match (s.slice i).find part a with
  | none => (s.countT who 7 128, none)
  | some l =>
    let src := 16 + i / 16
    let drop := fun (s : State) => s.updSlice i fun c => { c with lines := c.lines.filter fun x => !(x.addr == a && x.part == part) }
    let decoded := fun (s : State) => (List.range 16).foldl (fun s w =>
      s.countWord src (count l.upset w) (l.row.poison.getLsbD w) (a + 8 * w) (s.tagOwner who)) s
    if l.refetched then
      ((drop ((List.range 16).foldl (fun (s : State) w =>
        let u := count l.upset w
        if u != 0 then s.countErr src (u - 1) else if l.row.poison.getLsbD w then s.countErr src 3 else s) (s.countErr src 4))).countT who 7 128, none)
    else if l.shown.poison != 0 && decide (flashBase ≤ a) then
      let k := copyKey (s.domainOf who) (sheetOf a)
      let gone := fun (m : MemSt) =>
        { m with copies := FMap.set Copy.none m.copies k { (FMap.get Copy.none m.copies k) with t2 := false } }
      (((drop (decoded s)).countT who 6 128).updMem gone, some l.shown)
    else (((decoded s).touchLine i part a).countT who 6 128, some l.shown)

/-- A demand read of a DRAM line that its requester waits for at once: a hit, or a read at the half-stack whose line `alloc` puts
into the partition (R206, R207). What it delivers is `lineRow`. -/
def State.readLine (s : State) (who : Nat) (part : Option Nat) (alloc : Bool) (l : Nat) : State :=
  let i := s.homeSlice l
  let z := s.lookLine who i part l
  match z.2 with
  | some _ => z.1
  | none =>
    let s := (z.1.cleanOthers who i part l).readDram who l
    if alloc && !(s.waysAt part i l).isEmpty then s.allocLine who i part l false (s.mem.dramRow l) else s
/-- The lines of [a, a + n). -/
def lineList (a n : Nat) : List Nat := if n = 0 then [] else (List.range ((a + n - 1) / 128 + 1 - a / 128)).map fun i => 128 * (a / 128 + i)
/-- The hub reads [a, a + n) of DRAM through the slices, in the shared pool, on behalf of region `who`, or of none (R206, R522). -/
def State.hubRead (s : State) (who a n : Nat) : State := (lineList a n).foldl (fun s l => s.readLine who none true l) s
/-- The partition that serves region `r` on the home die of a line (R207). -/
def State.partFor (s : State) (r l : Nat) : Option Nat := s.partitionOf r (s.homeDie l)
/-- An OU reads [a, a + n) for region `r`: a miss goes to DRAM without allocating (R206). -/
def State.ouFetch (s : State) (r a n : Nat) : State := (lineList a n).foldl (fun s l => s.readLine r (s.partFor r l) false l) s
/-- A unit of region `r` reads [a, a + n) (R206). -/
def State.muRead (s : State) (r a n : Nat) : State := (lineList a n).foldl (fun s l => s.readLine r (s.partFor r l) true l) s

/-- Write words of a line at its home slice: copies outside the partition go; a held line is updated in place; one that is not is
allocated where `alloc` says so, with `old` the line's earlier contents, else the words go to the half-stack (R206, R207). -/
def State.writeLine (s : State) (who i : Nat) (part : Option Nat) (alloc : Bool) (l : Nat) (r : Row) (mask : BitVec 16) : State :=
  let s := (s.lookTags i (setOf l)).dropOthers who i part l
  match (s.slice i).find part l with
  | some _ =>
    (s.updSlice i fun c => { c with lines := c.lines.map fun x =>
      if x.addr == l && x.part == part then
        { x with row := Row.merge x.row r mask, dirty := true,
                 upset := (List.range 16).foldl (fun u w => if mask.getLsbD w then FMap.set 0 u w 0 else u) x.upset }
      else x }).touchLine i part l
  | none =>
    if !alloc || (s.waysAt part i l).isEmpty then s.writeBack who l r mask
    else if mask == fullMask then s.allocLine who i part l true r
    else s.allocLine who i part l true (Row.merge (s.mem.dramRow l) r mask)
/-- The lookup of a write that is performed at once is counted (R522). -/
def State.countWrite (s : State) (who i : Nat) (part : Option Nat) (l : Nat) : State :=
  s.countT who (if ((s.slice i).find part l).isSome then 6 else 7) 128
/-- A write of the hub on behalf of region `who`, or of none, in the shared pool, which allocates: a partial write that misses reads
the line first (R206, R207, R211). -/
def State.putLineFor (s : State) (who a : Nat) (r : Row) (mask : BitVec 16) : State :=
  let l := lineOf a
  let i := s.homeSlice l
  let s := s.countWrite who i none l
  let s := if mask == fullMask || ((s.slice i).find none l).isSome || (s.waysAt none i l).isEmpty then s else s.readDram who l
  s.writeLine who i none true l r mask
/-- A write of the hub on behalf of no region. -/
def State.putLine (s : State) (a : Nat) (r : Row) (mask : BitVec 16) : State := s.putLineFor 256 a r mask
/-- A write that does not allocate: an OU's for region `r`, or, with 256, a collective's in the shared pool (R206, log entry 19). -/
def State.putThrough (s : State) (r a : Nat) (row : Row) (mask : BitVec 16) : State :=
  let l := lineOf a
  let i := s.homeSlice l
  (s.countWrite r i (s.partFor r l) l).writeLine r i (s.partFor r l) false l row mask

/-- The slice to which a request of a tag for an address goes (R205, R283). -/
def State.requestSlice (s : State) (tag a : Nat) : Nat :=
  if isFlash a 1 then 16 * s.sheetDie (s.domainOf tag) (sheetOf a) + a / 128 % 16 else s.homeSlice a

/-! ### Words of device memory -/

/-- Word w of a row. -/
def Row.word (r : Row) (w : Nat) : W64 := r.data.extractLsb' (64 * w) 64
/-- A row of zeros but for word w. -/
def Row.ofWord (w : Nat) (v : W64) (p : Bool) : Row :=
  ⟨BitVec.ofNat 1024 (v.toNat * 2 ^ (64 * w)), if p then BitVec.ofNat 16 (2 ^ w) else 0⟩
/-- The aligned 8-byte word at a DRAM address. -/
def State.devWord (s : State) (a : Nat) : W64 := Row.word (s.lineRow a) (a % 128 / 8)
/-- Whether that word is poison-marked. -/
def State.devMark (s : State) (a : Nat) : Bool := (s.lineRow a).poison.getLsbD (a % 128 / 8)
/-- Write one aligned word. -/
def State.putDevWord (s : State) (a : Nat) (v : W64) (p : Bool) : State :=
  s.putLine a (Row.ofWord (a % 128 / 8) v p) (BitVec.ofNat 16 (2 ^ (a % 128 / 8)))
/-- Put words, one after another, at every eighth address. -/
def putWords (put : State → Nat → W64 → State) : State → Nat → List W64 → State
  | s, _, [] => s
  | s, a, w :: ws => putWords put (put s a w) (a + 8) ws
/-- Write a list of words from an aligned address. -/
def State.putDevWords (s : State) (a : Nat) (l : List W64) : State := putWords (fun s a w => s.putDevWord a w false) s a l

/-- The entries of the function address map that hold [a, a + n) for a function (R377). -/
def State.mapEnts (s : State) (fn a n : Nat) : List MapEnt :=
  s.cfg.map.filter fun e => e.owner == fn && decide (a < e.base + e.len) && decide (e.base < a + n)
/-- [a, a + n) is covered by the union of a function's entries that satisfy `p`, walking upwards. -/
def State.mapCovers (s : State) (fn : Nat) (p : MapEnt → Bool) : Nat → Nat → Nat → Bool
  | _, 0, _ => true
  | a, n, fuel =>
    match fuel with
    | 0 => false
    | k + 1 =>
      match s.cfg.map.find? fun e => e.owner == fn && p e && decide (e.base ≤ a) && decide (a < e.base + e.len) with
      | none => false
      | some e => if a + n ≤ e.base + e.len then true else State.mapCovers s fn p (e.base + e.len) (a + n - (e.base + e.len)) k
/-- Every byte of [a, a + n) is mapped to the function with the accesses asked (R377, R378). -/
def State.mapped (s : State) (fn a n : Nat) (p : MapEnt → Bool) : Bool := s.mapCovers fn p a n (s.cfg.map.length + 1)
/-- DRAM readable to a function. -/
def entDram (rd wr : Bool) (e : MapEnt) : Bool := e.kind == 0 && (!rd || e.rd) && (!wr || e.wr)
/-- A host window with accesses and a port (bit 0 port A, bit 1 port B). -/
def entHost (rd wr : Bool) (port : Nat) (e : MapEnt) : Bool :=
  e.kind == 2 && (!rd || e.rd) && (!wr || e.wr) && e.ports / 2 ^ port % 2 == 1
/-- The host bus address of a host window address (R377). -/
def State.hostAddr (s : State) (fn a : Nat) : Nat :=
  match s.cfg.map.find? fun e => e.owner == fn && e.kind == 2 && decide (e.base ≤ a) && decide (a < e.base + e.len) with
  | some e => e.haddr + (a - e.base)
  | none => 0

/-- The aligned word at a device address of a function: DRAM, a host window, or the flash window's presented bytes. -/
def State.fnWord (s : State) (fn a : Nat) : W64 :=
  if a < 16 * halfStack then s.devWord a
  else if isFlash a 8 then BitVec.ofNat 64 (Mem.readNat s.mem.flash a 8)
  else BitVec.ofNat 64 (Mem.readNat s.host.mem (s.hostAddr fn a) 8)
/-- Its mark. -/
def State.fnMark (s : State) (fn a : Nat) : Bool :=
  if a < 16 * halfStack then s.devMark a
  else if isFlash a 8 then NatSet.mem s.mem.flashBad (a / 4096)
  else NatSet.mem s.host.poison (s.hostAddr fn a / 8)
/-- `n` aligned words from a device address of a function. -/
def State.fnWords (s : State) (fn a : Nat) : Nat → List W64
  | 0 => []
  | n + 1 => s.fnWord fn a :: State.fnWords s fn (a + 8) n
/-- Whether any of `n` words is poison-marked. -/
def State.fnMarks (s : State) (fn a : Nat) : Nat → Bool
  | 0 => false
  | n + 1 => s.fnMark fn a || State.fnMarks s fn (a + 8) n
/-- Write one word to a device address of a function. -/
def State.putFnWord (s : State) (fn a : Nat) (v : W64) (p : Bool) : State :=
  if a < 16 * halfStack then s.putDevWord a v p
  else if isHostWin a 8 then
    let h := s.hostAddr fn a
    s.updHost fun x => { x with mem := Mem.writeNat x.mem h v.toNat 8, poison := NatSet.put x.poison (h / 8) p }
  else s
/-- Write words, all unmarked. -/
def State.putFnWords (s : State) (fn a : Nat) (l : List W64) : State := putWords (fun s a w => s.putFnWord fn a w false) s a l

/-- Decode the words of scratchpad bytes [o, o + n) of MU `m`, and count the bytes read (R451, R525 SP_RD). -/
def State.decodeSpad (s : State) (m o n : Nat) : State :=
  let own := s.ownerOf m
  let s := if n = 0 then s else s.addUnitCtr m 4 0 n
  ((List.range ((n + o % 8 + 7) / 8)).map (8 * (o / 8) + 8 * ·)).foldl (fun s a =>
    let k := spadKey m a
    s.countWord (32 + unitDie m) (count s.mem.upset (upsetSpad k)) (NatSet.mem s.mem.spadPoison (k / 8))
      (unitX m * 2 ^ 52 + unitY m * 2 ^ 58 + a) own) s
/-- A write of `n` scratchpad bytes of MU `m` at offset `o` is granted: they are counted, and the output rows of dispatched
requests among them are marked (R370, R525 SP_WR). -/
def State.spadWritten (s : State) (m o n : Nat) : State :=
  let s := if n = 0 then s else s.addUnitCtr m 5 0 n
  let mark := fun (q : FeedReq) =>
    if q.inst.isSome && q.w1.bits 35 24 == m then
      let first := q.w1.bits 47 36 + 8 * q.k.getD 0
      let rows := (List.range ((q.w1.bits 61 51 + 127) / 128)).filter fun i =>
        decide (128 * (first + i) < o + n) && decide (o < 128 * (first + i + 1))
      { q with marks := rows.foldl NatSet.ins q.marks }
    else q
  if n = 0 || s.feed.reqs.isEmpty then s else { s with feed := { s.feed with reqs := s.feed.reqs.map mark } }

/-! ### Time -/

/-- The step and figure in force (R251). -/
def State.stepDt (s : State) : Nat := s.cfg.stepdt
/-- The figure's length in dt. -/
def State.figDt (s : State) : Nat := s.cfg.stepdt * s.cfg.steps
/-- A time is a step boundary. -/
def State.onStep (s : State) (t : Nat) : Bool := decide (0 < s.stepDt) && t % s.stepDt == 0
/-- A time is a figure boundary. -/
def State.onFigure (s : State) (t : Nat) : Bool := decide (0 < s.figDt) && t % s.figDt == 0
/-- The next step boundary after the present. -/
def State.nextStep (s : State) : Nat := (s.time.now / s.stepDt + 1) * s.stepDt

/-! ### Where the module stands (R40, R478, R483) -/

/-- Main power is on and the module is out of Reset. -/
def State.awake (s : State) : Bool := s.power.st == .bringup || s.power.st == .ready
/-- Stage `n` of this bring-up is completed: DONE 0xF means none (R478). -/
def State.stageDone (s : State) (n : Nat) : Bool := let d := s.regBits aHubStage 3 0; d != 15 && decide (n ≤ d)
/-- Stage `n` is completed or in progress. -/
def State.stageReached (s : State) (n : Nat) : Bool := s.stageDone n || s.regBits aHubStage 7 4 == n
/-- A write of the host to a PF BAR0 register is taken: outside the hub block, from the end of stage 1 on (R483). -/
def State.pfOpen (s : State) (off : Nat) : Bool := s.awake && (decide (off < 0x100000) || s.stageDone 1)
/-- The outcome of a host's write to a register at `off`. -/
def State.pfWrite (s : State) (off : Nat) (t : State) : Out := .next (if s.pfOpen off then t else s)

/-! ### Handles and commands in flight (R19, R145–R146, R345–R347) -/

/-- A handle from its fields (R19). -/
def mkHandle (fn slot gen seq : Nat) : W64 :=
  BitVec.ofNat 64 (fn % 4096 * 2 ^ 52 + slot % 65536 * 2 ^ 36 + gen % 65536 * 2 ^ 20 + seq % 2 ^ 20)
/-- The function of a handle. -/
def handleFn (h : W64) : Nat := h.bits 63 52
/-- The slot of a handle. -/
def handleSlot (h : W64) : Nat := h.bits 51 36
/-- The generation of a handle. -/
def handleGen (h : W64) : Nat := h.bits 35 20
/-- The command a handle names, if it is in flight. -/
def State.cmd (s : State) (h : W64) : Option Cmd := s.host.cmds.find? fun c => c.handle == h
/-- Change the command a handle names. -/
def State.updCmd (s : State) (h : W64) (f : Cmd → Cmd) : State :=
  s.updHost fun x => { x with cmds := x.cmds.map fun c => if c.handle == h then f c else c }
/-- Command word `i` (R348). -/
def Cmd.word (c : Cmd) (i : Nat) : W64 := c.words.getD i 0
/-- The opcode; 0 for a feed request (R352). -/
def Cmd.opcode (c : Cmd) : Nat := (c.word 0).bits 7 0
/-- The command is done: its completion is due at the next step boundary (R355). -/
def State.due (s : State) (h : W64) (status : Nat) (detail : Nat) : State :=
  s.updCmd h fun c => { c with phase := .due, status := status, detail := BitVec.ofNat 64 (detail % 2 ^ 63) }
/-- The feed requests accepted for region `r` whose completion is not written (R146). -/
def State.regionReqs (s : State) (r : Nat) : List Cmd := s.host.cmds.filter fun c => c.words.isEmpty && c.region == r
/-- The handle that a fault record names (R145): the RUN or STEP taken up, else the oldest request. -/
def State.flightHandle (s : State) (r : Nat) : Option W64 :=
  match (s.rgn r).run with
  | some x => some x.handle
  | none => (s.regionReqs r).head?.map (·.handle)
/-- A command is in flight on region `r` (R146). -/
def State.inFlight (s : State) (r : Nat) (c : Cmd) : Bool :=
  ((s.rgn r).run.map (·.handle) == some c.handle || (c.words.isEmpty && c.region == r)) && c.phase != .due
/-- The device time before which the record of a command that a fault ended is not written, at this key of its `aux` (R146, R241). -/
def afterStage : Nat := 11
/-- A fault's status falls on each command and request in flight on region `r`, due at the next step boundary, or is held
for the region; `seq` is the record's (R141, R146). -/
def State.regionFault (s : State) (r status seq : Nat) : State :=
  let hit := s.host.cmds.filter (s.inFlight r)
  if hit.isEmpty then
    (if (s.flightHandle r).isSome then s
     else s.updRgn r fun g => { g with held := match g.held with | none => some (status, seq) | some p => some p })
  else
    let reqs := s.feed.reqs.map fun q =>
      if hit.any (fun c => c.words.isEmpty && c.handle == q.handle) && !q.sent
      then { q with answered := some (status, []) } else q
    let cmds := s.host.cmds.map fun c =>
      if s.inFlight r c then
        { c with phase := .due, status := status, detail := if c.words.isEmpty then c.detail else BitVec.ofNat 64 seq,
                 aux := FMap.set 0 c.aux afterStage (s.time.now + 1) }
      else c
    { s with feed := { s.feed with reqs := reqs }, host := { s.host with cmds := cmds } }
/-- DOMAIN_DOWN reached region `r`: its RUN or STEP completes with it where it would otherwise have been written, and its
requests are answered under R37 (R218). -/
def State.regionDown (s : State) (r : Nat) : State :=
  s.updRgn r fun g => { g with fstat := some (6, s.time.now) }

/-! ### Detector edges (R268) -/

/-- An edge reaches detector `d` of region `r`: it is latched in order, the first on ARMED, the second on FIRST. -/
def State.latchEdge (s : State) (r d : Nat) (second : Bool) : State :=
  let x := FMap.get Det.idle (s.rgn r).dets d
  if x.st = (if second then 2 else 1) then
    s.updRgn r fun g => { g with dets := FMap.set Det.idle g.dets d { x with st := x.st + 1 } }
  else s
/-- An edge reaches the detectors of region `r` whose ARM operand `p` picks. -/
def State.latchWhere (s : State) (r : Nat) (p : W64 → Bool) (second : Bool) : State :=
  ((s.rgn r).dets.filter fun e => p e.2.op).foldl (fun s e => s.latchEdge r e.1 second) s
/-- The input buffer of engine `e` of MU `m` goes from `old` tokens to `new`: it reaches THR of a detector of SRC 1 that names it, or
falls below it. -/
def State.levelEdge (s : State) (m e old new : Nat) : State :=
  match s.regionOf m with
  | none => s
  | some r =>
    let names := fun (op : W64) => op.bits 1 0 == 1 && op.bits 7 2 == unitX m && op.bits 13 8 == unitY m && op.bits 15 14 == e
    let s := s.latchWhere r (fun op => names op && decide (old < op.bits 19 16) && decide (op.bits 19 16 ≤ new)) false
    s.latchWhere r (fun op => names op && decide (op.bits 19 16 ≤ old) && decide (new < op.bits 19 16)) true

/-! ### Trace records (R530–R532) -/

/-- Emit a trace record of region `r`: it enters die `d`'s buffer of 64, or is dropped there (R530, R532). -/
def State.emitTrace (s : State) (r d kind x y ce data : Nat) (h : Option W64) : State :=
  if (FMap.get (0 : W64) s.cfg.trc0 r).bit 57 && (FMap.get (0 : W64) s.cfg.trc1 r).bit kind then
    let w0 := match h.bind s.cmd with | some c => c.word 0 | none => 0
    let record : TraceRec := ⟨r, s.time.now, kind, x, y, ce, BitVec.ofNat 32 data, w0.bits 47 32, w0.bits 63 48, h.getD 0⟩
    let l := FMap.get ([] : List TraceRec) s.traces d
    if l.length < 64 then { s with traces := FMap.set ([] : List TraceRec) s.traces d (l ++ [record]) }
    else (s.updRgn r fun g => { g with trLost := g.trLost + 1 }).addCtr r 26 1 1
  else s
/-- The die whose agent takes a region's own events: its lowest. -/
def State.traceDie (s : State) (r : Nat) : Nat := (s.regionDies r).headD 0

/-! ### Fault records (R144, R145, R188) -/

/-- Write a 64-byte record into the region's area at its next SEQ and advance it: words 2 to 5 and 7 are the record's own
(R144, R145). Answers the SEQ used. -/
def State.faultRecord (s : State) (r u ce w2 w3 w4 w5 w7 : Nat) : Nat × State :=
  let g := s.rgn r
  let seq := g.seq
  let h := s.flightHandle r
  let w2 := w2 + (if h.isSome then 2 ^ 42 else 0)
  let ws := [h.getD 0, BitVec.ofNat 64 s.time.now, BitVec.ofNat 64 w2, BitVec.ofNat 64 w3, BitVec.ofNat 64 w4,
    BitVec.ofNat 64 w5, BitVec.ofNat 64 seq, BitVec.ofNat 64 w7]
  let s := match g.img with
    | some i => s.putDevWords (i.fra + 64 * (seq % 64)) ws
    | none => s
  let s := s.updRgn r fun g => { g with seq := (g.seq + 1) % 2 ^ 32 }
  (seq, s.emitTrace r (unitDie u) 3 (unitX u) (unitY u) ce seq h)

end Sys2Proof.Machine
end

