-- ==== Sys2Proof/Machine/Hash.lean ====
section
/-! DEFINITION. Checks and digests over bytes: SHA-256 (R497), the CRC-32 of a frame (R407), the CRC-32C of a class L leaf
(R292) and the packet error code of SMBus (R514). -/

namespace Sys2Proof.Machine

/-- The little-endian number of bytes (R10). -/
def leNat : List Byte → Nat
  | [] => 0
  | b :: l => b.toNat + 256 * leNat l
/-- The `n` low bytes of a number, little-endian (R10). -/
def leBytes (v : Nat) : Nat → List Byte
  | 0 => []
  | n + 1 => BitVec.ofNat 8 v :: leBytes (v / 256) n
/-- The words of bytes, eight at a time. -/
def leWords : List Byte → Nat → List W64
  | _, 0 => []
  | l, n + 1 => BitVec.ofNat 64 (leNat (l.take 8)) :: leWords (l.drop 8) n

/-! ### CRCs -/

/-- One bit of a reflected CRC. -/
def crcBit (poly : W32) (c : W32) : W32 := if c.getLsbD 0 then (c >>> 1) ^^^ poly else c >>> 1
/-- One byte of a reflected CRC. -/
def crcByte (poly c : W32) (b : Byte) : W32 :=
  (List.range 8).foldl (fun c _ => crcBit poly c) (c ^^^ BitVec.ofNat 32 b.toNat)
/-- A reflected CRC with an initial value and a final XOR of all ones. -/
def crcOf (poly : W32) (l : List Byte) : W32 := (l.foldl (crcByte poly) 0xffffffff) ^^^ 0xffffffff
/-- The CRC-32 of IEEE 802.3 (R407). -/
def crc32 (l : List Byte) : W32 := crcOf 0xedb88320 l
/-- The CRC-32C (R292). -/
def crc32c (l : List Byte) : W32 := crcOf 0x82f63b78 l
/-- One byte of the packet error code: polynomial x^8 + x^2 + x + 1 (R514). -/
def pecByte (c b : Byte) : Byte :=
  (List.range 8).foldl (fun (c : Byte) _ => if c.getLsbD 7 then (c <<< 1) ^^^ 0x07 else c <<< 1) (c ^^^ b)
/-- The packet error code of bytes (R514). -/
def pecOf (l : List Byte) : Byte := l.foldl pecByte 0

/-! ### SHA-256 (R497) -/

/-- The round constants. -/
def shaK : List W32 :=
  [0x428a2f98, 0x71374491, 0xb5c0fbcf, 0xe9b5dba5, 0x3956c25b, 0x59f111f1, 0x923f82a4, 0xab1c5ed5] ++
  [0xd807aa98, 0x12835b01, 0x243185be, 0x550c7dc3, 0x72be5d74, 0x80deb1fe, 0x9bdc06a7, 0xc19bf174] ++
  [0xe49b69c1, 0xefbe4786, 0x0fc19dc6, 0x240ca1cc, 0x2de92c6f, 0x4a7484aa, 0x5cb0a9dc, 0x76f988da] ++
  [0x983e5152, 0xa831c66d, 0xb00327c8, 0xbf597fc7, 0xc6e00bf3, 0xd5a79147, 0x06ca6351, 0x14292967] ++
  [0x27b70a85, 0x2e1b2138, 0x4d2c6dfc, 0x53380d13, 0x650a7354, 0x766a0abb, 0x81c2c92e, 0x92722c85] ++
  [0xa2bfe8a1, 0xa81a664b, 0xc24b8b70, 0xc76c51a3, 0xd192e819, 0xd6990624, 0xf40e3585, 0x106aa070] ++
  [0x19a4c116, 0x1e376c08, 0x2748774c, 0x34b0bcb5, 0x391c0cb3, 0x4ed8aa4a, 0x5b9cca4f, 0x682e6ff3] ++
  [0x748f82ee, 0x78a5636f, 0x84c87814, 0x8cc70208, 0x90befffa, 0xa4506ceb, 0xbef9a3f7, 0xc67178f2]
/-- The initial hash value. -/
def shaInit : List W32 := [0x6a09e667, 0xbb67ae85, 0x3c6ef372, 0xa54ff53a, 0x510e527f, 0x9b05688c, 0x1f83d9ab, 0x5be0cd19]
/-- Word `i` of a list. -/
def shaAt (l : List W32) (i : Nat) : W32 := l.getD i 0
/-- The message padded to whole blocks. -/
def shaPad (l : List Byte) : List Byte :=
  let n := l.length
  l ++ [0x80] ++ List.replicate ((119 - n % 64) % 64) 0 ++ (leBytes (8 * n) 8).reverse
/-- The big-endian words of bytes. -/
def beWords : List Byte → Nat → List W32
  | _, 0 => []
  | l, n + 1 => BitVec.ofNat 32 (leNat (l.take 4).reverse) :: beWords (l.drop 4) n
/-- The message schedule, newest word first. -/
def shaSched : Nat → List W32 → List W32
  | 0, w => w
  | n + 1, w =>
    let x := shaAt w 14
    let y := shaAt w 1
    let s0 := x.rotateRight 7 ^^^ x.rotateRight 18 ^^^ (x >>> 3)
    let s1 := y.rotateRight 17 ^^^ y.rotateRight 19 ^^^ (y >>> 10)
    shaSched n ((shaAt w 15 + s0 + shaAt w 6 + s1) :: w)
/-- One round. -/
def shaRound (h : List W32) (kw : W32 × W32) : List W32 :=
  let a := shaAt h 0
  let e := shaAt h 4
  let s1 := e.rotateRight 6 ^^^ e.rotateRight 11 ^^^ e.rotateRight 25
  let ch := (e &&& shaAt h 5) ^^^ (~~~e &&& shaAt h 6)
  let t1 := shaAt h 7 + s1 + ch + kw.1 + kw.2
  let s0 := a.rotateRight 2 ^^^ a.rotateRight 13 ^^^ a.rotateRight 22
  let maj := (a &&& shaAt h 1) ^^^ (a &&& shaAt h 2) ^^^ (shaAt h 1 &&& shaAt h 2)
  [t1 + (s0 + maj), a, shaAt h 1, shaAt h 2, shaAt h 3 + t1, e, shaAt h 5, shaAt h 6]
/-- One block. -/
def shaBlock (h : List W32) (l : List Byte) : List W32 :=
  let w := (shaSched 48 (beWords l 16).reverse).reverse
  List.zipWith (· + ·) h ((shaK.zip w).foldl shaRound h)
/-- Blocks in order. -/
def shaBlocks : Nat → List W32 → List Byte → List W32
  | 0, h, _ => h
  | n + 1, h, l => shaBlocks n (shaBlock h (l.take 64)) (l.drop 64)
/-- SHA-256 (FIPS 180-4). -/
def sha256 (l : List Byte) : List Byte :=
  let p := shaPad l
  (shaBlocks (p.length / 64) shaInit p).flatMap fun w => (leBytes w.toNat 4).reverse
/-- A digest: the first 16 bytes, byte i at bits [8i+7:8i] (R497). -/
def digestOf (l : List Byte) : BitVec 128 := BitVec.ofNat 128 (leNat ((sha256 l).take 16))

/-! ### Watermarks (R446, R495, R496, R498) -/

/-- The module's feature level. -/
def State.flevel (s : State) : Nat := s.regBits (aGlFlevel 0) 15 0
/-- The grid in force, as both blocks hold it. -/
def State.gridBytes (s : State) : List Byte := leBytes s.cfg.stepdt 2 ++ leBytes s.cfg.steps 4 ++ leBytes s.cfg.cycle 2
/-- The block M of the module watermark (R495). -/
def State.wmBlock (s : State) : List Byte :=
  let n := s.reg (aGlNode 0)
  [1, 0, 0, 0] ++ leBytes s.flevel 2 ++ [0, 0] ++ s.gridBytes ++ leBytes s.cfg.wmtag.toNat 8 ++
    [BitVec.ofNat 8 (n.bits 24 18), BitVec.ofNat 8 (n.bits 31 25), BitVec.ofNat 8 (n.bits 38 32)] ++ List.replicate 5 0 ++
    (List.range 256).flatMap fun r => leBytes (mergeBits (s.part0 r) 0 (maskBits 27 16)).toNat 8 ++ leBytes (s.part1 r).toNat 8
/-- Word `w` of group entry `g` in force. -/
def State.grpWord (s : State) (g w : Nat) : W64 := (FMap.get ([] : List W64) s.cfg.grp g).getD w 0
/-- The block G of a group watermark (R496). -/
def State.grpBlock (s : State) (g : Nat) : List Byte :=
  let w0 := s.grpWord g 0
  let w1 := s.grpWord g 1
  [2, 0, 0, 0] ++ leBytes (w0.bits 60 45) 2 ++ leBytes (w0.bits 15 0) 2 ++ s.gridBytes ++ leBytes (s.grpWord g 2).toNat 8 ++
    leBytes (w1.bits 41 0 + w0.bits 41 36 * 2 ^ 42 + w0.bits 44 42 * 2 ^ 48) 8
/-- Compute the module watermark (R498). -/
def State.computeWm (s : State) : State :=
  let d := digestOf s.wmBlock
  let s := { s with wmDigest := d, digestBad := NatSet.del s.digestBad 64 }
  ((s.setReg aWmLo (d.extractLsb' 0 64)).setReg aWmHi (d.extractLsb' 64 64)).setReg aWmTime (BitVec.ofNat 64 s.time.now)
/-- Compute the watermark of group entry `g` (R446). -/
def State.computeGrp (s : State) (g : Nat) : State :=
  let d := digestOf (s.grpBlock g)
  let s := { s with digestBad := NatSet.del s.digestBad g }
  (s.setReg (aCeGrp g 4) (d.extractLsb' 0 64)).setReg (aCeGrp g 5) (d.extractLsb' 64 64)
/-- The digest of a group entry. -/
def State.grpDigest (s : State) (g : Nat) : BitVec 128 := (s.reg (aCeGrp g 5) ++ s.reg (aCeGrp g 4) : BitVec 128)

end Sys2Proof.Machine
end

