-- ==== Sys2Proof/Machine/Convert.lean ====
section
/-! DEFINITION. What a stream descriptor says (R162), the rows its address program forms (R165, R166), and the conversions
between the memory side and a token (R55, R71, R168–R172). -/

namespace Sys2Proof.Machine

/-! ### Descriptor fields (R162) -/

/-- A descriptor: eight 64-bit words. -/
abbrev Desc := List W64
/-- Word `i` of a descriptor. -/
def dWord (d : Desc) (i : Nat) : W64 := d.getD i 0
def dAgp (d : Desc) : Nat := (dWord d 0).bits 63 62
def dKind (d : Desc) : Nat := (dWord d 0).bits 61 58
def dLink (d : Desc) : Nat := (dWord d 0).bits 57 56
def dChan (d : Desc) : Nat := (dWord d 0).bits 55 54
def dMfmt (d : Desc) : Nat := (dWord d 0).bits 53 50
def dRfmt (d : Desc) : Nat := (dWord d 0).bits 49 48
def dRnd (d : Desc) : Nat := (dWord d 0).bits 47 46
def dBs (d : Desc) : Nat := 8 * 2 ^ (dWord d 0).bits 45 44
def dAxis (d : Desc) : Nat := (dWord d 0).bits 43 43
def dSeedkeep (d : Desc) : Bool := (dWord d 0).bit 42
def dLast (d : Desc) : Bool := (dWord d 0).bit 41
def dSclr (d : Desc) : Bool := (dWord d 0).bit 40
def dDw (d : Desc) : Nat := (dWord d 0).bits 39 39
def dTile (d : Desc) : Nat := (dWord d 0).bits 37 33 + 1
def dGroup (d : Desc) : Nat := (dWord d 0).bits 32 25
def dAbase (d : Desc) : Nat := (dWord d 1).bits 51 0
def dBbase (d : Desc) : Nat := (dWord d 2).bits 51 0
def dSlot (d : Desc) (i : Nat) : Nat := (dWord d 3).bits (16 * i + 15) (16 * i)
def dHold (d : Desc) (i : Nat) : W64 := dWord d (4 + i)
def dSeed (d : Desc) : Nat := (dWord d 6).bits 31 0
def dTbase (d : Desc) : Nat := (dWord d 6).bits 50 32
def dRlo (d : Desc) : Nat := (dWord d 7).bits 11 0
def dRhi (d : Desc) : Nat := (dWord d 7).bits 23 12
def dRv (d : Desc) : Bool := (dWord d 7).bit 24

/-- The descriptor's rows come from a device window. -/
def dFromDev (d : Desc) : Bool := dKind d == 0 || dKind d == 1
/-- Its rows go to a device window. -/
def dToDev (d : Desc) : Bool := dKind d == 3 || dKind d == 5
/-- Its element side is a device window (R159). -/
def dDevSide (d : Desc) : Bool := dFromDev d || dToDev d
/-- A copy kind (R159). -/
def dCopy (d : Desc) : Bool := dKind d == 0 || dKind d == 3
/-- A kind that writes the scratchpad (R176). -/
def dWritesSp (d : Desc) : Bool := dKind d == 0 || dKind d == 4
/-- A kind that sends tokens. -/
def dSends (d : Desc) : Bool := dKind d == 1 || dKind d == 2
/-- A kind that consumes tokens. -/
def dTakes (d : Desc) : Bool := dKind d == 4 || dKind d == 5
/-- A block memory format. -/
def dBlock (d : Desc) : Bool := decide (3 ≤ dMfmt d) && decide (dMfmt d ≤ 7)
/-- Bits of an element in memory (R168); a copy row has 32 elements of 4 bytes (R166). -/
def dWidth (d : Desc) : Nat :=
  if dCopy d then 32
  else match dMfmt d with
    | 1 => 16 | 3 => 8 | 4 => 8 | 5 => 6 | 6 => 6 | 7 => 4 | 8 => 8 | 9 => 16 | _ => 32
/-- The block format code of MFMT (R168) as of R117. -/
def dBlockCode (d : Desc) : Nat := dMfmt d - 2
/-- Rows that share one scale set (R170). -/
def dPeriod (d : Desc) : Nat := if !dBlock d then 1 else if dAxis d = 1 then dBs d else if dBs d = 64 then 2 else 1
/-- Scale bytes that a set holds at its row's b (R170). -/
def dScaleBytes (d : Desc) : Nat := if !dBlock d then 0 else if dAxis d = 1 then 32 else (32 + dBs d - 1) / dBs d
/-- Element bytes of `lanes` lanes. -/
def dElemBytes (d : Desc) (lanes : Nat) : Nat := (lanes * dWidth d + 7) / 8
/-- Scale bytes that row r accesses at its b; zero rows access none (R170). -/
def dScaleSpan (d : Desc) (r lanes : Nat) : Nat := if lanes = 0 || r % dPeriod d ≠ 0 then 0 else dScaleBytes d

/-! ### Address programs (R165, R166) -/

/-- A signed 32-bit field. -/
def s32 (n : Nat) : Int := sext 32 n
/-- The LEVEL instruction of level `l`. -/
def agpLevel (p : List W64) (l : Nat) : Option W64 := p.find? fun w => w.bits 63 60 == 1 && w.bits 59 57 == l
/-- The number of levels. -/
def agpLevels (p : List W64) : Nat := (p.filter fun w => w.bits 63 60 == 1).length
/-- The count of a level (R166). -/
def agpCount (p : List W64) (d : Desc) (l : Nat) : Nat :=
  match agpLevel p l with
  | none => 1
  | some w => (if w.bit 8 then dSlot d (w.bits 7 6) else w.bits 56 41) + 1
/-- The counts, outermost first. -/
def agpCounts (p : List W64) (d : Desc) : List Nat := (List.range (agpLevels p)).map (agpCount p d)
/-- The row count. -/
def agpRows (p : List W64) (d : Desc) : Nat := (agpCounts p d).foldl (· * ·) 1
/-- The index tuple of row `r`, outermost first: the innermost level advances fastest. -/
def agpTuple : List Nat → Nat → List Nat
  | [], _ => []
  | _ :: cs, r => let n := cs.foldl (· * ·) 1; (r / n) :: agpTuple cs (r % n)
/-- The A stride of a level. -/
def agpSa (p : List W64) (l : Nat) : Int := match agpLevel p l with | none => 0 | some w => s32 (w.bits 40 9)
/-- The B stride of a level: zero without BSTRIDE. -/
def agpSb (p : List W64) (l : Nat) : Int :=
  match p.find? fun w => w.bits 63 60 == 2 && w.bits 59 57 == l with
  | none => 0
  | some w => s32 (w.bits 56 25)
/-- The INDIRECT of target `t`: level and shift. -/
def agpInd (p : List W64) (t : Nat) : Option (Nat × Nat) :=
  (p.find? fun w => w.bits 63 60 == 3 && w.bits 56 56 == t).map fun w => (w.bits 59 57, w.bits 55 52)
/-- The real lanes of a row (R166 EDGE). -/
def agpLanes (p : List W64) (d : Desc) (idx : List Nat) : Nat :=
  p.foldl (fun lanes w =>
    if w.bits 63 60 == 4 then
      let l := w.bits 59 57
      let i := idx.getD l 0
      let ol := w.bits 34 32
      if !(w.bit 31) || idx.getD ol 0 == agpCount p d ol - 1 then
        (if w.bits 56 41 < i then 0 else if i = w.bits 56 41 then min lanes (w.bits 40 35) else lanes)
      else lanes
    else lanes) 32
/-- The affine part of an address stream over the levels without its INDIRECT. -/
def agpAffine (p : List W64) (t : Nat) (base : Nat) (idx : List Nat) : Int :=
  (idx.zipIdx).foldl (fun a e =>
    if (agpInd p t).any fun q => q.1 == e.2 then a
    else a + (e.1 : Int) * (if t = 0 then agpSa p e.2 else agpSb p e.2)) (base : Int)

/-! ### Bytes with their words' marks -/

/-- A byte and the mark of the memory word that holds it. -/
abbrev MByte := Byte × Bool
/-- The number that bytes spell, little-endian. -/
def bytesNat : List MByte → Nat
  | [] => 0
  | b :: bs => b.1.toNat + 256 * bytesNat bs
/-- Element `j` of width `w` in packed bytes, and whether it touches a marked word (R55). -/
def elemAt (bs : List MByte) (w j : Nat) : Nat × Bool :=
  (bytesNat bs / 2 ^ (w * j) % 2 ^ w, ((bs.drop (w * j / 8)).take ((w * j + w - 1) / 8 + 1 - w * j / 8)).any (·.2))
/-- Pack elements of width `w` with their marks into bytes; a byte is marked when an element in its 8-byte word is. -/
def packElems (w : Nat) (es : List (Nat × Bool)) : List MByte :=
  let n := es.foldr (fun e acc => e.1 % 2 ^ w + 2 ^ w * acc) 0
  let total := (es.length * w + 7) / 8
  let bad := fun (word : Nat) => (es.zipIdx).any fun e => e.1.2 && decide (w * e.2 / 64 ≤ word) && decide (word ≤ (w * e.2 + w - 1) / 64)
  (List.range total).map fun i => (BitVec.ofNat 8 (n / 256 ^ i), bad (i / 8))

/-! ### Load conversion (R71, R168, R170) -/

/-- A word that the device reads or writes as an F19 container: its bits [12:0] are ignored when read and zero when written
(R46; log entry 71). -/
def f19Word (n : Nat) : Nat := n / 2 ^ 13 * 2 ^ 13

/-- One element of a load. -/
def loadLane (d : Desc) (code : Nat) (scale : MByte) : W32 × Ev :=
  let m := dMfmt d
  let r := dRfmt d
  if dCopy d then (BitVec.ofNat 32 code, 0)
  else if dBlock d then
    (if r = 3 then (BitVec.ofNat 32 (256 * scale.1.toNat + code), 0) else blockToF32 (dBlockCode d) scale.1.toNat code)
  else if m = 1 then f16ToF32 code
  else if m = 2 then (BitVec.ofNat 32 (f19Word code), 0)
  else if m = 0 && r = 1 then f32ToF19 (if dRnd d = 1 then .rtz else .rne) (BitVec.ofNat 32 code)
  else if (m = 8 || m = 9 || m = 10) && r = 0 then intToF32 .rne (sext (dWidth d) code)
  else if m = 8 || m = 9 then (lane (sext (dWidth d) code), 0)
  else (BitVec.ofNat 32 code, 0)

/-- Which scale byte of its set an element uses (R170). -/
def scaleIndex (d : Desc) (j : Nat) : Nat := if dAxis d = 1 then j else if dBs d = 64 then 0 else j / dBs d

/-- A memory-side row as a token's lanes: lanes at and above `lanes` are zero; a conversion that reads a marked word marks
what it writes (R166, R457). -/
def loadRow (d : Desc) (elems scales : List MByte) (lanes : Nat) : Row × Ev :=
  let z := (List.range 32).map fun j =>
    if j < lanes then
      let e := elemAt elems (dWidth d) j
      let sc := if dBlock d then scales.getD (scaleIndex d j) (0, false) else (0, false)
      let r := loadLane d e.1 sc
      (((r.1, e.2 || sc.2) : Ln), r.2)
    else ((0, false), 0)
  (Row.ofLanes (z.map (·.1)), z.foldl (fun a p => a ||| p.2) 0)

/-! ### Store conversion (R71, R168–R172) -/

/-- One element of a store into a format that is not a block format. -/
def storeLane (d : Desc) (w : W32) : Nat × Ev :=
  let m := dMfmt d
  let mode : Rnd := if dRnd d = 1 then .rtz else .rne
  if dCopy d then (w.toNat, 0)
  else if m = 1 then f32ToF16 mode w
  else if m = 2 then (if dRfmt d = 0 then let r := f32ToF19 mode w; (r.1.toNat, r.2) else (f19Word w.toNat, 0))
  else if dRfmt d = 0 && (m = 8 || m = 9 || m = 10) then let r := f32ToInt mode (dWidth d) w; (r.1.toNat % 2 ^ dWidth d, r.2)
  else if m = 8 || m = 9 then let r := intResult (dWidth d) w.toInt; (r.1.toNat % 2 ^ dWidth d, r.2)
  else (w.toNat, 0)

/-- A row stored without blocks. -/
def storePlain (d : Desc) (r : Row) (lanes : Nat) : List MByte × Ev :=
  let z := (r.lanes.take lanes).map fun l => (storeLane d l.1, l.2)
  (packElems (dWidth d) (z.map fun p => (p.1.1, p.2)), z.foldl (fun a p => a ||| p.1.2) 0)

/-- One block of a store: its elements' encodings, its scale byte, whether it is marked, its events and the generator. -/
structure BlockOut where
  codes : List Nat
  scale : Nat
  bad : Bool
  ev : Ev
  gen : W32
deriving DecidableEq, Repr

/-- Quantise (RFMT 0) or pack (RFMT 3) the real elements of one block; both advance the generator once per real element
(R171, R172; log entry 70). -/
def storeBlock (d : Desc) (gen : W32) (els : List Ln) : BlockOut :=
  let bad := els.any (·.2)
  if els.isEmpty then ⟨[], 0x7f, false, 0, gen⟩
  else if dRfmt d = 3 then
    let sc := (els.headD (0, false)).1.toNat / 256 % 256
    ⟨els.map fun e => e.1.toNat % 256 % 2 ^ (blockFmt (dBlockCode d)).width, sc, bad,
      evIf (els.any fun e => e.1.toNat / 256 % 256 != sc) evInv, (genDraws els.length gen).2⟩
  else
    let q := quantBlock (dBlockCode d) (dRnd d) gen (els.map (·.1))
    ⟨q.2.1, q.1, bad, q.2.2.1, q.2.2.2⟩

/-- The blocks of a group of rows: the positions (row, lane) of each block's real elements, in element order, with the
index of its scale byte (R170, R172). -/
def blockShape (d : Desc) (rows : List (Row × Nat)) : List (Nat × Nat × List (Nat × Nat)) :=
  let n := rows.length
  let real := fun (i j : Nat) => decide (j < (rows.getD i (Row.zero, 0)).2)
  if dAxis d = 1 then
    (List.range 32).map fun j => (0, j, ((List.range n).filter fun i => real i j).map fun i => (i, j))
  else if dBs d = 64 then
    [(0, 0, (List.range n).flatMap fun i => ((List.range 32).filter fun j => real i j).map fun j => (i, j))]
  else
    (List.range n).flatMap fun i => (List.range (dScaleBytes d)).map fun k =>
      (i, k, ((List.range (dBs d)).map (dBs d * k + ·)).filterMap fun j => if j < 32 && real i j then some (i, j) else none)

/-- A group of rows stored into a block format: each row's element bytes, the scale bytes by (row, index), the events and
the generator. Nothing of a group of zero rows is written (R170–R172). -/
def storeGroup (d : Desc) (gen : W32) (rows : List (Row × Nat)) : List (List MByte) × List (Nat × Nat × MByte) × Ev × W32 :=
  let lanesOf := rows.map fun r => r.1.lanes
  let z := (blockShape d rows).foldl (fun (acc : List (Nat × Nat × List (Nat × Nat) × BlockOut) × W32) b =>
    let o := storeBlock d acc.2 (b.2.2.map fun p => (lanesOf.getD p.1 []).getD p.2 (0, false))
    (acc.1 ++ [(b.1, b.2.1, b.2.2, o)], o.gen)) ([], gen)
  let code := fun (i j : Nat) => z.1.findSome? fun b => ((b.2.2.1.zip b.2.2.2.codes).find? fun p => p.1 == (i, j)).map fun p => (p.2, b.2.2.2.bad)
  let outs := (rows.zipIdx).map fun r => packElems (dWidth d) ((List.range r.1.2).map fun j => (code r.2 j).getD (0, false))
  let any := rows.any fun r => decide (0 < r.2)
  let live := fun (i : Nat) => any && (dPeriod d != 1 || decide (0 < (rows.getD i (Row.zero, 0)).2))
  let scales := if any then z.1.filterMap fun b => if live b.1 then some (b.1, b.2.1, (BitVec.ofNat 8 b.2.2.2.scale, b.2.2.2.bad)) else none else []
  (outs, scales, z.1.foldl (fun a b => a ||| b.2.2.2.ev) 0, z.2)

end Sys2Proof.Machine
end

