-- ==== Sys2Proof/Machine/Plane.lean ====
section
/-! DEFINITION. The plane code of class L (R292): a leaf's stored form, its encoder and its decoder. -/

namespace Sys2Proof.Machine

/-- The element width in bytes of a presented format. -/
def planeWidth (pf : Nat) : Nat := if pf = 0 || pf = 2 || pf = 10 then 4 else if pf = 1 || pf = 9 then 2 else 1
/-- Plane `p` of `w`: bytes p, p + w, … -/
def planeOf (l : List Byte) (w p : Nat) : List Byte := (List.range (l.length / w)).map fun i => l.getD (w * i + p) 0
/-- Insert a value with its count: larger counts first, equal counts by value. -/
def insRank (x : Nat × Nat) : List (Nat × Nat) → List (Nat × Nat)
  | [] => [x]
  | y :: l => if y.2 < x.2 || (y.2 == x.2 && decide (x.1 < y.1)) then x :: y :: l else y :: insRank x l
/-- The distinct values of a plane by descending count. -/
def planeRanks (l : List Byte) : List Nat :=
  (((List.range 256).map fun v => (v, l.count (BitVec.ofNat 8 v))).filter fun e => e.2 != 0).foldl (fun r e => insRank e r) [] |>.map (·.1)
/-- The code of dictionary entry `i`: i + 1 in m bits behind m − 1 zeros. -/
def rankCode (i : Nat) : List Bool :=
  let m := bitLen (i + 1)
  List.replicate (m - 1) false ++ (List.range m).map fun k => (i + 1).testBit (m - 1 - k)
/-- Bits packed most significant first. -/
def packMsb : List Bool → Nat → List Byte
  | _, 0 => []
  | l, n + 1 => BitVec.ofNat 8 ((List.range 8).foldl (fun v k => 2 * v + if l.getD k false then 1 else 0) 0) :: packMsb (l.drop 8) n
/-- One plane record. -/
def planeRecord (l : List Byte) : List Byte :=
  let rk := planeRanks l
  if rk.length = 1 then [1, BitVec.ofNat 8 (rk.headD 0)]
  else
    let codes := l.flatMap fun b => rankCode (rk.findIdx fun v => v == b.toNat)
    let n := 2 + rk.length + (codes.length + 7) / 8
    if decide (rk.length ≤ 32) && decide (n < 1 + l.length) then
      [2, BitVec.ofNat 8 (rk.length - 1)] ++ rk.map (BitVec.ofNat 8) ++ packMsb codes ((codes.length + 7) / 8)
    else 0 :: l
/-- A packed leaf. -/
def packLeaf (pf : Nat) (l : List Byte) : List Byte :=
  let w := planeWidth pf
  BitVec.ofNat 8 w :: ((List.range w).flatMap fun p => planeRecord (planeOf l w p)) ++ leBytes (crc32c l).toNat 4

/-! ### Decoding (R292, R304) -/

/-- The bits of bytes, most significant first. -/
def msbBits (l : List Byte) : List Bool := l.flatMap fun b => (List.range 8).map fun k => b.getLsbD (7 - k)
/-- Take one code: m − 1 zeros, then a number of m bits from 1 on; answers the number less one. -/
def takeCode : List Bool → Nat → Option (Nat × List Bool)
  | [], _ => none
  | false :: l, z => takeCode l (z + 1)
  | true :: l, z =>
    if l.length < z then none else some ((l.take z).foldl (fun v b => 2 * v + if b then 1 else 0) 1 - 1, l.drop z)
/-- Take `n` codes that name entries of a dictionary; answers the bytes and what is left. -/
def takeCodes (dict : List Byte) : List Bool → Nat → Option (List Byte × List Bool)
  | l, 0 => some ([], l)
  | l, n + 1 =>
    match takeCode l 0 with
    | none => none
    | some (i, l) => if i < dict.length then (takeCodes dict l n).map fun z => (dict.getD i 0 :: z.1, z.2) else none
/-- Take one plane record of `n` bytes; answers the plane and what follows. -/
def takePlane (n : Nat) (l : List Byte) : Option (List Byte × List Byte) :=
  match l with
  | [] => none
  | m :: l =>
    if m = 0 then (if l.length < n then none else some (l.take n, l.drop n))
    else if m = 1 then (match l with | [] => none | b :: l => some (List.replicate n b, l))
    else if m = 2 then
      match l with
      | [] => none
      | k :: l =>
        let k := k.toNat + 1
        if 32 < k || decide (l.length < k) then none
        else
          let rest := l.drop k
          (takeCodes (l.take k) (msbBits rest) n).map fun z => (z.1, rest.drop (rest.length - z.2.length / 8))
    else none
/-- Take `w` plane records. -/
def takePlanes (n : Nat) : List Byte → Nat → Option (List (List Byte) × List Byte)
  | l, 0 => some ([], l)
  | l, w + 1 =>
    match takePlane n l with
    | none => none
    | some (p, l) => (takePlanes n l w).map fun z => (p :: z.1, z.2)
/-- The presented bytes of a stored leaf; none where it does not parse, or its CRC-32C does not agree (R292, R304). -/
def unpackLeaf (l : List Byte) : Option (List Byte) :=
  match l with
  | [] => none
  | w :: l =>
    let w := w.toNat
    if w != 1 && w != 2 && w != 4 then none
    else
      match takePlanes (4096 / w) l w with
      | none => none
      | some (ps, crc) =>
        let out := (List.range 4096).map fun i => (ps.getD (i % w) []).getD (i / w) 0
        if crc == leBytes (crc32c out).toNat 4 then some out else none

end Sys2Proof.Machine
end

