-- ==== Sys2Proof/Machine/Place.lean ====
section
/-! DEFINITION. The placement engine (R278–R303): heat, copies, pins, windows and redirection of flash-window sheets. -/

namespace Sys2Proof.Machine

/-! ### Directory -/

/-- A domain's entry for a sheet. -/
def State.copyOf (s : State) (dom sheet : Nat) : Copy := FMap.get Copy.none s.mem.copies (copyKey dom sheet)
/-- Change a domain's entry for a sheet. -/
def State.updCopy (s : State) (dom sheet : Nat) (f : Copy → Copy) : State :=
  s.updMem fun m => { m with copies := FMap.set Copy.none m.copies (copyKey dom sheet) (f (FMap.get Copy.none m.copies (copyKey dom sheet))) }
/-- The entries of a domain, by sheet. -/
def State.domCopies (s : State) (dom : Nat) : List (Nat × Copy) :=
  (s.mem.copies.filter fun e => e.1 / 2 ^ 28 == dom).map fun e => (e.1 % 2 ^ 28, e.2)
/-- The placement engine is on (R286). -/
def State.plcOn (s : State) : Bool := (s.reg aPlcCtl).bit 0
/-- Word `w` of PLC_RGN_n in force (R287). -/
def State.plcRgn (s : State) (n w : Nat) : W64 :=
  if w = 0 then FMap.get (pfReset (aPlcRgn n 0)) s.cfg.plc0 n else FMap.get (0 : W64) s.cfg.plc1 n
/-- The region whose policy a domain applies to a sheet (R287). -/
def State.policyRgn (s : State) (dom sheet : Nat) : Nat := if dom < 256 then dom else (s.copyOf dom sheet).rgn
/-- P2 of the policy of a sheet. -/
def State.plcP2 (s : State) (dom sheet : Nat) : Nat := (s.plcRgn (s.policyRgn dom sheet) 0).bits 7 0
/-- P1 of the policy of a sheet. -/
def State.plcP1 (s : State) (dom sheet : Nat) : Nat := (s.plcRgn (s.policyRgn dom sheet) 0).bits 23 16

/-- The range that holds a flash-window address (R291). -/
def State.rangeOf (s : State) (a : Nat) : Option FRange := s.mem.ranges.find? fun r => decide (r.base ≤ a) && decide (a < r.base + r.len)

/-- Bits of an element of a format code (R168). -/
def fmtBits (m : Nat) : Nat :=
  match m with
  | 1 => 16 | 3 => 8 | 4 => 8 | 5 => 6 | 6 => 6 | 7 => 4 | 8 => 8 | 9 => 16 | _ => 32

/-- The parameters of a class Q write, from the command's words 4 and 5 (R309). -/
structure QPar where
  pf : Nat
  qfmt : Nat
  bs : Nat
  col : Bool
  rnd : Nat
  src16 : Bool
  seed : Nat
  rowlen : Nat
deriving DecidableEq, Repr

/-- PF is a block format. -/
def QPar.block (p : QPar) : Bool := decide (3 ≤ p.pf) && decide (p.pf ≤ 7)
/-- The blocks of `e` elements, each as its elements' indices, in block order (R293). -/
def QPar.blocks (p : QPar) (e : Nat) : List (List Nat) :=
  let rows := e / p.rowlen
  if p.col then (List.range ((rows + p.bs - 1) / p.bs)).flatMap fun b => (List.range p.rowlen).map fun j =>
    (List.range (min p.bs (rows - b * p.bs))).map fun i => (b * p.bs + i) * p.rowlen + j
  else (List.range rows).flatMap fun r => (List.range ((p.rowlen + p.bs - 1) / p.bs)).map fun k =>
    (List.range (min p.bs (p.rowlen - k * p.bs))).map fun j => r * p.rowlen + k * p.bs + j
/-- How many blocks `e` elements make. -/
def QPar.nblocks (p : QPar) (e : Nat) : Nat :=
  let rows := e / p.rowlen
  if p.col then (rows + p.bs - 1) / p.bs * p.rowlen else rows * ((p.rowlen + p.bs - 1) / p.bs)
/-- Sheets of the presented element array. -/
def QPar.elSheets (p : QPar) (e : Nat) : Nat := (e * fmtBits p.pf + 524287) / 524288
/-- The most element sheets, of `n` or fewer, whose whole rows leave room for their scales among `total` sheets. -/
def QPar.fill (p : QPar) (total : Nat) : Nat → Nat
  | 0 => 0
  | n + 1 =>
    let e := 524288 * (n + 1) / fmtBits p.pf / p.rowlen * p.rowlen
    if n + 1 + (p.nblocks e + 65535) / 65536 ≤ total then e else p.fill total n
/-- The elements that a presented length holds: whole rows that fill it (R294, R310; the command gives no source length). -/
def QPar.elems (p : QPar) (len : Nat) : Option Nat :=
  if p.rowlen = 0 then none
  else if !p.block then
    let e := 8 * len / fmtBits p.pf
    if e % p.rowlen = 0 then some e else none
  else
    let e := p.fill (len / 65536) (len / 65536)
    if 0 < e && p.elSheets e + (p.nblocks e + 65535) / 65536 == len / 65536 then some e else none
/-- The blocks that begin before element `n`, in source order (R293). -/
def QPar.blocksBefore (p : QPar) (n : Nat) : Nat :=
  if p.col then n / (p.bs * p.rowlen) * p.rowlen + min (n % (p.bs * p.rowlen)) p.rowlen
  else n / p.rowlen * ((p.rowlen + p.bs - 1) / p.bs) + (n % p.rowlen + p.bs - 1) / p.bs
/-- The class Q parameters of a range. -/
def rangeQpar (r : FRange) : QPar := ⟨r.pf, r.qfmt, r.bs, r.axis == 1, 0, false, 0, r.rowlen⟩
/-- The stored bytes of sheet `k` of a class Q range: its stored elements, with the scales of the blocks that begin in it for a float PF;
for a block PF the scale sheets are stored as they are presented (R294). -/
def qStored (r : FRange) (k : Nat) : Nat :=
  let p := rangeQpar r
  let e := (p.elems r.len).getD 0
  let els := 524288 / fmtBits r.pf
  let here := min els (e - k * els)
  if p.block && decide (p.elSheets e ≤ k) then min 65536 (p.nblocks e - 65536 * (k - p.elSheets e))
  else (here * fmtBits r.qfmt + 7) / 8 + (if p.block then 0 else p.blocksBefore (k * els + here) - p.blocksBefore (k * els))
/-- The stored bytes of a sheet: its presented bytes, its packed leaves with, in the first sheet of a quire, the quire's header (R292),
or its share of the stored elements and scales (R294). -/
def State.storedBytes (s : State) (sheet : Nat) : Nat :=
  let a := flashBase + 65536 * sheet
  match s.rangeOf a with
  | none => 65536
  | some r =>
    if r.cls = 1 then
      (List.range 16).foldl (fun n i => n + (FMap.get ([] : List Byte) s.mem.leafStored (16 * sheet + i)).length) (if sheet % 16 = 0 then 512 else 0)
    else if r.cls = 2 then qStored r (sheet - sheetOf r.base)
    else 65536
/-- The stored form of a class L leaf does not parse, or its check fails (R292, R304). -/
def State.leafBad (s : State) (leaf : Nat) : Bool :=
  match s.rangeOf (flashBase + 4096 * leaf) with
  | some r => r.cls == 1 && (unpackLeaf (FMap.get ([] : List Byte) s.mem.leafStored leaf)).isNone
  | none => false
/-- Mark or unmark a leaf's presented words. -/
def State.markLeaf (s : State) (leaf : Nat) (b : Bool) : State :=
  s.updMem fun m => { m with flashBad := NatSet.put m.flashBad (flashBase / 4096 + leaf) b }
/-- A class L leaf has failed its check three times: it is delivered poisoned by `deliver`, counted and logged, and the T2 copy of its
sheet is dropped (R304, R465). -/
def State.leafFails (s : State) (dom leaf src : Nat) (deliver : State → State) : State :=
  let was := NatSet.mem s.mem.flashBad (flashBase / 4096 + leaf)
  let s := ((s.addReg aMemChkinc 1).logRec src 4 0 (flashBase + 4096 * leaf) (s.tagOwner dom)).markLeaf leaf true
  ((deliver s).markLeaf leaf was).updCopy dom (leaf / 16) fun c => { c with t2 := false }
/-- The pool granules that a sheet's copy takes. -/
def State.granulesOf (s : State) (sheet : Nat) : Nat := (s.storedBytes sheet + 4095) / 4096

/-! ### Pools (R285) -/

/-- The half-stack whose pool serves die `d` (R205, R283). -/
def State.poolOf (s : State) (d : Nat) : Nat := if s.power.variant = 1 && decide (2 ≤ d % 4) then d - 2 else d
/-- Count `n` bytes that the PE reads (0) or writes (1) in the pool of the die that holds a sheet's copy, for the region whose policy
governs the sheet (R291, R522, R533). -/
def State.countT2 (s : State) (dom sheet w n : Nat) : State :=
  let q := s.poolOf (s.copyOf dom sheet).die
  (if q < 16 then s.addReg (aObsHs q w) n else s).countT (s.policyRgn dom sheet) (9 + w) n
/-- The granules of pool `q` that hold copies: those behind the directory. -/
def State.poolGranules (s : State) (q : Nat) : Nat :=
  let len := s.regBits (aPlcPool q) 45 23
  len - (len + 31) / 32
/-- The granules of pool `q` reserved for strict domains. -/
def State.poolQuota (s : State) (q : Nat) : Nat :=
  ((List.range 256).filter fun r => partValid (s.part0 r) && partStrict (s.part0 r) &&
    (s.domainDies r).any fun d => s.poolOf d == q).foldl (fun n r => n + (s.plcRgn r 1).bits 22 0) 0
/-- A domain's share of pool `q`. -/
def State.poolShare (s : State) (dom q : Nat) : Nat :=
  if dom < 256 then (s.plcRgn dom 1).bits 22 0 else s.poolGranules q - s.poolQuota q
/-- The sheets of a domain that hold granules of pool `q`: a copy or a fetch. -/
def State.poolHeld (s : State) (dom q : Nat) : List (Nat × Copy) :=
  (s.domCopies dom).filter fun e => (e.2.t2 || e.2.fetch.isSome) && s.poolOf e.2.die == q
/-- The granules a domain holds in pool `q`. -/
def State.poolUsed (s : State) (dom q : Nat) : Nat := (s.poolHeld dom q).foldl (fun n e => n + s.granulesOf e.1) 0

/-- Drop a domain's T2 copy of a sheet (R290). -/
def State.dropCopy (s : State) (dom sheet : Nat) : State := s.updCopy dom sheet fun c => { c with t2 := false, fetch := none }

/-- The copy to give way to a sheet of heat `h`: unpinned, of the lowest heat, the lowest sheet of those (R290). -/
def State.victim (s : State) (dom q h : Nat) : Option Nat :=
  ((s.poolHeld dom q).filter fun e => e.2.t2 && e.2.pins.isEmpty && decide (e.2.heat < h)).foldl (fun (best : Option (Nat × Nat)) e =>
    match best with
    | none => some (e.1, e.2.heat)
    | some b => if e.2.heat < b.2 then some (e.1, e.2.heat) else some b) none |>.map (·.1)

/-- Make room for a sheet in its home pool, as far as its heat allows (R290). None where it does not fit: nothing is dropped then. -/
def State.makeRoom (s : State) (dom q need h : Nat) : Nat → Option State
  | 0 => none
  | fuel + 1 =>
    if s.poolUsed dom q + need ≤ s.poolShare dom q then some s
    else match s.victim dom q h with
      | some v => State.makeRoom (s.dropCopy dom v) dom q need h fuel
      | none => none

/-- What came of sending for a sheet: it is held or on its way, no granule could be had, or its domain has no home for it now. -/
inductive Fetched where
  | going | short | homeless
deriving DecidableEq, Repr

/-- Send for a sheet at a priority of R300; without granules the fetch is abandoned and counted (R290). -/
def State.startFetch (s : State) (dom sheet prio h : Nat) : State × Fetched :=
  let c := s.copyOf dom sheet
  if c.t2 then (s, .going)
  else match c.fetch with
    | some p => (s.updCopy dom sheet fun c => { c with fetch := some (min p prio) }, .going)
    | none =>
      if !s.plcOn || (s.domainDies dom).isEmpty || s.die (s.sheetDie dom sheet) != .powered then (s, .homeless)
      else
        let d := s.sheetDie dom sheet
        match s.makeRoom dom (s.poolOf d) (s.granulesOf sheet) h (s.mem.copies.length + 1) with
        | some t => (t.updCopy dom sheet fun c => { c with fetch := some prio, die := d }, .going)
        | none => (s.updMem fun m => { m with abandoned := m.abandoned + 1 }, .short)

/-! ### Windows and shadows (R297–R302) -/

/-- The pin of window `w` of region `r`. -/
def pinWindow (r w : Nat) : Nat := 1024 * r + w
/-- The pin of region `r`'s shadow sheets. -/
def pinShadow (r : Nat) : Nat := 1024 * r + 512
/-- A pin is a window's. -/
def isWindowPin (p : Nat) : Bool := decide (p % 1024 < 512)
/-- The sheets of window `w` of region `r`'s image (R297). -/
def State.windowSheets (s : State) (r w : Nat) : List Nat :=
  match (s.rgn r).img with
  | some i => FMap.get ([] : List Nat) i.windows w
  | none => []
/-- The first 256 runs of consecutive sheets, and how many sheets lie beyond them (R297). -/
def cutRuns : List Nat → Option Nat → Nat → List Nat × Nat
  | [], _, _ => ([], 0)
  | h :: l, prev, runs =>
    if prev = some (h - 1) && decide (0 < h) then let z := cutRuns l (some h) runs; (h :: z.1, z.2)
    else if runs < 256 then let z := cutRuns l (some h) (runs + 1); (h :: z.1, z.2)
    else ([], 1 + l.length)
/-- The sheets of a window that are prefetched. -/
def State.windowRuns (s : State) (r w : Nat) : List Nat := (cutRuns (s.windowSheets r w) none 0).1
/-- Window `w` of region `r` is resident: every sheet of it has a copy and none is being fetched (R299). -/
def State.resident (s : State) (r w : Nat) : Bool :=
  let dom := s.domainOf r
  (s.windowSheets r w).all fun h => let c := s.copyOf dom h; c.t2 && c.fetch.isNone

/-- Pin one sheet for region `r` and send for it (R298, R302). A sheet that no read has raised takes the policy of the region that pins
it (R287). -/
def State.pinSheet (s : State) (r pin prio sheet : Nat) : State × Fetched :=
  let dom := s.domainOf r
  let s := s.updCopy dom sheet fun c => { c with
    pins := NatSet.ins c.pins pin, rgn := if !c.raised && c.pins.isEmpty then r else c.rgn, win := c.win || (isWindowPin pin && !c.t2) }
  s.startFetch dom sheet prio (max (s.copyOf dom sheet).heat (s.plcP2 dom sheet))
/-- Pin window `w` of region `r`; a sheet newly pinned for which there is no granule is counted in WSHORT (R298, R299). -/
def State.pinWin (s : State) (r w : Nat) : State :=
  (s.windowRuns r w).foldl (fun s h =>
    let new := !(NatSet.mem (s.copyOf (s.domainOf r) h).pins (pinWindow r w))
    let z := s.pinSheet r (pinWindow r w) 3 h
    if new && z.2 == .short then z.1.addRegSat (aPlcRstat r) 47 32 1 else z.1) s
/-- Release the pins that `p` picks (R298). -/
def State.unpinBy (s : State) (p : Nat → Bool) : State :=
  s.updMem fun m => { m with copies := (m.copies.map fun e => (e.1, { e.2 with pins := e.2.pins.filter fun x => !p x })).filter fun e => e.2 != Copy.none }
/-- Release every pin of region `r` (R312). -/
def State.unpinAll (s : State) (r : Nat) : State := s.unpinBy fun p => p / 1024 == r
/-- LEAD of region `r` (R287). -/
def State.plcLead (s : State) (r : Nat) : Nat := (s.plcRgn r 0).bits 28 27
/-- The number of groups of region `r`'s image. -/
def State.ngrp (s : State) (r : Nat) : Nat := match (s.rgn r).img with | some i => max i.ngrp 1 | none => 1
/-- WRES: the highest group whose window is resident, else the group being run (R288). -/
def State.showWres (s : State) (r : Nat) : State :=
  if (s.rgn r).img.isNone then s
  else
    let g := (s.rgn r).group
    let n := s.ngrp r
    let ahead := (List.range (s.plcLead r + 1)).filter fun k => s.resident r ((g + k) % n)
    s.setRegBits (aPlcRstat r) 31 24 (((g + ahead.getLastD 0) % n) % 256)
/-- WRES of every region. -/
def State.showAllWres (s : State) : State := s.rgns.foldl (fun s e => s.showWres e.1) s
/-- The windows that are kept pinned are those of the region's group and of LEAD groups after it, modulo NGRP; the others are released
(R298). -/
def State.pinAhead (s : State) (r : Nat) : State :=
  let n := s.ngrp r
  let ws := (List.range (s.plcLead r + 1)).map fun k => ((s.rgn r).group + k) % n
  let s := s.unpinBy fun p => p / 1024 == r && isWindowPin p && !(ws.contains (p % 1024))
  (ws.foldl (fun s w => s.pinWin r w) s).showWres r

/-- The address that a read of region `r` reaches: a shadow line while redirection is in force (R303). -/
def State.redirect (s : State) (r a : Nat) : Nat :=
  if decide (r < 256) && (s.rgn r).redir && isFlash a 1 then
    match s.rangeOf a with
    | some x => if x.shadow = 0 then a else x.shadow + (a - x.base)
    | none => a
  else a

/-- The presented row of a flash-window line (R280, R305). -/
def State.flashRow (s : State) (a : Nat) : Row :=
  let l := lineOf a
  ⟨BitVec.ofNat 1024 (Mem.readNat s.mem.flash l 128), if NatSet.mem s.mem.flashBad (l / 4096) then 0xffff else 0⟩

/-! ### Lines of sheets in the slices (R290, R311) -/

/-- Fill the lines of a sheet into its home slices from its T2 copy, whose stored bytes are read (R290, R291). -/
def State.fillT1 (s : State) (dom sheet : Nat) : State :=
  let d := s.sheetDie dom sheet
  let part := if dom < 256 then some dom else none
  (List.range 512).foldl (fun s k =>
    let a := flashBase + 65536 * sheet + 128 * k
    let i := 16 * d + a / 128 % 16
    if ((s.slice i).find part a).isSome then s else s.allocLine (s.policyRgn dom sheet) i part a false (s.flashRow a))
    (s.countT2 dom sheet 0 (s.storedBytes sheet))

/-- Invalidate the lines of [a, a + n) in every slice (R311). -/
def State.dropLines (s : State) (a n : Nat) : State :=
  let keep := fun (c : Slice) => { c with lines := c.lines.filter fun l => decide (l.addr < a) || decide (a + n ≤ l.addr) }
  { s with slices := (s.slices.map fun e => (e.1, keep e.2)).filter fun e => e.2 != Slice.empty }

/-! ### Heat (R289, R290) -/

/-- A T1 miss of region `r` on a flash-window line reaches the PE agent: heat, and the promotions that an increment brings (R287, R289,
R290). -/
def State.heatRead (s : State) (r a : Nat) : State :=
  let dom := s.domainOf r
  let sheet := sheetOf a
  let was := (s.copyOf dom sheet).heat
  if 255 ≤ was then s
  else
    let s := s.updCopy dom sheet fun c => { c with heat := c.heat + 1, rgn := r, raised := true }
    let c := s.copyOf dom sheet
    let p2 := s.plcP2 dom sheet
    let p1 := s.plcP1 dom sheet
    let s := if p2 ≠ 0 && decide (p2 ≤ c.heat) && !c.t2 then (s.startFetch dom sheet 5 c.heat).1 else s
    if p1 ≠ 0 && c.heat == p1 && s.plcOn then (if c.t2 then s.fillT1 dom sheet else (s.startFetch dom sheet 5 c.heat).1) else s

/-- Pinned sheets without granules are tried again, as windows or as shadows (R284, R299). -/
def State.retryPins (s : State) : State :=
  s.mem.copies.foldl (fun s e =>
    if !e.2.pins.isEmpty && !e.2.t2 && e.2.fetch.isNone then
      let dom := e.1 / 2 ^ 28
      let sheet := e.1 % 2 ^ 28
      let d := s.sheetDie dom sheet
      let h := max e.2.heat (s.plcP2 dom sheet)
      match s.makeRoom dom (s.poolOf d) (s.granulesOf sheet) h (s.mem.copies.length + 1) with
      | some _ => (s.startFetch dom sheet (if e.2.pins.any isWindowPin then 3 else 2) h).1
      | none => s
    else s) s
/-- Decay at a figure boundary, and demotion (R289, R290). -/
def State.heatDecay (s : State) : State :=
  s.mem.copies.foldl (fun s e =>
    let dom := e.1 / 2 ^ 28
    let sheet := e.1 % 2 ^ 28
    let w := s.plcRgn (s.policyRgn dom sheet) 0
    let dec := w.bits 26 24
    let h := e.2.heat - (e.2.heat + 2 ^ dec - 1) / 2 ^ dec
    s.updCopy dom sheet fun c =>
      let c := { c with heat := h, t2 := c.t2 && !(decide (h < w.bits 15 8) && c.pins.isEmpty) }
      if c.heat = 0 && !c.t2 && c.fetch.isNone && c.pins.isEmpty then Copy.none else c) s

/-- Every domain drops the copies homed on a die that is being gated (R284). -/
def State.dropDieCopies (s : State) (d : Nat) : State :=
  (s.mem.copies.foldl (fun s e =>
    if (e.2.t2 || e.2.fetch.isSome) && e.2.die == d then s.dropCopy (e.1 / 2 ^ 28) (e.1 % 2 ^ 28) else s) s).showAllWres

end Sys2Proof.Machine
end

