-- ==== Sys2Proof/Machine/Units.lean ====
section
/-! DEFINITION. What the unit instructions share: the matrix array (R82–R92), the links and ports of a unit (R97–R102),
hazards (R89, R115), issue (R110, R114), and a unit fault (R141–R146, R150). -/

namespace Sys2Proof.Machine

/-! ### Neighbour links (R97–R101, R195) -/

/-- The wire from unit `u` on (link, chan): tokens in flight, oldest first. -/
def wireKey (u link chan : Nat) : Nat := 16 * u + 4 * link + chan
/-- The route entry of unit `u` for a token arriving on (link, chan) (R100). -/
def Fabric.entry (f : Fabric) (link chan : Nat) : Byte := FMap.get (0 : Byte) f.route (4 * link + chan)
/-- The kind of a route entry: 0 unused, 1 deliver, 2 pass through. -/
def routeKind (b : Byte) : Nat := b.toNat / 64
/-- The outgoing link of a pass-through entry. -/
def routeOlink (b : Byte) : Nat := b.toNat / 16 % 4
/-- The target of a route entry: a local port or engine, or the outgoing channel. -/
def routeTarget (b : Byte) : Nat := b.toNat / 4 % 4
/-- The places of the receiver that the transmitter of unit `u` on (link, chan) sends to: 8 of a port or an engine, 2 of a
pass-through register; a fenced link grants no credit (R98–R100, R174, R195). -/
def State.capacity (s : State) (u link chan : Nat) : Nat :=
  match neighbour u link with
  | none => 0
  | some v =>
    if s.fenced u link then 0
    else if routeKind ((s.fabric v).entry (oppositeLink link) chan) = 2 then 2 else 8
/-- The transmitter of unit `u` on (link, chan) holds a credit (R98). -/
def State.credit (s : State) (u link chan : Nat) : Bool := decide (count (s.fabric u).used (4 * link + chan) < s.capacity u link chan)
/-- Send one token (R98). -/
def State.sendToken (s : State) (u link chan : Nat) (t : Token) : State :=
  let s := s.updFab u fun f => { f with used := bump f.used (4 * link + chan) 1 }
  { s with wires := FMap.upd ([] : List Token) s.wires (wireKey u link chan) (· ++ [t]) }

/-- The O port of a CU bound to (link, chan) (R99). -/
def Cu.oPort (c : Cu) (link chan : Nat) : Option Nat :=
  (List.range 4).find? fun p => (FMap.get PortBind.free c.obind p).wire == some (link, chan)
/-- The Q port of a CU bound to incoming (link, chan). -/
def Cu.qPort (c : Cu) (link chan : Nat) : Option Nat :=
  (List.range 4).find? fun p => (FMap.get PortBind.free c.qbind p).wire == some (link, chan)
/-- Tokens in a Q port. -/
def Cu.qTokens (c : Cu) (p : Nat) : List Token := FMap.get ([] : List Token) c.qbuf p
/-- Replace the tokens of a Q port. -/
def Cu.setQ (c : Cu) (p : Nat) (l : List Token) : Cu := { c with qbuf := FMap.set ([] : List Token) c.qbuf p l }
/-- Tokens in an O port. -/
def Cu.oTokens (c : Cu) (p : Nat) : List Token := FMap.get ([] : List Token) c.obuf p
/-- Replace the tokens of an O port. -/
def Cu.setO (c : Cu) (p : Nat) (l : List Token) : Cu := { c with obuf := FMap.set ([] : List Token) c.obuf p l }

/-- The token of row `i` of a register operand, as a push sends it (R127, R128). -/
def Ctx.pushToken (x : Ctx) (r : PushRun) : Token := ⟨x.regRow r.reg r.row, r.row + 1 == r.m⟩

/-- The push that waits at O port `p`: its context and what is left of it (R128). -/
def Cu.waitingPush (c : Cu) (p : Nat) : Option (Nat × PushRun) :=
  (List.range 4).findSome? fun k => ((c.ctxAt k).pushes.find? fun r => r.port == p).map fun r => (k, r)
/-- A push has read one more row. -/
def Ctx.pushedRow (x : Ctx) (p : Nat) : Ctx :=
  { x with pushes := (x.pushes.map fun r => if r.port == p then { r with row := r.row + 1 } else r).filter fun r => decide (r.row < r.m) }

/-- Take the next row of the push that waits at O port `p`, once an rld that fills it has brought it (R115, R128). -/
def State.portFill (s : State) (u p : Nat) : Option State :=
  let c := s.cu u
  match c.waitingPush p with
  | some (k, r) =>
    if (c.oTokens p).length < 2 && !((c.ctxAt k).remote.any fun q => q.load && q.reg == r.reg && q.row == r.row) then
      some (s.updCu u fun c => (c.setCtx k ((c.ctxAt k).pushedRow p)).setO p (c.oTokens p ++ [(c.ctxAt k).pushToken r]))
    else none
  | none => none

/-- One move at O port `p` of unit `u`: a token to the wire while a credit is held, else a waiting push's next row into a
free place (R98, R99, R128). -/
def State.portStep (s : State) (u p : Nat) : Option State :=
  let c := s.cu u
  match (FMap.get PortBind.free c.obind p).wire, c.oTokens p with
  | some (link, chan), t :: ts =>
    if s.credit u link chan then some ((s.updCu u fun c => c.setO p ts).sendToken u link chan t)
    else s.portFill u p
  | _, _ => s.portFill u p
/-- Move at O port `p` of unit `u` as far as places and credits allow. -/
def State.pumpPort (s : State) (u p : Nat) : Nat → State
  | 0 => s
  | fuel + 1 => match s.portStep u p with
    | some s' => State.pumpPort s' u p fuel
    | none => s
/-- The moves that one port can make without a new credit: 8 credits and 32 rows bound them. -/
def pumpFuel : Nat := 64
/-- Move at every O port of unit `u` as far as rows, places and credits allow (R98, R115, R128). -/
def State.pumpPorts (s : State) (u : Nat) : State := (List.range 4).foldl (fun s p => s.pumpPort u p pumpFuel) s

/-- Forward what a pass-through register of unit `u` holds for (link, chan) while credits are held (R100). -/
def State.pumpPass (s : State) (u link chan : Nat) : Nat → State
  | 0 => s
  | fuel + 1 =>
    match FMap.get ([] : List Token) (s.fabric u).pass (4 * link + chan) with
    | [] => s
    | t :: ts =>
      if s.credit u link chan then
        State.pumpPass ((s.updFab u fun f => { f with pass := FMap.set ([] : List Token) f.pass (4 * link + chan) ts }).sendToken u link chan t)
          u link chan fuel
      else s

/-! ### The matrix array (R82–R92) -/

end Sys2Proof.Machine

namespace Sys2Proof
open Sys2Proof.Machine

/-- The shifts of an mma (R84). -/
def MmaF.shifts (f : MmaF) : Nat := if f.f19 && decide (15 < f.km1.toNat) then 2 else 1
/-- The groups that shift `n` of an mma covers (R84): 16g < k is tested where a group is formed. -/
def MmaF.groups (f : MmaF) (n : Nat) : List Nat := if f.f19 then [n] else [0, 1]
/-- m, n and k (R91). -/
def MmaF.m (f : MmaF) : Nat := f.mm1.toNat + 1
/-- n. -/
def MmaF.n (f : MmaF) : Nat := f.nm1.toNat + 1
/-- k. -/
def MmaF.k (f : MmaF) : Nat := f.km1.toNat + 1
/-- A comes from a Q port (R116). -/
def MmaF.fromQ (f : MmaF) : Bool := f.asrc == 1

end Sys2Proof

namespace Sys2Proof.Machine

/-- The operand values and marks of a row. -/
def operandRow (fmt : Nat) (rne : Bool) (r : Row) : List (Fp × Bool) := r.lanes.map fun l => (mmaOperand fmt rne l.1, l.2)

/-- The group's operand pairs of one output element: k from 16g below the mask (R59, R91). -/
def groupPairs (a : List (Fp × Bool)) (b : List (List (Fp × Bool))) (j g k : Nat) : List ((Fp × Bool) × (Fp × Bool)) :=
  ((List.range 16).map (16 * g + ·)).filterMap fun kk =>
    if kk < k then some (a.getD kk (.nan, false), (b.getD kk []).getD j (.nan, false)) else none

/-- One output element after the groups of a shift (R60, R61, R80). -/
def mmaCell (a : List (Fp × Bool)) (b : List (List (Fp × Bool))) (j k : Nat) (gs : List Nat) (c : Ln) : Ln × Ev :=
  gs.foldl (fun acc g =>
    if 16 * g < k then
      let ps := groupPairs a b j g k
      let r := mmaGroup acc.1.1 (ps.map fun p => (p.1.1, p.2.1))
      ((r.1, acc.1.2 || ps.any fun p => p.1.2 || p.2.2), acc.2 ||| r.2)
    else acc) (c, 0)

/-- The A rows of an mma: its tile register's, or those taken from its port. -/
def Ctx.aRows (x : Ctx) (f : MmaF) (rows : List Row) (i : Nat) : Row := if f.fromQ then rows.getD i Row.zero else x.tRow f.a.toNat i

/-- One shift of one mma over the first `m` rows: its groups are added into C (R83, R84, R118). -/
def Ctx.mmaShift (x : Ctx) (f : MmaF) (rows : List Row) (m n : Nat) : Ctx :=
  let b := (List.range 32).map fun kk => operandRow f.bfmt.toNat (f.bconv == 1) (x.tRow f.b.toNat kk)
  (List.range m).foldl (fun y i =>
    let a := operandRow f.afmt.toNat (f.aconv == 1) (x.aRows f rows i)
    let old := (y.tRow f.c.toNat i).lanes
    let z := old.zipIdx.map fun p =>
      if p.2 < f.n then mmaCell a b p.2 f.k (f.groups n) (if f.zc == 1 && n == 0 then (0, false) else p.1) else (p.1, 0)
    (y.setTRow f.c.toNat i (Row.ofLanes (z.map (·.1)))).flagEv (z.foldl (fun e q => e ||| q.2) 0)) x

/-- The rows of C that a run writes: m, or the rows that entered before an offending token (R143). -/
def MmaRun.rowsIn (r : MmaRun) : Nat := match r.bad with
  | some b => b
  | none => r.f.m

/-- One shift of a run: the mma's, then its partner's (R84, R85). -/
def Ctx.runShift (x : Ctx) (r : MmaRun) : Ctx :=
  let y := x.mmaShift r.f r.rows r.rowsIn r.shift
  match r.partner with
  | some g => y.mmaShift g [] g.m 0
  | none => y

/-- The run has no shift left after the one numbered `shift`. -/
def MmaRun.last (r : MmaRun) : Bool := r.bad.isSome || decide (r.f.shifts ≤ r.shift + 1)

/-- All remaining shifts of a run (R142, R139). -/
def Ctx.finishRun (x : Ctx) (r : MmaRun) : Ctx :=
  let y := x.runShift r
  if r.last then y else y.runShift { r with shift := r.shift + 1 }

/-- The mmas that hold the array, oldest first: in its shifts, queued behind them. -/
def Cu.pendingRuns (c : Cu) : List MmaRun := c.arr.toList ++ c.que.toList

/-- The mmas that a context holds outside the array, oldest first: its remainder, its queued one, a flagged one that awaits its
partner (R82, R85). -/
def Ctx.savedRuns (x : Ctx) : List MmaRun := x.rem.toList ++ x.que.toList ++ x.flag.toList

/-- A context that has ended still has mmas that wait for the array. -/
def Cu.endedWaiting (c : Cu) : Bool := (List.range 4).any fun k => (c.ctxAt k).st == .done && !(c.ctxAt k).savedRuns.isEmpty

/-- A Q-sourced mma that a fault finds holding issue: the rows that have entered add their groups, no later shift runs (R143). -/
def MmaRun.cut (r : MmaRun) : MmaRun :=
  if r.f.fromQ && r.shift == 0 && r.bad.isNone && decide (r.rows.length < r.f.m) then { r with bad := some r.rows.length } else r

/-- Complete every mma of context `k` (R142), a flagged one unpaired, one that holds issue under R143. -/
def Cu.finishAll (c : Cu) (k : Nat) : Cu :=
  let x := c.ctxAt k
  let mine := (c.pendingRuns.filter fun r => r.ctx == k) ++ x.savedRuns
  let x := mine.foldl (fun x r => x.finishRun r.cut) { x with rem := none, que := none, flag := none }
  let keep := fun (r : Option MmaRun) => r.filter fun q => q.ctx != k
  { (c.setCtx k x) with arr := keep c.arr, que := keep c.que }

/-- Save the queued mma of context `k` with it, ahead of what it has saved already (R82, R104). -/
def Cu.saveQueued (c : Cu) (k : Nat) : Cu :=
  let x := c.ctxAt k
  let runs := (c.que.filter fun q => q.ctx == k).toList ++ x.rem.toList ++ x.que.toList
  { (c.setCtx k { x with rem := runs[0]?, que := runs[1]? }) with que := c.que.filter fun q => q.ctx != k }

/-- Save the array's work of context `k` with it: the remainder and the queued mma (R82, R104, R151). -/
def Cu.saveRuns (c : Cu) (k : Nat) : Cu :=
  let c := c.saveQueued k
  let x := c.ctxAt k
  let runs := (c.arr.filter fun q => q.ctx == k).toList ++ x.rem.toList ++ x.que.toList
  { (c.setCtx k { x with st := .ready, rem := runs[0]?, que := runs[1]? }) with
    arr := c.arr.filter fun q => q.ctx != k, latch := none }

/-- Enter a run into the array: into its shifts, or queued behind them (R88). -/
def Cu.enterRun (c : Cu) (r : MmaRun) : Cu :=
  match c.arr with
  | none => { c with arr := some r, latch := some (r.ctx, r.f) }
  | some _ => { c with que := some r }

/-- A flagged mma that will not see its partner runs unpaired, behind what its context still has to run (R104). -/
def Ctx.unflag (x : Ctx) : Ctx :=
  match x.flag with
  | none => x
  | some r => if x.rem.isNone && x.que.isNone then { x with rem := some r, flag := none } else { x with que := some r, flag := none }

/-- Take a context's oldest mma that waits outside the array for a place. -/
def Ctx.takeSaved (x : Ctx) : Option (MmaRun × Ctx) :=
  match x.rem, x.que with
  | some r, _ => some (r, { x with rem := none })
  | none, some r => some (r, { x with que := none })
  | none, none => none

/-- The next mma for the array, and the CU without it: what a context that has ended still has to run, then the active context's
saved work (R104, R106). -/
def Cu.takeSaved (c : Cu) : Option (MmaRun × Cu) :=
  let of := fun (k : Nat) => (c.ctxAt k).takeSaved.map fun z => (z.1, c.setCtx k z.2)
  match (List.range 4).findSome? fun k => if (c.ctxAt k).st = .done then of k else none with
  | some z => some z
  | none => c.active.bind of

/-- Give the array's free place to the next mma that waits for one. -/
def Cu.fillPlace (c : Cu) : Cu :=
  if c.que.isSome then c
  else match c.takeSaved with
    | some z => z.2.enterRun z.1
    | none => c

/-- Move the queued mma into free shifts, and what waits outside the array into its places (R88, R104, R106). -/
def Cu.promote (c : Cu) : Cu :=
  let c := match c.arr, c.que with
    | none, some r => { c with arr := some r, que := none, latch := some (r.ctx, r.f) }
    | _, _ => c
  c.fillPlace.fillPlace

/-! ### Hazards (R89, R115) -/

/-- What an instruction that is not an mma reads and writes of the V and T registers, by operand code. -/
structure RegUse where
  reads : List Nat
  writes : List Nat
deriving DecidableEq, Repr

/-- Why an instruction may not issue now: a cause of R107 and R140, or a wait that no counter names. -/
inductive Wait where
  | go
  | stall (cause : Nat)
  | quiet
deriving DecidableEq, Repr

/-- The T registers that a run reads, as operand codes. -/
def MmaRun.inputs (r : MmaRun) : List Nat :=
  let one := fun (f : MmaF) => (16 + f.b.toNat) :: (if f.fromQ then [] else [16 + f.a.toNat])
  one r.f ++ (match r.partner with | some g => one g | none => [])
/-- The accumulator of a run, as an operand code. -/
def MmaRun.acc (r : MmaRun) : Nat := 16 + r.f.c.toNat
/-- Every mma of context `k` that is not finished: in the array or saved with the context. -/
def Cu.runsOf (c : Cu) (k : Nat) : List MmaRun :=
  (c.pendingRuns.filter fun r => r.ctx == k) ++ (c.ctxAt k).savedRuns

/-- Whether an instruction that uses registers as `u` must wait: of a register that an rld still fills it needs the rows that
`need` names (R89, R115, R128, R130). -/
def Cu.hazardRows (c : Cu) (k : Nat) (u : RegUse) (need : Nat → Bool) : Wait :=
  let x := c.ctxAt k
  let mma := (c.runsOf k).any fun r => u.reads.contains r.acc || u.writes.contains r.acc || u.writes.any r.inputs.contains
  let push := x.pushes.any fun r => u.writes.contains r.reg
  let rld := x.remote.any fun r => r.load && ((u.reads.contains r.reg && need r.row) || u.writes.contains r.reg)
  if mma then .stall 3 else if push || rld then .quiet else .go

/-- Whether an instruction that uses whole registers as `u` must wait (log entry 73). -/
def Cu.hazard (c : Cu) (k : Nat) (u : RegUse) : Wait := c.hazardRows k u fun _ => true

/-- The registers a vector instruction uses: its sources, and the destination whose masked lanes stay (R113, R121, R123). -/
def Ctx.vecUse (x : Ctx) (o : VecOp) (f : VecF) : RegUse :=
  let code := fun (c : Nat) => if c < 24 then [c] else if c = 0x20 then [fwdCode x.imem false x.pc] else []
  ⟨code f.sa.toNat ++ (if o.usesB then code f.sb.toNat else []) ++ (if o = .fma then code f.sc.toNat else []) ++ [f.dst.toNat],
    [f.dst.toNat]⟩

/-! ### A unit fault (R141–R146, R150) -/

/-- The status that a cause puts on the completion (R141, R186). -/
def causeStatus (cause : Nat) : Nat := if cause = 1 then 3 else if cause = 2 then 4 else 7

/-- Context `k` of unit `u` takes a fault: earlier mmas complete and their events with them, a pending switch is cancelled, the
context becomes FAULTED, and its record is written at once (R142, R144, R145, R150). A context that has been switched out, whose
held pop meets an offending token, cancels no switch. -/
def State.cuFault (s : State) (u k cause detail : Nat) : State :=
  let c := s.cu u
  let on := c.active == some k
  let sw := if on then c.pendSw else none
  let c := c.finishAll k
  let x := (c.ctxAt k).settle
  let c := c.setCtx k { x with st := .faulted, hold := none, waitTo := none }
  let c := if on then { c with active := none, pendSw := none, swByAction := false, faultAt := if cause = 4 then some s.time.now else c.faultAt,
                               cancelled := c.cancelled + (if sw.isSome && c.swByAction then 1 else 0) } else c
  let c := c.promote
  let s := s.setCu u c
  match s.regionOf u with
  | none => s
  | some r =>
    let w2 := cause * 2 ^ 60 + unitX u * 2 ^ 54 + unitY u * 2 ^ 48 + k * 2 ^ 46 +
      (match sw with | some v => 2 ^ 45 + v * 2 ^ 43 | none => 0) +
      x.pc * 2 ^ 29 + x.mode.toNat * 2 ^ 21 + x.astat.toNat * 2 ^ 13
    let w3 := (x.lReg 3).toNat * 2 ^ 48 + (x.lReg 2).toNat * 2 ^ 32 + (x.lReg 1).toNat * 2 ^ 16 + (x.lReg 0).toNat
    let z := s.faultRecord r u k w2 w3 (x.imem.getD x.pc 0).toNat detail 0
    ((z.2.addCtr r 21 (cause - 1) 1).updRgn r fun g => { g with faults := NatSet.ins g.faults (4 * u + k) }).regionFault r (causeStatus cause) z.1

/-! ### Tokens taken by a hold (R90, R120, R128, R143) -/

/-- The DETAIL of a QUEUE fault (R145). -/
def queueDetail (port : Nat) (missing mma : Bool) (rows : Nat → Nat) (pos : Nat) : Nat :=
  port + (if missing then 4 else 0) + (if mma then 8 else 0) + rows 0 * 2 ^ 8 + rows 1 * 2 ^ 14 + rows 2 * 2 ^ 20 + rows 3 * 2 ^ 26 + pos * 2 ^ 32

/-- A token is out of place: END before the m-th, or none on it (R102). -/
def tokenBad (n m : Nat) (t : Token) : Bool := if n < m then t.fin else !t.fin

/-- The mma in the shifts takes the tokens that have arrived, one per row (R90). Answers the CU, whether it released the
hold, and an offending token's position and whether END was missing. -/
def Cu.takeRows (c : Cu) : Nat → Cu × Bool × Option (Nat × Bool)
  | 0 => (c, false, none)
  | fuel + 1 =>
    match c.arr with
    | none => (c, false, none)
    | some r =>
      if !r.f.fromQ || r.bad.isSome || decide (r.f.m ≤ r.rows.length) then (c, false, none)
      else
        let p := r.f.a.toNat % 4
        match c.qTokens p with
        | [] => (c, false, none)
        | t :: ts =>
          let c := c.setQ p ts
          let n := r.rows.length + 1
          if tokenBad n r.f.m t then ({ c with arr := some { r with bad := some r.rows.length } }, false, some (n, decide (n = r.f.m)))
          else
            let c := { c with arr := some { r with rows := r.rows ++ [t.row] } }
            if n = r.f.m then (c, true, none) else Cu.takeRows c fuel

/-- Run the Q-sourced mma at unit `u` as far as its tokens go: release its hold, or fault (R120, R143). -/
def State.pumpMma (s : State) (u : Nat) : State :=
  let c := s.cu u
  match c.arr with
  | none => s
  | some r0 =>
    let z := c.takeRows 33
    let s := if z.1 == c then s else (s.setCu u z.1).progressAt u
    match z.2.2 with
    | some (pos, missing) =>
      let c := z.1
      let p := r0.f.a.toNat % 4
      let rows := match c.arr with | some r => r.rows.length | none => 0
      let x := match c.arr with | some r => (c.ctxAt r.ctx).runShift r | none => c.ctxAt r0.ctx
      let s := s.setCu u { (c.setCtx r0.ctx x) with arr := none }
      s.cuFault u r0.ctx 3 (queueDetail p missing true (fun q => if q = p then rows else 0) pos)
    | none =>
      if z.2.1 then s.updCtx u r0.ctx fun x => { x with hold := none }.advance
      else s

/-- One cycle of a held pop or drop: every named port with a token gives one (R128). Answers the CU, the context and what
offended: port, position, END missing. -/
def popCycle (c : Cu) (x : Ctx) (drop : Bool) (reg : Nat) (ports : List Nat) (m : Nat) (got : FMap Nat) :
    Cu × Ctx × FMap Nat × Option (Nat × Nat × Bool) :=
  ports.zipIdx.foldl (fun (acc : Cu × Ctx × FMap Nat × Option (Nat × Nat × Bool)) p =>
    let n := count acc.2.2.1 p.1 + 1
    if m < n then acc
    else match acc.1.qTokens p.1 with
      | [] => acc
      | t :: ts =>
        let c := acc.1.setQ p.1 ts
        if tokenBad n m t then (c, acc.2.1, acc.2.2.1, acc.2.2.2.orElse fun _ => some (p.1, n, decide (n = m)))
        else (c, (if drop then acc.2.1 else acc.2.1.setRegRow (reg + p.2) (n - 1) t.row), bump acc.2.2.1 p.1 1, acc.2.2.2))
    (c, x, got, none)

/-- Cycles of a held pop or drop until the tokens run out, an offending one is met, or every port has given m. -/
def popCycles (c : Cu) (x : Ctx) (drop : Bool) (reg : Nat) (ports : List Nat) (m : Nat) (got : FMap Nat) :
    Nat → Cu × Ctx × FMap Nat × Option (Nat × Nat × Bool)
  | 0 => (c, x, got, none)
  | fuel + 1 =>
    let z := popCycle c x drop reg ports m got
    if z.2.2.2.isSome || z.2.2.1 == got then z else popCycles z.1 z.2.1 drop reg ports m z.2.2.1 fuel

/-- The ports a mask names, ascending. -/
def maskPorts (m : BitVec 4) : List Nat := (List.range 4).filter fun p => m.getLsbD p

/-- Run a held pop or drop of context `k` at unit `u` as far as its tokens go (R128, R143). -/
def State.pumpPop (s : State) (u k : Nat) (f : MoveF) (drop : Bool) : State :=
  let c := s.cu u
  let x := c.ctxAt k
  let ports := maskPorts f.pmask
  let m := f.mm1.toNat + 1
  match x.hold with
  | none => s
  | some h =>
    let z := popCycles c x drop f.reg.toNat ports m h.got 33
    let s := if z.2.2.1 == h.got && z.2.2.2.isNone then s
      else (s.setCu u (z.1.setCtx k { z.2.1 with hold := some ⟨z.2.2.1⟩ })).progressAt u
    match z.2.2.2 with
    | some (p, pos, missing) => s.cuFault u k 3 (queueDetail p missing false (count z.2.2.1) pos)
    | none =>
      if ports.all fun p => decide (m ≤ count z.2.2.1 p) then s.updCtx u k fun x => { x with hold := none }.advance
      else s

/-- The instruction at a context's PC. -/
def Ctx.instr (x : Ctx) : Option Zelux := (x.imem[x.pc]?).bind decodeZelux

/-- Go on with whatever holds issue at unit `u`, now that tokens may have arrived (R90, R128); a pop that held its context when
it was switched out completes as work in flight does (R104; log entry 74). -/
def State.pumpHold (s : State) (u : Nat) : State :=
  (List.range 4).foldl (fun s k =>
    let x := (s.cu u).ctxAt k
    if x.hold.isNone then s
    else match x.instr with
      | some (.move .pop f) => s.pumpPop u k f false
      | some (.move .drop f) => s.pumpPop u k f true
      | _ => s) (s.pumpMma u)

/-! ### Issue (R110–R115) -/

/-- The contexts of unit `u` are stopped: a die of its region is being powered down (R216 row 1). -/
def State.stoppedAt (s : State) (u : Nat) : Bool :=
  match s.regionOf u with
  | none => false
  | some r => s.rgnStopped r

/-- A context stands at a word that decodes as instruction `z`, and nothing holds its issue (R114, R120, R128, R455). -/
def Ctx.standsAt (x : Ctx) (z : Zelux) : Bool :=
  x.st == .active && x.hold.isNone && x.imem[x.pc]? == some (encodeZelux z) && decide (count x.upset x.pc < 3)
/-- The ACTIVE context reads its instruction word: a correctable one is counted, an uncorrectable one is counted and logged, and the
context issues nothing further (R455, R468). -/
def State.readInstr (s : State) (u k : Nat) : State :=
  let x := (s.cu u).ctxAt k
  let src := 48 + unitDie u
  match count x.upset x.pc with
  | 0 => s
  | 1 => s.countErr src 0
  | 2 => s.countErr src 1
  | 3 =>
    let whr := unitX u * 2 ^ 52 + unitY u * 2 ^ 58 + x.pc
    ((s.countErr src 2).logRec src 5 (Config.syndrome (whr + 3)).toNat whr (s.ownerOf u)).updCtx u k fun x =>
      { x with upset := FMap.set 0 x.upset x.pc 4 }
  | _ => s
/-- The context's wait.step target lies ahead (R140). -/
def Ctx.waits (x : Ctx) (now : Nat) : Bool := match x.waitTo with | none => false | some t => decide (now < t)

/-- The instruction that holds issue finds a Q port it takes from empty: the cycle counts as a stall of R107. -/
def Cu.heldEmpty (c : Cu) : Zelux → Bool
  | .mma f => (c.qTokens (f.a.toNat % 4)).isEmpty
  | .move _ f => (maskPorts f.pmask).any fun p => (c.qTokens p).isEmpty
  | _ => false

/-- Issue instruction `z` at unit `u`: `wait` says whether it must wait, `go` what it does. An instruction that the active
context does not stand at does not issue (log entry 9); one that already holds issue counts its empty port (R107). -/
def issue (u : Nat) (z : Zelux) (wait : Cu → Nat → Ctx → Wait) (go : Nat → Cu → Ctx → State → State) (s : State) : Out :=
  if !z.legal then .refused .illegalEncoding
  else if s.stoppedAt u then .next s
  else
    let c := s.cu u
    match c.active with
    | none => .next s
    | some k =>
      let x := c.ctxAt k
      if x.standsAt z then
        if x.waits s.time.now then .next (s.setCu u (c.setCtx k { x with stalls := bump x.stalls 6 1 })) else
        let x := { x with waitTo := none }
        match wait c k x with
        | .go => .next ((go k (c.setCtx k x) x ((s.readInstr u k).setCu u (c.setCtx k x))).progressAt u)
        | .stall n => .next (s.setCu u (c.setCtx k { x with stalls := bump x.stalls n 1 }))
        | .quiet => .next (s.setCu u (c.setCtx k x))
      else if x.st == .active && x.hold.isSome && x.imem[x.pc]? == some (encodeZelux z) && c.heldEmpty z then
        .next (s.setCu u (c.setCtx k { x with stalls := bump x.stalls 0 1 }))
      else if x.st == .active && count x.upset x.pc == 3 then .next (s.readInstr u k)
      else .next s

/-- Issue an instruction that changes its context's registers alone, and advance (R114). -/
def issueCtx (u : Nat) (z : Zelux) (use : Ctx → RegUse) (f : Ctx → Ctx) (s : State) : Out :=
  issue u z (fun c k x => c.hazard k (use x)) (fun k c x s => s.setCu u (c.setCtx k (f x).advance)) s

end Sys2Proof.Machine
end

