-- ==== Sys2Proof/Machine/Streams.lean ====
section
/-! DEFINITION. Stream engines (R153–R191): windows, the rows of a descriptor, tags, tokens, the scoreboard, hold marks,
compare-and-count and stream faults. A command of a kind begins that engine's next descriptor of the kind and runs it as
far as tags, buffers, credits and marks allow; replies, tokens and releases run it on. -/

namespace Sys2Proof.Machine

/-! ### Windows (R158, R159) -/

/-- The window set in force. -/
def Eng.win (g : Eng) : List W64 := FMap.get ([] : List W64) g.banks g.bank
/-- SPLO. -/
def winLo (w : List W64) : Nat := (w.getD 0 0).bits 11 0
/-- SPHI. -/
def winHi (w : List W64) : Nat := (w.getD 0 0).bits 23 12
/-- The scratchpad window's length in bytes. -/
def winSp (w : List W64) : Nat := (winHi w + 1 - winLo w) * 128
/-- BASE of device window n. -/
def winBase (w : List W64) (n : Nat) : Nat := (w.getD (1 + 2 * n) 0).bits 51 0
/-- LEN of device window n. -/
def winLen (w : List W64) (n : Nat) : Nat := (w.getD (2 + 2 * n) 0).bits 51 0
/-- RD of device window n. -/
def winRd (w : List W64) (n : Nat) : Bool := (w.getD (2 + 2 * n) 0).bit 52
/-- WR of device window n. -/
def winWr (w : List W64) (n : Nat) : Bool := (w.getD (2 + 2 * n) 0).bit 53
/-- OU of device window n. -/
def winOu (w : List W64) (n : Nat) : Bool := (w.getD (2 + 2 * n) 0).bit 54

/-- The program a descriptor names. -/
def Eng.prog (g : Eng) (d : Desc) : List W64 := g.agps.getD (dAgp d) []
/-- The rows of a descriptor. -/
def Eng.rows (g : Eng) (d : Desc) : Nat := agpRows (g.prog d) d

/-! ### Scratchpad bytes -/

/-- `n` scratchpad bytes of MU `m` from an offset, with the marks of their words. -/
def State.spadBytes (s : State) (m o : Nat) : Nat → List MByte
  | 0 => []
  | n + 1 =>
    let k := spadKey m o
    (Mem.byte s.mem.spad k, NatSet.mem s.mem.spadPoison (k / 8) || count s.mem.upset (upsetSpad k) == 3) :: State.spadBytes s m (o + 1) n

/-- The part of bytes laid at `a` that lies in the line `l`: its row and the mask of the words it touches. -/
def lineChunk (a l : Nat) (bs : List MByte) : LineWrite :=
  let here := (bs.zipIdx).filter fun e => lineOf (a + e.2) == l
  let data := here.foldl (fun n e => n + e.1.1.toNat * 256 ^ ((a + e.2) % 128)) 0
  let words := fun (p : MByte → Bool) => (List.range 16).foldr (fun w n =>
    (if here.any (fun e => (a + e.2) % 128 / 8 == w && p e.1) then 1 else 0) + 2 * n) 0
  ⟨l, ⟨BitVec.ofNat 1024 data, BitVec.ofNat 16 (words (·.2))⟩, BitVec.ofNat 16 (words fun _ => true)⟩

/-- The aligned lines that [a, a + n) touches (R169). -/
def linesOf (a n : Nat) : List Nat :=
  if n = 0 then [] else (List.range ((a + n - 1) / 128 + 1 - a / 128)).map fun i => 128 * (a / 128 + i)

/-- Write bytes into the scratchpad of MU `m` (R154). -/
def State.writeSpad (s : State) (m o : Nat) (bs : List MByte) : State :=
  ((linesOf o bs.length).foldl (fun s l => let c := lineChunk o l bs; s.putSpadRow m l c.row c.mask) s).spadWritten m o bs.length
/-- Write one whole scratchpad row (R154). -/
def State.writeSpadRow (s : State) (m row : Nat) (r : Row) : State := (s.putSpadRow m (128 * row) r fullMask).spadWritten m (128 * row) 128

/-! ### Rows (R159, R166) -/

/-- A row as its address program forms it. -/
structure RowAddr where
  idx : List Nat
  a : Int
  b : Int
  lanes : Nat
deriving DecidableEq, Repr

/-- What forming a row's address comes to: the row, or a stream fault's cause and DETAIL (R186, R188). -/
inductive RowRes where
  | row (x : RowAddr)
  | stop (idx : List Nat) (cause detail : Nat)
deriving DecidableEq, Repr

/-- The DETAIL of a BOUNDS fault (R188). -/
def boundsDetail (off : Int) (reason side : Nat) : Nat := (off % (2 ^ 52 : Nat)).toNat + reason * 2 ^ 52 + side * 2 ^ 55

/-- One address stream of a row: its offset, or a fault of its index entry (R159, R166, R186). -/
def State.rowOffset (s : State) (m : Nat) (g : Eng) (d : Desc) (t : Nat) (idx : List Nat) : Except (Nat × Nat) Int :=
  let p := g.prog d
  let base := agpAffine p t (if t = 0 then dAbase d else dBbase d) idx
  match agpInd p t with
  | none => .ok base
  | some (l, sh) =>
    let o := dTbase d + 4 * idx.getD l 0
    if winSp g.win < o + 4 then .error (2, boundsDetail (o : Int) 1 t)
    else
      let bs := s.spadBytes m (128 * winLo g.win + o) 4
      if bs.any (·.2) then .error (1, 0) else .ok (base + s32 (bytesNat bs) * (2 ^ sh : Nat))

/-- The reason for which an access of `n` bytes at an offset fails its check, `side` 1 for scales (R159, R186, R188). Scale bytes
lie at any byte, so the multiple of 8 that R167 and R186 ask for is one of the element side (log entry 79). Where several reasons
hold the first of these is recorded: below the window, beyond it, outside RLO–RHI, misaligned (log entry 80). -/
def rowReason (w : List W64) (d : Desc) (off : Int) (n side : Nat) : Option Nat :=
  if off < 0 then some 0
  else if dDevSide d then
    (if winLen w (dDw d) < off.toNat + n then some 1 else if side = 0 && off % 8 ≠ 0 then some 3 else none)
  else if winSp w < off.toNat + n then some 1
  else if off.toNat < 128 * dRlo d || 128 * (dRhi d + 1) < off.toNat + n then some 2
  else if side = 0 && off % 8 ≠ 0 then some 3
  else none

/-- The device window that a descriptor names is absent or lacks the access (R159). -/
def winDenied (w : List W64) (d : Desc) : Bool :=
  dDevSide d && (winLen w (dDw d) == 0 || !(if dToDev d then winWr w (dDw d) else winRd w (dDw d)))

/-- The scratchpad row that a copy's row `r` occupies lies in the window (R159); else the offset that is formed. -/
def copyBeyond (w : List W64) (d : Desc) (r : Nat) : Option Nat :=
  if dCopy d && decide (winSp w < 128 * (dRlo d + r) + 128) then some (128 * (dRlo d + r)) else none

/-- Form the address of row `r` and check it; a zero row reads no index and makes no access but the zeros that a DEV → SP copy
writes. The scale address is that of the first row of the row's block (R166, R170). A window that denies the access comes before the
reasons of `rowReason`, those of the element side before the scale side, a copy's device side before its scratchpad side (R188; log
entry 80). -/
def State.formRow (s : State) (m : Nat) (g : Eng) (d : Desc) (r : Nat) : RowRes :=
  let p := g.prog d
  let cs := agpCounts p d
  let idx := agpTuple cs r
  let lanes := agpLanes p d idx
  if lanes = 0 then
    match if dKind d = 0 then copyBeyond g.win d r else none with
    | some o => .stop idx 2 (boundsDetail (o : Int) 1 0)
    | none => .row ⟨idx, 0, 0, 0⟩
  else match s.rowOffset m g d 0 idx with
    | .error e => .stop idx e.1 e.2
    | .ok a =>
      let scale := if dBlock d then s.rowOffset m g d 1 (agpTuple cs (r - r % dPeriod d)) else .ok 0
      match scale with
      | .error e => .stop idx e.1 e.2
      | .ok b =>
        if winDenied g.win d then .stop idx 2 (boundsDetail a 4 0)
        else match rowReason g.win d a (dElemBytes d lanes) 0 with
          | some n => .stop idx 2 (boundsDetail a n 0)
          | none =>
            match if dBlock d then rowReason g.win d b (dScaleBytes d) 1 else none with
            | some n => .stop idx 2 (boundsDetail b n 1)
            | none => match copyBeyond g.win d r with
              | some o => .stop idx 2 (boundsDetail (o : Int) 1 0)
              | none => .row ⟨idx, a, b, lanes⟩

/-! ### A stream fault (R186–R188) -/

/-- Engine `e` of MU `m` takes a fault at its row: it becomes FAULTED and its record is written at once (R187, R188). -/
def State.streamFault (s : State) (m e cause detail : Nat) (idx : List Nat) : State :=
  let g := s.eng m e
  let at_ := match g.desc with
    | some d => d
    | none => match g.queue with | q :: _ => (q.1, q.2.1) | [] => (0, [])
  let s := s.updEng m e fun g => { g with st := .faulted }
  match s.regionOf m with
  | none => s
  | some r =>
    let i := fun (n : Nat) => idx.getD n 0 % 65536
    let w2 := cause * 2 ^ 60 + unitX m * 2 ^ 54 + unitY m * 2 ^ 48 + e * 2 ^ 46 + g.sstat.toNat * 2 ^ 32 +
      g.row % 2 ^ 24 * 2 ^ 8 + dAgp at_.2 * 2 ^ 6
    let z := s.faultRecord r m e w2 (i 0 + i 1 * 2 ^ 16 + i 2 * 2 ^ 32 + i 3 * 2 ^ 48) at_.1 detail (i 4 + i 5 * 2 ^ 16)
    (z.2.addCtr r 22 (cause - 1) 1).regionFault r (causeStatus cause) z.1

/-! ### Tags (R181) -/

/-- The first tag of engine `e`'s allotment. -/
def Mu.tagBase (x : Mu) (e : Nat) : Nat := (List.range e).foldl (fun n i => n + (x.engAt i).tags) 0
/-- A free tag of engine `e`. -/
def Mu.freeTag (x : Mu) (e : Nat) : Option Nat :=
  ((List.range (x.engAt e).tags).map (x.tagBase e + ·)).find? fun t => !(FMap.get false x.busy t)
/-- Take a tag: its generation moves on (R181). -/
def Mu.takeTag (x : Mu) (t : Nat) : Mu :=
  { x with busy := FMap.set false x.busy t true, gens := FMap.set 0 x.gens t ((count x.gens t + 1) % 16) }
/-- Free the tags of [base, base + n) that no request of the engine's rows holds any more. -/
def Mu.freeTags (x : Mu) (e : Nat) : Mu :=
  let held := (x.engAt e).jobs.flatMap fun j => j.reqs.map (·.tag)
  let base := x.tagBase e
  { x with busy := x.busy.filter fun b => decide (b.1 < base) || decide (base + (x.engAt e).tags ≤ b.1) || held.contains b.1 }

/-- Inject one device request of MU `m` into the network (R198). -/
def State.injectReq (s : State) (m a : Nat) (mask : BitVec 16) (row : Row) (tag : Nat) : State :=
  let rtag := (s.regionOf m).getD 256
  let f : Flit := ⟨if mask == 0 then .readReq else .writeReq, rtag, .unit m, .slice (s.requestSlice rtag a), a, mask, row, tag,
    count (s.mu m).gens tag, false, 1⟩
  { s with flits := s.flits ++ [f] }.addUnitCtr m 12 0 1

/-- Send the read requests of a row's lines; a line that the row before it asked for shares that request (R169). None where
the tags do not suffice. -/
def State.readReqs (s : State) (m e : Nat) : List Nat → Option (List LineReq × State)
  | [] => some ([], s)
  | l :: ls =>
    let last := (s.eng m e).jobs.getLast?
    match last.bind fun j => if j.write then none else j.reqs.find? fun q => q.line == l with
    | some q => (State.readReqs s m e ls).map fun z => (q :: z.1, z.2)
    | none =>
      match (s.mu m).freeTag e with
      | none => none
      | some t =>
        let s := (s.updMu m fun x => x.takeTag t).injectReq m l 0 Row.zero t
        (State.readReqs s m e ls).map fun z => (⟨l, t, none, false⟩ :: z.1, z.2)

/-- Merge a line into those that wait to be sent (R169). -/
def wqMerge (q : List LineWrite) (c : LineWrite) : List LineWrite :=
  if q.any fun x => x.line == c.line then
    q.map fun x => if x.line == c.line then ⟨x.line, Row.merge x.row c.row c.mask, x.mask ||| c.mask⟩ else x
  else q ++ [c]

/-- Queue the device write of bytes at `a` as a row's job (R169, R175). -/
def State.queueWrite (s : State) (m e : Nat) (dw : Desc) (row lanes a : Nat) (bs : List MByte) : State :=
  let ls := linesOf a bs.length
  s.updEng m e fun g => { g with
    wq := ls.foldl (fun q l => wqMerge q (lineChunk a l bs)) g.wq,
    jobs := g.jobs ++ [(⟨dw, row, a, lanes, 0, 0, ls.map fun l => ⟨l, 64, none, false⟩, true, g.nth⟩ : RowJob)] }

/-- The region of MU `m` is held by a fence (R213). -/
def State.muFenced (s : State) (m : Nat) : Bool :=
  match s.regionOf m with
  | some r => decide (0 < (s.rgn r).fence)
  | none => false

/-- The line that the next row of a store in progress still adds to, if any (R169). -/
def State.heldLine (s : State) (m e : Nat) : Option Nat :=
  let g := s.eng m e
  match g.desc with
  | some d =>
    if g.st == .run && dToDev d.2 && decide (g.row < g.rows d.2) then
      match s.formRow m g d.2 g.row with
      | .row x => if 0 < x.lanes then some (lineOf (winBase g.win (dDw d.2) + x.a.toNat)) else none
      | .stop _ _ _ => none
    else none
  | none => none

/-- The write that may be sent next. -/
def State.nextWrite (s : State) (m e : Nat) : Option LineWrite :=
  let h := s.heldLine m e
  (s.eng m e).wq.find? fun c => h != some c.line

/-- Send one line's write where a tag is free (R181). -/
def State.sendWrite (s : State) (m e : Nat) : Option State :=
  if s.muFenced m then none
  else match s.nextWrite m e, (s.mu m).freeTag e with
    | some c, some t =>
      let s := s.updMu m fun x => x.takeTag t
      let s := s.updEng m e fun g => { g with
        wq := g.wq.filter fun x => x.line != c.line,
        jobs := g.jobs.map fun j => if j.write then
          { j with reqs := j.reqs.map fun q => if q.line == c.line && q.tag == 64 then { q with tag := t } else q } else j }
      some (s.injectReq m c.line c.mask c.row t)
    | _, _ => none

/-! ### Rows that complete (R175, R179) -/

/-- Count rows at the row counter RC, which is progress of the region (R179, R240). -/
def State.addRc (s : State) (m e n : Nat) : State :=
  if n = 0 then s else (s.updEng m e fun g => { g with rc := (g.rc + n) % 2 ^ 32 }).progressAt m
/-- Mark the scoreboard entry of the engine's `n`-th descriptor: its last write is granted (R176). -/
def sbDone (e n : Nat) (l : List SbEntry) : List SbEntry := l.map fun x => if x.eng == e && x.desc == n then { x with done := true } else x
/-- The bytes [a, a + n) of a job's lines. -/
def RowJob.bytes (j : RowJob) (a n : Nat) : List MByte :=
  (List.range n).map fun i =>
    match (j.reqs.find? fun q => q.line == lineOf (a + i)).bind (·.got) with
    | some r => (BitVec.ofNat 8 (r.data.extractLsb' (8 * ((a + i) % 128)) 8).toNat, r.poison.getLsbD ((a + i) % 128 / 8))
    | none => (0, false)
/-- A load's row as a token's or a scratchpad row's lanes. -/
def RowJob.load (j : RowJob) : Row × Ev :=
  if j.lanes = 0 then (Row.zero, 0)
  else loadRow j.dw (j.bytes j.a (dElemBytes j.dw j.lanes)) (j.bytes j.b (dScaleBytes j.dw)) j.lanes
/-- END falls on this row (R174). -/
def dEnd (d : Desc) (r : Nat) : Bool := (r + 1) % dTile d == 0

/-- Drop a job from an engine's rows and free what only it held. -/
def State.dropJob (s : State) (m e : Nat) (jobs : List RowJob) : State :=
  (s.updEng m e fun g => { g with jobs := jobs }).updMu m fun x => x.freeTags e

/-- A store whose writes are acknowledged leaves; a LINK → DEV row counts (R175, R179). -/
def State.settleWrite (s : State) (m e : Nat) : Option State :=
  let g := s.eng m e
  let fin := fun (j : RowJob) => j.write && j.reqs.all (·.acked)
  let done := g.jobs.filter fin
  if done.isEmpty then none
  else
    let n := (done.filter fun j => decide (0 < j.lanes) && dKind j.dw == 5).length
    some ((s.dropJob m e (g.jobs.filter fun j => !fin j)).addRc m e n)

/-- The oldest load whose replies have arrived gives up its row: to the scratchpad, or as a token (R175, R181). -/
def State.settleRead (s : State) (m e : Nat) : Option State :=
  let g := s.eng m e
  match g.jobs.find? fun j => !j.write with
  | none => none
  | some j =>
    if !(j.reqs.all fun q => q.got.isSome) then none
    else
      let rest := g.jobs.eraseP fun j => !j.write
      let z := j.load
      if dKind j.dw = 0 then
        let s := ((s.dropJob m e rest).writeSpadRow m j.sp z.1).addRc m e (if 0 < j.lanes then 1 else 0)
        some (if j.row + 1 = g.rows j.dw then s.updMu m fun x => { x with sb := sbDone e j.desc x.sb } else s)
      else if g.outbuf.isEmpty && s.credit m (dLink j.dw) (dChan j.dw) then
        let s := s.dropJob m e rest
        let s := s.updEng m e fun g => { g with sstat := g.sstat ||| z.2 }
        some ((s.sendToken m (dLink j.dw) (dChan j.dw) ⟨z.1, dEnd j.dw j.row⟩).addRc m e (if 0 < j.lanes then 1 else 0))
      else none

/-- Send the oldest token of the output buffer while a credit is held (R98, R174). The link of the tokens it holds is count
10 of the engine. -/
def State.settleOut (s : State) (m e : Nat) : Option State :=
  let g := s.eng m e
  let lc := count g.cnt 10
  match g.outbuf with
  | [] => none
  | t :: ts =>
    if s.credit m (lc / 4) (lc % 4) then
      some ((s.updEng m e fun g => { g with outbuf := ts }).sendToken m (lc / 4) (lc % 4) t)
    else none

/-! ### Hold marks (R179) -/

/-- The mark at which the engine stops before its next row: its number and its word. HOLD0 is tested first. -/
def Eng.markAt (g : Eng) (d : Desc) : Option (Nat × W64) :=
  let hits := fun (i : Nat) (passed : Bool) =>
    let w := dHold d i
    !passed && decide (w.bits 25 24 ≠ 0) && w.bits 23 0 == g.row && decide (w.bits 23 0 < 2 ^ 24 - 1)
  if hits 0 g.passed0 then some (0, dHold d 0) else if hits 1 g.passed1 then some (1, dHold d 1) else none
/-- Pass mark `i`. -/
def Eng.pass (g : Eng) (i : Nat) : Eng := if i = 0 then { g with passed0 := true } else { g with passed1 := true }

/-- The drain of group `g` has been declared in region `r` since its last wave of groups began (R179, R245; log entry 91). -/
def State.drainDeclared (s : State) (r g : Nat) : Bool := NatSet.mem (s.rgn r).declared g

/-- Whether a mark lets the engine pass now (R179). -/
def State.markOpen (s : State) (m : Nat) (g : Eng) (w : W64) : Bool :=
  match w.bits 25 24 with
  | 1 => NatSet.mem g.latches (w.bits 39 32)
  | 2 => decide (((s.eng m (w.bits 27 26)).rc + 2 ^ 32 - w.bits 63 32) % 2 ^ 32 < 2 ^ 31)
  | 3 => match s.regionOf m with
    | some r => s.drainDeclared r (w.bits 39 32)
    | none => false
  | _ => true

/-- Pass an open mark; a STEP mark uses up its id's latch (R179). -/
def Eng.takeMark (g : Eng) (i : Nat) (w : W64) : Eng :=
  { (g.pass i) with st := .run, latches := if w.bits 25 24 = 1 then NatSet.del g.latches (w.bits 39 32) else g.latches }

/-! ### Compare and count (R184, R185) -/

/-- THRESH. -/
def dThresh (d : Desc) : W32 := BitVec.ofNat 32 ((dWord d 2).bits 31 0)
/-- CMPOP. -/
def dCmpop (d : Desc) : Nat := (dWord d 2).bits 34 32
/-- HIST. -/
def dHist (d : Desc) : Nat := (dWord d 2).bits 36 35
/-- HABS. -/
def dHabs (d : Desc) : Bool := (dWord d 2).bit 37
/-- RDST. -/
def dRdst (d : Desc) : Bool := (dWord d 2).bit 38
/-- RESROW. -/
def dResrow (d : Desc) : Nat := (dWord d 2).bits 51 40
/-- HE0, signed. -/
def dHe0 (d : Desc) : Int := sext 8 ((dWord d 6).bits 39 32)

/-- An element's value as its RFMT's number. -/
def cmpVal (int : Bool) (w : W32) : Fp := if int then .fin (decide (w.toInt < 0)) w.toInt.natAbs 0 else f32 w
/-- The magnitude of a value. -/
def fpAbs : Fp → Fp
  | .nan => .nan
  | .inf _ => .inf false
  | .fin _ m e => .fin false m e
/-- The magnitude of an element as a lane of the result: that of −2^31 saturates as an I32 result does (R56, R185; log entry
81). -/
def cmpAbs (int : Bool) (w : W32) : W32 := if int then (intResult 32 (w.toInt.natAbs : Int)).1 else w &&& 0x7fffffff

/-- An element satisfies CMPOP (R66, R184). -/
def cmpHit (int : Bool) (op : Nat) (x t : W32) : Bool :=
  let v := if op = 6 then fpAbs (cmpVal int x) else cmpVal int x
  let le := fpLe v (cmpVal int t)
  let ge := fpLe (cmpVal int t) v
  match op with
  | 0 => le && !ge
  | 1 => le
  | 2 => ge && !le
  | 3 => ge
  | 4 => le && ge
  | 5 => !(le && ge)
  | 6 => ge
  | _ => false

/-- The edge T + bW of a linear bucket, formed once in F32 with RNE (R184). -/
def cmpEdge (int : Bool) (t w : W32) (b : Nat) : Fp :=
  f32 (if int then (intToF32 .rne (t.toInt + b * w.toInt)).1 else (f32Fma .rne (intToF32 .rne (b : Int)).1 w t).1)

/-- The bucket of a value (R184). An infinity, to which the spec gives no exponent, falls in the highest exponent bucket whatever HE0
(log entry 82). -/
def cmpBucket (int : Bool) (d : Desc) (v : Fp) : Nat :=
  if dHist d = 1 then
    ((List.range 16).filter fun b => fpLe (cmpEdge int (dThresh d) (BitVec.ofNat 32 (dSeed d)) b) v).getLastD 0
  else match v with
    | .inf _ => 15
    | .fin _ m e => if m = 0 then 0 else (min (max (e + bitLen m - 1 - dHe0 d) 0) 15).toNat
    | .nan => 0

/-- Add a row's tree sum to a running sum (R67, R185). -/
def cmpSum (int : Bool) (acc : W32) (l : List W32) : W32 :=
  let ty := if int then 1 else 0
  (vecLane .add .rne ty acc (redTree .sum .rne ty l).1 0).1

/-- One row of a compare-and-count: its real lanes with their marks (R184, R185). -/
def CmpAcc.row (c : CmpAcc) (d : Desc) (l : List Ln) : CmpAcc :=
  let int := dRfmt d == 2
  let isNan := fun (w : W32) => !int && f32IsNan w
  let ws := l.map (·.1)
  let hit := fun (w : W32) => cmpHit int (dCmpop d) w (dThresh d)
  let buckets := if dHist d = 0 then [] else (ws.filter fun w => !isNan w).map fun w => cmpBucket int d (if dHabs d then fpAbs (cmpVal int w) else cmpVal int w)
  let counted := (List.range 32).map fun j => match ws[j]? with | some w => if hit w then w else 0 | none => 0
  let sq := fun (w : W32) => if int then (intResult 32 (w.toInt * w.toInt)).1 else (f32Mul .rne w w).1
  let maxOf := fun (a b : W32) => if int then (if a.toInt ≤ b.toInt then b else a) else (f32Max a b).1
  { hist := buckets.foldl (fun h b => FMap.set 0 h b (min (FMap.get 0 h b + 1) (2 ^ 31 - 1))) c.hist,
    count := c.count + (ws.filter hit).length,
    nan := c.nan + (ws.filter isNan).length,
    sum := cmpSum int c.sum counted,
    sumsq := cmpSum int c.sumsq (counted.map sq),
    maxabs := (ws.filter hit).foldl (fun a w => maxOf a (cmpAbs int w)) c.maxabs,
    seen := c.seen + l.length,
    poison := c.poison || l.any (·.2) }

/-- A count as an I32 lane. -/
def countLane (n : Nat) : W32 := BitVec.ofNat 32 (min n (2 ^ 31 - 1))
/-- The result row (R185). -/
def CmpAcc.result (c : CmpAcc) : Row :=
  let ls := (List.range 16).map (fun b => BitVec.ofNat 32 (FMap.get 0 c.hist b)) ++
    [countLane c.count, countLane c.nan, c.sum, c.sumsq, c.maxabs, countLane c.seen] ++ List.replicate 10 0
  Row.ofLanes (ls.map fun w => (w, c.poison))

/-! ### Forming rows (R166, R175) -/

/-- The engine waits: count `k` of its wait counters moves on. -/
def State.engWait (s : State) (m e : Nat) (st : EngState) (k : Nat) : State :=
  s.updEng m e fun g => { g with st := st, cnt := bump g.cnt k 1 }

/-- A row is formed: the next one is due. -/
def State.nextRow (s : State) (m e : Nat) : State := s.updEng m e fun g => { g with st := .run, row := g.row + 1 }

/-- Write bytes of a store at its side's address: the scratchpad, or a queued device write (R159, R175). -/
def State.storeBytes (s : State) (m e : Nat) (d : Desc) (row lanes : Nat) (off : Nat) (bs : List MByte) : State :=
  let g := s.eng m e
  if dToDev d then s.queueWrite m e d row lanes (winBase g.win (dDw d) + off) bs
  else s.writeSpad m (128 * winLo g.win + off) bs

/-- Gather scale bytes and write every whole aligned word of them (R170). -/
def State.storeScales (s : State) (m e : Nat) (d : Desc) (l : List (Nat × MByte)) : State :=
  l.foldl (fun s p =>
    let off := p.1
    let flag : Byte := if p.2.2 then 3 else 1
    let s := s.updEng m e fun g => { g with scales := FMap.set 0 (FMap.set 0 g.scales (2 * off) p.2.1) (2 * off + 1) flag }
    let g := s.eng m e
    let w := off / 8 * 8
    let here := (List.range 8).map (w + ·)
    if here.all fun o => FMap.get (0 : Byte) g.scales (2 * o + 1) != 0 then
      let bs : List MByte := here.map fun o => (FMap.get (0 : Byte) g.scales (2 * o), FMap.get (0 : Byte) g.scales (2 * o + 1) == 3)
      let s := s.updEng m e fun g => { g with scales := g.scales.filter fun e => decide (e.1 < 2 * w) || decide (2 * w + 16 ≤ e.1) }
      s.storeBytes m e d 0 0 w bs
    else s) s

/-- The data path of one store row whose token is `t` (R168–R172). A row that goes to the scratchpad counts at its write, one that a
block holds back only when the block is written; a zero row counts at once (R179). -/
def State.storeRow (s : State) (m e : Nat) (d : Desc) (x : RowAddr) (t : Row) : State :=
  let g := s.eng m e
  let s := if x.lanes = 0 || (!dToDev d && !dBlock d) then s.addRc m e 1 else s
  if !dBlock d then
    if x.lanes = 0 then s
    else
      let z := storePlain d t x.lanes
      (s.updEng m e fun g => { g with sstat := g.sstat ||| z.2 }).storeBytes m e d g.row x.lanes x.a.toNat z.1
  else
    let q := g.quant ++ [(⟨x.a.toNat, x.b.toNat, x.lanes, t⟩ : QRow)]
    let z := storeGroup d g.gen (q.map fun r => (r.row, r.lanes))
    let full := decide (q.length = dPeriod d)
    let pack := dRfmt d == 3
    let put := fun (s : State) (i : Nat) =>
      let r := q.getD i ⟨0, 0, 0, Row.zero⟩
      if r.lanes = 0 then s
      else (s.storeBytes m e d (g.row + 1 + i - q.length) r.lanes r.a (z.1.getD i [])).addRc m e (if dToDev d then 0 else 1)
    let s := if pack then put s (q.length - 1) else if full then (List.range q.length).foldl put s else s
    let s := s.updEng m e fun g => { g with
      quant := if full then [] else q, gen := if full then z.2.2.2 else g.gen,
      sstat := if full || pack then g.sstat ||| z.2.2.1 else g.sstat }
    if full then s.storeScales m e d (z.2.1.map fun p => ((q.getD p.1 ⟨0, 0, 0, Row.zero⟩).b + p.2.1, p.2.2)) else s

/-- The rows that an SP → LINK engine may hold between address formation and the link: its output buffer and the eight of
its pipeline (R174, R180). -/
def outRoom : Nat := 10

/-- Put a token behind those of the engine's output side. -/
def State.pushOut (s : State) (m e : Nat) (d : Desc) (t : Token) : State :=
  s.updEng m e fun g => { g with outbuf := g.outbuf ++ [t], cnt := FMap.set 0 g.cnt 10 (4 * dLink d + dChan d) }

/-- The output side can take a token for this descriptor's link: older tokens and loads leave first (R175). -/
def Eng.outFree (g : Eng) (d : Desc) : Bool :=
  decide (g.outbuf.length < outRoom) && (g.outbuf.isEmpty || count g.cnt 10 == 4 * dLink d + dChan d) &&
    !(g.jobs.any fun j => !j.write && dKind j.dw == 1)

/-- A CMP's result row lies beyond the scratchpad window, as a guest's window set can make it (R159, R390). -/
def resBeyond (w : List W64) (d : Desc) : Bool := dKind d == 6 && !(dRdst d) && decide (winSp w < 128 * dResrow d + 128)

/-- The descriptor's last row is formed: it ends its part of the list, and a CMP delivers its result (R163, R185), or faults where
the result row fails its check (R159). -/
def State.endDesc (s : State) (m e : Nat) (d : Desc) : State :=
  let g := s.eng m e
  if resBeyond g.win d then
    s.streamFault m e 2 (boundsDetail (128 * dResrow d : Nat) 1 0) (agpTuple (agpCounts (g.prog d) d) (g.row - 1))
  else
  let s := if dKind d = 4 then s.updMu m fun x => { x with sb := sbDone e g.nth x.sb } else s
  let s := match dKind d == 6, g.cmp with
    | true, some c =>
      let s := s.updMu m fun x => { x with cmpOwner := none }
      if dRdst d then s.pushOut m e d ⟨c.result, true⟩ else s.writeSpadRow m (winLo g.win + dResrow d) c.result
    | _, _ => s
  let s := s.updEng m e fun g => { g with desc := none, row := 0, passed0 := false, passed1 := false, cmp := none }
  if dLast d then s.updEng m e fun g => { g with started := false, queue := [], burst := none, burstAsk := none } else s

/-- After a row: the next, or the end of the descriptor. -/
def State.rowDone (s : State) (m e : Nat) (d : Desc) : State :=
  let s := s.nextRow m e
  let g := s.eng m e
  if g.rows d ≤ g.row then s.endDesc m e d else s

/-- A row of the descriptor accesses the scratchpad when it is formed: its data, or an index entry (R161, R166). -/
def Eng.spNow (g : Eng) (d : Desc) : Bool :=
  !(dKind d == 0 || dKind d == 1 || dKind d == 5) || (agpInd (g.prog d) 0).isSome || (agpInd (g.prog d) 1).isSome
/-- Rows of an earlier fill of the engine have yet to be granted: an engine's accesses are granted in its own row order (R155; log
entry 84). -/
def Eng.fillsAhead (g : Eng) : Bool := g.jobs.any fun j => !j.write && dKind j.dw == 0 && j.desc != g.nth

/-- Form the engine's next row, if it can. Answers the state and whether a row was formed or the engine faulted. -/
def State.formNext (s : State) (m e : Nat) : State × Bool :=
  let g := s.eng m e
  match g.desc with
  | none => (s, false)
  | some (_, d) =>
    if g.st == .faulted || g.st == .idle || g.st == .empty then (s, false)
    else if g.rows d ≤ g.row then (s.endDesc m e d, true)
    else match g.markAt d with
      | some (i, w) =>
        if s.markOpen m g w then (s.updEng m e fun g => g.takeMark i w, true)
        else (s.engWait m e .hold 3, false)
      | none =>
        if g.spNow d && g.fillsAhead then (s, false)
        else match s.formRow m g d g.row with
        | .stop idx cause detail =>
          if dTakes d && g.inbuf.isEmpty then (s, false) else (s.streamFault m e cause detail idx, true)
        | .row x =>
          if dTakes d then
            match g.inbuf with
            | [] => (s.updEng m e fun g => { g with st := .run }, false)
            | t :: ts =>
              if dToDev d && (s.nextWrite m e).isSome then (s.engWait m e .wait 1, false)
              else
                let s := ((s.updEng m e fun g => { g with inbuf := ts }).progressAt m).levelEdge m e (ts.length + 1) ts.length
                if t.fin != dEnd d g.row then
                  (s.streamFault m e 3 ((if t.fin then 0 else 1) + 2 * (g.row % dTile d + 1)) x.idx, true)
                else ((s.storeRow m e d x t.row).rowDone m e d, true)
          else if dKind d = 3 then
            if (s.nextWrite m e).isSome then (s.engWait m e .wait 1, false)
            else
              let o := 128 * (winLo g.win + dRlo d + g.row)
              let s1 := (s.addRc m e 1).decodeSpad m o (4 * x.lanes)
              let row := s.spadRow m o
              let z := storePlain d row x.lanes
              let s1 := if x.lanes = 0 then s1 else s1.queueWrite m e d g.row x.lanes (winBase g.win (dDw d) + x.a.toNat) z.1
              (s1.rowDone m e d, true)
          else if dFromDev d then
            if s.muFenced m && decide (0 < x.lanes) then (s, false)
            else if (s.nextWrite m e).isSome then (s.engWait m e .wait 1, false)
            else if dKind d = 1 && !g.outbuf.isEmpty then (s, false)
            else
              let a := winBase g.win (dDw d) + x.a.toNat
              let b := winBase g.win (dDw d) + x.b.toNat
              let lines := if x.lanes = 0 then [] else
                (linesOf a (dElemBytes d x.lanes) ++ linesOf b (dScaleBytes d)).eraseDups
              match s.readReqs m e lines with
              | none => (s.engWait m e .wait 1, false)
              | some (reqs, s) =>
                let j : RowJob := ⟨d, g.row, a, x.lanes, b, winLo g.win + dRlo d + g.row, reqs, false, (s.eng m e).nth⟩
                let s := s.updEng m e fun g => { g with jobs := g.jobs ++ [j] }
                ((s.addRc m e (if x.lanes = 0 then 1 else 0)).rowDone m e d, true)
          else
            let base := 128 * winLo g.win
            let z := if x.lanes = 0 then (Row.zero, (0 : Ev)) else
              loadRow d (s.spadBytes m (base + x.a.toNat) (dElemBytes d x.lanes)) (s.spadBytes m (base + x.b.toNat) (dScaleBytes d)) x.lanes
            let read := fun (s : State) => if x.lanes = 0 then s else
              (s.decodeSpad m (base + x.a.toNat) (dElemBytes d x.lanes)).decodeSpad m (base + x.b.toNat) (dScaleBytes d)
            if dKind d = 2 then
              if g.outFree d then
                let s := (read s).updEng m e fun g => { g with sstat := g.sstat ||| z.2 }
                (((s.pushOut m e d ⟨z.1, dEnd d g.row⟩).addRc m e 1).rowDone m e d, true)
              else (s, false)
            else if decide (g.row + 1 = g.rows d) && dRdst d && !(g.outFree d) then (s, false)
            else
              let s := (read s).updEng m e fun g => { g with sstat := g.sstat ||| z.2, cmp := g.cmp.map fun c => c.row d (z.1.lanes.take x.lanes) }
              ((s.addRc m e 1).rowDone m e d, true)

/-- One move of an engine: a row that completes, a token or a write that leaves, else the next row. -/
def State.engMove (s : State) (m e : Nat) : State × Bool :=
  match s.settleWrite m e with
  | some s => (s, true)
  | none => match s.settleOut m e with
    | some s => (s, true)
    | none => match s.settleRead m e with
      | some s => (s, true)
      | none => match s.sendWrite m e with
        | some s => (s, true)
        | none => s.formNext m e

/-- Run an engine until nothing more can move. -/
def State.engRun (s : State) (m e : Nat) : Nat → State
  | 0 => s
  | fuel + 1 =>
    let z := s.engMove m e
    if z.2 then State.engRun z.1 m e fuel else z.1

/-- A bound on the moves of one run: those of the rows left and of the rows in flight. -/
def Eng.fuel (g : Eng) : Nat :=
  let n := match g.desc with | some d => g.rows d.2 | none => 0
  8 * (n + g.jobs.length + g.outbuf.length + g.wq.length + 4)

/-- Let an engine go on with its descriptor and its rows in flight. -/
def State.engGo (s : State) (m e : Nat) : State := s.engRun m e (s.eng m e).fuel

/-- Let every engine of an MU go on. -/
def State.muGo (s : State) (m : Nat) : State := (List.range 4).foldl (fun s e => s.engGo m e) s

/-! ### Beginning a descriptor (R164, R176) -/

/-- A scoreboard entry of the ranges that a descriptor must not meet. -/
def sbBlocks (w : List W64) (d : Desc) (l : List SbEntry) : Bool :=
  let lo := winLo w + dRlo d
  let hi := winLo w + dRhi d
  dRv d && (l.any (fun x => decide (x.lo ≤ hi) && decide (lo ≤ x.hi)) || (dWritesSp d && decide (16 ≤ l.length)))

/-- The device address of a list's first descriptor. -/
def State.listStart (s : State) (m : Nat) (g : Eng) (l : Nat) : Nat :=
  let base := match (s.regionOf m).bind fun r => (s.rgn r).img with | some i => i.desca | none => 0
  base + (g.lists.getD l (0, 0)).1

/-- Send for the burst at address `a`: a device read like any other, which a fence of the region holds back (R164, R213). -/
def Eng.sendBurst (g : Eng) (held : Bool) (a : Nat) : Eng :=
  if held then { g with burst := none, burstAsk := some a } else { g with burst := some a, burstAsk := none }
/-- The burst that the engine waits for, sent for or held back. -/
def Eng.wanted (g : Eng) : Option Nat := g.burst.orElse fun _ => g.burstAsk
/-- The first descriptor of a burst without a LAST sends for the next burst (R164). -/
def Eng.fetchNext (g : Eng) (held : Bool) (start addr : Nat) (dw : Desc) (rest : List (Nat × List W64 × BitVec 8)) : Eng :=
  if (addr - start) % 2048 = 0 && !(dLast dw) && !(rest.take 31).any (fun q => dLast q.2.1) then g.sendBurst held (addr + 2048) else g
/-- The engine's next descriptor is a CMP that nothing but the unit could hold (R191). -/
def State.atCmp (s : State) (m e : Nat) : Bool :=
  let g := s.eng m e
  g.started && (g.st == .run || g.st == .wait || g.st == .hold) && g.desc.isNone && (match g.queue with
    | (_, d, marks) :: _ => marks == 0 && dKind d == 6 && !(sbBlocks g.win d (s.mu m).sb)
    | [] => false)

/-- A word of the descriptor's program does not decode (R455). -/
def Eng.agpLost (g : Eng) (d : Desc) : Bool := g.upset.any fun e => e.1 / 64 == dAgp d && e.2 == 3
/-- Begin the engine's next descriptor where it is of kind `k` and nothing holds it (R164, R172, R173, R176, R184). -/
def State.beginDesc (s : State) (m e k : Nat) : State :=
  let g := s.eng m e
  if !g.started || g.st == .faulted || g.st == .idle || g.st == .empty then s
  else match g.queue with
    | [] => s.engWait m e .wait 2
    | (addr, d, marks) :: rest =>
      if marks ≠ 0 then
        (s.countErr (48 + unitDie m) 3).streamFault m e 1 (1 + 2 * (((List.range 8).find? fun i => marks.getLsbD i).getD 0)) []
      else if dKind d ≠ k then s
      else if g.agpLost d then (s.countErr (48 + unitDie m) 2).streamFault m e 1 1 []
      else if k = 6 && ((s.mu m).cmpOwner.any (· != e) || (List.range e).any (s.atCmp m ·)) then s.engWait m e .wait 0
      else if sbBlocks g.win d (s.mu m).sb then s.engWait m e .wait 0
      else
        let entry : SbEntry := ⟨e, g.nth + 1, winLo g.win + dRlo d, winLo g.win + dRhi d, dGroup d, false⟩
        let s := s.updMu m fun x => { x with
          sb := if dWritesSp d && dRv d then x.sb ++ [entry] else x.sb, cmpOwner := if k = 6 then some e else x.cmpOwner }
        let seed : W32 := if dSeed d = 0 then 1 else BitVec.ofNat 32 (dSeed d)
        s.updEng m e fun g => { (g.fetchNext (s.muFenced m) (s.listStart m g g.list) addr d rest) with
          st := .run, desc := some (addr, d), row := 0, passed0 := false, passed1 := false, queue := rest, nth := g.nth + 1,
          sstat := if dSclr d then 0 else g.sstat, gen := if dSeedkeep d || k = 6 then g.gen else seed,
          cmp := if k = 6 then some ⟨[], 0, 0, 0, 0, 0, 0, false⟩ else none }

/-- A command of kind `k`: begin the next descriptor if it is of that kind, and run the one in hand if it is. -/
def State.stream (s : State) (m e k : Nat) : State :=
  let s := if (s.eng m e).desc.isNone then s.beginDesc m e k else s
  match (s.eng m e).desc with
  | some d => if dKind d.2 = k then s.engGo m e else s
  | none => s

/-- DEV_TO_SP (R161, R175). -/
def execDevToSp (m e : Nat) (s : State) : Out := .next (s.stream m e 0)
/-- DEV_TO_LINK (R161, R175). -/
def execDevToLink (m e : Nat) (s : State) : Out := .next (s.stream m e 1)
/-- SP_TO_LINK (R161, R175). -/
def execSpToLink (m e : Nat) (s : State) : Out := .next (s.stream m e 2)
/-- SP_TO_DEV (R161, R175). -/
def execSpToDev (m e : Nat) (s : State) : Out := .next (s.stream m e 3)
/-- LINK_TO_SP (R161, R175). -/
def execLinkToSp (m e : Nat) (s : State) : Out := .next (s.stream m e 4)
/-- LINK_TO_DEV (R161, R175). -/
def execLinkToDev (m e : Nat) (s : State) : Out := .next (s.stream m e 5)
/-- COMPARE_AND_COUNT (R184, R185). -/
def execCompareAndCount (m e : Nat) (s : State) : Out := .next (s.stream m e 6)

/-- The eight words of the descriptor at a device address, with their marks. -/
def State.descAt (s : State) (a : Nat) : Nat × List W64 × BitVec 8 :=
  (a, (List.range 8).map (fun i => s.devWord (a + 8 * i)),
    BitVec.ofNat 8 ((List.range 8).foldr (fun i n => (if s.devMark (a + 8 * i) then 1 else 0) + 2 * n) 0))

/-- DESCRIPTOR_BURST_ARRIVE: the 32 descriptors of the burst in flight enter the queue, read as an MU reads DRAM; a refusing die answers
with poisoned zeros, and DOMAIN_DOWN reaches the region (R164, R206, R217, R218). -/
def execDescriptorBurstArrive (m e : Nat) (s : State) : Out :=
  match (s.eng m e).burst with
  | none => .next s
  | some a =>
    let down := s.dieRefuses (s.homeDie a)
    let s := match s.regionOf m with
      | some r => if down then s.regionDown r else s.muRead r a 2048
      | none => s
    let got := fun (i : Nat) => if down then (a + 64 * i, List.replicate 8 (0 : W64), BitVec.ofNat 8 255) else s.descAt (a + 64 * i)
    .next (s.updEng m e fun g => { g with burst := none, queue := g.queue ++ (List.range 32).map got })

/-- PEER_RELEASE: a PEER mark at which the engine stands passes once the watched count is reached (R179). -/
def execPeerRelease (m e : Nat) (s : State) : Out :=
  let g := s.eng m e
  match g.desc.bind fun d => g.markAt d.2 with
  | some (_, w) => if w.bits 25 24 = 2 && s.markOpen m g w then .next (s.engGo m e) else .next s
  | none => .next s

/-- Every read has delivered, every token has been sent and every write has been acknowledged (R163). -/
def Eng.atEnd (g : Eng) : Bool :=
  !g.started && g.desc.isNone && g.jobs.isEmpty && g.outbuf.isEmpty && g.wq.isEmpty

/-- LIST_END: the engine returns to IDLE, and the successor's burst is sent for (R163, R164). -/
def execListEnd (m e : Nat) (s : State) : Out :=
  let g := s.eng m e
  if (g.st == .run || g.st == .wait || g.st == .hold) && g.atEnd then
    let next := (g.lists.getD g.list (0, 0)).2
    let g := { g with st := .idle, staged := next, queue := [], burst := none, burstAsk := none }
    .next (s.updEng m e fun _ => if next < g.lists.length then g.sendBurst (s.muFenced m) (s.listStart m g next) else g)
  else .next s

end Sys2Proof.Machine
end

