-- ==== Sys2Proof/Machine/Tokens.lean ====
section
/-! DEFINITION. Tokens and credits on the neighbour links (R97–R101, R174, R195). -/

namespace Sys2Proof.Machine

/-- A token delivered to the local port or engine of unit `u` that `p` names (R100, R174). -/
def State.deliver (s : State) (u p : Nat) (t : Token) : State :=
  if isMu u then
    let n := (s.eng u p).inbuf.length
    if n < 8 then (((s.updEng u p fun g => { g with inbuf := g.inbuf ++ [t] }).addUnitCtr u 13 0 1).levelEdge u p n (n + 1)).engGo u p else s
  else
    let c := s.cu u
    if (c.qTokens p).length < 8 then ((s.setCu u (c.setQ p (c.qTokens p ++ [t]))).addUnitCtr u 13 0 1).pumpHold u else s

/-- A token that enters the pass-through register of unit `u` for its outgoing link and channel (R100). -/
def State.passThrough (s : State) (u olink ochan : Nat) (t : Token) : State :=
  let l := FMap.get ([] : List Token) (s.fabric u).pass (4 * olink + ochan)
  if l.length < 2 then
    ((s.updFab u fun f => { f with pass := FMap.set ([] : List Token) f.pass (4 * olink + ochan) (l ++ [t]) }).addUnitCtr u 13 0 1).pumpPass u olink ochan pumpFuel
  else s

/-- TOKEN_ARRIVE: the oldest token of the link's channel arrives at unit `u` and is delivered, passed through, or discarded
and counted (R100, R195). A token that is not the oldest in flight does not arrive (log entry 9). -/
def execTokenArrive (u link chan : Nat) (t : Token) (s : State) : Out :=
  match neighbour u link with
  | none => .next s
  | some v =>
    let k := wireKey v (oppositeLink link) chan
    let w := FMap.get ([] : List Token) s.wires k
    if w.head?.any (· != t) then .next s
    else
      let s := { s with wires := FMap.set ([] : List Token) s.wires k w.tail }
      let b := (s.fabric u).entry link chan
      if s.fenced u link || (routeKind b != 1 && routeKind b != 2) then
        .next (s.updFab u fun f => { f with disc := f.disc + 1 })
      else if routeKind b = 1 then .next (s.deliver u (routeTarget b) t)
      else .next (s.passThrough u (routeOlink b) (routeTarget b) t)

/-- The tokens of a channel that still take places beyond the transmitter of unit `u`: on the wire and at the receiver. -/
def State.outstanding (s : State) (u link chan : Nat) : Nat :=
  let wire := (FMap.get ([] : List Token) s.wires (wireKey u link chan)).length
  match neighbour u link with
  | none => wire
  | some v =>
    let b := (s.fabric v).entry (oppositeLink link) chan
    wire + (if routeKind b = 2 then (FMap.get ([] : List Token) (s.fabric v).pass (4 * routeOlink b + routeTarget b)).length
      else if routeKind b = 1 then
        (if isMu v then (s.eng v (routeTarget b)).inbuf.length else ((s.cu v).qTokens (routeTarget b)).length)
      else 0)

/-- CREDIT_RETURN: a place that the receiver has freed is known to the transmitter of unit `u` again, and what waits for it
goes on (R98). -/
def execCreditReturn (u link chan : Nat) (s : State) : Out :=
  let k := 4 * link + chan
  let n := count (s.fabric u).used k
  if n ≤ s.outstanding u link chan then .next s
  else
    let s := s.updFab u fun f => { f with used := FMap.set 0 f.used k (n - 1) }
    let s := s.pumpPass u link chan pumpFuel
    if isMu u then .next (s.muGo u)
    else match (s.cu u).oPort link chan with
      | some p => .next (s.pumpPort u p pumpFuel)
      | none => .next s

end Sys2Proof.Machine
end

