-- ==== Sys2Proof/Machine/Network.lean ====
section
/-! DEFINITION. The package network and its endpoints (R196–R213, R217): requests and their answers at memory units, die-cache
slices, the PE agents and the refusing routers. A flit in flight leaves the network as it arrives; one that is not in flight
is taken as given (log entry 10). -/

namespace Sys2Proof.Machine

/-! ### Flits -/

/-- Two flits travel from one source to one destination on one virtual channel (R210). -/
def samePath (f g : Flit) : Bool := f.src == g.src && f.dst == g.dst && f.kind.vc == g.kind.vc
/-- No flit of the same path was injected before this one and is still in flight (R210). -/
def State.inOrder (s : State) (f : Flit) : Bool :=
  match s.flits.find? (samePath f) with
  | none => true
  | some g => g == f
/-- Take a flit out of those in flight. -/
def State.takeFlit (s : State) (f : Flit) : State := { s with flits := s.flits.erase f }
/-- The answer to a request, from the endpoint or router that it was sent to (R198). -/
def answerFlit (f : Flit) (kind : FlitKind) (row : Row) (down : Bool) (copies : Nat) : Flit :=
  ⟨kind, f.rtag, f.dst, f.src, f.addr, 0, row, f.tag, f.gen, down, copies⟩
/-- Inject a flit. -/
def State.inject (s : State) (f : Flit) : State := { s with flits := s.flits ++ [f] }
/-- Inject a unicast read reply (R198). -/
def State.reply (s : State) (f : Flit) (row : Row) : State := s.inject (answerFlit f .readReply row false 1)
/-- Inject an acknowledgement, OK or DOMAIN_DOWN (R198, R217). -/
def State.ack (s : State) (f : Flit) (down : Bool) : State := s.inject (answerFlit f .ack Row.zero down 1)
/-- Inject a NACK (R199). -/
def State.nack (s : State) (f : Flit) : State := s.inject (answerFlit f .nack Row.zero false 1)
/-- Zeros with every word poisoned (R217). -/
def Row.down : Row := ⟨0, 0xffff⟩

/-- The compute die of an endpoint, if it lies on one (R215). -/
def endpointDie : Endpoint → Option Nat
  | .unit u => some (unitDie u)
  | .slice i => some (i / 16)
  | .ou q => some q
  | .pe d => some d
  | _ => none
/-- The number 16 · by + bx of the router of an endpoint other than the hub: the attached dies' routers stand in R197. -/
def endpointRouter : Endpoint → Nat
  | .unit u => 16 * unitBy u + unitBx u
  | .slice i => 16 * (4 * (i / 64) + i % 16 / 4) + 4 * (i / 16 % 4) + i % 4
  | .ou q => 64 * (q / 4) + 4 * (q % 4)
  | .pe d => 64 * (d / 4) + 4 * (d % 4)
  | .ld k => 16 * (4 * (k % 3) + 1) + (if k < 3 then 0 else 15)
  | .fd n => if n = 0 then 1 else 14
  | .hub => 6
/-- The router by which a packet from `a` to `b` enters or leaves the mesh at `a`: the hub's is chosen by the other endpoint's
router (R197). -/
def routerTo (a b : Endpoint) : Nat :=
  match a with
  | .hub => if endpointRouter b % 16 ≤ 7 then 6 else 9
  | _ => endpointRouter a

/-- The routers refuse a flit addressed into this die, and a slice cannot serve the addresses of a half-stack that is in self-refresh
(R33, R217). -/
def State.refuses (s : State) (f : Flit) : Bool :=
  (match endpointDie f.dst with | some d => s.dieRefuses d | none => false) ||
    match f.dst with | .slice _ => s.isDram f.addr 1 && s.dieRefuses (stackOf f.addr) | _ => false
/-- A packet passes the check of R196: the hub's may go anywhere; a region's into its own region or to a shared endpoint. -/
def State.tagOk (s : State) (f : Flit) : Bool :=
  if f.rtag = 256 then true
  else decide (f.rtag < 256) &&
    match f.dst with
    | .unit v => s.inRegion f.rtag v
    | .pe _ => false
    | _ => true

/-- The way of a flit of one kind to its endpoint: it waits for those before it on its path; the first router discards it, the
endpoint's router refuses it with an answer, or the endpoint takes it (R196, R210, R217). A flit of another kind is left alone. -/
def State.arrive (s : State) (kind : FlitKind) (f : Flit) (refuse : State → State) (take : State → Out) : Out :=
  if f.kind != kind || !s.inOrder f then .next s
  else
    let s := s.takeFlit f
    if !s.tagOk f then .next (s.addReg (aObsRtr (routerTo f.src f.dst)) 1)
    else if s.refuses f then .next (refuse s)
    else take s

/-! ### Memory units (R157, R199) -/

/-- The scratchpad row of a request lies in the range of a pending fill (R157). -/
def State.rowPending (s : State) (m o : Nat) : Bool :=
  (s.mu m).sb.any fun x => decide (x.lo ≤ o / 128) && decide (o / 128 ≤ x.hi)
/-- Serve an rld at the remote port (R157). -/
def State.serveRld (s : State) (m : Nat) (f : Flit) : State :=
  ((s.decodeSpad m (lineOf f.addr) 128).reply f (s.spadRow m f.addr)).addUnitCtr m 12 0 1
/-- A newcomer may not take a place before the oldest request that the endpoint has answered with a NACK (R199). -/
def oldestNacked (nacked : List Flit) (f : Flit) : Bool :=
  match nacked.head? with
  | none => true
  | some g => g == f
/-- An rld at the remote port of MU `m`: served, parked behind a pending fill, or answered with a NACK (R157, R199). -/
def State.remoteRead (s : State) (m : Nat) (f : Flit) : State :=
  let x := s.mu m
  if s.rowPending m f.addr then
    if x.park.length < 32 && oldestNacked x.nacked f then
      s.updMu m fun x => { x with park := x.park ++ [f], nacked := x.nacked.erase f, rwait := x.rwait + 1 }
    else (s.updMu m fun x => { x with nacked := if x.nacked.contains f then x.nacked else x.nacked ++ [f] }).nack f
  else (s.updMu m fun x => { x with nacked := x.nacked.erase f }).serveRld m f
/-- Serve the parked rlds whose rows no fill covers any more (R157). -/
def State.unpark (s : State) (m : Nat) : State :=
  let ready := (s.mu m).park.filter fun f => !s.rowPending m f.addr
  let s := s.updMu m fun x => { x with park := x.park.filter fun f => !ready.contains f }
  ready.foldl (fun s f => s.serveRld m f) s

/-- SCOREBOARD_RETIRE: the engine's oldest entry whose last write is granted retires, and rlds that waited on it are served
(R157, R176). -/
def execScoreboardRetire (m e : Nat) (s : State) : Out :=
  .next ((s.updMu m fun x => { x with sb := x.sb.eraseP fun y => y.eng == e && y.done }).unpark m)

/-! ### Slices (R205–R211) -/

/-- The class of a request at a slice: its strict region where that names the die (R207, R208). -/
def State.classOf (s : State) (i : Nat) (f : Flit) : Option Nat := s.partitionOf f.rtag (i / 16)
/-- The miss entries of a class (R208). -/
def State.missRoom (s : State) (i : Nat) (cls : Option Nat) : Nat :=
  match cls with | some _ => 4 | none => 32 - 4 * (s.strictOn (i / 16)).length
/-- The park places of a class (R208). -/
def State.parkRoom (s : State) (i : Nat) (cls : Option Nat) : Nat :=
  match cls with | some _ => 8 | none => 64 - 8 * (s.strictOn (i / 16)).length
/-- The line that a request reaches at its slice (R303). -/
def State.lineFor (s : State) (f : Flit) : Nat := if f.kind == .readReq then lineOf (s.redirect f.rtag f.addr) else lineOf f.addr
/-- A request that writes. -/
def isWrite (f : Flit) : Bool := f.kind != .readReq

/-- A request's turn: a slice performs requests in the order of their arrival, but a read may pass reads that missed earlier (R210,
R220). -/
def Slice.turn (c : Slice) (f : Flit) : Bool :=
  let before := (c.order.takeWhile (· != f)).filter fun g => g.kind.vc == f.kind.vc
  if isWrite f then before.isEmpty else before.all fun g => !isWrite g
/-- A request is performed: it holds no place of the slice any more. -/
def Slice.perform (c : Slice) (f : Flit) : Slice :=
  { c with order := c.order.erase f, park := c.park.erase f, nacked := c.nacked.erase f,
           miss := c.miss.map fun m => { m with reqs := m.reqs.erase f } }
/-- A miss entry of a class stands free for a request: one is free, and no older NACKed request waits for it (R199, R208). -/
def State.entryFree (s : State) (i : Nat) (f : Flit) : Bool :=
  let c := s.slice i
  let cls := s.classOf i f
  decide ((c.miss.filter fun m => m.part == cls).length < s.missRoom i cls) &&
    (c.park.contains f || oldestNacked (c.nacked.filter fun g => s.classOf i g == cls) f)
/-- A park place of a class stands free for a request (R199, R208). -/
def State.placeFree (s : State) (i : Nat) (f : Flit) : Bool :=
  let c := s.slice i
  let cls := s.classOf i f
  decide ((c.park.filter fun g => s.classOf i g == cls).length < s.parkRoom i cls) &&
    oldestNacked (c.nacked.filter fun g => s.classOf i g == cls) f

/-- A write that needs no line from DRAM: a hit, a whole line, or a partition without ways (R206). -/
def State.writeAtOnce (s : State) (i : Nat) (f : Flit) : Bool :=
  let part := s.classOf i f
  f.mask == fullMask || ((s.slice i).find part (lineOf f.addr)).isSome || (s.waysAt part i (lineOf f.addr)).isEmpty
/-- Perform a write at its slice and acknowledge it (R206, R207, R211). -/
def State.sliceWrite (s : State) (i : Nat) (f : Flit) : State :=
  let part := s.classOf i f
  let l := lineOf f.addr
  ((s.updSlice i fun c => c.perform f).writeLine f.rtag i part true l f.row f.mask).ack f false
/-- The data of a line at its slice, once it has arrived: its partition's copy, else the half-stack or the flash window (R206,
R280). -/
def State.lineNow (s : State) (i : Nat) (part : Option Nat) (l : Nat) : Row :=
  match (s.slice i).find part l with
  | some x => x.shown
  | none => if isFlash l 1 then s.flashRow l else s.mem.dramRow l
/-- Answer the merged reads `rs` of a line: groups of up to 4 get one multicast reply, in strict mode each its own (R209). -/
def State.replyGroup (s : State) (i : Nat) (part : Option Nat) (row : Row) : List Flit → Nat → State
  | [], _ => s
  | _, 0 => s
  | rs, n + 1 =>
    let g := if part.isSome then rs.take 1 else rs.take 4
    State.replyGroup (g.foldl (fun s f => (s.updSlice i fun c => c.perform f).inject (answerFlit f .readReply row false g.length)) s)
      i part row (rs.drop g.length) n
/-- Perform what a filled entry holds and whose turn has come: its write, or the reads before the next write (R209, R210). -/
def State.runEntry (s : State) (i : Nat) (m : Miss) : State :=
  let c := s.slice i
  let ready := m.reqs.takeWhile fun f => c.turn f
  match ready.head? with
  | none => s
  | some f =>
    if isWrite f then s.sliceWrite i f
    else
      let rs := ready.takeWhile fun g => !isWrite g
      s.replyGroup i m.part (s.lineNow i m.part m.line) rs rs.length
/-- Enter a request into a new miss entry (R208). -/
def State.takeEntry (s : State) (i : Nat) (f : Flit) : State :=
  let l := s.lineFor f
  let s := s.updSlice i fun c => { c with miss := c.miss ++ [(⟨l, f.rtag, s.classOf i f, [f], false⟩ : Miss)], park := c.park.erase f }
  if isFlash l 1 then s.heatRead f.rtag l else s
/-- The entry that a read merges into: one of the same line and tag whose data has not arrived, with fewer than 16 reads (R209). -/
def State.mergeEntry (s : State) (i : Nat) (f : Flit) : Option Miss :=
  (s.slice i).miss.find? fun m => m.line == s.lineFor f && m.rtag == f.rtag && !m.filled
/-- A request joins a pending entry: a read merges (R209); a partial write of its line waits there for its data (log entry 86). -/
def State.joinEntry (s : State) (i : Nat) (f : Flit) : State :=
  s.updSlice i fun c => { c with
    miss := c.miss.map (fun x => if x.line == s.lineFor f && x.rtag == f.rtag && !x.filled then { x with reqs := x.reqs ++ [f] } else x),
    park := c.park.erase f }
/-- Merge a read into an entry, and count the DRAM read it saves (R209). -/
def State.mergeRead (s : State) (i : Nat) (f : Flit) : State :=
  ((s.joinEntry i f).updSlice i fun c => { c with merges := c.merges + 1, saved := c.saved + 1 }).countT f.rtag 8 1

/-- Where an accepted request that is in no entry goes on: performed, merged, or into a new entry. None where it must wait (R206,
R208–R210). -/
def State.sliceServe (s : State) (i : Nat) (f : Flit) : Option State :=
  let c := s.slice i
  let part := s.classOf i f
  let l := s.lineFor f
  if isWrite f then
    if s.writeAtOnce i f then
      if c.turn f then some ((s.countWrite f.rtag i part l).sliceWrite i f) else none
    else match s.mergeEntry i f with
      | some _ => some (s.joinEntry i f)
      | none => if s.entryFree i f then some ((s.countWrite f.rtag i part l).takeEntry i f) else none
  else
    match s.mergeEntry i f with
    | some m => if (m.reqs.filter fun g => !isWrite g).length < 16 then some (s.mergeRead i f) else none
    | none =>
      if (c.find part l).isSome && !c.turn f then none
      else
        let z := s.lookLine f.rtag i part l
        match z.2 with
        | some row => some ((z.1.updSlice i fun c => c.perform f).reply f row)
        | none => if z.1.entryFree i f then some (z.1.takeEntry i f) else none
/-- One round over what a slice holds: filled entries give what they hold, and parked requests are served where they can be, oldest
first. -/
def State.sliceRound (s : State) (i : Nat) : State :=
  let s := (s.slice i).miss.foldl (fun (s : State) m =>
    match (s.slice i).miss.find? fun x => x.line == m.line && x.rtag == m.rtag && x.filled && !x.reqs.isEmpty with
    | some x => s.runEntry i x
    | none => s) s
  let s := s.updSlice i fun c => { c with miss := c.miss.filter fun m => !(m.filled && m.reqs.isEmpty) }
  (s.slice i).park.foldl (fun s f => (s.sliceServe i f).getD s) s
/-- The slice goes on until nothing more can be performed. -/
def State.sliceGo (s : State) (i : Nat) : Nat → State
  | 0 => s
  | n + 1 => State.sliceGo (s.sliceRound i) i n
/-- A round for each request that the slice holds. -/
def State.sliceRun (s : State) (i : Nat) : State := s.sliceGo i ((s.slice i).order.length + 1)

/-- A request at its slice: accepted and served, parked, or answered with a NACK (R199, R208). -/
def State.sliceTake (s : State) (i : Nat) (f : Flit) : State :=
  let accept := fun (c : Slice) => { c with order := c.order ++ [f], nacked := c.nacked.erase f }
  let t := s.updSlice i fun c => { c with order := c.order ++ [f] }
  match t.sliceServe i f with
  | some t => (t.updSlice i fun c => { c with nacked := c.nacked.erase f }).sliceRun i
  | none =>
    if s.placeFree i f then s.updSlice i fun c => let c := accept c; { c with park := c.park ++ [f] }
    else (s.updSlice i fun c => { c with nacked := if c.nacked.contains f then c.nacked else c.nacked ++ [f] }).nack f

/-- A miss entry's line has arrived: it is allocated, its requests are performed in their turn, and what was parked goes on (R206,
R209, R210). -/
def State.fillMiss (s : State) (i : Nat) (m : Miss) : State :=
  let flash := isFlash m.line 1
  let s := s.updSlice i fun c => { c with miss := c.miss.map fun x =>
    if x.line == m.line && x.rtag == m.rtag && !x.filled then { x with filled := true } else x }
  let s := if flash then s else (s.cleanOthers m.rtag i m.part m.line).readDram m.rtag m.line
  let row := if flash then s.flashRow m.line else s.mem.dramRow m.line
  let s := if ((s.slice i).find m.part m.line).isSome || (s.waysAt m.part i m.line).isEmpty then s else s.allocLine m.rtag i m.part m.line false row
  s.sliceRun i

/-- MISS_FILL: the line of a miss entry arrives: from the half-stack, or, for a flash-window line, from its domain's T2 copy, of which a
read takes one part in 512, decoded on the way (R209, R291, R301, R304, log entry 87). -/
def execMissFill (slice line tag : Nat) (s : State) : Out :=
  match (s.slice slice).miss.find? fun m => m.line == line && m.rtag == tag && !m.filled with
  | none => .next s
  | some m =>
    if !(isFlash line 1) then .next (s.fillMiss slice m)
    else
      let dom := s.domainOf tag
      let sheet := sheetOf line
      let leaf := (line - flashBase) / 4096
      let share := (s.storedBytes sheet + 511) / 512
      if !s.plcOn || !(s.copyOf dom sheet).t2 then .next s
      else if s.leafBad leaf then
        .next ((s.countT2 dom sheet 0 (3 * share)).leafFails dom leaf (s.poolOf (s.copyOf dom sheet).die) fun s => s.fillMiss slice m)
      else .next ((s.countT2 dom sheet 0 share).fillMiss slice m)

/-! ### Requests -/

/-- An address that the map of R27 leaves absent or reserved. -/
def State.absent (s : State) (a : Nat) : Bool := !(s.isDram a 1) && !(isFlash a 1)

/-- A flash-window read for a die that is being gated: it waits for its domain's new homes, then goes to the one of its sheet
(R284). -/
def State.rehome (s : State) (f : Flit) : Option State :=
  match f.dst with
  | .slice i =>
    let d := i / 16
    if !(isFlash f.addr 1 && s.die d != .powered && f.kind == .readReq) then none
    else if NatSet.mem s.pend.die d then some s
    else if (s.domainDies (s.domainOf f.rtag)).isEmpty then none
    else some ((s.takeFlit f).inject { f with dst := .slice (s.requestSlice f.rtag f.addr) })
  | _ => none
/-- READ_REQUEST (R198): at an MU's remote port, a slice, or a flash die. Other endpoints answer no read. -/
def execReadRequest (f : Flit) (s : State) : Out :=
  match s.rehome f with
  | some s => .next s
  | none => s.arrive .readReq f (fun s => s.inject (answerFlit f .down Row.down true 1)) fun s =>
    match f.dst with
    | .unit m => .next (if isMu m then s.remoteRead m f else s)
    | .slice i => if s.absent f.addr then .fault (.absentAddress f.addr) else .next (s.sliceTake i f)
    | .fd _ => if isFlash f.addr 128 then .next (s.reply f (s.flashRow f.addr)) else .fault (.absentAddress f.addr)
    | _ => .next s

/-- A row written at an MU's remote port or handed to a slice; other endpoints acknowledge it (R153, R198). -/
def State.writeAt (s : State) (f : Flit) : Out :=
  match f.dst with
  | .unit m =>
    .next (if isMu m then
      ((s.putSpadRow m f.addr f.row f.mask).spadWritten m (lineOf f.addr) 128).ack f false else s)
  | .slice i => if s.isDram f.addr 1 then .next (s.sliceTake i f) else .fault (.absentAddress f.addr)
  | _ => .next (s.ack f false)
/-- WRITE_REQUEST (R198). The flash window is read-only (R280). -/
def execWriteRequest (f : Flit) (s : State) : Out := s.arrive .writeReq f (fun s => s.ack f true) fun s => s.writeAt f

/-- CONTROL_MESSAGE (R198, R202): its endpoint acknowledges it; what it asks for is the effect of the host command that sends
it (log entry 11). -/
def execControlMessage (f : Flit) (s : State) : Out := s.arrive .control f (fun s => s.ack f true) fun s => .next (s.ack f false)

/-- BULK (R198): a row moved for XFER, an off-load or a sheet arrives and is written where it names words (R153). -/
def execBulk (f : Flit) (s : State) : Out :=
  s.arrive .bulk f (fun s => s.ack f true) fun s => if f.mask == 0 then .next s else s.writeAt f

/-! ### Answers -/

/-- Tag `f.tag` of MU `m` is in use under the answer's generation: answers its engine (R181). -/
def State.tagEngine (s : State) (m : Nat) (f : Flit) : Option Nat :=
  let x := s.mu m
  if FMap.get false x.busy f.tag && count x.gens f.tag == f.gen then
    (List.range 4).find? fun e => (x.engAt e).jobs.any fun j => j.reqs.any fun q => q.tag == f.tag
  else none
/-- The remote row of unit `u` that an answer is for: its context's generation is the answer's (R130, R220). -/
def State.remoteFor (s : State) (u : Nat) (load : Bool) (f : Flit) : Option Remote :=
  let k := f.tag % 4
  if count s.net.gens (4 * u + k) == f.gen then ((s.cu u).ctxAt k).remote.find? fun r => r.load == load && r.tag == f.tag else none
/-- The request that an answer is for is still outstanding at its requester: a unit's tag and generation say so (R181, R220). -/
def State.current (s : State) (f : Flit) : Bool :=
  match f.dst with
  | .unit u => if isMu u then (s.tagEngine u f).isSome else (s.remoteFor u true f).isSome || (s.remoteFor u false f).isSome
  | _ => true
/-- An answer with a stale generation is discarded and counted (R181). -/
def State.stale (s : State) : State := s.addReg aObsStale 1
/-- A reply for a unit of a refusing die is dropped and counted at its router (R217, R220). -/
def State.dropReply (s : State) (f : Flit) : State :=
  { s with net := { s.net with dropped := bump s.net.dropped (routerTo f.dst f.src) 1 } }

/-- A row arrives for an rld of unit `u` (R130). -/
def State.rldArrive (s : State) (u : Nat) (f : Flit) (row : Row) : State :=
  match s.remoteFor u true f with
  | none => s.stale
  | some r => (s.updCtx u (f.tag % 4) fun x => { (x.setRegRow r.reg r.row row) with remote := x.remote.erase r }).pumpPorts u

/-- A row arrives at its requester (R181, R198). -/
def State.rowArrive (s : State) (f : Flit) (row : Row) : State :=
  match f.dst with
  | .unit u =>
    if isMu u then match s.tagEngine u f with
      | none => s.stale
      | some e =>
        (s.updEng u e fun g => { g with jobs := g.jobs.map fun j =>
          { j with reqs := j.reqs.map fun q => if q.tag == f.tag then { q with got := some row } else q } }).engGo u e
    else s.rldArrive u f row
  | _ => s

/-- An acknowledgement arrives at its requester (R181, R198). -/
def State.ackArrive (s : State) (f : Flit) : State :=
  match f.dst with
  | .unit u =>
    if isMu u then match s.tagEngine u f with
      | none => s.stale
      | some e =>
        (s.updEng u e fun g => { g with jobs := g.jobs.map fun j =>
          { j with reqs := j.reqs.map fun q => if q.tag == f.tag then { q with acked := true } else q } }).engGo u e
    else match s.remoteFor u false f with
      | none => s.stale
      | some r => s.updCtx u (f.tag % 4) fun x => { x with remote := x.remote.erase r }
  | _ => s

/-- The region of a requester learns that a domain is down (R218). -/
def State.noteDown (s : State) (f : Flit) : State :=
  match f.dst with
  | .unit u => match s.regionOf u with | some r => if s.current f then s.regionDown r else s | none => s
  | _ => s

/-- READ_REPLY (R198): to its requester; one for a unit of a refusing die is dropped and counted (R217). -/
def execReadReply (f : Flit) (s : State) : Out := s.arrive .readReply f (fun s => s.dropReply f) fun s => .next (s.rowArrive f f.row)
/-- ACKNOWLEDGEMENT (R198), with status OK or DOMAIN_DOWN. -/
def execAcknowledgement (f : Flit) (s : State) : Out :=
  s.arrive .ack f (fun s => s) fun s => .next (((if f.down then s.noteDown f else s)).ackArrive f)
/-- DOMAIN_DOWN_ANSWER (R217): zeros, every word poisoned. -/
def execDomainDownAnswer (f : Flit) (s : State) : Out :=
  s.arrive .down f (fun s => s) fun s => .next ((s.noteDown f).rowArrive f Row.down)

/-- The endpoint keeps a place for the NACKed request that `p` picks out (R199). -/
def State.nackHeld (s : State) (e : Endpoint) (p : Flit → Bool) : Bool :=
  match e with
  | .unit m => (s.mu m).nacked.any p
  | .slice i => (s.slice i).nacked.any p
  | _ => false
/-- NACK (R199): the requester keeps the request, to send it again under the same tag and generation; a NACK whose request its
requester does not await any more is stale (R220). -/
def execNack (f : Flit) (s : State) : Out :=
  s.arrive .nack f (fun s => s) fun s =>
    .next (if s.current f && s.nackHeld f.src fun g => g.src == f.dst && g.tag == f.tag && g.gen == f.gen then s else s.stale)
/-- The number of an endpoint in `resends`. -/
def endpointKey : Endpoint → Nat
  | .unit u => u
  | .slice i => 4096 + i
  | .ou q => 4352 + q
  | .pe d => 4368 + d
  | .ld k => 4384 + k
  | .fd n => 4390 + n
  | .hub => 4392
/-- A resend is counted at its requester (R199). -/
def State.countResend (s : State) (e : Endpoint) : State :=
  match e with
  | .unit u =>
    let s := s.addUnitCtr u 20 0 1
    if isMu u then s.updMu u fun x => { x with resend := x.resend + 1 } else s
  | e => { s with net := { s.net with resends := bump s.net.resends (endpointKey e) 1 } }
/-- NACK_RESEND (R199): the request that the endpoint has NACKed, and whose NACK has arrived, is in flight again under its tag and
generation, and counted at the requester. -/
def execNackResend (f : Flit) (s : State) : Out :=
  let due := s.nackHeld f.dst (· == f) && !(s.flits.contains f) && !(s.flits.contains (answerFlit f .nack Row.zero false 1)) &&
    s.current { f with dst := f.src }
  .next (if due then (s.inject f).countResend f.src else s)

end Sys2Proof.Machine
end

