-- ==== Sys2Proof/Machine/Sync.lean ====
section
/-! DEFINITION. The mode and sync classes (R135–R140) and the switch of contexts (R103–R106, R150, R151). -/

namespace Sys2Proof.Machine

/-- The open value that says which events of earlier instructions have occurred by now; nothing is open where none is on its way
(R137; log entry 72). -/
def State.lateDraw (s : State) (x : Ctx) : W64 × State := if x.late = 0 then (0, s) else s.fresh

/-- SETMODE: MODE ← (MODE AND NOT MASK) OR (VALUE AND MASK); ASTAT ← ASTAT AND NOT ACLR (R136, R137). -/
def execSetmode (u : Nat) (mask value aclr : BitVec 8) (s : State) : Out :=
  issue u (.setmode mask value aclr) (fun _ _ _ => .go) (fun k c x s =>
    let z := s.lateDraw x
    let x := x.land z.1
    z.2.setCu u (c.setCtx k { x with mode := (x.mode &&& ~~~mask) ||| (value &&& mask), astat := x.astat &&& ~~~aclr }.advance)) s

/-- GETSTAT: S[SD] ← MODE in [15:8], ASTAT in [7:0] (R136). -/
def execGetstat (u : Nat) (sd : BitVec 5) (s : State) : Out :=
  issue u (.getstat sd) (fun _ _ _ => .go) (fun k c x s =>
    let z := s.lateDraw x
    let x := x.land z.1
    z.2.setCu u (c.setCtx k (x.setSReg sd.toNat ⟨BitVec.ofNat 32 (x.mode.toNat * 256 + x.astat.toNat), false⟩).advance)) s

/-- NOP: none (R138). -/
def execNop (u : Nat) (s : State) : Out := issueCtx u .nop (fun _ => ⟨[], []⟩) (fun x => x) s

/-- END: the context becomes DONE; what it has issued runs to its end, a flagged mma unpaired (R138, R139). -/
def execEndProg (u : Nat) (s : State) : Out :=
  issue u .endp (fun _ _ _ => .go) (fun k c x s =>
    s.setCu u { (c.setCtx k { x.unflag with st := .done }) with active := none }.promote) s

/-- YIELD: the context stops issuing and requests a switch to SUCC when SV = 1; a start action already pending wins, and a
successor that cannot start is counted as a no-op (R138, R139, R151). -/
def execYieldCtx (u : Nat) (sv : Bool) (succ : BitVec 2) (s : State) : Out :=
  issue u (.yld sv succ) (fun _ _ _ => .go) (fun k c x s =>
    let c := { (c.setCtx k { x.advance with st := .ready }) with active := none }
    let v := succ.toNat
    let st := (c.ctxAt v).st
    s.setCu u (if !sv then c
      else match c.pendSw with
        | some w => if w = v then c else { c with noops := c.noops + 1 }
        | none => if v == k || st == .empty || st == .faulted then { c with noops := c.noops + 1 } else { c with pendSw := some v, swByAction := false })) s

/-- WAIT_STEP: issue resumes after the COUNT-th step boundary following issue (R138, R140). -/
def execWaitStep (u : Nat) (count : BitVec 16) (s : State) : Out :=
  issue u (.waitStep count) (fun _ _ _ => .go) (fun k c x s =>
    s.setCu u (c.setCtx k { x.advance with waitTo := some ((s.time.now / s.stepDt + count.toNat) * s.stepDt) })) s

/-- WAIT_SB: waits for the rows of rlds (LD) and the acknowledgements of rsts (ST) (R138). -/
def execWaitSb (u : Nat) (ld st : Bool) (s : State) : Out :=
  issue u (.waitSb ld st)
    (fun _ _ x => if (ld && x.remote.any (·.load)) || (st && x.remote.any fun r => !r.load) then .stall 6 else .go)
    (fun k c x s => s.setCu u (c.setCtx k x.advance)) s

/-- WAIT_DRAIN: waits until no work of the context remains (R138). -/
def execWaitDrain (u : Nat) (s : State) : Out :=
  issue u .waitDrain
    (fun c k x => if !(c.runsOf k).isEmpty || !x.pushes.isEmpty || !x.remote.isEmpty then .stall 6 else .go)
    (fun k c x s => s.setCu u (c.setCtx k x.settle.advance)) s

/-- MARK: with MODE.MARK = 1, emits a trace record (R138, R530). -/
def execMark (u : Nat) (tag : BitVec 16) (s : State) : Out :=
  issue u (.mark tag) (fun _ _ _ => .go) (fun k c x s =>
    let s := if x.mode.getLsbD 2 then
        match s.regionOf u with
        | some r => s.emitTrace r (unitDie u) 1 (unitX u) (unitY u) k (tag.toNat + x.pc * 2 ^ 16) (s.flightHandle r)
        | none => s
      else s
    s.setCu u (c.setCtx k x.advance)) s

/-- The shift in progress waits for a token: no switch may end it (R105). A Q-sourced mma none of whose rows has come has no
shift in progress: its first row begins it (log entry 76). -/
def Cu.midShift (c : Cu) : Bool :=
  match c.arr with
  | some r => r.f.fromQ && !r.rows.isEmpty && decide (r.rows.length < r.f.m)
  | none => false

/-- Make context `v` ACTIVE, at its entry point when it was DONE; one that is EMPTY or FAULTED is a no-op (R81, R106, R139). -/
def Cu.start (c : Cu) (v : Nat) : Cu :=
  let x := c.ctxAt v
  match x.st with
  | .ready => { (c.setCtx v { x with st := .active }) with active := some v, latch := none }.promote
  | .done => { (c.setCtx v { x with st := .active, pc := x.entry }) with active := some v, latch := none }.promote
  | _ => { c with noops := c.noops + 1 }

/-- The context that the array's work belongs to and that has yielded. -/
def Cu.yielded (c : Cu) : Option Nat :=
  match c.pendingRuns.head? with
  | some r => if (c.ctxAt r.ctx).st = .ready then some r.ctx else none
  | none => none

/-- Mmas of contexts that have ended are still to run (R104). -/
def Cu.endedRuns (c : Cu) : Bool := !c.pendingRuns.isEmpty || c.endedWaiting

/-- The switch cycle as far as the incoming context goes: it becomes ACTIVE and what holds it goes on (R104, R106). -/
def State.switchTo (s : State) (u : Nat) (c : Cu) (v : Nat) : State :=
  (s.setCu u ({ c with pendSw := none, swByAction := false }.start v)).pumpHold u

/-- CONTEXT_SWITCH: the switch cycle. The outgoing context's remainder is saved with it and the incoming one becomes ACTIVE; a
shift that waits for a token, or the last mmas of a context that has ended, hold it off (R103–R106, R149). The switch cycle counts
as one of the outgoing context's (R107). -/
def execContextSwitch (u : Nat) (s : State) : Out :=
  let c := s.cu u
  if c.midShift then .next s
  else match c.active with
    | some k => match c.pendSw with
      | none => .next s
      | some v => .next (s.switchTo u { ((c.setCtx k { (c.ctxAt k) with stalls := bump (c.ctxAt k).stalls 5 1 }).saveRuns k) with active := none } v)
    | none => match c.yielded with
      | some k => match c.pendSw with
        | none => .next (s.setCu u (c.saveRuns k))
        | some v => .next (s.switchTo u (c.saveRuns k) v)
      | none => match c.pendSw with
        | none => .next s
        | some v => if c.endedRuns then .next s else .next (s.switchTo u c v)

end Sys2Proof.Machine
end

