-- ==== Sys2Proof/Machine/Schedule.lean ====
section
/-! DEFINITION. Pavane's schedule: its entries, actions, instances, deadlines and detectors (R261–R275), fences (R213) and the
test of a drain (R190, R244). -/

namespace Sys2Proof.Machine

/-! ### Entries (R261–R265) -/

/-- An entry of a bank: its table index and its two words. -/
structure SchedEnt where
  idx : Nat
  w0 : W64
  w1 : W64
deriving DecidableEq, Repr

/-- FIGOFF. -/
def SchedEnt.figoff (e : SchedEnt) : Nat := e.w0.bits 15 0
/-- STEP. -/
def SchedEnt.step (e : SchedEnt) : Nat := e.w0.bits 31 16
/-- ACTION. -/
def SchedEnt.action (e : SchedEnt) : Nat := e.w0.bits 39 32
/-- COND. -/
def SchedEnt.cond (e : SchedEnt) : Nat := e.w0.bits 41 40
/-- BASE. -/
def SchedEnt.base (e : SchedEnt) : Nat := e.w0.bits 44 42
/-- DET. -/
def SchedEnt.det (e : SchedEnt) : Nat := e.w0.bits 47 45
/-- V. -/
def SchedEnt.v (e : SchedEnt) : Bool := e.w0.bit 63

/-- The first index and the count of region `r`'s range (R262). -/
def State.allotOf (s : State) (r : Nat) : Nat × Nat :=
  let w := FMap.get (0 : W64) s.cfg.allot r
  (w.bits 11 0, w.bits 24 12)
/-- The bank that is active for region `r`: 0 A, 1 B (R263). -/
def State.bankOf (s : State) (r : Nat) : Nat := if NatSet.mem s.cfg.bankB r then 1 else 0
/-- Name the active bank of region `r`, and report it in PAV_BANKSEL (R263). -/
def State.selectBank (s : State) (r : Nat) (b : Bool) : State :=
  { s with cfg := { s.cfg with bankB := NatSet.put s.cfg.bankB r b } }.setRegBits (aBanksel (r / 64)) (r % 64) (r % 64) b.toNat
/-- Entry `i` of a bank. -/
def State.bankEnt (s : State) (bank i : Nat) : SchedEnt :=
  let w := FMap.get ((0, 0) : W64 × W64) s.banks (4096 * bank + i)
  ⟨i, w.1, w.2⟩
/-- Write entry `i` of a bank, with valid check bits (R455). -/
def State.setBankEnt (s : State) (bank i : Nat) (w : W64 × W64) : State :=
  { s with banks := FMap.set ((0, 0) : W64 × W64) s.banks (4096 * bank + i) w,
           mem := { s.mem with ecc := FMap.set 0 s.mem.ecc (4096 * bank + i) 0 } }
/-- Entry `i` of region `r`'s active bank is read in order to fire or to be armed: a correctable one is counted nowhere, an uncorrectable
one does not fire, counts as a no-op and is logged (R455, R466, R468). Answers whether it stands. -/
def State.readEnt (s : State) (r i : Nat) : Bool × State :=
  let k := 4096 * s.bankOf r + i
  if count s.mem.ecc k = 3 then
    (false, (s.noopSched r).logRec 68 8 (Config.syndrome (k + 3)).toNat k (if partValid (s.part0 r) then some (partOwner (s.part0 r), r) else none))
  else (true, s)
/-- The valid entries of region `r` in a bank, in ascending index: only listed entries hold anything. -/
def State.rgnEnts (s : State) (r bank : Nat) : List SchedEnt :=
  let a := s.allotOf r
  ((s.banks.filter fun e => decide (4096 * bank + a.1 ≤ e.1) && decide (e.1 < 4096 * bank + a.1 + a.2)).map fun e =>
    (⟨e.1 - 4096 * bank, e.2.1, e.2.2⟩ : SchedEnt)).filter (·.v)
/-- Invalidate region `r`'s range in a bank (R272). -/
def State.clearBank (s : State) (r bank : Nat) : State :=
  let a := s.allotOf r
  let out := fun (k : Nat) => decide (k < 4096 * bank + a.1) || decide (4096 * bank + a.1 + a.2 ≤ k)
  { s with banks := s.banks.filter fun e => out e.1, mem := { s.mem with ecc := s.mem.ecc.filter fun e => out e.1 } }

/-! ### Instances (R268) -/

/-- The run and request instances of a region. -/
def Region.graded (g : Region) : List Inst := g.insts.filter fun i => decide (i.kind < 2)
/-- An instance of region `r`. -/
def State.inst (s : State) (r id : Nat) : Option Inst := (s.rgn r).insts.find? fun i => i.id == id
/-- Change an instance of region `r`. -/
def State.updInst (s : State) (r id : Nat) (f : Inst → Inst) : State :=
  s.updRgn r fun g => { g with insts := g.insts.map fun i => if i.id == id then f i else i }

/-- The timers that an instance begun at `t0` arms: the relative entries of its BASE, and for a detector those that name it
(R265, R268). -/
def State.armTimers (s : State) (r kind det t0 : Nat) : List Timer × State :=
  ((s.rgnEnts r (s.bankOf r)).filter fun e => e.base == kind + 1 && (kind != 2 || e.det == det)).foldl (fun z e =>
    let x := z.2.readEnt r e.idx
    (if x.1 then z.1 ++ [⟨t0 + (e.figoff * s.cfg.steps + e.step) * s.cfg.stepdt, e.idx, e.w0, e.w1⟩] else z.1, x.2)) ([], s)

/-- Begin an instance of region `r`: kind 0 run, 1 request, 2 detector; while redirection is in force it has FB set (R268,
R303). -/
def State.beginInst (s : State) (r kind : Nat) (h : W64) (deadline : Option Nat) (det : Nat) : State :=
  let t0 := s.time.now
  let z := s.armTimers r kind det t0
  let s := z.2
  let g := s.rgn r
  let i : Inst := ⟨g.nextInst, kind, h, g.swaps, t0, deadline, g.redir && decide (kind < 2), false, z.1, [], [], [], 0, 0⟩
  (s.updRgn r fun g => { g with insts := g.insts ++ [i], nextInst := g.nextInst + 1 }).emitTrace r (s.traceDie r) 4 0 0 0 kind (some h)

/-- The grade of an instance: 0 OK, 1 DEGRADED, 9 LATE (R37, R270). -/
def Inst.grade (i : Inst) : Nat := if i.late then 9 else if i.fb then 1 else 0

/-- End an instance: its timers that have not fired are discarded and counted (R268). -/
def State.endInst (s : State) (r id : Nat) : State :=
  match s.inst r id with
  | none => s
  | some i => (s.updRgn r fun g => { g with insts := g.insts.filter fun x => x.id != id }).addCtr r 25 0 i.timers.length

/-! ### Start actions (R81, R103, R104, R163) -/

/-- The units of a rectangle operand that lie in region `r` (R266). -/
def State.rectUnits (s : State) (r : Nat) (op : W64) : List Nat :=
  (s.regionUnits r).filter fun u => decide (op.bits 5 0 ≤ unitX u) && decide (unitX u ≤ op.bits 17 12) &&
    decide (op.bits 11 6 ≤ unitY u) && decide (unitY u ≤ op.bits 23 18)

/-- Undo what an earlier start action of this boundary did to a CU that had no ACTIVE context (R151). -/
def Cu.unstart (c : Cu) (m : StartMark) : Cu :=
  let c := c.saveRuns m.ctx
  { (c.setCtx m.ctx { (c.ctxAt m.ctx) with st := m.st, pc := m.pc }) with active := none, startMark := none }

/-- Context `k` becomes ACTIVE on a CU without one; the queued mma of a context that has yielded is saved with it (R104). -/
def State.startIdle (s : State) (u k : Nat) (c : Cu) : State :=
  let x := c.ctxAt k
  let c := match c.que with
    | some r => if (c.ctxAt r.ctx).st == CtxState.ready then c.saveQueued r.ctx else c
    | none => c
  (s.setCu u { (c.start k) with startMark := some ⟨s.time.now, k, x.st, x.pc⟩ }).pumpHold u

/-- A start action for context `k` of CU `u`: on a CU with no ACTIVE context it becomes ACTIVE, else a switch is requested
(R103, R104). Of two at one boundary the later takes effect and the earlier is a no-op (R151), and so it is when the second comes
while the switch of an earlier boundary still waits (log entry 78). One that comes in the cycle of a fault is cancelled with it
(R150). -/
def State.startCtx (s : State) (r u k : Nat) : State :=
  let c := s.cu u
  let st := (c.ctxAt k).st
  if c.faultAt == some s.time.now then s
  else if st == .empty || st == .faulted || c.active == some k then s.noopSched r
  else match c.active, c.pendSw with
    | none, none => s.startIdle u k c
    | _, some w =>
      if w = k then s.noopSched r
      else (s.setCu u { c with pendSw := some k, swByAction := true }).noopSched r
    | some _, none =>
      match c.startMark with
      | some m => if m.time = s.time.now then (s.startIdle u k (c.unstart m)).noopSched r
          else s.setCu u { c with pendSw := some k, swByAction := true }
      | none => s.setCu u { c with pendSw := some k, swByAction := true }

/-- The index of function `fn` among region `r`'s banks: 0 the owner, 1–15 an admitted guest (R388, R390). -/
def State.bankIndex (s : State) (r fn : Nat) : Option Nat :=
  if partValid (s.part0 r) && partOwner (s.part0 r) == fn then some 0
  else ((List.range 15).map (· + 1)).find? fun j => let w := FMap.get (0 : W64) s.cfg.guest (16 * r + j); w.bit 12 && w.bits 11 0 == fn

/-- The window-set bank of the instance that starts a list: the owner's and absolute entries use bank 0 (R390). -/
def State.bankFor (s : State) (r : Nat) (id : Option Nat) : Nat :=
  ((id.bind (s.inst r)).bind fun i => s.bankIndex r (handleFn i.handle)).getD 0

/-- A start action for a list of engine `e` of MU `m`: an IDLE engine runs it against a bank, or continues its faulted list; an
empty bank serves no instance (R163, R164, R189, R389). -/
def State.startList (s : State) (r m e l bank : Nat) : State :=
  let g := s.eng m e
  if g.st != .idle then s.noopSched r
  else if g.resume then s.updEng m e fun g => { g with st := .run, started := true, resume := false }
  else if g.lists.length ≤ l || (FMap.get ([] : List W64) g.banks bank).isEmpty then s.noopSched r
  else if l = g.staged then s.updEng m e fun g => { g with st := .run, started := true, list := l, bank := bank }
  else
    let a := s.listStart m g l
    s.updEng m e fun g => { (g.sendBurst (s.muFenced m) a) with st := .wait, started := true, list := l, staged := l, bank := bank, queue := [] }

/-- A release with an id at every engine of MU `m` that holds a task: it passes the STEP mark of its id at which the engine is
held, else it is latched (R179). -/
def State.releaseMu (s : State) (r m id : Nat) : State :=
  (List.range 4).foldl (fun s e =>
    let g := s.eng m e
    let mark := g.desc.bind fun d => g.markAt d.2
    let held := g.st == .hold && mark.any fun p => p.2.bits 25 24 == 1 && p.2.bits 39 32 == id
    if g.st == .empty then s
    else if held then (s.updEng m e fun g => { (g.pass ((mark.map (·.1)).getD 0)) with st := .run }).engGo m e
    else if NatSet.mem g.latches id then s.noopSched r
    else s.updEng m e fun g => { g with latches := NatSet.ins g.latches id }) s

/-! ### Fences (R213) -/

/-- Every request that region `r` issued has been performed and answered. -/
def State.fenceHolds (s : State) (r : Nat) : Bool :=
  !(s.flits.any fun f => f.rtag == r) &&
    (s.regionMus r).all (fun m => (List.range 4).all fun e => (s.eng m e).burst.isNone &&
      ((s.eng m e).jobs.all fun j => j.reqs.all fun q => q.tag == 64 || q.got.isSome || q.acked)) &&
    (s.regionCus r).all fun u => (List.range 4).all fun k => ((s.cu u).ctxAt k).remote.isEmpty
/-- The bursts that a fence has held back are sent for (R164, R213). -/
def State.sendBursts (s : State) (m : Nat) : State :=
  (List.range 4).foldl (fun s e => match (s.eng m e).burstAsk with
    | some a => s.updEng m e fun g => g.sendBurst false a
    | none => s) s
/-- Release region `r` from its fence. -/
def State.releaseFence (s : State) (r : Nat) : State :=
  (s.regionMus r).foldl (fun s m => (s.sendBursts m).muGo m) (s.updRgn r fun g => { g with fence := 0 })
/-- FENCE_RELEASE: at a step boundary, a fence that holds releases its region; that of a die that goes down holds on (R213, R216). -/
def State.tryFence (s : State) (r : Nat) : State :=
  if decide (0 < (s.rgn r).fence) && !s.rgnStopped r && s.fenceHolds r then s.releaseFence r else s

/-! ### Drains (R190, R244) -/

/-- The GROUPs of the descriptors from a device address to the LAST one. -/
def State.groupsFrom (s : State) (a : Nat) : Nat → List Nat
  | 0 => []
  | n + 1 =>
    let d := (s.descAt a).2.1
    dGroup d :: (if dLast d then [] else State.groupsFrom s (a + 64) n)
/-- The most descriptors that a region's area holds. -/
def State.descMax (s : State) (m : Nat) : Nat :=
  match (s.regionOf m).bind fun r => (s.rgn r).img with | some i => i.descl / 64 | none => 0
/-- The groups of the descriptors that a running list has yet to complete. -/
def State.openGroups (s : State) (m e : Nat) : List Nat :=
  let g := s.eng m e
  let work := (g.jobs.map fun j => dGroup j.dw) ++ (match g.desc with | some d => [dGroup d.2] | none => [])
  if !g.started then work
  else
    let next := match g.desc, g.queue, g.wanted with
      | some d, _, _ => if dLast d.2 then none else some (d.1 + 64)
      | none, q :: _, _ => some q.1
      | none, [], b => b
    work ++ (match next with | some a => s.groupsFrom a (s.descMax m) | none => [])
/-- A pending timer of region `r` names, by LISTSTART, a list of engine `e` of MU `m` with a descriptor of group `g`
(R190). -/
def State.timerHolds (s : State) (r m e g : Nat) : Bool :=
  (s.rgn r).insts.any fun i => i.timers.any fun t =>
    let a : SchedEnt := ⟨t.index, t.w0, t.w1⟩
    a.action == 2 && t.w1.bits 25 24 == e && (s.rectUnits r t.w1).contains m &&
      (s.groupsFrom (s.listStart m (s.eng m e) (t.w1.bits 29 26)) (s.descMax m)).contains g
/-- MU `m` is drained for group `g` (R190). -/
def State.muDrained (s : State) (r m g : Nat) : Bool :=
  ((s.mu m).sb.all fun x => x.group != g) &&
    (List.range 4).all fun e => !((s.openGroups m e).contains g) && !(s.timerHolds r m e g)
/-- Every port, pass-through register, engine buffer and link of region `r` is empty (R244). -/
def State.buffersEmpty (s : State) (r : Nat) : Bool :=
  (s.regionCus r).all (fun u => (s.cu u).qbuf.isEmpty && (s.cu u).obuf.isEmpty) &&
    (s.regionMus r).all (fun m => (List.range 4).all fun e =>
      let g := s.eng m e; g.inbuf.isEmpty && g.outbuf.isEmpty && g.quant.isEmpty) &&
    s.fab.all (fun e => !(s.inRegion r e.1) || e.2.pass.isEmpty) && s.wires.all fun e => !(s.inRegion r (e.1 / 16))
/-- An mma that has a token of its A yet to come (R90). -/
def MmaRun.starved (r : MmaRun) : Bool := r.f.fromQ && r.bad.isNone && r.shift == 0 && decide (r.rows.length < r.f.m)
/-- No CU of region `r` has work in flight but a pop or Q-sourced mma stalled on its port (R244). -/
def State.cusQuiet (s : State) (r : Nat) : Bool :=
  (s.regionCus r).all fun u =>
    (s.cu u).pendingRuns.all (fun x => x.starved) && !(s.cu u).endedWaiting &&
      (List.range 4).all fun k => let x := (s.cu u).ctxAt k; x.pushes.isEmpty && x.remote.isEmpty
/-- The region's drain of group `g` holds (R244); a fault in the region keeps it from holding (R246). -/
def State.drainHolds (s : State) (r g : Nat) : Bool :=
  (s.regionMus r).all (fun m => s.muDrained r m g) && s.buffersEmpty r && s.cusQuiet r

/-- A wave of groups begins in region `r` where none is pending: the drain of group 0 is pending, and no group of the wave is declared
(R245, R270; log entry 91). -/
def State.beginWave (s : State) (r : Nat) : State :=
  if s.ngrp r ≤ (s.rgn r).group then s.updRgn r fun g => { g with group := 0, declared := [], faults := [] } else s

/-! ### Actions (R266) -/

/-- Mark an instance LATE. -/
def Inst.markLate (i : Inst) : Inst := { i with late := true }
/-- Set an instance's FB. -/
def Inst.setFb (i : Inst) : Inst := { i with fb := true }

/-- Redirection is asked for region `r`: it comes into force from the next step boundary (R303). -/
def State.askRedirect (s : State) (r : Nat) : State :=
  s.updRgn r fun g => { g with redirAsk := true }

/-- The condition of a DEADLINE at its firing (R270). -/
def State.deadlineCond (s : State) (f : Fire) : Bool :=
  let arg := f.op.bits 15 4
  match f.op.bits 1 0 with
  | 0 => true
  | 1 => match f.inst.bind (s.inst f.region) with
    | some i => NatSet.mem i.drains (arg % 256)
    | none => let d := (s.rgn f.region).absDrain; decide (count d (2 * f.index + 1) < count d (2 * (arg % 256)))
  | 2 => s.resident f.region (arg % 256)
  | _ => false

/-- A failed check on an instance (R270). -/
def failInst (fbk : Nat) (i : Inst) : Inst := if fbk = 0 then i.markLate else i.setFb

/-- DEADLINE (R270, R303). -/
def State.actDeadline (s : State) (f : Fire) : State :=
  let r := f.region
  let i := f.inst.bind (s.inst r)
  let d := if f.base = 1 || f.base = 2 then i.bind (·.deadline) else none
  let late := match d with
    | some d => decide (d < s.time.now + f.op.bits 31 16 * s.cfg.stepdt + 8 * f.op.bits 47 32)
    | none => false
  let fail := !(s.deadlineCond f) || late
  let s := if f.base = 0 then s.updRgn r fun g => { g with absDrain := FMap.set 0 g.absDrain (2 * f.index + 1) (s.time.now + 1) } else s
  if !fail then s
  else
    let fbk := f.op.bits 3 2
    let s := s.emitTrace r (s.traceDie r) 6 0 0 0 f.index (s.flightHandle r)
    let s := match f.inst, f.base with
      | some id, 1 => s.updInst r id (failInst fbk)
      | some id, 2 => s.updInst r id (failInst fbk)
      | _, _ => s.updRgn r fun g => { g with insts := g.insts.map fun i => if i.kind < 2 then failInst fbk i else i }
    if fbk % 2 = 1 then s.askRedirect r else s

/-- MARK: a stamp in the instance's phase timer: the earliest begin, the latest end (R266, R529). -/
def State.actMark (s : State) (f : Fire) : State :=
  let p := f.op.bits 2 0
  let stamp := fun (i : Inst) =>
    if f.op.bit 3 then { i with ends := FMap.set 0 i.ends p (s.time.now + 1) }
    else if count i.begins p = 0 then { i with begins := FMap.set 0 i.begins p (s.time.now + 1) } else i
  let id := match f.inst with
    | some id => some id
    | none => ((s.rgn f.region).insts.find? fun i => i.kind == 0).map (·.id)
  let s := match id with | some id => s.updInst f.region id stamp | none => s
  s.emitTrace f.region (s.traceDie f.region) 2 0 0 0 (f.op.bits 3 0) (s.flightHandle f.region)

/-- ARM (R268). -/
def State.actArm (s : State) (f : Fire) (det : Nat) : State :=
  let g := s.rgn f.region
  if (FMap.get Det.idle g.dets det).st ≠ 0 then s.noopSched f.region
  else s.updRgn f.region fun g => { g with dets := FMap.set Det.idle g.dets det ⟨1, f.op⟩ }

/-- CTXSTART. -/
def State.actCtx (s : State) (f : Fire) : State :=
  ((s.rectUnits f.region f.op).filter fun u => !(isMu u)).foldl (fun s u => s.startCtx f.region u (f.op.bits 25 24)) s
/-- LISTSTART. -/
def State.actList (s : State) (f : Fire) : State :=
  ((s.rectUnits f.region f.op).filter isMu).foldl (fun s m => s.startList f.region m (f.op.bits 25 24) (f.op.bits 29 26) (s.bankFor f.region f.inst)) s
/-- RELEASE. -/
def State.actRelease (s : State) (f : Fire) : State :=
  ((s.rectUnits f.region f.op).filter isMu).foldl (fun s m => s.releaseMu f.region m (f.op.bits 31 24)) s
/-- FENCE: the region's units inject no new request until the fence is released (R213). -/
def State.actFence (s : State) (f : Fire) : State := s.updRgn f.region fun g => { g with fence := max g.fence 1 }
/-- SLOT: the region's window on a link opens for DUR steps (R266). -/
def State.actSlot (s : State) (f : Fire) : State :=
  let l := f.op.bits 5 0
  let stop := s.time.now + f.op.bits 23 8 * s.cfg.stepdt
  s.updRgn f.region fun g => { g with slots := (g.slots.filter fun x => x.1 != l) ++ [(l, stop)] }

/-- The effect of an action by its code (R266). -/
def State.act (s : State) (code det : Nat) (f : Fire) : State :=
  match code with
  | 1 => s.actCtx f
  | 2 => s.actList f
  | 3 => s.actRelease f
  | 4 => s.actFence f
  | 5 => s.actDeadline f
  | 6 => s.actArm f det
  | 7 => s.actMark f
  | 8 => s.actSlot f
  | _ => s

/-- What an action's operand names (R266, R275): its object, if it has one. -/
def SchedEnt.object (e : SchedEnt) : Option Nat :=
  match e.action with
  | 1 => some (e.w1.bits 25 24)
  | 2 => some (e.w1.bits 29 24)
  | 3 => some (e.w1.bits 31 24)
  | 5 => some (e.w1.bits 1 0 + 4 * e.w1.bits 15 4)
  | 6 => some e.det
  | 7 => some (e.w1.bits 2 0)
  | 8 => some (e.w1.bits 5 0)
  | _ => none

/-- A timer armed before a swap whose object no entry of the active bank names fires as a no-op (R275). -/
def State.orphan (s : State) (r : Nat) (i : Inst) (e : SchedEnt) : Bool :=
  i.bank != (s.rgn r).swaps && e.object.isSome &&
    !((s.rgnEnts r (s.bankOf r)).any fun x => x.action == e.action && x.object == e.object)

/-- COND at an entry's turn (R264, R270). -/
def condPasses (c : Nat) (fb : Bool) : Bool := c = 0 || (c = 1 && fb) || (c = 2 && !fb)

/-- Something due at a boundary: an absolute entry or an instance's timer. -/
structure Due where
  e : SchedEnt
  inst : Option Nat
deriving DecidableEq, Repr

/-- Insert by table index, behind those of equal index. -/
def insDue (d : Due) : List Due → List Due
  | [] => [d]
  | x :: l => if d.e.idx < x.e.idx then d :: x :: l else x :: insDue d l

/-- What is due in region `r` now, in ascending table index (R265, R269 phase 6). -/
def State.dueNow (s : State) (r : Nat) : List Due :=
  let now := s.time.now
  let fig := now / s.figDt
  let step := now % s.figDt / s.cfg.stepdt
  let abs := ((s.rgnEnts r (s.bankOf r)).filter fun e => e.base == 0 && e.step == step && fig % s.cfg.cycle == e.figoff).map
    fun e => (⟨e, none⟩ : Due)
  let rel := (s.rgn r).insts.flatMap fun i =>
    (i.timers.filter fun t => decide (t.due ≤ now)).map fun t => (⟨⟨t.index, t.w0, t.w1⟩, some i.id⟩ : Due)
  (abs ++ rel).foldl (fun l d => insDue d l) []

/-- Fire one due entry or timer; a timer is used up whether or not its COND lets it act (R265, R269). -/
def State.fireDue (s : State) (r : Nat) (d : Due) : State :=
  let e := d.e
  let f : Fire := ⟨r, e.idx, d.inst, e.base, e.w1⟩
  match d.inst with
  | none =>
    let z := s.readEnt r e.idx
    if z.1 then z.2.act e.action e.det f else z.2
  | some id =>
    match s.inst r id with
    | none => s
    | some i =>
      let s := s.updInst r id fun i => { i with timers := i.timers.filter fun t => !(t.index == e.idx && decide (t.due ≤ s.time.now)) }
      if !condPasses e.cond i.fb then s
      else if s.orphan r i e then s.noopSched r
      else s.act e.action e.det f

/-- A detector instance ends once its last timer has fired (R268; log entry 92). -/
def State.endDets (s : State) (r : Nat) : State :=
  s.updRgn r fun g => { g with insts := g.insts.filter fun i => i.kind != 2 || !i.timers.isEmpty }
/-- Phase 6 for region `r` (R269). -/
def State.fireAll (s : State) (r : Nat) : State := ((s.dueNow r).foldl (fun s d => s.fireDue r d) s).endDets r

/-! ### The rows -/

/-- NOP_ACTION: none (R266). -/
def execNopAction (_f : Fire) (s : State) : Out := .next s
/-- CTXSTART (R266). -/
def execCtxStart (f : Fire) (s : State) : Out := .next (s.actCtx f)
/-- LISTSTART (R163, R266). -/
def execListStart (f : Fire) (s : State) : Out := .next (s.actList f)
/-- RELEASE (R179, R266). -/
def execRelease (f : Fire) (s : State) : Out := .next (s.actRelease f)
/-- FENCE_ACTION (R213, R266). -/
def execFenceAction (f : Fire) (s : State) : Out := .next (s.actFence f)
/-- DEADLINE (R270). -/
def execDeadline (f : Fire) (s : State) : Out := .next (s.actDeadline f)
/-- ARM: the detector is that of the entry at the action's index (R268). -/
def execArm (f : Fire) (s : State) : Out := .next (s.actArm f (s.bankEnt (s.bankOf f.region) f.index).det)
/-- MARK_ACTION (R266, R529). -/
def execMarkAction (f : Fire) (s : State) : Out := .next (s.actMark f)
/-- SLOT (R266). -/
def execSlotOpen (f : Fire) (s : State) : Out := .next (s.actSlot f)
/-- SLOT_WINDOW_CLOSE: the window of region `r` on a link closes when its DUR steps are over (R266). -/
def execSlotWindowClose (r link : Nat) (s : State) : Out :=
  .next (s.updRgn r fun g => { g with slots := g.slots.filter fun x => !(x.1 == link && decide (x.2 ≤ s.time.now)) })
/-- FENCE_RELEASE, at a step boundary (R213). -/
def execFenceRelease (r : Nat) (s : State) : Out := .next (if s.onStep s.time.now then s.tryFence r else s)

/-- DETECTOR_EDGE: an edge of the detector's source is latched, where the input buffer that SRC 1 names stands as the edge leaves it
(R268; log entry 92). -/
def execDetectorEdge (r d : Nat) (second : Bool) (s : State) : Out :=
  let op := (FMap.get Det.idle (s.rgn r).dets d).op
  let n := (s.eng (op.bits 7 2 + 64 * op.bits 13 8) (op.bits 15 14)).inbuf.length
  let stands := op.bits 1 0 != 1 || (if second then decide (n < op.bits 19 16) else decide (op.bits 19 16 ≤ n))
  .next (if stands then s.latchEdge r d second else s)
/-- A detector that has latched both edges completes: it returns to IDLE and its instance begins (R268). -/
def State.completeDet (s : State) (r d : Nat) : State :=
  if (FMap.get Det.idle (s.rgn r).dets d).st = 3 then
    ((s.updRgn r fun g => { g with dets := FMap.set Det.idle g.dets d Det.idle }).beginInst r 2 0 none d).beginWave r
  else s
/-- DETECTOR_COMPLETE, at a step boundary (R268). -/
def execDetectorComplete (r d : Nat) (s : State) : Out := .next (if s.onStep s.time.now then s.completeDet r d else s)

end Sys2Proof.Machine
end

