-- ==== Sys2Proof/Machine/Host.lean ====
section
/-! DEFINITION. The host interface (R337–R358): functions and rings, doorbells, fetching a command, handles, and completion
records. -/

namespace Sys2Proof.Machine

/-! ### Functions and rings (R340–R343) -/

/-- The virtual functions that are enabled: 1 to NumVFs while VF Enable is set (R340). -/
def State.vfs (s : State) : Nat := if s.host.vfOn then s.host.numVfs else 0
/-- Function `fn` is enabled (R340). -/
def State.fnEnabled (s : State) (fn : Nat) : Bool := decide (fn ≤ s.vfs)
/-- The function's ring entry in force (R341). -/
def State.fnRing (s : State) (fn : Nat) : W64 := FMap.get (pfReset (aFnring fn)) s.cfg.fnring fn
/-- NSQ in force. -/
def State.nsq (s : State) (fn : Nat) : Nat := (s.fnRing fn).bits 4 0
/-- NCQ in force. -/
def State.ncq (s : State) (fn : Nat) : Nat := (s.fnRing fn).bits 9 5
/-- SLOTMAX in force. -/
def State.slotMax (s : State) (fn : Nat) : Nat := (s.fnRing fn).bits 26 10
/-- The key of a ring in the host state. -/
def ringKey (fn r : Nat) : Nat := 16 * fn + r
/-- The size of a ring from its CFG word. -/
def ringSize (cfg : W64) : Nat := 2 ^ cfg.bits 4 0
/-- A submission ring is enabled. -/
def State.sqOn (s : State) (fn r : Nat) : Bool := (s.fnReg fn (fSqCfg r)).bit 9
/-- A completion ring is enabled. -/
def State.cqOn (s : State) (fn r : Nat) : Bool := (s.fnReg fn (fCqCfg r)).bit 5
/-- Set DBREF of a function (R342). -/
def State.dbref (s : State) (fn : Nat) : State := s.setFnBit fn fStatus 4 true
/-- Set SQERR of a function (R342). -/
def State.sqerr (s : State) (fn : Nat) : State := s.setFnBit fn fStatus 2 true
/-- An access to a host bus address ends in a completer error (R342, R358; log entry 93). -/
def State.hostMute (s : State) (a : Nat) : Bool := NatSet.mem s.host.mute (a / 4096)
/-- Set CQERR of a function (R358). -/
def State.cqerr (s : State) (fn : Nat) : State := s.setFnBit fn fStatus 3 true
/-- The function is being reset (R359). -/
def State.isResetting (s : State) (fn : Nat) : Bool := NatSet.mem s.host.resetting fn
/-- Add to word `w` of a function's counters (R534). -/
def State.fnCount (s : State) (fn w n : Nat) : State :=
  s.updHost fun h => { h with fnCtr := bump h.fnCtr (64 * fn + w) n }
/-- Port A reads bytes of host memory for a function. -/
def State.paRead (s : State) (fn n : Nat) : State := (s.addReg (aObsPa 0) n).fnCount fn 19 n
/-- Port A writes bytes of host memory for a function. -/
def State.paWrite (s : State) (fn n : Nat) : State := (s.addReg (aObsPa 1) n).fnCount fn 20 n
/-- Write words at a host bus address (R339). -/
def State.hostWrite (s : State) (a : Nat) : List W64 → State
  | [] => s
  | w :: ws => State.hostWrite (s.updHost fun h => { h with mem := Mem.writeNat h.mem a w.toNat 8, poison := NatSet.del h.poison (a / 8) }) (a + 8) ws

/-- FN_SQ_DB_r: entries up to the new tail are ready (R344). -/
def State.sqDoorbell (s : State) (fn r : Nat) (v : W64) : State :=
  if s.nsq fn ≤ r then s
  else if s.isResetting fn || !(s.sqOn fn r) || decide (ringSize (s.fnReg fn (fSqCfg r)) ≤ v.bits 15 0) then s.dbref fn
  else s.updHost fun h => { h with sqTail := FMap.set 0 h.sqTail (ringKey fn r) (v.bits 15 0) }

/-- FN_CQ_DB_r: the host has read the records up to the new head (R344). -/
def State.cqDoorbell (s : State) (fn r : Nat) (v : W64) : State :=
  if s.ncq fn ≤ r then s
  else
    let size := ringSize (s.fnReg fn (fCqCfg r))
    if s.isResetting fn || !(s.cqOn fn r) || decide (size ≤ v.bits 15 0) then s.dbref fn
    else s.updHost fun h =>
      let k := ringKey fn r
      let freed := (v.bits 15 0 + size - count h.cqHead k % size) % size
      { h with cqHead := FMap.set 0 h.cqHead k (v.bits 15 0), cqResv := FMap.set 0 h.cqResv k (count h.cqResv k - freed) }

/-- A write of FN_SQ_CFG_r (R343); when DBREF is set while EN is 1: DEDUCED, log entry 60. -/
def State.sqCfg (s : State) (fn r : Nat) (v : W64) : State :=
  let old := s.fnReg fn (fSqCfg r)
  if s.nsq fn ≤ r then s
  else if v.bits 4 0 < 6 || 16 < v.bits 4 0 then s.dbref fn
  else if old.bit 9 then
    let s := if v.bits 8 0 = old.bits 8 0 then s else s.dbref fn
    s.setFnReg fn (fSqCfg r) (mergeBits old v (maskBits 9 9))
  else
    let s := s.setFnReg fn (fSqCfg r) (mergeBits old v (maskBits 9 0))
    if v.bit 9 then
      (s.setFnReg fn (fSqHead r) 0).updHost fun h => { h with sqTail := FMap.set 0 h.sqTail (ringKey fn r) 0 }
    else s

/-- A command or feed slot of the function names the completion ring (R343). -/
def State.cqNamed (s : State) (fn r : Nat) : Bool :=
  (s.host.cmds.any fun c => c.fn == fn && c.cq == r) || (s.host.held.any fun w => w.fn == fn && w.cq == r) ||
    s.cfg.feed0.any fun e => e.2.bit 56 && e.2.bits 11 0 == fn && e.2.bits 55 52 == r

/-- A write of FN_CQ_CFG_r (R343); when DBREF is set while EN is 1: DEDUCED, log entry 60. -/
def State.cqCfg (s : State) (fn r : Nat) (v : W64) : State :=
  let old := s.fnReg fn (fCqCfg r)
  if s.ncq fn ≤ r then s
  else if v.bits 4 0 < 6 || 16 < v.bits 4 0 then s.dbref fn
  else if old.bit 5 then
    let s := if v.bits 4 0 = old.bits 4 0 then s else s.dbref fn
    if v.bit 5 then s
    else if s.cqNamed fn r then s.dbref fn
    else s.setFnReg fn (fCqCfg r) (mergeBits old v (maskBits 5 5))
  else
    let s := s.setFnReg fn (fCqCfg r) (mergeBits old v (maskBits 5 0))
    if v.bit 5 then
      (s.setFnReg fn (fCqTail r) (fnReset (fCqTail r))).updHost fun h =>
        { h with cqHead := FMap.set 0 h.cqHead (ringKey fn r) 0, cqResv := FMap.set 0 h.cqResv (ringKey fn r) 0 }
    else s

/-- A doorbell of an enabled function; before stage 10 it is ignored and sets DBREF (R483). -/
def State.doorbell (s : State) (fn : Nat) (f : State → State) : State :=
  if !s.awake || !s.fnEnabled fn then s else if s.power.st == .ready then f s else s.dbref fn
/-- FN_SQ_DB (R344). -/
def execFnSqDb (fn r : Nat) (v : W64) (s : State) : Out := .next (s.doorbell fn fun s => s.sqDoorbell fn r v)
/-- FN_CQ_DB (R344). -/
def execFnCqDb (fn r : Nat) (v : W64) (s : State) : Out := .next (s.doorbell fn fun s => s.cqDoorbell fn r v)
/-- FN_SQ_CFG_WRITE (R343). -/
def execFnSqCfgWrite (fn r : Nat) (v : W64) (s : State) : Out := .next (if s.awake && s.fnEnabled fn then s.sqCfg fn r v else s)
/-- FN_CQ_CFG_WRITE (R343). -/
def execFnCqCfgWrite (fn r : Nat) (v : W64) (s : State) : Out := .next (if s.awake && s.fnEnabled fn then s.cqCfg fn r v else s)

/-! ### Handles (R19, R345, R346) -/

/-- The handle slot `i`. -/
def State.hslot (s : State) (i : Nat) : HSlot := FMap.get HSlot.free s.host.slots i
/-- The slots that a function holds. -/
def State.slotsHeld (s : State) (fn : Nat) : Nat := (s.host.slots.filter fun e => e.2.fn == some fn).length
/-- The slots beyond the eight reserved ones that functions draw from the common remainder. -/
def State.slotsDrawn (s : State) : Nat :=
  (s.host.slots.filterMap (·.2.fn)).eraseDups.foldl (fun n fn => n + (s.slotsHeld fn - 8)) 0
/-- The common remainder (R346). -/
def State.slotsCommon (s : State) : Nat :=
  65536 - 8 * ((List.range (s.vfs + 1)).filter fun fn => decide (0 < s.nsq fn)).length
/-- The function may take a slot (R346). -/
def State.mayTakeSlot (s : State) (fn : Nat) : Bool :=
  let n := s.slotsHeld fn
  decide (n < s.slotMax fn) && (decide (n < 8) || decide (s.slotsDrawn < s.slotsCommon))
/-- The first free slot from `i` on, cyclically. -/
def State.freeSlot (s : State) (i : Nat) : Nat → Nat
  | 0 => i % 65536
  | n + 1 => if (s.hslot (i % 65536)).fn.isNone then i % 65536 else State.freeSlot s (i + 1) n
/-- The generation after `g`: 1 to 0xFFFF, then 1 again (R346). -/
def nextGen (g : Nat) : Nat := if g + 1 < 65536 then g + 1 else 1
/-- Take a slot for a function; which free one is open (log entry 7). -/
def State.takeSlot (s : State) (fn : Nat) : Nat × Nat × State :=
  let z := s.fresh
  let s := z.2
  let i := s.freeSlot z.1.toNat (s.host.slots.length + 1)
  let g := nextGen (s.hslot i).gen
  let s := s.updHost fun h => { h with slots := FMap.set HSlot.free h.slots i ⟨g, some fn⟩ }
  (i, g, s.updHost fun h => { h with fnCtr := FMap.set 0 h.fnCtr (64 * fn + 23) (max (count h.fnCtr (64 * fn + 23)) (s.slotsHeld fn)) })
/-- A report for a command whose slot has gone on to another generation is discarded and counted (R347). -/
def State.discardReport (s : State) (h : W64) : State :=
  if (s.hslot (handleSlot h)).gen = handleGen h then s else s.addReg aObsStale 1
/-- Free the slot of a handle. -/
def State.dropSlot (s : State) (h : W64) : State :=
  if handleGen h = 0 then s
  else s.updHost fun x => { x with slots := FMap.set HSlot.free x.slots (handleSlot h) ⟨(FMap.get HSlot.free x.slots (handleSlot h)).gen, none⟩ }
/-- The next submission sequence of a function (R345). -/
def State.takeSeq (s : State) (fn : Nat) : Nat × State :=
  let n := count s.host.subSeq fn
  (n, s.updHost fun h => { h with subSeq := FMap.set 0 h.subSeq fn ((n + 1) % 2 ^ 20) })
/-- Reserve a record of a completion ring (R344). -/
def State.reserveCq (s : State) (fn r : Nat) : State := s.updHost fun h => { h with cqResv := bump h.cqResv (ringKey fn r) 1 }
/-- A completion ring has a free record that nothing has reserved (R344). -/
def State.cqRoom (s : State) (fn r : Nat) : Bool :=
  decide (r < s.ncq fn) && s.cqOn fn r && decide (count s.host.cqResv (ringKey fn r) + 1 < ringSize (s.fnReg fn (fCqCfg r)))

/-! ### Checks at fetch (R350) -/

/-- The bits that words 1 to 6 of an opcode may carry (R349). -/
def cmdMasks (op : Nat) : List Nat :=
  let a := maskBits 51 0
  let all := maskBits 63 0
  match op with
  | 0x01 => [a, maskBits 31 0, 0, 0, 0, 0]
  | 0x03 => [all, 0, 0, 0, 0, 0]
  | 0x04 => [all, a, a, a, maskBits 34 0, 0]
  | 0x05 => [a, a, maskBits 39 0, 0, 0, 0]
  | 0x06 => [maskBits 7 0 + maskBits 47 16, a, a, maskBits 39 0, all, a]
  | 0x08 => [a, maskBits 39 0, a, 0, 0, 0]
  | 0x09 => [a, maskBits 24 0, 0, 0, 0, 0]
  | 0x0B => [a, maskBits 15 0, maskBits 31 0, 0, 0, 0]
  | 0x0C => [a, a, maskBits 39 0, maskBits 15 0 + maskBits 63 32, maskBits 23 0, a]
  | 0x0D => [maskBits 11 0, 0, 0, 0, 0, 0]
  | 0x0E => [maskBits 0 0 + maskBits 31 16, a, a, maskBits 39 0, 0, 0]
  | 0x0F => [a, 0, 0, 0, 0, 0]
  | _ => [0, 0, 0, 0, 0, 0]

/-- The opcode names a region (R349). -/
def opNamesRegion (op : Nat) : Bool := [0x01, 0x02, 0x03, 0x04, 0x07, 0x09, 0x0A].contains op

/-- The function may send this opcode to the region: its owner; an admitted guest a RUN or a guest LOAD; the physical function
a SCHED_WRITE (R273, R350, R390). -/
def State.mayName (s : State) (fn r op : Nat) (guest : Bool) : Bool :=
  partValid (s.part0 r) &&
    (partOwner (s.part0 r) == fn || (op == 0x09 && fn == 0) || ((op == 0x03 || (op == 0x01 && guest)) && (s.bankIndex r fn).isSome))

/-- The stretches of addresses that a command names, with the word that names each and the access it needs (R349, R350). -/
structure Span where
  word : Nat
  base : Nat
  len : Nat
  ok : MapEnt → Bool

/-- The spans of a command (R349). Of a COLL, a RESHARD and a FLASH_WRITE's source the first byte stands for the stretch, whose length its
group, its plan or its descriptor gives: the whole is checked at the start (R310, R429, R440). -/
def cmdSpans (ws : List W64) : List Span :=
  let w := fun (i : Nat) => (ws.getD i 0 : W64)
  let src := fun (e : MapEnt) => entDram true false e || entHost true false 0 e
  let dst := fun (e : MapEnt) => entDram false true e || entHost false true 0 e
  let dram := fun (e : MapEnt) => entDram true false e
  match (w 0).bits 7 0 with
  | 0x01 => [⟨1, (w 1).toNat, (w 2).toNat, src⟩]
  | 0x04 => [⟨2, (w 2).toNat, 128 * (w 5).bits 12 0, dram⟩, ⟨3, (w 3).toNat, 64 * (w 5).bits 21 13, dram⟩,
             ⟨4, (w 4).toNat, 32 * (w 5).bits 34 22, dram⟩]
  | 0x05 => [⟨1, (w 1).toNat, (w 3).toNat, fun e => src e || (e.kind == 1 && e.rd)⟩, ⟨2, (w 2).toNat, (w 3).toNat, dst⟩]
  | 0x06 =>
    let cop := (w 1).bits 2 0
    (if cop < 3 then [⟨2, (w 2).toNat, 1, dram⟩] else []) ++
      (if cop < 4 then [⟨3, (w 3).toNat, 1, fun e => entDram false true e⟩] else if cop = 4 then [⟨6, (w 6).toNat, 1, dram⟩] else [])
  | 0x08 => [⟨1, (w 1).toNat, (w 2).toNat, fun e => e.kind == 0 && e.rd && e.wr⟩, ⟨3, (w 3).toNat, 128, dst⟩]
  | 0x09 => [⟨1, (w 1).toNat, 16 * (w 2).bits 24 12, src⟩]
  | 0x0B => [⟨1, (w 1).toNat, (w 3).toNat, dst⟩]
  | 0x0C => [⟨1, (w 1).toNat, (w 3).toNat, fun e => e.kind == 1 && e.wr⟩, ⟨2, (w 2).toNat, 1, src⟩]
  | 0x0E => ⟨2, (w 2).toNat, 1, dram⟩ ::
    (if (w 1).bit 0 then [⟨3, (w 3).toNat, (w 4).toNat, fun e => (e.kind == 1 && e.wr) || entHost false true 0 e⟩] else [])
  | 0x0F => [⟨1, (w 1).toNat, 32, dst⟩]
  | _ => []

/-- The first command word that the checks at fetch find at fault, if any (R350, R354). -/
def State.fetchFault (s : State) (fn : Nat) (ws : List W64) : Option Nat :=
  let w := fun (i : Nat) => (ws.getD i 0 : W64)
  let op := (w 0).bits 7 0
  let r := (w 0).bits 15 8
  let opf := (w 0).bits 23 17
  let guest := (w 0).bit 18
  let masks := cmdMasks op
  let spans := cmdSpans ws
  let bad0 := op = 0 || decide (0x0F < op) || decide ((w 0).bits 31 24 ≠ 0) || decide (opf / (if op = 1 then 4 else if op = 6 then 2 else 1) ≠ 0) ||
    (if opNamesRegion op then !(s.mayName fn r op guest) else decide (r ≠ 0))
  if bad0 then some 0
  else ((List.range 6).map (· + 1)).find? fun i =>
    ((w i).toNat &&& (2 ^ 64 - 1 - masks.getD (i - 1) 0)) ≠ 0 ||
      spans.any (fun p => p.word == i && !(s.mapped fn p.base p.len p.ok)) ||
      (op == 0x05 && i == 2 && (w 2).toNat ≥ 16 * halfStack && !(isHostWin (w 2).toNat 1)) ||
      (op == 0x05 && i == 2 && isHostWin (w 1).toNat 1 && isHostWin (w 2).toNat 1) ||
      (op == 0x0D && i == 1 && fn != 0 && (w 1).bits 11 0 != fn)

/-- A command names a unit or a half-stack of a die that is not powered (R218, R350). -/
def State.namesGated (s : State) (ws : List W64) : Bool :=
  let w := fun (i : Nat) => (ws.getD i 0 : W64)
  let op := (w 0).bits 7 0
  let down := fun (a n : Nat) => decide (a < 16 * halfStack) &&
    ((List.range (stackOf (a + (n - 1)) + 1)).drop (stackOf a)).any fun q => s.die q != .powered
  if op = 0x03 || op = 0x04 || op = 0x07 then (s.regionDies ((w 0).bits 15 8)).any fun d => s.die d != .powered
  else (cmdSpans ws).any fun p => decide (0 < p.len) && down p.base p.len

/-! ### Fetch (R344–R346, R350) -/

/-- A command with its place in the rings. -/
def newCmd (h : W64) (fn sq cq seq : Nat) (ws : List W64) : Cmd :=
  ⟨h, fn, sq, cq, seq, (ws.getD 0 0 : W64).bit 16, ws, .fetched, 0, 0, 0, 0, 0, (ws.getD 0 0 : W64).bits 15 8, [], []⟩

/-- Complete a command with a status and a DETAIL at the next step boundary. -/
def Cmd.finish (c : Cmd) (status detail : Nat) : Cmd :=
  { c with phase := .due, status := status, detail := BitVec.ofNat 64 (detail % 2 ^ 63) }

/-- Fetch the entry at HEAD of a submission ring (R344–R346, R350). -/
def State.fetchOne (s : State) (fn r : Nat) : State :=
  let cfg := s.fnReg fn (fSqCfg r)
  let head := (s.fnReg fn (fSqHead r)).bits 15 0
  let cq := cfg.bits 8 5
  let a := (s.fnReg fn (fSqBase r)).toNat + 64 * head
  let ws := (List.range 8).map fun i => BitVec.ofNat 64 (Mem.readNat s.host.mem (a + 8 * i) 8)
  let z := s.takeSeq fn
  let s := z.2
  let may := s.mayTakeSlot fn
  let t := if may then s.takeSlot fn else (0xffff, 0, s)
  let h := mkHandle fn t.1 t.2.1 z.1
  let s := ((t.2.2.reserveCq fn cq).fnCount fn 18 1).paRead fn 64
  let s := (s.hostWrite (a + 56) [h]).paWrite fn 8
  let s := s.setFnReg fn (fSqHead r) (BitVec.ofNat 64 ((head + 1) % ringSize cfg))
  let c := newCmd h fn r cq z.1 ws
  let c := if !may then c.finish 0x0D 0
    else match s.fetchFault fn ws with
      | some w => if c.opcode = 1 then c.finish 8 2 else c.finish 8 w
      | none => if s.namesGated ws then c.finish 6 (if c.opcode = 1 then 2 else 0) else c
  s.updHost fun x => { x with cmds := x.cmds ++ [c] }

/-- COMMAND_FETCH: one entry of a ring is fetched where the ring, its completion ring and port A allow; a read that fails sets SQERR
(R342–R346, R358). -/
def execCommandFetch (fn r : Nat) (s : State) : Out :=
  let cfg := s.fnReg fn (fSqCfg r)
  let head := (s.fnReg fn (fSqHead r)).bits 15 0
  if s.power.st == .ready && s.host.portA && s.fnEnabled fn && !(s.isResetting fn) && decide (r < s.nsq fn) && cfg.bit 9 &&
      head != count s.host.sqTail (ringKey fn r) && s.cqRoom fn (cfg.bits 8 5)
  then .next (if s.hostMute ((s.fnReg fn (fSqBase r)).toNat + 64 * head) then s.sqerr fn else s.fetchOne fn r) else .next s

/-! ### Completion records (R352–R358) -/

/-- Word 2 of a completion record (R352). -/
def Cmd.word2 (c : Cmd) : W64 :=
  BitVec.ofNat 64 (c.status % 256 + c.opcode * 2 ^ 8 + c.sstat % 256 * 2 ^ 16 + min c.stale 15 * 2 ^ 24 +
    min c.passSkip 255 * 2 ^ 32 + c.region % 256 * 2 ^ 40)

/-- Write one record, and the notify word, at the completion ring's tail; free the slot (R352, R355, R356). A write that meets a completer
error is discarded and sets CQERR (R358). -/
def State.putRecord (s : State) (w : HeldWrite) : State :=
  let cfg := s.fnReg w.fn (fCqCfg w.cq)
  let tail := s.fnReg w.fn (fCqTail w.cq)
  let t := tail.bits 15 0
  let phase := tail.bit 16
  let a := (s.fnReg w.fn (fCqBase w.cq)).toNat + 32 * t
  let words := [w.words.getD 0 0, w.words.getD 1 0, w.words.getD 2 0, mergeBits (w.words.getD 3 0) (if phase then BitVec.ofNat 64 (2 ^ 63) else 0) (2 ^ 63)]
  let s := if s.hostMute a then s.cqerr w.fn else (s.hostWrite a words).paWrite w.fn 32
  let t' := (t + 1) % ringSize cfg
  let phase' := if t' = 0 then !phase else phase
  let s := s.setFnReg w.fn (fCqTail w.cq) (BitVec.ofNat 64 (t' + if phase' then 2 ^ 16 else 0))
  let naddr := s.fnReg w.fn (fCqNaddr w.cq)
  let s := if !(w.ntfy && naddr.bit 0) then s
    else if s.hostMute naddr.toNat then s.cqerr w.fn else (s.hostWrite (naddr.toNat / 8 * 8) [w.handle]).paWrite w.fn 8
  s.dropSlot w.handle

/-- Post a due command's record at the present boundary: written, or held while port A is down (R355, R358). -/
def State.postRecord (s : State) (c : Cmd) : State :=
  let w : HeldWrite := ⟨c.fn, c.cq, c.handle, [c.handle, BitVec.ofNat 64 s.time.now, c.word2, c.detail], c.ntfy⟩
  let s := s.fnCount c.fn (4 + c.status) 1
  if s.host.portA then s.putRecord w else s.updHost fun h => { h with held := h.held ++ [w] }

/-- Remove a command from those in flight. -/
def State.dropCmd (s : State) (h : W64) : State := s.updHost fun x => { x with cmds := x.cmds.filter fun c => c.handle != h }

/-- A FENCE that the function submitted before command `h` has not completed (R351). -/
def State.behindFence (s : State) (c : Cmd) : Bool :=
  (s.host.cmds.takeWhile fun x => x.handle != c.handle).any fun x => x.fn == c.fn && x.opcode == 7
/-- Set where a command that came to its turn waits by a rule of its own. -/
def waitStage : Nat := 9
/-- A command's turn to start (R351): RUN and STEP of one region start in fetch order; LOAD, FENCE, SCHED_WRITE and SCHED_SWAP have orders of
their own; all others start in fetch order, past those that wait for a FENCE or by their own rule (log entry 94). -/
def State.inTurn (s : State) (c : Cmd) : Bool :=
  let own := fun (op : Nat) => ([1, 3, 4, 7, 9, 10] : List Nat).contains op
  !((s.host.cmds.takeWhile fun x => x.handle != c.handle).any fun x => x.phase == .fetched &&
    if c.opcode = 3 || c.opcode = 4 then (x.opcode == 3 || x.opcode == 4) && x.region == c.region
    else !own c.opcode && !own x.opcode && count x.aux waitStage == 0 && !s.behindFence x)
/-- The fetched command that a handle names, with this opcode, where nothing keeps it from starting (R351). -/
def State.openCmd (s : State) (h : W64) (op : Nat) : Option Cmd :=
  (s.cmd h).filter fun c => c.phase == .fetched && c.opcode == op && !s.behindFence c && s.inTurn c
/-- A command is at work. -/
def State.begin (s : State) (h : W64) : State := s.updCmd h fun c => { c with phase := .running }
/-- Read the value that a command keeps at `k`. -/
def Cmd.at (c : Cmd) (k : Nat) : Nat := count c.aux k
/-- Keep a value with a command. -/
def State.keep (s : State) (h : W64) (k v : Nat) : State := s.updCmd h fun c => { c with aux := FMap.set 0 c.aux k v }

/-- PORT_A_LINK_DOWN: nothing is fetched and completion writes are held (R358). -/
def execPortALinkDown (s : State) : Out := .next (s.updHost fun h => { h with portA := false })
/-- PORT_A_LINK_RETURN: the held writes are written at the next step boundary (R358). -/
def execPortALinkReturn (s : State) : Out :=
  .next (if s.power.perstN && s.awake then s.updHost fun h => { h with portA := true } else s)
/-- Write the held records, in order, once port A is up, each with the boundary at which it is written (R352, R358). -/
def State.putHeld (s : State) : State :=
  if s.host.portA then s.host.held.foldl (fun s w => s.putRecord { w with words := w.words.set 1 (BitVec.ofNat 64 s.time.now) }) (s.updHost fun h => { h with held := [] })
  else s
/-- PORT_A_HOLD_EXPIRY: 100 ms after the link went down the held writes are discarded, CQERR is set and the slots are freed
(R358). -/
def execPortAHoldExpiry (s : State) : Out :=
  .next (if s.host.portA then s
    else s.host.held.foldl (fun s w => (s.cqerr w.fn).dropSlot w.handle) (s.updHost fun h => { h with held := [] }))

end Sys2Proof.Machine
end

