-- ==== Sys2Proof/Machine/Image.lean ====
section
/-! DEFINITION. The LOAD image (R230–R234): its header and sections, their form, and writing an accepted image into its
region (R77, R149, R163, R181, R272, R389). -/

namespace Sys2Proof.Machine

/-! ### Header and sections (R230, R231) -/

/-- One section: its entry's first word, its offset and its words. -/
structure Sec where
  idx : Nat
  e0 : W64
  off : Nat
  w : List W64
deriving DecidableEq, Repr

/-- An image as read: its header, its sections, and its length in bytes. -/
structure Image where
  h : List W64
  secs : List Sec
  len : Nat
deriving DecidableEq, Repr

/-- Header word `i`. -/
def Image.hd (m : Image) (i : Nat) : W64 := m.h.getD i 0
/-- STYLE: 0 resident, 1 windowed. -/
def Image.style (m : Image) : Nat := (m.hd 0).bits 1 0
/-- MMP. -/
def Image.mmp (m : Image) : Bool := (m.hd 0).bit 2
/-- INTLV. -/
def Image.intlv (m : Image) : Nat := (m.hd 0).bits 10 8
/-- WDOG. -/
def Image.wdog (m : Image) : Nat := (m.hd 0).bits 31 16
/-- NGRP. -/
def Image.ngrp (m : Image) : Nat := (m.hd 0).bits 39 32
/-- NSEC. -/
def Image.nsec (m : Image) : Nat := (m.hd 0).bits 55 40
/-- FRA. -/
def Image.fra (m : Image) : Nat := (m.hd 1).bits 51 0
/-- DESCA. -/
def Image.desca (m : Image) : Nat := (m.hd 2).bits 51 0
/-- DESCL. -/
def Image.descl (m : Image) : Nat := (m.hd 3).bits 31 0
/-- KIND of a section. -/
def Sec.kind (x : Sec) : Nat := x.e0.bits 7 0
/-- The length of a section in bytes. -/
def Sec.len (x : Sec) : Nat := x.e0.bits 63 32
/-- Word `i` of a section. -/
def Sec.wd (x : Sec) (i : Nat) : W64 := x.w.getD i 0
/-- The unit that a CTX, TASK, ROUTE or BUF section names. -/
def Sec.unit (x : Sec) : Nat := (x.wd 0).bits 11 0
/-- The context or engine that a CTX or TASK section names. -/
def Sec.ce (x : Sec) : Nat := if x.kind = 1 || x.kind = 2 then (x.wd 0).bits 13 12 else 0

/-- The image that a list of words spells. -/
def imageOf (ws : List W64) (len : Nat) : Image :=
  let n := (ws.getD 0 0 : W64).bits 55 40
  let sec := fun (i : Nat) =>
    let e0 : W64 := ws.getD (8 + 2 * i) 0
    let off := (ws.getD (9 + 2 * i) 0 : W64).toNat
    (⟨i, e0, off, (ws.drop (off / 8)).take (e0.bits 63 32 / 8)⟩ : Sec)
  ⟨ws.take 8, (List.range n).map sec, len⟩

/-- The sections of a kind. -/
def Image.of (m : Image) (k : Nat) : List Sec := m.secs.filter fun x => x.kind == k

/-! ### CTX sections (R232) -/

/-- The indices of the ones among `n` bits. -/
def onesOf (v n : Nat) : List Nat := (List.range n).filter fun i => v.testBit i
/-- NINSTR. -/
def Sec.ninstr (x : Sec) : Nat := (x.wd 0).bits 36 25
/-- ENTRY. -/
def Sec.entry (x : Sec) : Nat := (x.wd 0).bits 24 14
/-- The instructions. -/
def Sec.instrs (x : Sec) : List W64 := (x.w.drop 5).take x.ninstr
/-- The T registers initialised. -/
def Sec.tInit (x : Sec) : List Nat := onesOf ((x.wd 2).bits 7 0) 8
/-- The V registers initialised. -/
def Sec.vInit (x : Sec) : List Nat := onesOf ((x.wd 2).bits 23 8) 16
/-- The P registers initialised. -/
def Sec.pInit (x : Sec) : List Nat := onesOf ((x.wd 2).bits 31 24) 8
/-- The L registers initialised. -/
def Sec.lInit (x : Sec) : List Nat := onesOf ((x.wd 2).bits 35 32) 4
/-- The S registers initialised. -/
def Sec.sInit (x : Sec) : List Nat := onesOf ((x.wd 3).bits 31 0) 32
/-- MODE is initialised. -/
def Sec.modeInit (x : Sec) : Bool := (x.wd 2).bit 36
/-- The words of the T and V initial values, then of the P, S, L values and MODE. -/
def Sec.tvWords (x : Sec) : Nat := 512 * x.tInit.length + 16 * x.vInit.length
/-- The single-word initial values: each with the bits it may carry. -/
def Sec.oneWords (x : Sec) : List (Nat × W64) :=
  let ks := x.pInit.map (fun _ => 32) ++ x.sInit.map (fun _ => 32) ++ x.lInit.map (fun _ => 16) ++ (if x.modeInit then [8] else [])
  (ks.zip (x.w.drop (5 + x.ninstr + x.tvWords)))
/-- The words that a CTX section's fields imply. -/
def Sec.ctxWords (x : Sec) : Nat :=
  5 + x.ninstr + x.tvWords + x.pInit.length + x.sInit.length + x.lInit.length + (if x.modeInit then 1 else 0)
/-- The port byte of port `p`: word 1, Q ports below O ports. -/
def Sec.port (x : Sec) (o : Bool) (p : Nat) : Nat := (x.wd 1).bits (8 * p + 7 + if o then 32 else 0) (8 * p + if o then 32 else 0)
/-- A port byte binds its port. -/
def portBound (b : Nat) : Bool := b.testBit 7
/-- A port byte binds its port to a (link, channel). -/
def portWire (b : Nat) : Option (Nat × Nat) := if b.testBit 6 then some (b / 4 % 4, b % 4) else none

/-- A row of a register's initial value. -/
def rowOfWords (l : List W64) : Row := ⟨BitVec.ofNat 1024 (l.foldr (fun w n => w.toNat + 2 ^ 64 * n) 0), 0⟩

/-- The context that a CTX section makes, over the reserved tags of the context it replaces (R77, R232). -/
def Sec.ctx (x : Sec) (old : Ctx) : Ctx :=
  let body := x.w.drop (5 + x.ninstr)
  let y : Ctx := { Ctx.empty with
    st := .ready, pc := x.entry, imem := x.instrs, entry := x.entry, rowLo := (x.wd 4).bits 11 0,
    rowHi := (x.wd 4).bits 23 12, rv := (x.wd 4).bit 24, rtag := old.rtag }
  let y := (x.tInit.zipIdx).foldl (fun y e => (List.range 32).foldl (fun (y : Ctx) r =>
    y.setTRow e.1 r (rowOfWords ((body.drop (512 * e.2 + 16 * r)).take 16))) y) y
  let y := (x.vInit.zipIdx).foldl (fun (y : Ctx) e =>
    y.setVReg e.1 (rowOfWords ((body.drop (512 * x.tInit.length + 16 * e.2)).take 16))) y
  let ones := body.drop x.tvWords
  let y := (x.pInit.zipIdx).foldl (fun (y : Ctx) e => y.setPReg e.1 ⟨BitVec.ofNat 32 (ones.getD e.2 0).toNat, false⟩) y
  let ones := ones.drop x.pInit.length
  let y := (x.sInit.zipIdx).foldl (fun (y : Ctx) e => y.setSReg e.1 ⟨BitVec.ofNat 32 (ones.getD e.2 0).toNat, false⟩) y
  let ones := ones.drop x.sInit.length
  let y := (x.lInit.zipIdx).foldl (fun (y : Ctx) e => y.setLReg e.1 (BitVec.ofNat 16 (ones.getD e.2 0).toNat)) y
  if x.modeInit then { y with mode := BitVec.ofNat 8 (ones.getD x.lInit.length 0).toNat } else y

/-! ### TASK, ROUTE, BUF, SCHED and DEMAND sections (R233, R234) -/

/-- NAGP. -/
def Sec.nagp (x : Sec) : Nat := (x.wd 0).bits 16 14
/-- NLIST. -/
def Sec.nlist (x : Sec) : Nat := (x.wd 0).bits 21 17
/-- TAGS. -/
def Sec.tags (x : Sec) : Nat := (x.wd 0).bits 28 22
/-- TAGV. -/
def Sec.tagv (x : Sec) : Bool := (x.wd 0).bit 29
/-- The window set. -/
def Sec.wset (x : Sec) : List W64 := (x.w.drop 1).take 5
/-- Program `p`. -/
def Sec.agp (x : Sec) (p : Nat) : List W64 := (x.w.drop (6 + 16 * p)).take 16
/-- The programs. -/
def Sec.agps (x : Sec) : List (List W64) := (List.range x.nagp).map x.agp
/-- The list words. -/
def Sec.listWords (x : Sec) : List W64 := (x.w.drop (6 + 16 * x.nagp)).take x.nlist
/-- The lists: start offset and successor. -/
def Sec.lists (x : Sec) : List (Nat × Nat) := x.listWords.map fun w => (W64.bits w 31 0, W64.bits w 35 32)
/-- The 16 entries of a ROUTE section. -/
def Sec.routes (x : Sec) : FMap Byte :=
  (List.range 16).foldl (fun m i => FMap.set (0 : Byte) m i (BitVec.ofNat 8 ((x.wd (1 + i / 8)).bits (8 * (i % 8) + 7) (8 * (i % 8))))) []
/-- FIRST of a BUF section. -/
def Sec.first (x : Sec) : Nat := (x.wd 0).bits 23 12
/-- LAST of a BUF section. -/
def Sec.last (x : Sec) : Nat := (x.wd 0).bits 35 24
/-- INIT. -/
def Sec.init (x : Sec) : Bool := (x.wd 0).bit 36
/-- The entries of a SCHED section. -/
def Sec.sched (x : Sec) : List (W64 × W64) :=
  (List.range ((x.wd 0).bits 12 0)).map fun i => (x.wd (1 + 2 * i), x.wd (2 + 2 * i))
/-- The records of a DEMAND section: half-stack and bytes. -/
def Sec.demand (x : Sec) : List (Nat × Nat) :=
  (List.range ((x.wd 0).bits 4 0)).map fun i => ((x.wd (1 + i)).bits 3 0, (x.wd (1 + i)).bits 63 8)
/-- Every entry of an image's SCHED sections, in section order. -/
def Image.sched (m : Image) : List (W64 × W64) := (m.of 5).flatMap Sec.sched

/-! ### Form (VCODE 0x01: R230–R234, R389) -/

/-- A section's length and reserved bits are as its fields imply. A resume form is checked under VCODE 0x0C. -/
def Sec.formed (x : Sec) (resume guest : Bool) : Bool :=
  let n := x.w.length
  let zero := fun (i hi lo : Nat) => (x.wd i).bits hi lo == 0
  match x.kind with
  | 1 => resume || (decide (5 ≤ n) && n == x.ctxWords && zero 0 63 37 && zero 2 63 37 && zero 3 63 32 && zero 4 63 25 && zero 2 24 24 &&
      decide (((x.wd 1).toNat &&& 0x3030303030303030) = 0) && x.oneWords.all (fun e => decide (e.2.toNat < 2 ^ e.1)) &&
      (!x.modeInit || (x.w.getLastD 0).toNat &&& 0xfa == 0) && decide ((x.wd 4).bits 11 0 ≤ (x.wd 4).bits 23 12))
  | 2 => resume || (decide (6 ≤ n) && zero 0 63 30 && zero 1 63 24 && zero 2 63 52 && zero 3 63 55 && zero 4 63 52 && zero 5 63 55 &&
      (if guest then n == 6 && zero 0 29 14 else n == 6 + 16 * x.nagp + x.nlist && x.listWords.all fun w => W64.bits w 63 36 == 0))
  | 3 => n == 3 && zero 0 63 12 && (List.range 16).all fun i => zero (1 + i / 8) (8 * (i % 8) + 1) (8 * (i % 8))
  | 4 => zero 0 63 37 && decide (x.first ≤ x.last) && n == 1 + (if x.init then 16 * (x.last + 1 - x.first) else 0)
  | 5 => zero 0 63 13 && decide ((x.wd 0).bits 12 0 ≤ 4096) && n == 1 + 2 * (x.wd 0).bits 12 0
  | 6 => zero 0 63 5 && decide (1 ≤ (x.wd 0).bits 4 0) && decide ((x.wd 0).bits 4 0 ≤ 16) && n == 1 + (x.wd 0).bits 4 0 &&
      (List.range ((x.wd 0).bits 4 0)).all fun i => zero (1 + i) 7 4
  | _ => false

/-- A section passes VCODE 0x01. -/
def Image.secOk (m : Image) (resume guest : Bool) (x : Sec) : Bool :=
  x.e0.bits 31 8 == 0 && decide (1 ≤ x.kind) && decide (x.kind ≤ 6) && x.off % 8 == 0 && x.len % 8 == 0 && decide (0 < x.len) &&
    decide (x.off + x.len ≤ m.len) && x.formed resume guest && (!guest || x.kind == 2)

/-- The header passes VCODE 0x01. -/
def Image.headOk (m : Image) : Bool :=
  decide (64 ≤ m.len) && (m.hd 0).bits 7 3 == 0 && (m.hd 0).bits 15 11 == 0 && (m.hd 0).bits 63 56 == 0 && decide (m.style ≤ 1) &&
    decide (1 ≤ m.intlv) && decide (m.intlv ≤ 4) && decide (1 ≤ m.ngrp) && decide (m.ngrp ≤ 128) && (m.style == 1 || m.ngrp == 1) &&
    decide (1 ≤ m.nsec) && (m.hd 1).bits 63 52 == 0 && (m.hd 2).bits 63 52 == 0 && (m.hd 3).bits 63 32 == 0 &&
    (List.range 4).all (fun i => m.hd (4 + i) == 0) && decide (64 + 16 * m.nsec ≤ m.len)

/-! ### Writing -/

/-- Unbind the ports of context `k` of a CU and empty them (R99, R149). -/
def Cu.freePorts (c : Cu) (k : Nat) : Cu :=
  let clear := fun (c : Cu) (p : Nat) =>
    let c := if (FMap.get PortBind.free c.qbind p).ctx = some k then
      { c with qbind := FMap.set PortBind.free c.qbind p PortBind.free, qbuf := FMap.set ([] : List Token) c.qbuf p [] } else c
    if (FMap.get PortBind.free c.obind p).ctx = some k then
      { c with obind := FMap.set PortBind.free c.obind p PortBind.free, obuf := FMap.set ([] : List Token) c.obuf p [] } else c
  (List.range 4).foldl clear c

/-- Drop what the array holds for context `k` and any switch to it. -/
def Cu.forget (c : Cu) (k : Nat) : Cu :=
  let keep := fun (r : Option MmaRun) => r.filter fun q => q.ctx != k
  { c with arr := keep c.arr, que := keep c.que, latch := c.latch.filter fun l => l.1 != k,
           active := if c.active = some k then none else c.active, pendSw := if c.pendSw = some k then none else c.pendSw }

/-- Write a CTX section into its CU (R77, R149, R232). -/
def Cu.loadCtx (c : Cu) (x : Sec) : Cu :=
  let k := x.ce
  let c := (c.forget k).freePorts k
  let c := c.setCtx k (x.ctx (c.ctxAt k))
  (List.range 4).foldl (fun c p =>
    let q := x.port false p
    let o := x.port true p
    let c := if portBound q then { c with qbind := FMap.set PortBind.free c.qbind p ⟨some k, portWire q⟩ } else c
    if portBound o then { c with obind := FMap.set PortBind.free c.obind p ⟨some k, portWire o⟩ } else c) c

/-- Free the tags that an engine's requests hold, with new generations (R181). -/
def Mu.dropTags (x : Mu) (e : Nat) : Mu :=
  let held := ((x.engAt e).jobs.flatMap fun j => j.reqs.map (·.tag)).filter fun t => decide (t < 64)
  { x with busy := held.foldl (fun b t => FMap.set false b t false) x.busy,
           gens := held.eraseDups.foldl (fun g t => FMap.set 0 g t ((count g t + 1) % 16)) x.gens }

/-- Empty engine `e` of an MU: its task, its tags and its scoreboard entries (R163, R181). -/
def Mu.emptyEng (x : Mu) (e : Nat) : Mu :=
  let x := x.dropTags e
  { (x.setEng e Eng.empty) with sb := x.sb.filter (fun y => y.eng != e), cmpOwner := x.cmpOwner.filter (· != e) }

/-- The tags that a TASK section's engine receives among its MU's sections (R181, R233). -/
def Image.tagsFor (m : Image) (x : Sec) : Nat :=
  if ((m.of 2).filter fun y => y.unit == x.unit).any (·.tagv) then (if x.tagv then x.tags else 0) else 16

/-- Write a TASK section into its MU: the engine is IDLE and its staged list, list 0, is on its way (R163, R164). -/
def Mu.loadTask (u : Mu) (x : Sec) (tags desca : Nat) : Mu :=
  let u := u.emptyEng x.ce
  let burst := x.lists.head?.map fun l => desca + l.1
  u.setEng x.ce { Eng.empty with
    st := .idle, agps := x.agps, lists := x.lists, tags := tags, burst := burst,
    banks := FMap.set ([] : List W64) [] 0 x.wset }

/-- Write a BUF section's contents (R234). -/
def State.loadBuf (s : State) (x : Sec) : State :=
  if x.init then (List.range (x.last + 1 - x.first)).foldl (fun (s : State) i =>
    s.putSpadRow x.unit (128 * (x.first + i)) (rowOfWords ((x.w.drop (1 + 16 * i)).take 16)) fullMask) s
  else s

/-- Write entries from the start of region `r`'s range in a bank, and invalidate the rest (R272). -/
def State.setRange (s : State) (r bank : Nat) (l : List (W64 × W64)) : State :=
  let a := s.allotOf r
  ((l.take a.2).zipIdx).foldl (fun (s : State) e => s.setBankEnt bank (a.1 + e.2) e.1) (s.clearBank r bank)
/-- A LOAD's SCHED section (R272): both banks, or the shadow bank alone while an instance is in flight. -/
def State.loadSched (s : State) (r : Nat) (l : List (W64 × W64)) : State :=
  if (s.rgn r).insts.isEmpty then (s.setRange r 0 l).setRange r 1 l else s.setRange r (1 - s.bankOf r) l

/-- Set the route table of a unit (R100, R234). -/
def State.setRoutes (s : State) (u : Nat) (t : FMap Byte) : State := s.updFab u fun f => { f with route := t }
/-- Every unit of the region takes the route table of its ROUTE section, or none. -/
def State.loadRoutes (s : State) (r : Nat) (m : Image) : State :=
  let s := (s.fab.filter fun e => s.inRegion r e.1).foldl (fun (s : State) e => s.setRoutes e.1 []) s
  (m.of 3).foldl (fun (s : State) x => s.setRoutes x.unit x.routes) s

/-- Empty every guest bank of region `r`'s tasks (R389). -/
def State.dropGuests (s : State) (r : Nat) : State :=
  (s.regionMus r).foldl (fun (s : State) m => (List.range 4).foldl (fun (s : State) e =>
    s.updEng m e fun g => { g with banks := g.banks.filter fun b => b.1 == 0, bank := 0 }) s) s

/-- What an image fixes for its region (R230, R231); the windows are formed once the tasks stand. -/
def Image.img (m : Image) : Img :=
  { style := m.style, mmp := m.mmp, intlv := m.intlv, wdog := if m.wdog = 0 then 64 else m.wdog, ngrp := m.ngrp, fra := m.fra,
    desca := m.desca, descl := m.descl, bufs := (m.of 4).map fun x => (4096 * x.idx + x.unit, x.first, x.last),
    demand := (m.of 6).flatMap Sec.demand, windows := [] }

/-- Write an accepted image into region `r`, all but its windows (R235): no group of its drains is pending, and a region that holds an
image keeps its style until UNLOAD (R38; log entry 31). -/
def State.writeImage (s : State) (r : Nat) (m : Image) : State :=
  let s := s.dropGuests r
  let s := s.loadRoutes r m
  let s := (m.of 1).foldl (fun (s : State) x => s.updCu x.unit fun c => c.loadCtx x) s
  let s := (m.of 2).foldl (fun (s : State) x => s.updMu x.unit fun u => u.loadTask x (m.tagsFor x) m.desca) s
  let s := (m.of 4).foldl (fun (s : State) x => s.loadBuf x) s
  let s := if (m.of 5).isEmpty then s else s.loadSched r m.sched
  let s := s.putDevWords m.fra (List.replicate 512 0)
  s.updRgn r fun g => { g with
    img := some { m.img with style := (g.img.map (·.style)).getD m.style }, group := m.ngrp, declared := [], faults := [],
    idle := 0, wedged := 0, held := none, seq := 1, absDrain := [] }

/-- A resume-form LOAD: the named contexts become READY at their faulting instruction, the named engines IDLE with their list
position kept, the descriptors that wait read anew (R147, R189). -/
def State.writeResume (s : State) (r : Nat) (m : Image) : State :=
  let s := (m.of 1).foldl (fun (s : State) x => s.updCtx x.unit x.ce fun y => { y with st := .ready, astat := 0 }) s
  let s := (m.of 2).foldl (fun (s : State) x => s.updEng x.unit x.ce fun g =>
    { g with st := .idle, resume := true, queue := g.queue.map fun q => s.descAt q.1 }) s
  s.updRgn r fun g => { g with held := none }

/-- A guest's LOAD writes bank `j` of the tasks it names (R389). -/
def State.writeGuest (s : State) (j : Nat) (m : Image) : State :=
  (m.of 2).foldl (fun (s : State) x => s.updEng x.unit x.ce fun g => { g with banks := FMap.set ([] : List W64) g.banks j x.wset }) s

end Sys2Proof.Machine
end

