-- ==== Sys2Proof/Machine/Verify.lean ====
section
/-! DEFINITION. The loader's checks (R235, R236) but for the abstract run: target, counts, instructions, streams, ports and
routes, base and bound, buffers, schedule fit, DRAM share, and resume. Each answers the objects it refuses. -/

namespace Sys2Proof.Machine

/-! ### Refusals (R235) -/

/-- An object at fault: its unit's y and x, its context or engine, its index, and the status it gives. -/
structure Bad where
  y : Nat
  x : Nat
  ce : Nat
  idx : Nat
  status : Nat
deriving DecidableEq, Repr

/-- An object of a unit, at fault with VERIFY_FAILED. -/
def badAt (u ce idx : Nat) : Bad := ⟨unitY u, unitX u, ce, idx, 8⟩
/-- A region-wide object. -/
def badWide (idx : Nat) : Bad := ⟨0, 0, 0, idx, 8⟩
/-- The order of R235. -/
def Bad.before (a b : Bad) : Bool :=
  decide (a.y < b.y) || (a.y == b.y && (decide (a.x < b.x) || (a.x == b.x && (decide (a.ce < b.ce) || (a.ce == b.ce && decide (a.idx < b.idx))))))
/-- The first offending object. -/
def firstBad (l : List Bad) : Option Bad :=
  l.foldl (fun b x => match b with | none => some x | some y => if x.before y then some x else some y) none
/-- The 32-bit object code. -/
def Bad.code (b : Bad) : Nat := b.x % 64 + 64 * (b.y % 64) + 2 ^ 12 * (b.ce % 4) + 2 ^ 16 * (b.idx % 65536)

/-- The sections that name an object a second time, by a key. -/
def twice (l : List Sec) (key : Sec → Nat) : List Sec :=
  l.filter fun x => l.any fun y => decide (y.idx < x.idx) && key y == key x

/-! ### 0x01 Image form -/

/-- The sections and header that fail (R230–R234, R389, R458). -/
def Image.badForm (m : Image) (marked resume guest : Bool) : List Bad :=
  (if m.headOk && !marked then [] else [badWide 0]) ++ (m.secs.filter fun x => !m.secOk resume guest x).map fun x => badWide x.idx

/-! ### 0x02 Target (R149, R192, R218, R247, R389) -/

/-- The unit exists in this module and is of the kind that its section needs. -/
def State.unitFits (s : State) (x : Sec) : Bool :=
  s.dieExists (unitDie x.unit) && (match x.kind with | 1 => isCu x.unit | 3 => true | _ => isMu x.unit)
/-- A region has at least 16 blocks. -/
def manyBlocks (w : W64) : Bool := decide (16 ≤ (w.bits 11 8 + 1 - w.bits 3 0) * (w.bits 15 12 + 1 - w.bits 7 4))
/-- The sections that name a unit. -/
def Image.named (m : Image) : List Sec := m.secs.filter fun x => decide (1 ≤ x.kind) && decide (x.kind ≤ 4)
/-- The objects that fail the target check. -/
def State.badTarget (s : State) (fn r : Nat) (m : Image) (guest : Bool) : List Bad :=
  let owner := partValid (s.part0 r) && (if guest then (s.bankIndex r fn).any (decide <| 0 < ·) else partOwner (s.part0 r) == fn)
  if !owner then [badWide 0]
  else
    (if decide (1 < m.intlv) && !(manyBlocks (s.part0 r)) && !m.mmp then [badWide 0] else []) ++
    m.named.filterMap fun x =>
      let u := x.unit
      if !(s.inRegion r u) || !(s.unitFits x) then some (badAt u x.ce x.idx)
      else if s.die (unitDie u) != .powered then some { badAt u x.ce x.idx with status := 6 }
      else if x.kind = 1 && ((s.cu u).ctxAt x.ce).st == .active then some { badAt u x.ce x.idx with status := 10 }
      else none

/-! ### 0x03 Counts and sizes -/

/-- The descriptors of a list in a descriptor area, to its LAST or the area's end: offset and words. -/
def State.listDescs (s : State) (a len : Nat) (off : Nat) : Nat → List (Nat × Desc)
  | 0 => []
  | n + 1 =>
    if len < off + 64 then []
    else
      let d := (s.descAt (a + off)).2.1
      (off, d) :: (if dLast d then [] else State.listDescs s a len (off + 64) n)
/-- The descriptors of a TASK section's lists. -/
def State.secDescs (s : State) (m : Image) (x : Sec) : List (Nat × Desc) :=
  x.lists.flatMap fun l => s.listDescs m.desca m.descl l.1 (m.descl / 64)
/-- A list is aligned and finds its LAST inside the area. -/
def State.listEnds (s : State) (m : Image) (off : Nat) : Bool :=
  decide (off % 64 = 0) && ((s.listDescs m.desca m.descl off (m.descl / 64)).getLast?.any fun e => dLast e.2)
/-- The tags of engine `e` of MU `u` once the image stands. -/
def State.tagsAfter (s : State) (m : Image) (u e : Nat) : Nat :=
  match (m.of 2).find? fun x => x.unit == u && x.ce == e with
  | some x => m.tagsFor x
  | none => (s.eng u e).tags
/-- The objects that fail counts and sizes. -/
def State.badCounts (s : State) (r : Nat) (m : Image) (resume guest : Bool) : List Bad :=
  let key := fun (x : Sec) => 4 * x.unit + x.ce
  let dup := (twice (m.of 1) key ++ twice (m.of 2) key ++ twice (m.of 3) key).map fun x => badAt x.unit x.ce x.idx
  if resume then dup
  else if guest then
    dup ++ ((m.of 2).filter fun x => (s.eng x.unit x.ce).st == .empty || !(s.inRegion r x.unit)).map fun x => badAt x.unit x.ce x.idx
  else
    dup ++ ((m.of 1).filter fun x => x.ninstr = 0 || decide (2048 < x.ninstr) || decide (x.ninstr ≤ x.entry)).map (fun x => badAt x.unit x.ce x.idx) ++
    ((m.of 2).filter fun x =>
      decide (4 < x.nagp) || decide (16 < x.nlist) || x.lists.any (fun l => decide (x.nlist ≤ l.2)) ||
      decide (64 < (((List.range 4).filter fun e => decide (e ≤ x.ce) || !((m.of 2).any fun y => y.unit == x.unit && y.ce == e)).map
        (s.tagsAfter m x.unit)).sum) ||
      (m.tagsFor x == 0 && (s.secDescs m x).any fun e => dDevSide e.2)).map fun x => badAt x.unit x.ce x.idx

/-! ### 0x04 Instructions -/

/-- The loop instructions of a program: index, counter and closing index. -/
def loopsOf (p : List (Option Zelux)) : List (Nat × Nat × Nat) :=
  p.zipIdx.filterMap fun e => match e.1 with | some (.loop f) => some (e.2, f.l.toNat, f.endpc.toNat) | _ => none
/-- The loop instructions in whose bodies index `i` lies. -/
def bodiesOf (ls : List (Nat × Nat × Nat)) (i : Nat) : List Nat := (ls.filter fun l => decide (l.1 < i) && decide (i ≤ l.2.2)).map (·.1)
/-- A loop breaks R132 among the loops of an image of `n` instructions. -/
def loopBad (ls : List (Nat × Nat × Nat)) (n : Nat) (l : Nat × Nat × Nat) : Bool :=
  decide (l.2.2 ≤ l.1) || decide (n ≤ l.2.2 + 1) ||
    ls.any fun o => decide (o.1 < l.1) && decide (l.1 ≤ o.2.2) && (decide (o.2.2 < l.2.2) || o.2.1 == l.2.1)
/-- The ports an instruction takes from (Q) and sends to (O). -/
def portsOf : Zelux → List Nat × List Nat
  | .mma f => (if f.fromQ then [f.a.toNat] else [], [])
  | .move .pop f => (maskPorts f.pmask, [])
  | .move .drop f => (maskPorts f.pmask, [])
  | .move .push f => ([], maskPorts f.pmask)
  | _ => ([], [])
/-- An instruction moves tokens at a port. -/
def portAction (z : Zelux) : Bool := portsOf z != ([], [])
/-- The index of the last instruction before `i` that satisfies `q`. -/
def lastBefore (p : List (Option Zelux)) (q : Zelux → Bool) : Nat → Option Nat
  | 0 => none
  | i + 1 => if ((p.getD i none).any q) then some i else lastBefore p q i
/-- A vector instruction of a form. -/
def isVec (t : Option Bool) : Zelux → Bool
  | .vec _ f => t.all (· == f.tform)
  | _ => false
/-- A source names FWD. -/
def fwdUsed : Zelux → Bool
  | .vec o f => f.sa == 0x20 || (o.usesB && f.sb == 0x20) || (o == .fma && f.sc == 0x20)
  | .red _ f => f.src == 0x20
  | _ => false
/-- FWD at index `i` has the predecessor that R123 and R126 ask for. -/
def fwdOk (p : List (Option Zelux)) (ls : List (Nat × Nat × Nat)) (i : Nat) (z : Zelux) : Bool :=
  if !(fwdUsed z) then true
  else
    let prev := match z with | .red _ _ => lastBefore p (isVec (some true)) i | _ => lastBefore p (isVec none) i
    match prev with
    | none => false
    | some j => bodiesOf ls j == bodiesOf ls i &&
      (match z with | .vec _ f => (p.getD j none).any (isVec (some f.tform)) | _ => true)
/-- The next matrix instruction after index `i`. -/
def nextMma (p : List (Option Zelux)) (i : Nat) : Option (Nat × MmaF) :=
  ((p.zipIdx).drop (i + 1)).findSome? fun e => match e.1 with | some (.mma f) => some (e.2, f) | _ => none
/-- A flagged mma at index `i` has a qualifying partner (R85, R117). -/
def pairOk (p : List (Option Zelux)) (ls : List (Nat × Nat × Nat)) (i : Nat) (f : MmaF) : Bool :=
  if f.pair = 0 then true
  else match nextMma p i with
    | none => false
    | some (j, g) =>
      g.fourBit && g.c == f.c && !g.fromQ && g.pair == 0 && [f.a, f.b, g.a, g.b, f.c].Nodup &&
        bodiesOf ls i == bodiesOf ls j && !(ls.any fun l => l.2.2 == i) &&
        !(((p.drop i).take (j - i)).any fun z => z == some .endp)
/-- The mma at index `i` is the second of a pair and sets ZC (R117). -/
def secondZc (p : List (Option Zelux)) (i : Nat) (f : MmaF) : Bool :=
  f.zc == 1 && (List.range i).any fun j => match p.getD j none with
    | some (.mma g) => g.pair == 1 && (nextMma p j).any (·.1 == i)
    | _ => false
/-- Instruction `i` of a context's image is refused under VCODE 0x04. -/
def instrBad (x : Sec) (p : List (Option Zelux)) (ls : List (Nat × Nat × Nat)) (i : Nat) : Bool :=
  match p.getD i none with
  | none => true
  | some z =>
    let ports := portsOf z
    !z.legal || (i + 1 == x.ninstr && z != .endp) ||
      ports.1.any (fun q => !portBound (x.port false q)) || ports.2.any (fun q => !portBound (x.port true q)) ||
      !fwdOk p ls i z ||
      (match z with
       | .mma f => !pairOk p ls i f || secondZc p i f
       | .yld sv succ => sv && succ.toNat == x.ce
       | .loop f => ls.any (fun l => l.1 == i && loopBad ls x.ninstr l) ||
           (f.csrc == 1 && ((p.drop (i + 1)).take (f.endpc.toNat - i)).any fun z => z.any portAction)
       | _ => false)
/-- The instructions that fail. -/
def Image.badInstrs (m : Image) : List Bad :=
  (m.of 1).flatMap fun x =>
    let p := x.instrs.map decodeZelux
    let ls := loopsOf p
    ((List.range x.ninstr).filter (instrBad x p ls)).map fun i => badAt x.unit x.ce i

/-! ### 0x05 Streams (R92, R162–R172, R184) -/

/-- The levels that instructions of an OP name. -/
def agpNames (p : List W64) (op : Nat) : List Nat := (p.filter fun w => W64.bits w 63 60 == op).map fun w => W64.bits w 59 57
/-- One instruction of a program has no reserved bit set. -/
def agpWordOk (w : W64) : Bool :=
  match w.bits 63 60 with
  | 0 => w == 0
  | 1 => w.bits 5 0 == 0
  | 2 => w.bits 24 0 == 0
  | 3 => w.bits 51 0 == 0
  | 4 => w.bits 30 0 == 0 && decide (w.bits 40 35 ≤ 32)
  | _ => false
/-- Instruction `i` of a program fails R165 or R167, where `nl` levels are declared: a reserved value, a level or target named a second
time, a level that is not declared, or an OL that is no outer level. -/
def agpInstrBad (p : List W64) (nl i : Nat) : Bool :=
  let w : W64 := p.getD i 0
  let op := w.bits 63 60
  let again := (p.take i).any fun v => W64.bits v 63 60 == op && (if op = 3 then W64.bits v 56 56 == w.bits 56 56 else W64.bits v 59 57 == w.bits 59 57)
  !agpWordOk w || again || (op != 1 && decide (nl ≤ w.bits 59 57)) || (op == 4 && w.bit 31 && decide (w.bits 59 57 ≤ w.bits 34 32))
/-- The first instruction at which a program fails: one after END, one that R167 refuses, or END itself where it is absent or the LEVELs
do not name levels 0 to NL − 1. -/
def agpBadAt (p : List W64) : Option Nat :=
  let n := (p.takeWhile (· != 0)).length
  let ls := agpNames (p.take n) 1
  if p.length ≤ n then some (p.length - 1)
  else match (List.range p.length).find? fun i => decide (n < i) && p.getD i 0 != 0 with
    | some i => some i
    | none => match (List.range n).find? (agpInstrBad p ls.length) with
      | some i => some i
      | none => if decide (1 ≤ ls.length) && decide (ls.length ≤ 6) && (List.range ls.length).all ls.contains then none else some n
/-- A program passes R165 and R167. -/
def agpOk (p : List W64) : Bool := (agpBadAt p).isNone
/-- The formats of a descriptor may be paired (R71, R168). -/
def pairFits (d : Desc) : Bool :=
  let k := dKind d
  let m := dMfmt d
  let r := dRfmt d
  let same := (m, r) == (0, 0) || (m, r) == (2, 1) || (m, r) == (10, 2)
  let block := decide (3 ≤ m) && decide (m ≤ 7)
  if dCopy d then m = 0 && r = 0
  else if dTakes d then
    same || (r == 0 && (m == 1 || m == 2 || block || decide (8 ≤ m) && decide (m ≤ 10))) || (r == 2 && (m == 8 || m == 9)) || (r == 3 && block)
  else
    (same || (m == 1 && (r == 0 || r == 1)) || (m == 0 && r == 1) || (block && (r == 3 || r == 0)) ||
      ((m == 8 || m == 9) && (r == 2 || r == 0)) || (m == 10 && r == 0)) && !(k == 6 && r == 3)
/-- Hold mark `i` has no reserved bit, and a DRAIN mark names an earlier group (R179, VCODE 0x05). -/
def holdOk (d : Desc) (i : Nat) : Bool :=
  let w := dHold d i
  w.bits 31 28 == 0 && (w.bits 25 24 != 3 || (let n := (dGroup d + 256 - w.bits 39 32) % 256; decide (1 ≤ n) && decide (n ≤ 127)))
/-- The descriptor's words carry no reserved bit or value (R162, R172, R184). Of a CMP's word 6 the bits above HE0 must be zero (log
entry 83). -/
def descForm (d : Desc) : Bool :=
  let z := fun (i hi lo : Nat) => (dWord d i).bits hi lo == 0
  let cmp := dKind d == 6
  decide (dKind d ≤ 6) && decide (dMfmt d ≤ 10) && decide (dRnd d < 3) && z 0 38 38 && z 0 24 0 && z 1 63 52 &&
    (if cmp then z 2 39 39 && z 2 63 52 && decide ((dWord d 2).bits 34 32 < 7) && decide ((dWord d 2).bits 36 35 < 3) && z 6 63 40
     else z 2 63 52 && z 6 63 51 && decide (dTbase d % 4 = 0)) &&
    z 7 31 25 && holdOk d 0 && holdOk d 1 && pairFits d && (dRnd d != 2 || (dTakes d && dBlock d))
/-- The scale bytes that a store writes cover whole aligned words (R170). -/
def scalesWhole (l : List Nat) : Bool :=
  l.all fun o => (List.range 8).all fun i => l.contains (o / 8 * 8 + i)
/-- What row `r` of a descriptor comes to by the affine part of its addresses: its lanes, and each side that no INDIRECT forms. -/
structure RowShape where
  lanes : Nat
  a : Option Int
  b : Option Int
deriving DecidableEq, Repr
/-- The shape of a row (R166). -/
def rowShape (p : List W64) (d : Desc) (r : Nat) : RowShape :=
  let cs := agpCounts p d
  let idx := agpTuple cs r
  let b := if dBlock d && (agpInd p 1).isNone then some (agpAffine p 1 (dBbase d) idx) else none
  ⟨agpLanes p d idx, if (agpInd p 0).isNone then some (agpAffine p 0 (dAbase d) idx) else none, b⟩
/-- A row fails R159 or R167: every index tuple is tested, that of a zero row with no byte accessed (log entry 33). -/
def rowBad (p w : List W64) (d : Desc) (r : Nat) : Bool :=
  let x := rowShape p d r
  x.a.any (fun a => (rowReason w d a (dElemBytes d x.lanes) 0).isSome) ||
    x.b.any fun b => (rowReason w d b (dScaleSpan d r x.lanes) 1).isSome
/-- The scale offsets that a descriptor's stores write, block by block. -/
def storedScales (p : List W64) (d : Desc) : List Nat :=
  let n := agpRows p d
  ((List.range n).filter fun r => r % dPeriod d == 0 && (List.range (dPeriod d)).any fun i => decide (0 < (rowShape p d (r + i)).lanes)).flatMap fun r =>
    match (rowShape p d r).b with
    | some b => (List.range (dScaleBytes d)).map (b.toNat + ·)
    | none => []
/-- A descriptor of a task is refused under VCODE 0x05. -/
def descBad (agps : List (List W64)) (w : List W64) (d : Desc) : Bool :=
  match agps[dAgp d]? with
  | none => true
  | some p =>
    let n := agpRows p d
    let k := dKind d
    let masks := (p.filter fun w => W64.bits w 63 60 == 4).map fun w => W64.bits w 40 35
    let range := winLo w + dRhi d
    !descForm d || decide (2 ^ 24 < n) || n % dTile d != 0 ||
      ((k == 1 || k == 2) && !([1, 16, 32].contains (dTile d))) ||
      (dCopy d && dRhi d + 1 - dRlo d != n) || decide (dRhi d < dRlo d && dRv d = true) ||
      (dRv d != !(k == 1 || k == 5)) || (dRv d && decide (winHi w < range)) ||
      winDenied w d || (k == 6 && (agpInd p 0).isSome) || (k == 6 && (agpInd p 1).isSome) ||
      ((k == 3 || k == 4 || k == 5) && masks.any fun l => l * dWidth d % 64 != 0) ||
      (dBlock d && n % dPeriod d != 0) ||
      (k == 6 && !(dRdst d) && (decide (winHi w < winLo w + dResrow d) || (decide (dRlo d ≤ dResrow d) && decide (dResrow d ≤ dRhi d)))) ||
      (List.range n).any (rowBad p w d) ||
      (dBlock d && dTakes d && !scalesWhole (storedScales p d))
/-- The streams that fail: an instruction of a program, at 16 times the program's number and its index; where every program passes, a
list without an end, or a descriptor, at its number in the area. -/
def State.badStreams (s : State) (m : Image) : List Bad :=
  (m.of 2).flatMap fun x =>
    let at_ := fun (i : Nat) => badAt x.unit x.ce i
    let progs := (List.range x.nagp).filterMap fun p => (agpBadAt (x.agp p)).map (16 * p + ·)
    if progs != [] then progs.map at_
    else (x.lists.filter fun l => !(s.listEnds m l.1)).map (fun l => at_ (l.1 / 64)) ++
      ((s.secDescs m x).filter fun e => descBad x.agps x.wset e.2).map fun e => at_ (e.1 / 64)

/-! ### 0x06 Ports and routes, over the region as the image leaves it (R99, R100, R195, R239) -/

/-- The descriptors of every list of a bound engine. -/
def State.engDescs (s : State) (m e : Nat) : List (Nat × Desc) :=
  let (a, l) := match (s.regionOf m).bind fun r => (s.rgn r).img with | some i => (i.desca, i.descl) | none => (0, 0)
  (s.eng m e).lists.flatMap fun x => s.listDescs a l x.1 (l / 64)
/-- What sends on an outgoing (link, channel) of a unit: 0–3 its O ports or engines, 4 and up its pass-through entries. -/
def State.senders (s : State) (u link chan : Nat) : List Nat :=
  (if isMu u then (List.range 4).filter fun e => (s.engDescs u e).any fun d => dSends d.2 && dLink d.2 == link && dChan d.2 == chan
   else (List.range 4).filter fun p => (FMap.get PortBind.free (s.cu u).obind p).wire == some (link, chan)) ++
    ((List.range 16).filter fun i =>
      let b := (s.fabric u).entry (i / 4) (i % 4)
      routeKind b == 2 && routeOlink b == link && routeTarget b == chan).map (· + 4)
/-- The neighbour on a link lies in region `r`. -/
def State.linkInside (s : State) (r u link : Nat) : Bool := (neighbour u link).any (s.inRegion r ·)
/-- The port bindings of an image's CTX sections that fail: `s` is the state before it. -/
def State.badPorts (s : State) (r : Nat) (m : Image) : List Bad :=
  (m.of 1).flatMap fun x =>
    let c := (s.cu x.unit)
    let others := fun (o : Bool) (p : Nat) =>
      ((m.of 1).any fun y => y.unit == x.unit && y.ce != x.ce && portBound (y.port o p)) ||
        (match (FMap.get PortBind.free (if o then c.obind else c.qbind) p).ctx with
         | some k => k != x.ce && !((m.of 1).any fun y => y.unit == x.unit && y.ce == k)
         | none => false)
    let used := x.instrs.filterMap decodeZelux |>.map portsOf
    let bad := fun (o : Bool) (p : Nat) =>
      let b := x.port o p
      let named := used.any fun u => (if o then u.2 else u.1).contains p
      portBound b && (others o p || (named && (portWire b).isNone) || (o && (portWire b).any fun w => !(s.linkInside r x.unit w.1)))
    ((List.range 4).filter fun p => bad false p || bad true p).map fun p => badAt x.unit x.ce p
/-- A sender as an object: an O port, an engine's first descriptor that sends there, or a route entry. -/
def State.senderBad (s : State) (u link chan x : Nat) : Bad :=
  if 4 ≤ x then badAt u 0 (x - 4)
  else if isMu u then
    badAt u x (match (s.engDescs u x).find? fun d => dSends d.2 && dLink d.2 == link && dChan d.2 == chan with | some d => d.1 / 64 | none => 0)
  else badAt u ((FMap.get PortBind.free (s.cu u).obind x).ctx.getD 0) x
/-- The route entries, senders and double bindings that fail once the image stands. -/
def State.badRoutes (s : State) (r : Nat) (m : Image) : List Bad :=
  ((m.of 3).flatMap fun x =>
    ((List.range 16).filter fun i =>
      let b := (s.fabric x.unit).entry (i / 4) (i % 4)
      routeKind b == 3 || (routeKind b == 2 && (routeOlink b == i / 4 || !(s.linkInside r x.unit (routeOlink b))))).map fun i => badAt x.unit 0 i) ++
  ((s.regionCus r ++ s.regionMus r ++ (s.fab.map (·.1)).filter (s.inRegion r ·)).eraseDups.flatMap fun u =>
    (List.range 16).flatMap fun i =>
      let l := s.senders u (i / 4) (i % 4)
      (l.filter fun x => decide (1 < l.length) || (isMu u && decide (x < 4) && !(s.linkInside r u (i / 4)))).map (s.senderBad u (i / 4) (i % 4))) ++
  ((s.regionCus r).flatMap fun u =>
    let ws := (List.range 4).filterMap fun p => (FMap.get PortBind.free (s.cu u).qbind p).wire.map fun w => (p, w)
    (ws.filter fun e => ws.any fun f => decide (f.1 < e.1) && f.2 == e.2).map fun e =>
      badAt u ((FMap.get PortBind.free (s.cu u).qbind e.1).ctx.getD 0) e.1)

/-! ### 0x07 Base and bound (R27, R144, R158, R160, R280, R310, R389) -/

/-- Two stretches share a byte. -/
def overlaps (a n b m : Nat) : Bool := decide (a < b + m) && decide (b < a + n) && decide (0 < n) && decide (0 < m)
/-- A FLASH_WRITE in flight, or submitted before command `h`, writes into [a, a + n) (R312). -/
def State.flashBusy (s : State) (h : W64) (a n : Nat) : Bool :=
  (s.mem.writing.any fun w => overlaps a n w.2.base w.2.len) ||
    (s.host.cmds.takeWhile fun c => c.handle != h).any fun c =>
      c.opcode == 0x0C && c.phase != .due && overlaps a n (c.word 1).toNat (c.word 3).toNat
/-- A placement pool holds a byte of [a, a + n) (R285). -/
def State.inPool (s : State) (a n : Nat) : Bool :=
  (List.range 16).any fun q => overlaps a n (s.regBits (aPlcPool q) 22 0 * 4096 + q * halfStack) (s.regBits (aPlcPool q) 45 23 * 4096)
/-- Window `n` of a window set is refused for function `fn`. -/
def State.windowBad (s : State) (h : W64) (fn : Nat) (i : Img) (w : List W64) (n : Nat) : Bool :=
  let a := winBase w n
  let l := winLen w n
  if l = 0 then winOu w n && !(winWr w n)
  else
    let flash := isFlash a l
    a % 4096 != 0 || l % 4096 != 0 || (winOu w n && !(winWr w n)) || overlaps a l i.fra 4096 || overlaps a l i.desca i.descl ||
      (if flash then winWr w n || winOu w n || s.flashBusy h a l || !(s.mapped fn a l fun e => e.kind == 1 && (!(winRd w n) || e.rd))
       else !(s.isDram a l) || s.inPool a l || !(s.mapped fn a l (entDram (winRd w n) (winWr w n))))
/-- The areas and windows that fail. -/
def State.badBounds (s : State) (h : W64) (fn r : Nat) (m : Image) (guest : Bool) : List Bad :=
  let i := if guest then ((s.rgn r).img.getD m.img) else m.img
  let area := fun (a n : Nat) => decide (0 < n) && (!(s.isDram a n) || !(s.mapped fn a n (entDram false false)))
  (if guest then [] else
    if area m.fra 4096 || area m.desca m.descl || overlaps m.fra 4096 m.desca m.descl then [badWide 0] else []) ++
  ((m.of 2).filter fun x => decide (winHi x.wset < winLo x.wset) || s.windowBad h fn i x.wset 0 || s.windowBad h fn i x.wset 1).map fun x =>
    badAt x.unit x.ce x.idx

/-! ### 0x08 Buffers and alignment (R39, R144, R164, R228) -/

/-- A descriptor carries a PEER hold mark on engine `e`. -/
def peersOn (d : Desc) (e : Nat) : Bool := [0, 1].any fun i => (dHold d i).bits 25 24 == 2 && (dHold d i).bits 27 26 == e
/-- The chunks of a queue extension's ring (R228): the LINK to SP descriptors of engine W over rows that engine D sends from, where each of
the two engines holds itself by PEER marks on the other (log entry 96). -/
def State.ringOf (s : State) (u w d : Nat) : List (Nat × Desc) :=
  let ins := (s.engDescs u w).filter fun x => dKind x.2 == 4 && dRv x.2
  let outs := (s.engDescs u d).filter fun x => dKind x.2 == 2 && dRv x.2
  if ins.any (fun x => peersOn x.2 d) && outs.any (fun x => peersOn x.2 w) then
    ins.filter fun x => outs.any fun y => decide (dRlo x.2 ≤ dRhi y.2) && decide (dRlo y.2 ≤ dRhi x.2)
  else []
/-- The chunk descriptors by which an extension's ring is no whole number of chunks: each holds as many rows as the first, a multiple of
the tile length, a whole number of chunks above the lowest row (R228). -/
def badChunks (l : List (Nat × Desc)) : List (Nat × Desc) :=
  let lo := l.foldl (fun n x => min n (dRlo x.2)) 4096
  let rows := fun (d : Desc) => dRhi d + 1 - dRlo d
  let u := (l.head?.map fun x => rows x.2).getD 1
  l.filter fun x => rows x.2 != u || rows x.2 % dTile x.2 != 0 || (dRlo x.2 - lo) % u != 0
/-- DESCA, DESCL or FRA is misaligned (R144, R164). -/
def Image.badAreas (m : Image) : List Bad :=
  if m.desca % 2048 != 0 || m.descl % 2048 != 0 || m.fra % 4096 != 0 then [badWide 0] else []
/-- The areas, BUF sections and extension rings that fail; `s` holds the image's tasks. A scratchpad window lies in its MU's 4,096 rows by
the width of SPLO and SPHI, so a resident image fits. -/
def State.badBuffers (s : State) (m : Image) : List Bad :=
  let win := fun (u e : Nat) => FMap.get ([] : List W64) (s.eng u e).banks 0
  m.badAreas ++
  (((m.of 2).map (·.unit)).eraseDups.flatMap fun u => (List.range 4).flatMap fun w => (List.range 4).flatMap fun d =>
    if w == d then [] else (badChunks (s.ringOf u w d)).map fun x => badAt u w (x.1 / 64)) ++
  ((m.of 4).filter fun x =>
    !((List.range 4).any fun e => (s.eng x.unit e).st != .empty && decide (winLo (win x.unit e) ≤ x.first) && decide (x.last ≤ winHi (win x.unit e))) ||
      (m.of 4).any fun y => decide (y.idx < x.idx) && y.unit == x.unit && decide (y.first ≤ x.last) && decide (x.first ≤ y.last)).map fun x =>
    badAt x.unit 0 x.idx

/-! ### 0x0A Schedule fit (R267) -/

/-- An operand's rectangle lies in order and inside region `r` (R266). -/
def State.rectOk (s : State) (r : Nat) (op : W64) : Bool :=
  let w := s.part0 r
  decide (op.bits 5 0 ≤ op.bits 17 12) && decide (op.bits 11 6 ≤ op.bits 23 18) && decide (4 * w.bits 3 0 ≤ op.bits 5 0) &&
    decide (op.bits 17 12 ≤ 4 * w.bits 11 8 + 3) && decide (4 * w.bits 7 4 ≤ op.bits 11 6) && decide (op.bits 23 18 ≤ 4 * w.bits 15 12 + 3)
/-- Some MU of region `r` binds list `l` to engine `e`. -/
def State.listBound (s : State) (r e l : Nat) : Bool := (s.regionMus r).any fun m => decide (l < (s.eng m e).lists.length)
/-- Link `l` is present in this module: the FX-2524 has no ±Z links (R4, R24). -/
def State.linkExists (s : State) (l : Nat) : Bool := decide (l < 36) && !(s.power.variant == 2 && decide (4 ≤ l % 6))
/-- Reserved bits and values of an entry, checked whether or not it is valid (R11, R267). -/
def schedForm (e : SchedEnt) : Bool :=
  let op := e.w1
  decide (e.action ≤ 8) && decide (e.cond ≠ 3) && decide (e.base ≤ 3) && e.w0.bits 62 48 == 0 &&
    (match e.action with
     | 0 => op == 0
     | 1 => op.bits 63 26 == 0
     | 2 => op.bits 63 30 == 0
     | 3 => op.bits 63 32 == 0
     | 4 => op == 0
     | 5 => op.bits 63 48 == 0
     | 6 => op.bits 63 36 == 0 && decide (op.bits 1 0 < 3)
     | 7 => op.bits 63 4 == 0 && decide (op.bits 2 0 < 5)
     | _ => op.bits 7 6 == 0 && op.bits 63 24 == 0)
/-- A valid entry fails one of the other checks; a SLOT's link is asked for where the region owns link slots (R267; log entry 95). -/
def State.entryBad (s : State) (fn r : Nat) (e : SchedEnt) : Bool :=
  let op := e.w1
  decide (s.cfg.steps ≤ e.step) || (e.base == 0 && decide (s.cfg.cycle ≤ e.figoff)) || (e.cond != 0 && (e.base == 0 || e.base == 3)) ||
    (match e.action with
     | 1 => !(s.rectOk r op)
     | 2 => !(s.rectOk r op) || !(s.listBound r (op.bits 25 24) (op.bits 29 26))
     | 3 => !(s.rectOk r op)
     | 5 => op.bits 1 0 == 3
     | 6 => (op.bits 1 0 == 1 && (!(s.inRegion r (op.bits 13 2)) || (s.eng (op.bits 13 2) (op.bits 15 14)).st == .empty)) ||
         (op.bits 1 0 == 2 && (FMap.get (pfReset (aFeedSlot (op.bits 35 20) 0)) s.cfg.feed0 (op.bits 35 20)).bits 11 0 != fn)
     | 8 => !(s.linkExists (op.bits 5 0)) || (partStrict (s.part0 r) && (FMap.get (0 : W64) s.cfg.tdiv1 r) == 0)
     | _ => false)
/-- A valid entry names a unit of a gated die (R218). -/
def State.entryDown (s : State) (r : Nat) (e : SchedEnt) : Bool :=
  let down := fun (u : Nat) => s.die (unitDie u) != .powered
  match e.action with
  | 1 | 2 | 3 => (s.rectUnits r e.w1).any down
  | 6 => e.w1.bits 1 0 == 1 && down (e.w1.bits 13 2)
  | _ => false
/-- The entries of a list that fail, by their place in it, with the status each gives (R218, R267). -/
def State.badSched (s : State) (fn r : Nat) (l : List (W64 × W64)) : List (Nat × Nat) :=
  l.zipIdx.filterMap fun e =>
    let x : SchedEnt := ⟨e.2, e.1.1, e.1.2⟩
    if !schedForm x || (x.v && s.entryBad fn r x) then some (e.2, 8)
    else if x.v && s.entryDown r x then some (e.2, 6)
    else none
/-- The schedule check of an image; `s` holds its tasks. A valid entry beyond the region's range has no place (R267). -/
def State.badFit (s : State) (fn r : Nat) (m : Image) : List Bad :=
  let n := (s.allotOf r).2
  ((m.sched.zipIdx.filter fun e => e.1.1.bit 63 && decide (n ≤ e.2)).map fun e => badWide e.2) ++
    (s.badSched fn r m.sched).map fun e => { badWide e.1 with status := e.2 }

/-! ### 0x0B DRAM share (R193, R234, R382, R532) -/

/-- The DEMAND of an image for half-stack `q`, if it names it. -/
def Image.demandOf (m : Image) (q : Nat) : Option Nat := (((m.of 6).flatMap Sec.demand).find? fun e => e.1 == q).map (·.2)
/-- The demands and windows that fail: a half-stack moves 76.8 bytes per dt (R26). -/
def State.badShare (s : State) (r : Nat) (m : Image) : List Bad :=
  let strict := partStrict (s.part0 r)
  let share := (FMap.get (0 : W64) s.cfg.tdiv0 r).bits 5 0
  let recs := (m.of 6).flatMap fun x => x.demand.map fun e => (x.idx, e)
  let trc := FMap.get (pfReset (aObsTrc r 0)) s.cfg.trc0 r
  let trace := fun (q : Nat) => if trc.bit 57 && stackOf (trc.bits 51 0) == q then 32 * (FMap.get (pfReset (aObsTrc r 1)) s.cfg.trc1 r).bits 20 8 else 0
  ((recs.zipIdx.filter fun e =>
    let n := e.1.2.2
    !(s.stackPresent e.1.2.1) || decide (s.figDt * 768 < 10 * n) || (strict && decide (share * s.figDt < n + trace e.1.2.1)) ||
      (recs.take e.2).any fun f => f.2.1 == e.1.2.1).map fun e => badWide e.1.1) ++
  ((m.of 2).filter fun x => [0, 1].any fun n =>
    let a := winBase x.wset n
    let l := winLen x.wset n
    decide (0 < l) && s.isDram a l && ((List.range (stackOf (a + l - 1) + 1)).drop (stackOf a)).any fun q =>
      (m.demandOf q).isNone || (strict && !((s.part1 r).bit (16 + q)))).map fun x => badAt x.unit x.ce x.idx

/-! ### 0x0C Resume (R147, R189, R232, R233) -/

/-- The objects of a resume-form image that fail: a section that is no CTX or TASK section has no resume form. -/
def State.badResume (s : State) (m : Image) : List Bad :=
  m.secs.filterMap fun x =>
    let named := (x.wd 0).toNat / 2 ^ 14 = 0
    let ok : Bool := match x.kind with
      | 1 => decide named && x.w.length == 5 && ((x.w.drop 1).all (· == 0)) && ((s.cu x.unit).ctxAt x.ce).st == .faulted
      | 2 => decide named && x.w.length == 1 && (s.eng x.unit x.ce).st == .faulted
      | _ => false
    if ok then none else some (badAt x.unit x.ce x.idx)

end Sys2Proof.Machine
end

