-- ==== Sys2Proof/Machine/Abstract.lean ====
section
/-! DEFINITION. The abstract run of one STEP (R223–R229, R571): tokens, row counts and scoreboard entries, without data or
time, over the region as the image leaves it; and the order of writes after reads (R178). -/

namespace Sys2Proof.Machine

/-! ### The program graph -/

/-- A context as the run sees it: its program, what its loops do, and where it stands. -/
structure ACtx where
  prog : List (Option Zelux)
  loops : List (Nat × Nat × Nat)
  entry : Nat
  pc : Nat
  l : FMap Nat
  got : Option (List Nat)
deriving DecidableEq, Repr

/-- A push whose rows still wait: its context, its register, the flags left and its edge (R128). -/
structure APush where
  ctx : Nat
  reg : Nat
  fins : List Bool
  path : Nat
deriving DecidableEq, Repr

/-- A CU: its contexts, those that are started, and the pushes at its O ports. -/
structure ACu where
  ctxs : FMap (Option ACtx)
  queue : List Nat
  cur : Option Nat
  push : FMap (Option APush)
deriving DecidableEq, Repr

/-- An engine: its lists, the one it runs, and where it stands in it. -/
structure AEng where
  w : List W64
  agps : List (List W64)
  lists : List (List (Nat × Desc))
  cur : Option Nat
  n : Nat
  active : Bool
  row : Nat
  rows : Nat
  passed : Nat
  rc : Nat
  starts : Nat
deriving DecidableEq, Repr

/-- An edge: the tokens on its path, the path's places, and the port or engine at its end (4 · unit + port). -/
structure APath where
  toks : List Bool
  cap : Nat
  dest : Option Nat
deriving DecidableEq, Repr

/-- A start or release that is due: kind 1 a context, 2 a list, at 4 · unit + context or engine. -/
structure AStart where
  kind : Nat
  key : Nat
  list : Nat
deriving DecidableEq, Repr

/-- A scratchpad range of an issued descriptor. -/
structure ASpan where
  m : Nat
  e : Nat
  start : Nat
  n : Nat
  lo : Nat
  hi : Nat
  write : Bool
  group : Nat
deriving DecidableEq, Repr

/-- The state of a run. CUs by unit, engines by 4 · unit + engine, edges by producer; `later` the starts and releases of later offsets,
`ends` the first object at which an END fell out of place. -/
structure Abs where
  cus : FMap (Option ACu)
  engs : FMap (Option AEng)
  paths : FMap (Option APath)
  dests : FMap (List Bool)
  sb : List ASpan
  live : List ASpan
  spans : List ASpan
  rel : FMap Nat
  open_ : FMap Nat
  declared : NatSet
  ngrp : Nat
  starts : List AStart
  later : List (List AStart × List Nat)
  frozen : Option (Nat × Nat × Nat × Nat)
  moves : Nat
  fail : Option Bad
  ends : Option Bad
  late : Bool
deriving DecidableEq, Repr

/-- The moves beyond which an image is refused (R236). -/
def moveCap : Nat := 2 ^ 26

/-- A CU of the run. -/
def Abs.cu (a : Abs) (u : Nat) : ACu := (FMap.get none a.cus u).getD ⟨[], [], none, []⟩
/-- Replace a CU. -/
def Abs.setCu (a : Abs) (u : Nat) (c : ACu) : Abs := { a with cus := FMap.set none a.cus u (some c) }
/-- A context of a CU. -/
def ACu.ctx (c : ACu) (k : Nat) : ACtx := (FMap.get none c.ctxs k).getD ⟨[], [], 0, 0, [], none⟩
/-- Replace a context. -/
def ACu.setCtx (c : ACu) (k : Nat) (x : ACtx) : ACu := { c with ctxs := FMap.set none c.ctxs k (some x) }
/-- An engine of the run. -/
def Abs.eng (a : Abs) (i : Nat) : AEng := (FMap.get none a.engs i).getD ⟨[], [], [], none, 0, false, 0, 0, 0, 0, 0⟩
/-- Replace an engine. -/
def Abs.setEng (a : Abs) (i : Nat) (g : AEng) : Abs := { a with engs := FMap.set none a.engs i (some g) }
/-- An edge. -/
def Abs.path (a : Abs) (k : Nat) : APath := (FMap.get none a.paths k).getD ⟨[], 0, none⟩
/-- Replace an edge. -/
def Abs.setPath (a : Abs) (k : Nat) (p : APath) : Abs := { a with paths := FMap.set none a.paths k (some p) }
/-- The tokens at a port or engine. -/
def Abs.dest (a : Abs) (k : Nat) : List Bool := FMap.get ([] : List Bool) a.dests k
/-- Replace them. -/
def Abs.setDest (a : Abs) (k : Nat) (l : List Bool) : Abs := { a with dests := FMap.set ([] : List Bool) a.dests k l }
/-- One token moves; the limit on the moves is a check of the whole region. -/
def Abs.move (a : Abs) : Abs :=
  { a with moves := a.moves + 1, fail := if a.fail.isNone && decide (moveCap < a.moves + 1) then some (badWide 0) else a.fail }
/-- The run fails at an object. -/
def Abs.stop (a : Abs) (o : Bad) : Abs := { a with fail := if a.fail.isNone then some o else a.fail }
/-- An END falls out of place at an object: the run goes on, and the first such object in the order of R235 is kept (R226). -/
def Abs.misplaced (a : Abs) (o : Bad) : Abs := { a with ends := firstBad (a.ends.toList ++ [o]) }

/-- Where a token sent from unit `u` on (link, chan) ends, and the pass-through registers it crosses (R100, R224). -/
def State.walk (s : State) (u link chan hops : Nat) : Nat → Nat × Option Nat
  | 0 => (hops, none)
  | fuel + 1 =>
    match neighbour u link with
    | none => (hops, none)
    | some v =>
      let b := (s.fabric v).entry (oppositeLink link) chan
      if routeKind b = 1 then (hops, some (4 * v + routeTarget b))
      else if routeKind b = 2 then State.walk s v (routeOlink b) (routeTarget b) (hops + 1) fuel
      else (hops, none)
/-- The edge of a producer (R224): 2 places at the producer, 2 in each pass-through register. -/
def State.edge (s : State) (u : Nat) (wire : Option (Nat × Nat)) : APath :=
  match wire with
  | none => ⟨[], 2, none⟩
  | some (link, chan) => let z := s.walk u link chan 0 4096; ⟨[], 2 + 2 * z.1, z.2⟩
/-- The key of an edge: its producer's (link, channel), or an O port without one. -/
def edgeKey (u port : Nat) (wire : Option (Nat × Nat)) : Nat :=
  match wire with
  | some (link, chan) => 32 * u + 4 * link + chan
  | none => 32 * u + 16 + port

/-- The run before its first move, over the contexts and tasks of region `r` (R223). -/
def State.absStart (s : State) (r : Nat) : Abs :=
  let ctx := fun (x : Ctx) =>
    let p := x.imem.map decodeZelux
    (⟨p, loopsOf p, x.entry, x.entry, [], none⟩ : ACtx)
  let cus := (s.regionCus r).foldl (fun (m : FMap (Option ACu)) u =>
    let c := s.cu u
    let cs := ((List.range 4).filter fun k => (c.ctxAt k).st != .empty).foldl (fun (m : FMap (Option ACtx)) k =>
      FMap.set none m k (some (ctx (c.ctxAt k)))) []
    if cs.isEmpty then m else FMap.set none m u (some ⟨cs, [], none, []⟩)) []
  let engs := (s.regionMus r).foldl (fun (m : FMap (Option AEng)) u => (List.range 4).foldl (fun m e =>
    let g := s.eng u e
    if g.st == .empty then m
    else
      let (a, l) := match (s.rgn r).img with | some i => (i.desca, i.descl) | none => (0, 0)
      FMap.set none m (4 * u + e) (some ⟨FMap.get ([] : List W64) g.banks 0, g.agps, g.lists.map fun x => s.listDescs a l x.1 (l / 64),
        none, 0, false, 0, 0, 0, 0, 0⟩)) m) []
  ⟨cus, engs, [], [], [], [], [], [], [], [], s.ngrp r, [], [], none, 0, none, none, false⟩

/-! ### Schedule entries (R571) -/

/-- An entry with the offset at which the run takes it. -/
structure AEnt where
  off : Nat
  e : SchedEnt
deriving DecidableEq, Repr
/-- The order in which entries are taken. -/
def AEnt.before (a b : AEnt) : Bool := decide (a.off < b.off) || (a.off == b.off && decide (a.e.idx < b.e.idx))
/-- Insert an entry in order. -/
def insEnt (x : AEnt) : List AEnt → List AEnt
  | [] => [x]
  | y :: l => if x.before y then x :: y :: l else y :: insEnt x l
/-- The entries that a run of the region takes, in order: those of one instance, the absolute ones, and those of a detector
behind its ARM. -/
def State.absEnts (s : State) (r : Nat) : List AEnt :=
  let l := s.rgnEnts r (s.bankOf r)
  let base := match (s.rgn r).img with | some i => if i.style = 1 then 1 else 2 | none => 1
  let own := fun (e : SchedEnt) => e.figoff * s.cfg.steps + e.step
  let main := (l.filter fun e => e.base == 0 || e.base == base).foldl (fun q e => insEnt ⟨own e, e⟩ q) []
  (l.filter fun e => e.base == 3).foldl (fun q e =>
    match main.find? fun a => a.e.action == 6 && a.e.det == e.det with
    | some a => insEnt ⟨a.off + own e, e⟩ q
    | none => q) main
/-- The entries that fire in a run: with FB clear, or set from entry `fb` on. -/
def firing (l : List AEnt) (fb : Option AEnt) : List AEnt :=
  l.filter fun a =>
    let set := match fb with | some f => f.before a | none => false
    if set then a.e.cond != 2 else a.e.cond != 1

/-- The starts that an entry makes in the run's nodes, in unit order. -/
def Abs.startsOf (a : Abs) (e : SchedEnt) : List AStart :=
  let op := e.w1
  let inside := fun (u : Nat) => decide (op.bits 5 0 ≤ unitX u) && decide (unitX u ≤ op.bits 17 12) && decide (op.bits 11 6 ≤ unitY u) &&
    decide (unitY u ≤ op.bits 23 18)
  if e.action = 1 then
    ((a.cus.map (·.1)).filter fun u => inside u && ((a.cu u).ctxs.any fun c => c.1 == op.bits 25 24)).map fun u => ⟨1, 4 * u + op.bits 25 24, 0⟩
  else if e.action = 2 then
    ((a.engs.map (·.1)).filter fun i => inside (i / 4) && i % 4 == op.bits 25 24 && decide (op.bits 29 26 < (a.eng i).lists.length)).map
      fun i => ⟨2, i, op.bits 29 26⟩
  else []
/-- The releases that an entry makes, by engine and id. -/
def Abs.releasesOf (a : Abs) (e : SchedEnt) : List Nat :=
  let op := e.w1
  if e.action = 3 then
    ((a.engs.map (·.1)).filter fun i => decide (op.bits 5 0 ≤ unitX (i / 4)) && decide (unitX (i / 4) ≤ op.bits 17 12) &&
      decide (op.bits 11 6 ≤ unitY (i / 4)) && decide (unitY (i / 4) ≤ op.bits 23 18)).map fun i => 256 * i + op.bits 31 24
  else []
/-- Starts and releases come in. -/
def Abs.come (a : Abs) (x : List AStart × List Nat) : Abs :=
  { a with starts := a.starts ++ x.1, rel := x.2.foldl (fun m k => bump m k 1) a.rel }
/-- Take the entries of a run: all at once, or, `apart`, those of each offset once nothing moves under the earlier ones. -/
def Abs.take (a : Abs) (l : List AEnt) (apart : Bool) : Abs :=
  let of := fun (l : List AEnt) => (l.flatMap fun x => a.startsOf x.e, l.flatMap fun x => a.releasesOf x.e)
  let descs := (of l).1.flatMap fun x => if x.kind = 2 then (((a.eng x.key).lists.getD x.list []).map fun d => dGroup d.2) else []
  let a := { a with open_ := descs.foldl (fun m g => bump m g 1) a.open_ }
  if apart then { a with later := ((l.map (·.off)).eraseDups).map fun o => of (l.filter fun x => x.off == o) } else a.come (of l)

/-- A start's target still runs its previous program or list. -/
def Abs.busy (a : Abs) (x : AStart) : Bool :=
  if x.kind = 1 then let c := a.cu (x.key / 4); c.cur == some (x.key % 4) || c.queue.contains (x.key % 4) else (a.eng x.key).cur.isSome
/-- Apply the starts whose targets are free; the others stay held, and hold nothing behind them (R571). -/
def Abs.applyStarts (a : Abs) : Abs × Bool :=
  a.starts.foldl (fun (z : Abs × Bool) x =>
    if z.1.busy x then ({ z.1 with starts := z.1.starts ++ [x] }, z.2)
    else if x.kind = 1 then
      let c := z.1.cu (x.key / 4)
      (z.1.setCu (x.key / 4) { c with queue := c.queue ++ [x.key % 4] }, true)
    else
      let g := z.1.eng x.key
      (z.1.setEng x.key { g with cur := some x.list, n := 0, active := false, starts := g.starts + 1 }, true)) ({ a with starts := [] }, false)

/-! ### Contexts (R128, R131, R225) -/

/-- Where close(e) goes (R131): innermost first, skipping a loop when one is named. -/
def ACtx.close (x : ACtx) (e next : Nat) (skip : Option Nat) : ACtx :=
  let rec go : List (Nat × Nat × Nat) → ACtx → ACtx
    | [], y => { y with pc := next }
    | l :: ls, y =>
      if skip = some l.1 then go ls y
      else if 1 < count y.l l.2.1 then { y with l := FMap.set 0 y.l l.2.1 (count y.l l.2.1 - 1), pc := l.1 + 1 }
      else go ls { y with l := FMap.set 0 y.l l.2.1 0 }
  go (x.loops.filter fun l => l.2.2 == e).reverse x
/-- The context's instruction has issued. -/
def ACtx.next (x : ACtx) : ACtx := x.close x.pc (x.pc + 1) none
/-- The V and T registers an instruction writes (R115). -/
def writesOf : Zelux → List Nat
  | .mma f => [16 + f.c.toNat]
  | .vec _ f => [f.dst.toNat]
  | .red _ f => [f.dst.toNat]
  | .move .pop f => (List.range (popcount4 f.pmask)).map (f.reg.toNat + ·)
  | .move .rowget f => [f.pmask.toNat]
  | .move .rowput f => [f.reg.toNat]
  | .move .lput f => [f.reg.toNat]
  | .move .rld f => [f.reg.toNat]
  | _ => []
/-- An instruction waits for pushes of its context that have rows still to send: it writes a register that one of them reads, or it is
wait.drain (R115, R128, R138). -/
def awaits (pushed : List Nat) (z : Zelux) : Bool :=
  (writesOf z).any pushed.contains || (z == .waitDrain && !pushed.isEmpty)
/-- A loop body moves no token, gives up no CU and waits for no push: it is passed over. -/
def ACtx.inert (x : ACtx) (pushed : List Nat) (l endpc : Nat) : Bool :=
  !(((x.prog.drop (l + 1)).take (endpc - l)).any fun z => z.any fun z =>
    portAction z || awaits pushed z || (match z with | .endp => true | .yld _ _ => true | _ => false))
/-- Take tokens of one port: up to `m` in all, END on the last alone. Answers what is left, how many are taken, and whether END
fell elsewhere. -/
def takeToks (m : Nat) (bad : Bool) : Nat → List Bool → List Bool × Nat × Bool
  | g, [] => ([], g, bad)
  | g, t :: ts => if m ≤ g then (t :: ts, g, bad) else takeToks m (bad || t != (g + 1 == m)) (g + 1) ts

/-- One action of context `k` of CU `u`. Answers whether it could act. -/
def Abs.ctxStep (s : State) (a : Abs) (u k : Nat) : Abs × Bool :=
  let c := a.cu u
  let x := c.ctx k
  let o := badAt u k x.pc
  let leave := fun (x : ACtx) (q : List Nat) => a.setCu u { (c.setCtx k x) with cur := none, queue := q }
  match (x.prog[x.pc]?).join with
  | none => (leave { x with pc := x.entry } c.queue, true)
  | some z =>
    let pushed := c.push.filterMap fun e => (e.2.filter fun p => p.ctx == k).map (·.reg)
    if x.got.isNone && awaits pushed z then (a, false)
    else match z with
      | .endp => (leave { x with pc := x.entry } c.queue, true)
      | .yld sv succ =>
        let t := succ.toNat
        let q := if sv && t != k && (c.ctxs.any fun e => e.1 == t) && !(c.queue.contains t) then t :: c.queue else c.queue
        (leave x.next q, true)
      | .loop f =>
        let n := if x.inert pushed x.pc f.endpc.toNat then 0 else if f.csrc = 1 then 1 else f.count.toNat
        let y := { x with l := FMap.set 0 x.l f.l.toNat n }
        let y := if n = 0 then y.close f.endpc.toNat (f.endpc.toNat + 1) (some x.pc) else { y with pc := x.pc + 1 }
        (a.setCu u (c.setCtx k y), true)
      | z =>
        let ports := portsOf z
        match ports.2 with
        | p :: _ =>
          let f := match z with | .move _ f => f | _ => ⟨0, 0, 0, 0, 0, 0, 0, 0, 0⟩
          let wire := (FMap.get PortBind.free (s.cu u).obind p).wire
          let key := edgeKey u p wire
          let path := if (FMap.get none a.paths key).isSome then a.path key else s.edge u wire
          if (FMap.get none c.push p).isSome || path.cap ≤ path.toks.length then (a, false)
          else
            let m := f.mm1.toNat + 1
            let fins := (List.range m).map fun i => i + 1 == m
            let c := { (c.setCtx k x.next) with push := FMap.set none c.push p (some ⟨k, f.reg.toNat, fins, key⟩) }
            ((a.setPath key path).setCu u c, true)
        | [] =>
          if ports.1.isEmpty then (a.setCu u (c.setCtx k x.next), true)
          else
            let m := match z with | .mma f => f.m | .move _ f => f.mm1.toNat + 1 | _ => 1
            let got := x.got.getD (ports.1.map fun _ => 0)
            let r := (ports.1.zip got).foldl (fun (r : Abs × List Nat × Bool) e =>
              let q := r.1.dest (4 * u + e.1)
              let t := takeToks m false e.2 q
              let n := q.length - t.1.length
              let b := (List.range n).foldl (fun (b : Abs) _ => b.move) (r.1.setDest (4 * u + e.1) t.1)
              (if t.2.2 then b.misplaced o else b, r.2.1 ++ [t.2.1], r.2.2 || decide (0 < n))) (a, [], false)
            let full := r.2.1.all (m ≤ ·)
            let y := if full then { x with got := none }.next else { x with got := some r.2.1 }
            (r.1.setCu u ((r.1.cu u).setCtx k y), full || r.2.2)

/-- Run CU `u` until its context can do no more. -/
def Abs.cuRun (s : State) (u : Nat) (a : Abs) (any : Bool) : Nat → Abs × Bool
  | 0 => (a, any)
  | fuel + 1 =>
    if a.fail.isSome then (a, any)
    else
      let c := a.cu u
      match c.cur with
      | none =>
        match c.queue with
        | [] => (a, any)
        | k :: q => Abs.cuRun s u (a.setCu u { c with queue := q, cur := some k }) true fuel
      | some k =>
        let z := a.ctxStep s u k
        if z.2 then Abs.cuRun s u z.1 true fuel else (z.1, any)

/-! ### Engines (R176, R178, R179) -/

/-- The descriptor in hand. -/
def AEng.desc (g : AEng) : Option (Nat × Desc) := (g.cur.bind fun l => g.lists[l]?).bind fun l => l[g.n]?
/-- A mark lets the engine pass (R179). -/
def Abs.passes (a : Abs) (i : Nat) (w : W64) : Bool :=
  match w.bits 25 24 with
  | 1 => decide (0 < count a.rel (256 * i + w.bits 39 32))
  | 2 => decide (((a.eng (i / 4 * 4 + w.bits 27 26)).rc + 2 ^ 32 - w.bits 63 32) % 2 ^ 32 < 2 ^ 31)
  | 3 => NatSet.mem a.declared (w.bits 39 32)
  | _ => true
/-- The span of the descriptor in hand. -/
def AEng.span (g : AEng) (i : Nat) (d : Desc) : ASpan :=
  ⟨i / 4, i % 4, g.starts, g.n, winLo g.w + dRlo d, winLo g.w + dRhi d, dWritesSp d, dGroup d⟩
/-- Two spans of one MU share a row. -/
def ASpan.meets (x y : ASpan) : Bool := x.m == y.m && decide (x.lo ≤ y.hi) && decide (y.lo ≤ x.hi)

/-- Issue the descriptor in hand, where the scoreboard allows (R176). -/
def Abs.issueDesc (a : Abs) (i : Nat) (g : AEng) (d : Desc) : Abs × Bool :=
  let x := g.span i d
  let mine := a.sb.filter fun y => y.m == x.m
  if dRv d && (mine.any x.meets || (x.write && decide (16 ≤ mine.length))) then (a, false)
  else
    let a := if !dRv d then a
      else { a with sb := if x.write then a.sb ++ [x] else a.sb, live := a.live ++ [x], spans := a.spans ++ [x] }
    (a.setEng i { g with active := true, row := 0, passed := 0, rows := agpRows (g.agps.getD (dAgp d) []) d }, true)
/-- The descriptor in hand is complete. -/
def Abs.doneDesc (a : Abs) (i : Nat) (g : AEng) (d : Desc) : Abs :=
  let x := g.span i d
  let a := { a with sb := a.sb.filter (· != x), live := a.live.filter (· != x),
                    open_ := FMap.set 0 a.open_ (dGroup d) (count a.open_ (dGroup d) - 1) }
  a.setEng i { g with active := false, n := g.n + 1, cur := if dLast d then none else g.cur }
/-- The rows up to the next mark, for a kind that moves no token. -/
def rowRun (d : Desc) (row rows : Nat) : Nat :=
  [0, 1].foldl (fun n i => let w := dHold d i; if w.bits 25 24 != 0 && decide (row < w.bits 23 0) then min n (w.bits 23 0 - row) else n) (rows - row)

/-- One action of an engine: issue, pass a mark, or a row. -/
def Abs.engStep (s : State) (a : Abs) (i : Nat) : Abs × Bool :=
  let g := a.eng i
  match g.desc with
  | none => if g.cur.isSome then (a.setEng i { g with cur := none }, true) else (a, false)
  | some (off, d) =>
    let o := badAt (i / 4) (i % 4) (off / 64)
    if !g.active then a.issueDesc i g d
    else if g.rows ≤ g.row then (a.doneDesc i g d, true)
    else
      let hold := a.frozen == some (i / 4, i % 4, g.starts, g.n) && g.row + 1 == g.rows
      let w := dHold d g.passed
      if hold then (a, false)
      else if g.passed < 2 then
        if w.bits 25 24 != 0 && w.bits 23 0 == g.row && decide (w.bits 23 0 < 2 ^ 24 - 1) && !a.passes i w then (a, false)
        else
          let used := w.bits 25 24 == 1 && w.bits 23 0 == g.row && decide (w.bits 23 0 < 2 ^ 24 - 1)
          let a := if used then { a with rel := FMap.set 0 a.rel (256 * i + w.bits 39 32) (count a.rel (256 * i + w.bits 39 32) - 1) } else a
          (a.setEng i { g with passed := g.passed + 1 }, true)
      else
        let x := g.span i d
        let meets := x.write && a.live.any fun y => !y.write && y.e != x.e && y.meets x &&
          a.frozen == some (y.m, y.e, y.start, y.n)
        let a := if meets then { a with late := true }.stop o else a
        let fin := (g.row + 1) % dTile d == 0
        let next := fun (n : Nat) => { g with row := g.row + n, rc := (g.rc + n) % 2 ^ 32, passed := 0 }
        if dSends d then
          let wire := some (dLink d, dChan d)
          let key := edgeKey (i / 4) 0 wire
          let path := if (FMap.get none a.paths key).isSome then a.path key else s.edge (i / 4) wire
          if path.cap ≤ path.toks.length then (a, false)
          else (((a.setPath key { path with toks := path.toks ++ [fin] }).move).setEng i (next 1), true)
        else if dTakes d then
          match a.dest i with
          | [] => (a, false)
          | t :: ts =>
            let a := ((a.setDest i ts).move).setEng i (next 1)
            (if t != fin then a.misplaced o else a, true)
        else
          let n := rowRun d g.row g.rows
          let n := if a.frozen == some (i / 4, i % 4, g.starts, g.n) && g.row + n == g.rows then n - 1 else n
          (a.setEng i (next n), true)

/-- Run an engine until it can do no more. -/
def Abs.engRun (s : State) (i : Nat) (a : Abs) (any : Bool) : Nat → Abs × Bool
  | 0 => (a, any)
  | fuel + 1 =>
    if a.fail.isSome then (a, any)
    else
      let z := a.engStep s i
      if z.2 then Abs.engRun s i z.1 true fuel else (z.1, any)

/-! ### Edges, drains and the run -/

/-- Rows of waiting pushes enter as places free (R128). -/
def Abs.pushIn (a : Abs) (u p : Nat) : Abs × Bool :=
  let c := a.cu u
  match FMap.get none c.push p with
  | none => (a, false)
  | some x =>
    let path := a.path x.path
    let n := min x.fins.length (path.cap - path.toks.length)
    let rest := x.fins.drop n
    let a := (List.range n).foldl (fun (a : Abs) _ => a.move) (a.setPath x.path { path with toks := path.toks ++ x.fins.take n })
    (a.setCu u { (a.cu u) with push := FMap.set none c.push p (if rest.isEmpty then none else some { x with fins := rest }) }, decide (0 < n) || rest.isEmpty)
/-- Tokens go on from a path to the buffer at its end, of 8 places (R224). -/
def Abs.deliver (a : Abs) (k : Nat) : Abs × Bool :=
  let path := a.path k
  match path.dest with
  | none => (a, false)
  | some t =>
    let q := a.dest t
    let n := min path.toks.length (8 - q.length)
    let a := (a.setPath k { path with toks := path.toks.drop n }).setDest t (q ++ path.toks.take n)
    ((List.range n).foldl (fun (a : Abs) _ => a.move) a, decide (0 < n))
/-- Every edge is empty. -/
def Abs.drained (a : Abs) : Bool :=
  a.paths.all (fun e => e.2.all (·.toks.isEmpty)) && a.dests.all (·.2.isEmpty) && a.cus.all fun e => e.2.all fun c => c.push.isEmpty
/-- The abstract drain of the pending group (R225, R244, R245). -/
def Abs.drain (a : Abs) : Abs × Bool :=
  let g := a.declared.length
  if decide (g < a.ngrp) && count a.open_ g == 0 && a.drained then ({ a with declared := NatSet.ins a.declared g }, true) else (a, false)
/-- Fold an action over keys, keeping whether anything moved. -/
def overKeys (l : List Nat) (f : Nat → Abs → Abs × Bool) (z : Abs × Bool) : Abs × Bool :=
  l.foldl (fun z k => let y := f k z.1; (y.1, z.2 || y.2)) z
/-- The bound on the actions of one node in one round. -/
def nodeFuel : Nat := 2 ^ 40
/-- The starts and releases of the next offset come in. -/
def Abs.nextOffset (a : Abs) : Abs × Bool :=
  match a.later with
  | [] => (a, false)
  | x :: l => ({ a with later := l }.come x, true)
/-- One round: every node as far as it goes, then the edges, the drain and the next offset. -/
def Abs.round (s : State) (a : Abs) : Abs × Bool :=
  let z := a.applyStarts
  let z := overKeys (a.cus.map (·.1)) (fun u a => Abs.cuRun s u a false nodeFuel) z
  let z := overKeys (a.engs.map (·.1)) (fun i a => Abs.engRun s i a false nodeFuel) z
  let z := overKeys (a.cus.map (·.1)) (fun u a => overKeys (List.range 4) (fun p a => a.pushIn u p) (a, false)) z
  let z := overKeys (z.1.paths.map (·.1)) (fun k a => a.deliver k) z
  if z.2 then z
  else
    let z := z.1.drain
    if z.2 then z else z.1.nextOffset
/-- Rounds until nothing moves or the run fails. -/
def Abs.rounds (s : State) (a : Abs) : Nat → Abs
  | 0 => a
  | fuel + 1 =>
    if a.fail.isSome then a
    else
      let z := a.round s
      if z.2 then Abs.rounds s z.1 fuel else z.1

/-- The objects that fail: ENDs out of place, and the unfinished nodes, else the edges that still hold a token (R225, R226). -/
def Abs.failures (a : Abs) : List Bad :=
  let cus := a.cus.filterMap fun e => e.2.bind fun c =>
    match c.cur with
    | some k => some (badAt e.1 k (c.ctx k).pc)
    | none => c.queue.head?.map fun k => badAt e.1 k (c.ctx k).pc
  let engs := a.engs.filterMap fun e => e.2.bind fun g =>
    if g.cur.isSome then some (badAt (e.1 / 4) (e.1 % 4) ((g.desc.map (·.1)).getD 0 / 64)) else none
  let held := a.starts.map fun x => badAt (x.key / 4) (x.key % 4) 0
  let edges := (a.paths.filter fun e => e.2.any fun p => !p.toks.isEmpty).map (fun e => badAt (e.1 / 32) 0 0) ++
    (a.dests.filter fun e => !e.2.isEmpty).map fun e => badAt (e.1 / 4) (e.1 % 4) 0
  let nodes := cus ++ engs ++ held
  a.fail.toList ++ a.ends.toList ++ (if a.fail.isSome then [] else if nodes.isEmpty then edges else nodes)

/-- One run with its entries. -/
def State.absRun (s : State) (a : Abs) (l : List AEnt) (frozen : Option (Nat × Nat × Nat × Nat)) (apart : Bool) : Abs :=
  Abs.rounds s { (a.take l apart) with frozen := frozen } nodeFuel
/-- The reads of a run whose range a write of another engine of the MU overlaps. -/
def Abs.unordered (a : Abs) : List ASpan :=
  a.spans.filter fun x => !x.write && a.spans.any fun y => y.write && y.e != x.e && y.meets x
/-- The objects that fail in one run, and its token moves: it blocks or leaves tokens (R225, R226), or a write may come while a read of its
rows is pending: the run in which that read's last row never comes still reaches the write, where every start comes at once or where
each offset's come after the earlier ones' work (R178; log entry 97). -/
def State.absVerdict (s : State) (a : Abs) (l : List AEnt) : List Bad × Nat :=
  let z := s.absRun a l none false
  let bad := z.failures
  if !bad.isEmpty then (bad, z.moves)
  else
    (z.unordered.flatMap fun x => [false, true].flatMap fun apart =>
      let y := s.absRun { a with moves := 0 } l (some (x.m, x.e, x.start, x.n)) apart
      if y.late then y.fail.toList else [], z.moves)

/-- The objects that fail the token counts check (VCODE 0x09) of region `r` as the image leaves it: the run with FB clear, then one more
from each DEADLINE whose FBK has bit 1 set (R571). -/
def State.badTokens (s : State) (r : Nat) : List Bad :=
  let a := s.absStart r
  let ents := s.absEnts r
  let fbs : List (Option AEnt) := none :: (ents.filter fun x => x.e.action == 5 && x.e.w1.bit 3).map some
  (fbs.foldl (fun (z : List Bad × Nat) fb =>
    if moveCap < z.2 then z
    else let v := s.absVerdict { a with moves := z.2 } (firing ents fb); (z.1 ++ v.1, v.2)) ([], 0)).1

end Sys2Proof.Machine
end

