-- ==== Sys2Proof/Machine/Load.lean ====
section
/-! DEFINITION. LOAD in its three forms, and UNLOAD (R147, R235–R237, R297, R302, R349, R389). -/

namespace Sys2Proof.Machine

/-! ### The verdict (R235, R236) -/

/-- The checks in ascending VCODE order: the first that fails, and its first offending object. A resume-form image's header areas are
checked too (log entry 98). -/
def State.verifyImage (s : State) (c : Cmd) (m : Image) (marked : Bool) : Option (Nat × Bad) :=
  let r := c.region
  let guest := (c.word 0).bit 18
  let resume := (c.word 0).bit 17 && !guest
  let test := fun (v : Nat) (l : Unit → List Bad) (next : Unit → Option (Nat × Bad)) =>
    match firstBad (l ()) with | some b => some (v, b) | none => next ()
  test 1 (fun _ => m.badForm marked resume guest) fun _ =>
  test 2 (fun _ => s.badTarget c.fn r m guest) fun _ =>
  test 3 (fun _ => s.badCounts r m resume guest) fun _ =>
  if guest then test 7 (fun _ => s.badBounds c.handle c.fn r m true) fun _ => none
  else if resume then
    test 7 (fun _ => s.badBounds c.handle c.fn r m false) fun _ =>
    test 8 (fun _ => m.badAreas) fun _ =>
    test 9 (fun _ => (s.writeResume r m).badTokens r) fun _ => test 12 (fun _ => s.badResume m) fun _ => none
  else
    test 4 (fun _ => m.badInstrs) fun _ =>
    test 5 (fun _ => s.badStreams m) fun _ =>
    let t := s.writeImage r m
    test 6 (fun _ => s.badPorts r m ++ t.badRoutes r m) fun _ =>
    test 7 (fun _ => s.badBounds c.handle c.fn r m false) fun _ =>
    test 8 (fun _ => t.badBuffers m) fun _ =>
    test 9 (fun _ => t.badTokens r) fun _ =>
    test 10 (fun _ => t.badFit c.fn r m) fun _ =>
    test 11 (fun _ => s.badShare r m) fun _ => none

/-- The status and DETAIL of a refusal (R235, R354). -/
def refusal (v : Nat × Bad) : Nat × Nat := (v.2.status, v.1 + 256 * v.2.code)

/-! ### Reading the image (R237, R349) -/

/-- Where a command's read of memory stands: 1 it waits for the host's completion, 2 it is read. -/
def readStage : Nat := 0
/-- The pins of a LOAD's shadow sheets are awaited. -/
def pinStage : Nat := 1
/-- Word `i` that a command has read is kept at `wordSlot + i`. -/
def wordSlot : Nat := 16
/-- Keep the words that a command has read. -/
def State.keepWords (s : State) (h : W64) (ws : List W64) : State :=
  s.updCmd h fun c => { c with aux := c.aux ++ (ws.zipIdx.map fun e => (wordSlot + e.2, e.1.toNat)).filter fun e => e.2 != 0 }
/-- `n` words that a command has read. -/
def Cmd.kept (c : Cmd) (n : Nat) : List W64 := (List.range n).map fun i => BitVec.ofNat 64 (c.at (wordSlot + i))

/-- Bytes of the image. -/
def Cmd.imageLen (c : Cmd) : Nat := (c.word 2).bits 31 0
/-- The image is read, and the verdict given on the state that stands (R237). -/
def State.loadRead (s : State) (c : Cmd) (ep : Bool) : State :=
  let n := c.imageLen / 8
  let a := (c.word 1).toNat
  let ws := s.fnWords c.fn a n
  let marked := ep || s.fnMarks c.fn a n
  let s := if isHostWin a 1 then s.paRead c.fn c.imageLen else s.hubRead c.region a c.imageLen
  let z := match s.verifyImage c (imageOf ws c.imageLen) marked with | some v => refusal v | none => (0, 0)
  let s := (s.keepWords c.handle ws).keep c.handle readStage 2
  s.updCmd c.handle fun c => { c with status := z.1, detail := BitVec.ofNat 64 z.2 }

/-- LOADs of one function are verified in submission sequence (R237, R351). -/
def State.loadTurn (s : State) (c : Cmd) : Bool :=
  !((s.host.cmds.takeWhile fun x => x.handle != c.handle).any fun x => x.fn == c.fn && x.opcode == 1 && x.phase != .due)
/-- A region that is wedged accepts a LOAD from the second figure boundary on (R241). -/
def State.loadReady (s : State) (r : Nat) : Bool :=
  let g := s.rgn r
  g.wedged = 0 || (g.wedged = 2 && decide (2 ≤ g.idle))

/-- Begin the verification of a LOAD of form `flags`: bit 0 RESUME, bit 1 GUEST. -/
def State.loadBegin (s : State) (h : W64) (form : Cmd → Bool) : State :=
  match (s.openCmd h 1).filter form with
  | none => s
  | some c =>
    if s.loadTurn c && s.loadReady c.region then
      let s := s.begin h
      if isHostWin (c.word 1).toNat 1 then s.keep h readStage 1 else s.loadRead c false
    else s

/-- LOAD (R235–R237). -/
def execLoad (h : W64) (s : State) : Out := .next (s.loadBegin h fun c => !(c.word 0).bit 17 && !(c.word 0).bit 18)
/-- LOAD_RESUME (R147, R189). -/
def execLoadResume (h : W64) (s : State) : Out := .next (s.loadBegin h fun c => (c.word 0).bit 17 && !(c.word 0).bit 18)
/-- LOAD_GUEST (R389). -/
def execLoadGuest (h : W64) (s : State) : Out := .next (s.loadBegin h fun c => (c.word 0).bit 18)

/-! ### Windows and shadows (R297, R302) -/

/-- The flash sheets that the affine rows of a descriptor reach (R297). -/
def descSheets (agps : List (List W64)) (w : List W64) (d : Desc) : List Nat :=
  let base := winBase w (dDw d)
  if dDevSide d && isFlash base 1 then
    let p := agps.getD (dAgp d) []
    let span := fun (a : Option Int) (n : Nat) => match a with
      | some a => if n = 0 then [] else let b := base + a.toNat; (List.range (sheetOf (b + n - 1) + 1 - sheetOf b)).map (sheetOf b + ·)
      | none => []
    (List.range (agpRows p d)).flatMap fun r =>
      let x := rowShape p d r
      if x.lanes = 0 || x.a.isNone || (dBlock d && x.b.isNone) then [] else span x.a (dElemBytes d x.lanes) ++ span x.b (dScaleBytes d)
  else []
/-- Form the windows of region `r`'s image, over every bank of its engines; sheets beyond the 256th run are counted in WSHORT (R297). -/
def State.formWindows (s : State) (r : Nat) : State :=
  match (s.rgn r).img with
  | none => s
  | some i =>
    let all := (s.regionMus r).foldl (fun (w : FMap (List Nat)) m => (List.range 4).foldl (fun w e =>
      let g := s.eng m e
      (s.engDescs m e).foldl (fun w d =>
        let k := if i.style = 0 then 0 else dGroup d.2
        g.banks.foldl (fun w b => FMap.upd ([] : List Nat) w k fun l => (descSheets g.agps b.2 d.2).foldl NatSet.ins l) w) w) w) []
    let s := s.addRegSat (aPlcRstat r) 47 32 (all.map fun e => (cutRuns e.2 none 0).2).sum
    s.updRgn r fun g => { g with img := some { i with windows := all.filter fun e => e.2 != [] } }
/-- The sheets of the shadows of the ranges that a loaded window of region `r` reads (R302). -/
def State.shadowSheets (s : State) (r : Nat) : List Nat :=
  let wins := (s.regionMus r).flatMap fun m => (s.mu m).eng.flatMap fun g => g.2.banks.flatMap fun b =>
    [0, 1].map fun n => (winBase b.2 n, winLen b.2 n)
  (s.mem.ranges.filter fun x => x.shadow != 0 && wins.any fun w => overlaps x.base x.len w.1 w.2).foldl (fun l x =>
    ((List.range (x.len / 65536)).map (sheetOf x.shadow + ·)).foldl NatSet.ins l) []
/-- Pin them; one without granules is counted in UNPIN, and stays unpinned. -/
def State.pinShadows (s : State) (r : Nat) : State :=
  (s.shadowSheets r).foldl (fun (s : State) h =>
    let dom := s.domainOf r
    let z := s.pinSheet r (pinShadow r) 2 h
    match z.2 with
    | .short => (z.1.updCopy dom h fun c => { c with pins := NatSet.del c.pins (pinShadow r) }).addRegSat (aPlcRstat r) 15 0 1
    | _ => if (z.1.plcRgn r 0).bit 29 && (z.1.copyOf dom h).t2 then z.1.fillT1 dom h else z.1) s
/-- A shadow sheet of region `r` is still on its way. -/
def State.shadowsWait (s : State) (r : Nat) : Bool :=
  s.mem.copies.any fun e => e.2.pins.contains (pinShadow r) && e.2.fetch.isSome
/-- After a LOAD the placement register of region `r` is zero, its windows are formed, and the shadows and, in a run, the windows at hand
are pinned (R288, R297, R298, R302). -/
def State.repin (s : State) (r : Nat) : State :=
  let s := ((s.setReg (aPlcRstat r) 0).formWindows r).pinShadows r
  if (s.rgn r).run.any (·.begun) then s.pinAhead r else s.showWres r

/-! ### The end of verification (R149, R235, R237) -/

/-- An accepted image is written. -/
def State.loadWrite (s : State) (c : Cmd) (m : Image) : State :=
  let r := c.region
  if (c.word 0).bit 18 then (s.writeGuest ((s.bankIndex r c.fn).getD 0) m).repin r
  else if (c.word 0).bit 17 then (s.writeResume r m).repin r
  else ((s.writeImage r m).unpinAll r).repin r

/-- LOAD_VERIFY_DONE: the verdict is given; an accepted image is written, unless its target has turned ACTIVE or been gated
meanwhile (R149, R237, R248). One with a SCHED section waits for the copy of a swap (R274). -/
def execLoadVerifyDone (h : W64) (s : State) : Out :=
  match (s.cmd h).filter fun c => c.opcode == 1 && c.phase == .running && c.at readStage == 2 && c.at pinStage == 0 with
  | none => .next (s.discardReport h)
  | some c =>
    let m := imageOf (c.kept (c.imageLen / 8)) c.imageLen
    if c.status ≠ 0 then .next (s.due h c.status c.detail.toNat)
    else if (s.rgn c.region).copying && !(m.of 5).isEmpty then .next s
    else
      match firstBad (s.badTarget c.fn c.region m ((c.word 0).bit 18)) with
      | some b => let z := refusal (2, b); .next (s.due h z.1 z.2)
      | none =>
        let s := s.loadWrite c m
        .next (if s.shadowsWait c.region then s.keep h pinStage 1 else s.due h 0 0)

/-- SHADOW_PIN_DONE: every shadow sheet of the LOAD's region is pinned, and its completion is due (R302). -/
def execShadowPinDone (h : W64) (s : State) : Out :=
  match (s.cmd h).filter fun c => c.opcode == 1 && c.phase == .running && c.at pinStage == 1 with
  | none => .next (s.discardReport h)
  | some c => .next (if s.shadowsWait c.region then s else s.due h 0 0)

/-! ### The reset of a region (R241, R349) -/

/-- The remote rows of a unit's contexts take new generations, so that answers still in flight are stale (R181, R220). -/
def State.newGens (s : State) (u : Nat) : State :=
  { s with net := { s.net with gens := (List.range 4).foldl (fun g k => FMap.set 0 g (4 * u + k) ((count g (4 * u + k) + 1) % 16)) s.net.gens } }
/-- Requests of region `r` that were answered with a NACK are not sent again (R220; log entry 99). -/
def State.forgetNacked (s : State) (r : Nat) : State :=
  let keep := fun (l : List Flit) => l.filter fun f => f.rtag != r
  let s := s.slices.foldl (fun (s : State) e => if e.2.nacked.isEmpty then s else s.updSlice e.1 fun c => { c with nacked := keep c.nacked }) s
  s.mus.foldl (fun (s : State) e => if e.2.nacked.isEmpty then s else s.updMu e.1 fun x => { x with nacked := keep x.nacked }) s

/-- Every context and engine of region `r` becomes EMPTY, tags are freed with new generations, and ports, registers, buffers
and schedule entries are emptied, with the timers and detector instances that they armed; a swap that was accepted still commits
(R241, R274, R275). -/
def State.emptyRegion (s : State) (r : Nat) : State :=
  let s := (s.regionCus r).foldl (fun (s : State) u => s.updCu u fun c =>
    { Cu.empty with noops := c.noops, cancelled := c.cancelled, shiftStall := c.shiftStall }) s
  let s := (s.regionCus r).foldl (fun (s : State) u => s.newGens u) s
  let s := (s.regionMus r).foldl (fun (s : State) m => s.updMu m fun x =>
    let x := (List.range 4).foldl (fun (x : Mu) e => x.emptyEng e) x
    { x with sb := [], cmpOwner := none }) s
  let s := (s.fab.filter fun e => s.inRegion r e.1).foldl (fun (s : State) e => s.updFab e.1 fun f => { f with pass := [] }) s
  let s := { s with wires := s.wires.filter fun e => !(s.inRegion r (e.1 / 16)) }
  let s := (s.clearBank r 0).clearBank r 1
  let s := (s.regionMus r).foldl (fun (s : State) m => s.unpark m) s
  let s := s.forgetNacked r
  s.updRgn r fun g => { g with
    insts := (g.insts.filter fun i => decide (i.kind < 2)).map fun i => { i with timers := [] }, dets := [], slots := [], fence := 0 }

/-- End a RUN or STEP that is taken up or waits on region `r`, with a status (R353). -/
def State.stopRuns (s : State) (r status : Nat) : State :=
  let cmds := s.host.cmds.map fun c =>
    if (s.rgn r).run.map (·.handle) == some c.handle && c.phase != .due then { c with phase := .due, status := status, detail := 0 } else c
  { s with host := { s.host with cmds := cmds } }

/-- Region `r` is unloaded: emptied, its pins released, its image gone (R312, R349). -/
def State.unloadRegion (s : State) (r : Nat) : State :=
  (((s.emptyRegion r).unpinAll r).setReg (aPlcRstat r) 0).updRgn r fun g => { g with img := none, held := none }
/-- UNLOAD (R81, R312, R349, R353): the region's reset at once; its RUN or STEP in flight is CANCELLED. -/
def execUnload (h : W64) (s : State) : Out :=
  match s.openCmd h 2 with
  | none => .next s
  | some c =>
    .next (((s.stopRuns c.region 2).unloadRegion c.region).due h 0 0)

end Sys2Proof.Machine
end

