-- ==== Sys2Proof/Machine/Optim.lean ====
section
/-! DEFINITION. The optimiser units: update descriptors, the per-pass scalars, the fused update of a chunk, and the life of a
pass (R313–R326, R335). -/

namespace Sys2Proof.Machine

/-! ### Binary64 and the F32 division and square root (R319) -/

/-- IEEE 754 binary64. -/
def fmtF64 : Fmt := ⟨11, 52, 1023, .ieee⟩
/-- Round an exact value to binary64. -/
def r64 : Fp → Fp
  | .fin n m e => fmtF64.decode (fmtF64.encode .rne false n m e).1
  | x => x
/-- A number in binary64. -/
def nat64 (n : Nat) : Fp := r64 (.fin false n 0)
/-- Addition. -/
def add64 (a b : Fp) : Fp :=
  match a, b with
  | .fin x m e, .fin y n f => let s := addExact (signedM x m, e) (signedM y n, f); r64 (.fin (decide (s.1 < 0)) s.1.natAbs s.2)
  | _, _ => .nan
/-- Subtraction. -/
def sub64 (a b : Fp) : Fp := add64 a (negFp b)
/-- Multiplication. -/
def mul64 (a b : Fp) : Fp := match mulFp a b with | none => .nan | some v => r64 v
/-- A quotient with a sticky low bit. -/
def divExact (m n : Nat) (e : Int) : Nat × Int :=
  let k := 120 + bitLen n
  (2 * (m * 2 ^ k / n) + (if m * 2 ^ k % n = 0 then 0 else 1), e - (k + 1 : Nat))
/-- A square root with a sticky low bit. -/
def sqrtExact (m : Nat) (e : Int) : Nat × Int :=
  let p := if e % 2 = 0 then (m, e) else (2 * m, e - 1)
  let q := Nat.sqrt (p.1 * 2 ^ 240)
  (2 * q + (if q * q = p.1 * 2 ^ 240 then 0 else 1), p.2 / 2 - 121)
/-- Division. -/
def div64 (a b : Fp) : Fp :=
  match a, b with
  | .fin x m e, .fin y n f => if n = 0 then .nan else let q := divExact m n (e - f); r64 (.fin (x != y) q.1 q.2)
  | _, _ => .nan
/-- Square root of a value that is not negative. -/
def sqrt64 (a : Fp) : Fp :=
  match a with
  | .fin false m e => let q := sqrtExact m e; r64 (.fin false q.1 q.2)
  | _ => .nan
/-- A significand cut to 256 bits, and whether anything was cut. -/
def cut256 (m : Nat) (e : Int) : Nat × Int × Bool :=
  let k := bitLen m - 256
  (m / 2 ^ k, e + k, m % 2 ^ k != 0)
/-- A power by repeated squaring at 256 bits (log entry 12). -/
def powBits : Nat → Nat × Int × Bool → Nat → Nat × Int × Bool
  | 0, _, _ => (1, 0, false)
  | fuel + 1, b, t =>
    if t = 0 then (1, 0, false)
    else
      let sq := cut256 (b.1 * b.1) (b.2.1 + b.2.1)
      let r := powBits fuel (sq.1, sq.2.1, sq.2.2 || b.2.2) (t / 2)
      if t % 2 = 1 then let p := cut256 (r.1 * b.1) (r.2.1 + b.2.1); (p.1, p.2.1, p.2.2 || r.2.2 || b.2.2) else r
/-- A power, rounded once. -/
def pow64 (a : Fp) (t : Nat) : Fp :=
  match a with
  | .fin false m e => let p := powBits 64 (m, e, false) t; r64 (.fin false (2 * p.1 + if p.2.2 then 1 else 0) (p.2.1 - 1))
  | _ => .nan
/-- The binary64 value nearest to π. -/
def pi64 : Fp := .fin false 884279719003555 (-48)
/-- The series of the cosine of √x2, as fixed point with 300 fraction bits: `n` terms from term `k`. -/
def cosSeries (x2 : Nat) : Nat → Nat → Nat → Int
  | 0, _, _ => 0
  | n + 1, k, term =>
    (if k % 2 = 0 then (term : Int) else -(term : Int)) + cosSeries x2 n (k + 1) (term * x2 / 2 ^ 300 / ((2 * k + 1) * (2 * k + 2)))
/-- The cosine of a value in [0, π], rounded once (log entry 12). -/
def cos64 (a : Fp) : Fp :=
  match a with
  | .fin _ m e =>
    if m = 0 then nat64 1
    else
      let x := if -300 ≤ e then m * 2 ^ (e + 300).toNat else m / 2 ^ (-300 - e).toNat
      let v := cosSeries (x * x / 2 ^ 300) 64 0 (2 ^ 300)
      r64 (.fin (decide (v < 0)) (2 * v.natAbs + 1) (-301))
  | _ => .nan
/-- Round to F32. -/
def to32 (a : Fp) : W32 := (f32Of .rne a).1

/-- F32 division, correctly rounded (R319). -/
def f32Div (a b : W32) : W32 :=
  match f32 a, f32 b with
  | .nan, _ => canonNan
  | _, .nan => canonNan
  | .inf _, .inf _ => canonNan
  | .inf x, .fin y _ _ => f32Inf (x != y)
  | .fin x _ _, .inf y => f32Zero (x != y)
  | .fin x m e, .fin y n f =>
    if n = 0 then (if m = 0 then canonNan else f32Inf (x != y))
    else if m = 0 then f32Zero (x != y)
    else let q := divExact m n (e - f); (f32Encode .rne (x != y) q.1 q.2).1
/-- F32 square root, correctly rounded (R319). -/
def f32Sqrt (a : W32) : W32 :=
  match f32 a with
  | .nan => canonNan
  | .inf n => if n then canonNan else a
  | .fin n m e => if m = 0 then a else if n then canonNan else let q := sqrtExact m e; (f32Encode .rne false q.1 q.2).1

/-! ### The update descriptor (R316) -/

/-- A descriptor's sixteen words. -/
abbrev Upd := List W64
/-- Word `i`. -/
def uWord (d : Upd) (i : Nat) : W64 := d.getD i 0
/-- The half of a word, as an F32 word. -/
def uF32 (d : Upd) (i : Nat) (high : Bool) : W32 := BitVec.ofNat 32 (if high then (uWord d i).bits 63 32 else (uWord d i).bits 31 0)
def uWfmt (d : Upd) : Nat := (uWord d 0).bits 1 0
def uBs (d : Upd) : Nat := 8 * 2 ^ (uWord d 0).bits 3 2
def uCol (d : Upd) : Bool := (uWord d 0).bit 4
def uWsr (d : Upd) : Bool := (uWord d 0).bit 5
def uNg (d : Upd) : Nat := (uWord d 0).bits 7 6 + 1
def uSched (d : Upd) : Nat := (uWord d 0).bits 9 8
def uNormar (d : Upd) : Bool := (uWord d 0).bit 10
def uStart (d : Upd) : Nat := (uWord d 0).bits 18 11
def uSeed (d : Upd) : Nat := (uWord d 0).bits 63 32
/-- Base of array 0 MASTER, 1 MOM1, 2 MOM2, 3 WORK, 4 GRAD. -/
def uBase (d : Upd) (i : Nat) : Nat := (uWord d (1 + i)).bits 51 0
def uN (d : Upd) : Nat := (uWord d 6).bits 31 0
def uRowlen (d : Upd) : Nat := (uWord d 6).bits 63 32
def uNormw (d : Upd) : Nat := (uWord d 7).bits 51 0
/-- WORK is in a block format. -/
def uBlock (d : Upd) : Bool := decide (2 ≤ uWfmt d)
/-- GRAD buffer `b` (R313). -/
def uGrad (d : Upd) (b : Nat) : Nat := uBase d 4 + b * ((4 * uN d + 63) / 64 * 64)
/-- The scale array of WORK (R314). -/
def uScales (d : Upd) : Nat := uBase d 3 + (uN d + 63) / 64 * 64
/-- Blocks of a row (row axis) or a band (column axis). -/
def uPerRow (d : Upd) : Nat := if uCol d then uRowlen d else (uRowlen d + uBs d - 1) / uBs d
/-- Blocks of WORK. -/
def uBlocks (d : Upd) : Nat := if uCol d then uN d / uBs d else uN d / max (uRowlen d) 1 * uPerRow d
/-- Bytes of WORK. -/
def uWorkLen (d : Upd) : Nat :=
  if uWfmt d = 0 then 2 * uN d else if uWfmt d = 1 then 4 * uN d else uScales d + uBlocks d - uBase d 3
/-- The five arrays: base and length (R313). -/
def uArrays (d : Upd) : List (Nat × Nat) :=
  [(uBase d 0, 4 * uN d), (uBase d 1, 4 * uN d), (uBase d 2, 4 * uN d), (uBase d 3, uWorkLen d), (uBase d 4, uGrad d (uNg d - 1) + 4 * uN d - uBase d 4)]

/-! ### Device words as F32 and as bytes -/

/-- The F32 word at a device address, and its mark. -/
def State.dev32 (s : State) (a : Nat) : W32 × Bool :=
  (BitVec.ofNat 32 (if a % 8 = 0 then (s.devWord (a / 8 * 8)).bits 31 0 else (s.devWord (a / 8 * 8)).bits 63 32), s.devMark (a / 8 * 8))
/-- Bytes of line `l` written over its row, and the mask of the words they touch; a word written only in part keeps its mark, and `mark`
sets it. -/
def overRow (old : Row) (l : Nat) (bs : List (Nat × Byte)) (mark : Bool) : Row × BitVec 16 :=
  let ws := (List.range 16).map fun w =>
    let here := bs.filter fun e => e.1 / 8 == l / 8 + w
    let v := here.foldl (fun (v : W64) e => mergeBits v (BitVec.ofNat 64 (e.2.toNat * 256 ^ (e.1 % 8))) (maskBits (8 * (e.1 % 8) + 7) (8 * (e.1 % 8))))
      (Row.word old w)
    (v, mark && !here.isEmpty || (old.poison.getLsbD w && decide (here.length < 8)), !here.isEmpty)
  let bits := fun (p : W64 × Bool × Bool → Bool) => BitVec.ofNat 16 (ws.foldr (fun x n => (if p x then 1 else 0) + 2 * n) 0)
  (⟨BitVec.ofNat 1024 (ws.foldr (fun x n => x.1.toNat + 2 ^ 64 * n) 0), bits (·.2.1)⟩, bits (·.2.2))
/-- Write bytes at device addresses for region `who`, a line at a time, without allocating (R206). -/
def State.putDevBytes (s : State) (who : Nat) (l : List (Nat × Byte)) (mark : Bool) : State :=
  ((l.map fun e => e.1 / 128).eraseDups).foldl (fun s n =>
    let z := overRow (s.lineRow (128 * n)) (128 * n) (l.filter fun e => e.1 / 128 == n) mark
    s.putThrough who (128 * n) z.1 z.2) s
/-- The `n` low bytes of a number, at an address. -/
def bytesAt (a v : Nat) (n : Nat) : List (Nat × Byte) := (List.range n).map fun i => (a + i, BitVec.ofNat 8 (v / 256 ^ i))
/-- A descriptor as it stands in DRAM. -/
def State.updDesc (s : State) (a : Nat) : Upd := (List.range 16).map fun i => s.devWord (a + 8 * i)
/-- Write word 13: DONE and STEPCNT (R324). -/
def State.putWord13 (s : State) (who a done stepcnt : Nat) : State :=
  s.putDevBytes who ((List.range 8).map fun i => (a + 104 + i, BitVec.ofNat 8 ((stepcnt % 2 ^ 32 + done % 2 ^ 32 * 2 ^ 32) / 256 ^ i))) false

/-! ### Scalars of a pass (R320) -/

/-- The learning rate in binary64. -/
def ouRate (d : Upd) (t : Nat) : Fp :=
  let lr0 := f32 (uF32 d 8 false)
  let lrmin := f32 (uF32 d 8 true)
  let warm := (uWord d 12).bits 31 0
  let decay := (uWord d 12).bits 63 32
  if uSched d = 0 then lr0
  else if t ≤ warm then div64 (mul64 lr0 (nat64 t)) (nat64 warm)
  else
    let p := if decay = 0 || decay ≤ t - warm then nat64 1 else div64 (nat64 (t - warm)) (nat64 decay)
    let span := sub64 lr0 lrmin
    if uSched d = 1 then add64 lrmin (mul64 (mul64 (.fin false 1 (-1)) span) (add64 (nat64 1) (cos64 (mul64 pi64 p))))
    else add64 lrmin (mul64 span (sub64 (nat64 1) p))
/-- 1 / (1 − β^t). -/
def ouCorr (beta : W32) (t : Nat) : Fp := div64 (nat64 1) (sub64 (nat64 1) (pow64 (f32 beta) t))
/-- The clip factor. -/
def ouClip (cn g2 : W32) : Fp :=
  let zero := fun (w : W32) => w == 0 || w == 0x80000000
  if zero cn || zero g2 then nat64 1
  else let q := div64 (f32 cn) (sqrt64 (f32 g2)); if fpLe q (nat64 1) then q else nat64 1
/-- The scalars of a pass, each rounded once to F32. -/
def Pass.scalars (p : Pass) (d : Upd) (g2 : W32) (t : Nat) : Pass :=
  let lr := ouRate d t
  let seed : W32 := BitVec.ofNat 32 (uSeed d) ^^^ BitVec.ofNat 32 t
  { p with t := t, next := 0, gen := if seed = 0 then 1 else seed, lr := to32 lr, c1 := to32 (ouCorr (uF32 d 10 false) t),
           c2 := to32 (ouCorr (uF32 d 10 true) t), keepf := to32 (sub64 (nat64 1) (mul64 lr (f32 (uF32 d 9 false)))),
           gs := to32 (ouClip (uF32 d 11 false) g2) }

/-! ### One parameter (R321, R322) -/

/-- What one parameter comes to: skipped, for poison or as not finite, or updated. -/
inductive ParamRes where
  | skip (poison : Bool)
  | upd (w m v : W32)
deriving DecidableEq, Repr

/-- The update of one parameter from its summed gradient, master and moments (R321). -/
def ouParam (d : Upd) (p : Pass) (g w m v : W32) : W32 × W32 × W32 :=
  let mul := fun (a b : W32) => (f32Mul .rne a b).1
  let fma := fun (a b c : W32) => (f32Fma .rne a b c).1
  let one : W32 := 0x3f800000
  let beta1 := uF32 d 10 false
  let beta2 := uF32 d 10 true
  let om1 := (f32Sub .rne one beta1).1
  let om2 := (f32Sub .rne one beta2).1
  let ec := uF32 d 11 true
  let g := mul g p.gs
  let g := if ec = 0 || ec = 0x80000000 then g else (f32Min (f32Max g (ec ^^^ 0x80000000)).1 ec).1
  let m := fma beta1 m (mul om1 g)
  let v := fma beta2 v (mul (mul om2 g) g)
  let q := (f32Add .rne (f32Sqrt (mul v p.c2)) (uF32 d 9 true)).1
  let u := f32Div (mul m p.c1) q
  (fma (p.lr ^^^ 0x80000000) u (mul w p.keepf), m, v)

/-- Parameter `i` as it is read. -/
def State.ouRead (s : State) (d : Upd) (p : Pass) (i : Nat) : ParamRes :=
  let gs := (List.range (uNg d)).map fun b => s.dev32 (uGrad d b + 4 * i)
  let w := s.dev32 (uBase d 0 + 4 * i)
  let m := s.dev32 (uBase d 1 + 4 * i)
  let v := s.dev32 (uBase d 2 + 4 * i)
  let g := (gs.tail).foldl (fun (a : W32) x => (f32Add .rne a x.1).1) (gs.headD (0, false)).1
  if gs.any (·.2) || w.2 || m.2 || v.2 then .skip true
  else if !f32Finite g then .skip false
  else let r := ouParam d p g w.1 m.1 v.1; .upd r.1 r.2.1 r.2.2

/-! ### The working copy (R323) -/

/-- The working copy of an updated parameter in a plain format, and the generator after it. -/
def ouPlain (d : Upd) (gen w : W32) : Nat × W32 :=
  let gen' := if uWsr d then genNext gen else gen
  let mode : Rnd := if uWsr d then .stoch (gen'.toNat % 65536) else .rne
  (if uWfmt d = 0 then (f32ToF16 mode w).1 else (f32ToF19 mode w).1.toNat, gen')
/-- The parameters of the block that ends at parameter `i`, and the block's index, if one ends there (R293). -/
def uBlockEnd (d : Upd) (i : Nat) : Option (Nat × List Nat) :=
  let c := i % max (uRowlen d) 1
  let r := i / max (uRowlen d) 1
  if uCol d then
    if r % uBs d = uBs d - 1 then some (r / uBs d * uRowlen d + c, (List.range (uBs d)).map fun k => (r / uBs d * uBs d + k) * uRowlen d + c) else none
  else if c % uBs d = uBs d - 1 || c + 1 = uRowlen d then
    some (r * uPerRow d + c / uBs d, (List.range (c % uBs d + 1)).map fun k => i - c % uBs d + k)
  else none
/-- Quantise one finished block into WORK (R72, R322, R323). -/
def State.ouBlock (s : State) (who : Nat) (d : Upd) (gen : W32) (b : Nat) (els : List Nat) : State × W32 :=
  let ws := els.map fun i => s.dev32 (uBase d 0 + 4 * i)
  let z := quantBlock (uWfmt d - 1) (if uWsr d then 2 else 0) gen (ws.map (·.1))
  let l := (els.zip z.2.1).flatMap fun e => bytesAt (uBase d 3 + e.1) e.2 1
  (s.putDevBytes who (l ++ bytesAt (uScales d + b) z.1 1) (ws.any (·.2)), z.2.2.2)

/-! ### Counting (R322, R335, R525) -/

/-- Enter a poisoned parameter in the log of OU `q`, where a place is free (R335). -/
def State.ouLog (s : State) (q a : Nat) : State :=
  match (List.range 8).find? fun k => !(s.reg (aOuSkiplog q k)).bit 52 with
  | some k => s.setReg (aOuSkiplog q k) (BitVec.ofNat 64 (a + 2 ^ 52))
  | none => s
/-- BUSY and PEND of OU `q` (R335). -/
def State.ouShow (s : State) (q : Nat) : State :=
  let n := (s.passes.filter fun p => p.q == q && decide (2 ≤ p.ph)).length
  let busy := s.passes.any fun p => p.q == q && p.ph == 3
  s.setReg (aOuStat q) (BitVec.ofNat 64 ((if busy then 1 else 0) + 2 * min n 16))
/-- Change the STEP that a pass belongs to, while it is the one taken up. -/
def State.updStep (s : State) (r : Nat) (h : W64) (f : RunState → RunState) : State :=
  s.updRgn r fun g => { g with run := g.run.map fun x => if x.handle = h then f x else x }
/-- Pass `p` of OU `q`. -/
def State.pass (s : State) (q p : Nat) : Option Pass := s.passes.find? fun x => x.q == q && x.id == p
/-- Change a pass. -/
def State.updPass (s : State) (q p : Nat) (f : Pass → Pass) : State :=
  { s with passes := s.passes.map fun x => if x.q == q && x.id == p then f x else x }
/-- Remove a pass; the update phase ends no earlier (R333). -/
def State.dropPass (s : State) (p : Pass) : State :=
  let s := ({ s with passes := s.passes.filter fun x => !(x.q == p.q && x.id == p.id) }).ouShow p.q
  s.updStep p.region p.handle fun x => { x with upd := x.upd.map fun u => (u.1, s.time.now) }
/-- A pass is skipped under R320: nothing changes, STEPCNT stays and DONE is 0. -/
def State.skipPass (s : State) (p : Pass) (status : Nat) : State :=
  let s := s.putWord13 p.region p.addr 0 ((s.updDesc p.addr).getD 13 0).toNat
  let s := s.addRegSat (aOuPassskip p.q) 31 0 1
  let s := s.updStep p.region p.handle fun x => { x with passSkip := x.passSkip + 1, status := if x.status = 0 then status else x.status }
  s.dropPass p

/-! ### The rows -/

/-- The parameters that one turn of a pass serves (R318). -/
def ouTurn : Nat := 256

/-- A place of OU `q` is free for region `r`: a strict region whose DIES names the die has one alone, and the others share the rest of
the 16 (R318, R381). -/
def State.ouPlace (s : State) (q r : Nat) : Bool :=
  let own := s.strictOn q
  let busy := s.passes.filter fun y => y.q == q && y.ph == 3
  if own.contains r then !(busy.any fun y => y.region == r)
  else decide ((busy.filter fun y => !(own.contains y.region)).length < 16 - own.length)
/-- The place of a pass in the order in which passes began, ties going by list order and, between regions, by number (R318; log
entry 89). -/
def Pass.ord (x : Pass) : Nat := x.at_ * 2 ^ 20 + x.id
/-- The first of some passes in that order. -/
def firstPass (l : List Pass) : Option Pass :=
  l.foldl (fun b x => match b with | none => some x | some y => if x.ord < y.ord then some x else some y) none
/-- A waiting pass is the next of its class to take a place: passes take places in the order in which they began (R318, R381). -/
def State.placeTurn (s : State) (x : Pass) : Bool :=
  let own := s.strictOn x.q
  let rivals := s.passes.filter fun y => y.q == x.q && y.ph == 2 &&
    (if own.contains x.region then y.region == x.region else !(own.contains y.region))
  (firstPass rivals).map Pass.ord == some x.ord
/-- The running pass that OU `q` serves next: round-robin in the order in which they began (R318). -/
def State.ouTurnOf (s : State) (q : Nat) : Option Pass :=
  let l := s.passes.filter fun y => y.q == q && y.ph == 3 && decide (y.next < uN (s.updDesc y.addr))
  match firstPass (l.filter fun y => decide (count s.ouLast q ≤ y.ord)) with
  | some x => some x
  | none => firstPass l
/-- PASS_START: a pass that is due takes one of the OU's 16 places in its turn, reads its norm and forms its scalars, or is skipped
(R318, R320). -/
def execPassStart (q p : Nat) (s : State) : Out :=
  match (s.pass q p).filter fun x => x.ph == 2 && s.ouPlace q x.region && s.placeTurn x with
  | none => .next s
  | some x =>
    let d := s.updDesc x.addr
    let s := s.ouFetch x.region x.addr 128
    let off := uF32 d 11 false == 0 || uF32 d 11 false == 0x80000000
    let g2 : W32 × Bool := if off then (0, false) else s.dev32 (uNormw d)
    let bad := !f32Finite g2.1 || (g2.1.getLsbD 31 && g2.1 != 0x80000000)
    let s := if off then s else s.ouFetch x.region (uNormw d) 4
    let s := s.updStep x.region x.handle fun y => { y with upd := some ((y.upd.getD (s.time.now, 0)).1, s.time.now) }
    if g2.2 || bad then .next (s.skipPass x (if g2.2 then 3 else 0))
    else .next ((s.updPass q p fun y => { (y.scalars d g2.1 ((uWord d 13).bits 31 0 + 1)) with ph := 3 }).ouShow q)

/-- Count one parameter's result and note it (R322, R335, R525). -/
def State.ouCount (s : State) (x : Pass) (d : Upd) (i : Nat) (r : ParamRes) : State :=
  match r with
  | .skip poison =>
    let s := if poison then ((s.addRegSat (aOuSkipp x.q) 31 0 1).ouLog x.q (uBase d 0 + 4 * i)) else s.addRegSat (aOuSkipp x.q) 63 32 1
    let s := s.addCtr x.region 19 (if poison then 0 else 1) 1
    s.updStep x.region x.handle fun y => { y with skipped := y.skipped + 1 }
  | .upd _ _ _ => (s.addReg (aOuParams x.q) 1).addCtr x.region 18 0 1
/-- The updated parameters of a chunk. -/
def updated (l : List (Nat × ParamRes)) : List (Nat × W32 × W32 × W32) :=
  l.filterMap fun e => match e.2 with | .upd w m v => some (e.1, w, m, v) | .skip _ => none
/-- The bytes of a plain working copy of updated parameters, and the generator after them. -/
def ouPlains (d : Upd) (gen : W32) (l : List (Nat × W32)) : List (Nat × Byte) × W32 :=
  let n := if uWfmt d = 0 then 2 else 4
  l.foldl (fun z e => let y := ouPlain d z.2 e.2; (z.1 ++ bytesAt (uBase d 3 + n * e.1) y.1 n, y.2)) ([], gen)
/-- The working copy of a chunk whose masters are written: each updated parameter in a plain format, each block that ends in the chunk
in a block format (R322, R323). -/
def State.ouRefresh (s : State) (x : Pass) (d : Upd) (l : List (Nat × ParamRes)) : State × W32 :=
  if uBlock d then
    l.foldl (fun (z : State × W32) e => match uBlockEnd d e.1 with
      | some b => z.1.ouBlock x.region d z.2 b.1 b.2
      | none => z) (s, x.gen)
  else
    let z := ouPlains d x.gen ((updated l).map fun e => (e.1, e.2.1))
    (s.putDevBytes x.region z.1 false, z.2)

/-- OU_CHUNK: the next 256 parameters, in ascending order, of the pass whose turn it is (R318, R321–R323). -/
def execOuChunk (q p : Nat) (s : State) : Out :=
  match (s.ouTurnOf q).filter fun x => x.id == p with
  | none => .next s
  | some x =>
    let d := s.updDesc x.addr
    let n := min ouTurn (uN d - x.next)
    let is := (List.range n).map (x.next + ·)
    let reads := ((List.range (uNg d)).map (uGrad d)) ++ [uBase d 0, uBase d 1, uBase d 2]
    let rs := is.map fun i => (i, s.ouRead d x i)
    let s := reads.foldl (fun (s : State) b => s.ouFetch x.region (b + 4 * x.next) (4 * n)) s
    let s := rs.foldl (fun (s : State) e => s.ouCount x d e.1 e.2) s
    let up := updated rs
    let s := s.putDevBytes x.region ((up.flatMap fun e => bytesAt (uBase d 0 + 4 * e.1) e.2.1.toNat 4) ++
      (up.flatMap fun e => bytesAt (uBase d 1 + 4 * e.1) e.2.2.1.toNat 4) ++ (up.flatMap fun e => bytesAt (uBase d 2 + 4 * e.1) e.2.2.2.toNat 4)) false
    let z := s.ouRefresh x d rs
    let s := { z.1 with ouLast := FMap.set 0 z.1.ouLast q (x.ord + 1) }
    .next (s.updPass q p fun y => { y with next := y.next + n, gen := z.2 })

/-- PASS_END: every parameter is done, and word 13 is written (R324). -/
def execPassEnd (q p : Nat) (s : State) : Out :=
  match (s.pass q p).filter fun x => x.ph == 3 with
  | none => .next s
  | some x =>
    let n := uN (s.updDesc x.addr)
    if x.next < n then .next s else .next ((s.putWord13 x.region x.addr n x.t).dropPass x)

/-- A pass stops early: DONE holds what it completed, STEPCNT stays (R324). -/
def State.stopPass (s : State) (x : Pass) : State :=
  if 2 ≤ x.ph then (s.putWord13 x.region x.addr x.next ((uWord (s.updDesc x.addr) 13).bits 31 0)).dropPass x
  else { s with passes := s.passes.filter fun y => !(y.q == x.q && y.id == x.id) }

/-- 10 ms, in dt (R13, R326). -/
def unboundWait : Nat := 160000000
/-- PASS_UNBOUND_TIMEOUT: a pass that is still unbound 10 ms after the declaration is skipped (R326). -/
def execPassUnboundTimeout (q p : Nat) (s : State) : Out :=
  match (s.pass q p).filter fun x => x.ph == 1 && x.bound.isNone && decide (x.at_ + unboundWait ≤ s.time.now) with
  | none => .next s
  | some x => .next (s.skipPass x 0)

/-- The OU passes bound to a COLL go on when it completes OK, else they are skipped and the STEP takes its status (R326,
R449). -/
def State.normDone (s : State) (h : W64) (status : Nat) : State :=
  (s.passes.filter fun x => x.ph == 1 && x.bound == some h).foldl (fun s x =>
    if status = 0 then (s.updPass x.q x.id fun y => { y with ph := 2, at_ := s.time.now }).ouShow x.q else s.skipPass x status) s

/-- OU_SKIPCLR: the log is cleared (R335). -/
def State.ouSkipclr (s : State) (q : Nat) : State :=
  if s.die q == .powered then (List.range 8).foldl (fun (s : State) k => s.setReg (aOuSkiplog q k) 0) s else s
def execOuSkipclr (q : Nat) (s : State) : Out := s.pfWrite (aOuSkipclr q) (s.ouSkipclr q)

end Sys2Proof.Machine
end

