-- ==== Sys2Proof/Machine/Flash.lean ====
section
/-! DEFINITION. The flash tier: the quantisation of class Q, FLASH_WRITE and its commit, reads from NAND and the couch layer's upkeep
(R291–R311). -/

namespace Sys2Proof.Machine

/-! ### Class Q (R293–R296) -/

/-- The parameters that a command spells. -/
def Cmd.qpar (c : Cmd) : QPar :=
  let w := c.word 4
  ⟨w.bits 5 2, w.bits 9 6, 8 * 2 ^ w.bits 11 10, w.bit 12, w.bits 14 13, w.bit 15, w.bits 63 32, (c.word 5).bits 23 0⟩
/-- No band of the column axis crosses a sheet boundary of the presented element array. -/
def QPar.bandsFit (p : QPar) (e : Nat) : Bool :=
  let band := p.bs * p.rowlen
  !p.col || (List.range ((e + band - 1) / band)).all fun b =>
    b * band * fmtBits p.pf / 524288 == (min ((b + 1) * band) e * fmtBits p.pf - 1) / 524288
/-- PF and QFMT go together (R295, R309). -/
def QPar.pairOk (p : QPar) : Bool :=
  decide (3 ≤ p.qfmt) && decide (p.qfmt ≤ 7) &&
    (decide (p.pf ≤ 2) || p.pf == p.qfmt || (p.pf == 3 && [5, 6, 7].contains p.qfmt) || (p.pf == 4 && [5, 7].contains p.qfmt))

/-- Element `i` of the source's bytes, in F32. -/
def QPar.source (p : QPar) (src : List Byte) (i : Nat) : W32 :=
  if p.src16 then (f16ToF32 (leNat ((src.drop (2 * i)).take 2))).1 else BitVec.ofNat 32 (leNat ((src.drop (4 * i)).take 4))
/-- Every block quantised, in order: its elements with their codes, its scale, and the events (R72, R293). -/
def QPar.quantise (p : QPar) (src : List Byte) (e : Nat) : List (List (Nat × Nat) × Nat) × Ev :=
  let seed : W32 := if p.seed = 0 then 1 else BitVec.ofNat 32 p.seed
  let z := (p.blocks e).foldl (fun (z : List (List (Nat × Nat) × Nat) × Ev × W32) b =>
    let q := quantBlock (p.qfmt - 2) p.rnd z.2.2 (b.map (p.source src))
    ((b.zip q.2.1, q.1) :: z.1, z.2.1 ||| q.2.2.1, q.2.2.2)) ([], 0, seed)
  (z.1.reverse, z.2.1)
/-- Two values are the same number. -/
def fpSame (a b : Fp) : Bool :=
  match a, b with
  | .fin x m e, .fin y n f =>
    (m == 0 && n == 0) || (x == y && m * 2 ^ (e - min e f).toNat == n * 2 ^ (f - min e f).toNat)
  | .nan, .nan => true
  | .inf x, .inf y => x == y
  | _, _ => false
/-- The value of an element (R52). -/
def QPar.value (p : QPar) (scale code : Nat) : Fp :=
  if scale = 255 then .nan
  else match (blockFmt (p.qfmt - 2)).decode code with
    | .fin n m x => .fin n m (x + scale - 127)
    | v => v
/-- The element as PF presents it, and whether it is exact (R295, R296). -/
def QPar.expand (p : QPar) (scale code : Nat) : Nat × Bool :=
  let put := fun (f : Fmt) (nan v : Nat) (x : Fp) => match x with
    | .fin n m e => let r := (f.encode .rne false n m e).1; (r * 2 ^ v, fpSame (f.decode r) x)
    | .inf n => ((if n then 2 ^ (f.eb + f.mb) else 0) * 2 ^ v + (2 ^ f.eb - 1) * 2 ^ (f.mb + v), true)
    | .nan => (nan, true)
  if p.block then
    if p.pf = p.qfmt then (code, true) else put (blockFmt (p.pf - 2)) 0 0 ((blockFmt (p.qfmt - 2)).decode code)
  else if p.pf = 0 then put fmtF32 0x7fc00000 0 (p.value scale code)
  else if p.pf = 1 then put fmtF16 0x7e00 0 (p.value scale code)
  else put fmtF19 0x7fc00000 13 (p.value scale code)
/-- The presented bytes of the element array, packed (R55, R294), from pairs (element, code). -/
def packPresented (w e : Nat) (l : List (Nat × Nat)) : List Byte :=
  let a := l.foldl (fun (a : Array Nat) x => a.setIfInBounds x.1 x.2) (Array.replicate e 0)
  leBytes (a.toList.foldr (fun v n => v % 2 ^ w + 2 ^ w * n) 0) ((e * w + 7) / 8)
/-- The presented form: the element array, and for a block PF where the scale array begins and the scales; whether every
element is exact; the events. -/
def QPar.present (p : QPar) (src : List Byte) (e : Nat) : List Byte × Nat × List Byte × Bool × Ev :=
  let z := p.quantise src e
  let els := z.1.flatMap fun b => b.1.map fun x => (x.1, p.expand b.2 x.2)
  let w := fmtBits p.pf
  (packPresented w e (els.map fun x => (x.1, x.2.1)), 65536 * p.elSheets e,
    if p.block then z.1.map fun b => BitVec.ofNat 8 b.2 else [], els.all fun x => x.2.2, z.2)

/-! ### FLASH_WRITE (R309, R310) -/

/-- The range that a FLASH_WRITE writes. -/
def Cmd.flashRange (c : Cmd) : FRange :=
  let w := c.word 4
  let q := c.qpar
  ⟨(c.word 1).toNat, (c.word 3).bits 39 0, w.bits 1 0, q.pf, q.qfmt, q.bs, if q.col then 1 else 0, q.rowlen, (c.word 6).bits 51 0⟩
/-- The bytes of the source. -/
def Cmd.flashSource (c : Cmd) : Nat :=
  let r := c.flashRange
  if r.cls = 2 then (c.qpar.elems r.len).getD 0 * (if c.qpar.src16 then 2 else 4) else r.len
/-- The device windows of every loaded engine: base and length. -/
def State.loadedWindows (s : State) : List (Nat × Nat) :=
  s.mus.flatMap fun m => m.2.eng.flatMap fun g => g.2.banks.flatMap fun b => [0, 1].map fun n => (winBase b.2 n, winLen b.2 n)
/-- A loaded window reads a byte of [a, a + n). -/
def State.windowReads (s : State) (a n : Nat) : Bool := s.loadedWindows.any fun w => overlaps a n w.1 w.2
/-- A loaded window reads the range, or it is the shadow of a range that one reads (R310). -/
def State.flashRead (s : State) (a n : Nat) : Bool :=
  s.windowReads a n || s.mem.ranges.any fun r => r.shadow != 0 && overlaps a n r.shadow r.len && s.windowReads r.base r.len
/-- The descriptor's fields that R309 fixes. -/
def Cmd.flashForm (c : Cmd) : Bool :=
  let w := c.word 4
  let q := c.qpar
  let r := c.flashRange
  if r.cls = 2 then q.pairOk && decide (q.rnd < 3) && (q.rnd == 2 || q.seed == 0)
  else decide (r.cls < 2) && decide (q.pf ≤ 10) && w.bits 15 6 == 0 && q.seed == 0
/-- SHADOW names a fit range (R302, R310). -/
def State.shadowOk (s : State) (fn : Nat) (r : FRange) : Bool :=
  r.shadow == 0 ||
    (!overlaps r.base r.len r.shadow r.len && s.mapped fn r.shadow r.len (fun e => e.kind == 1) &&
      s.mem.ranges.any fun x => x.base == r.shadow && x.len == r.len && x.cls == 2 && r.cls == 2 && x.pf == r.pf && x.rowlen == r.rowlen &&
        (!(decide (3 ≤ r.pf) && decide (r.pf ≤ 7)) || (x.bs == r.bs && x.axis == r.axis)))
/-- The first command word at fault under R310. -/
def State.flashFault (s : State) (c : Cmd) : Option Nat :=
  let r := c.flashRange
  let unit := if r.cls = 1 then 2 ^ 20 else 65536
  let q := c.qpar
  if r.base % unit ≠ 0 || !isFlash r.base (max r.len 1) || s.flashRead r.base r.len then some 1
  else if r.len % unit ≠ 0 || r.len = 0 || (r.cls == 2 && q.rowlen != 0 && (q.elems r.len).isNone) then some 3
  else if !c.flashForm then some 4
  else if (r.cls == 2) == (q.rowlen == 0) || (r.cls == 2 && !q.bandsFit ((q.elems r.len).getD 0)) then some 5
  else if !s.shadowOk c.fn r then some 6
  else if !(s.mapped c.fn (c.word 2).toNat c.flashSource fun e => entDram true false e || entHost true false 0 e) then some 2
  else none
/-- WRSTOP is set on either flash die (R307). -/
def State.wrstop (s : State) : Bool := (s.reg (aFlStatus 0)).bit 2 || (s.reg (aFlStatus 1)).bit 2
/-- A STEP in flight has an array in [a, a + n) (R336). -/
def State.stepUses (s : State) (a n : Nat) : Bool :=
  s.rgns.any fun e => match e.2.run with
    | none => false
    | some x => x.isStep && match s.cmd x.handle with
      | none => false
      | some c => (List.range ((c.word 5).bits 12 0)).any fun i =>
        (uArrays (s.updDesc ((c.word 2).bits 51 0 + 128 * i))).any fun y => overlaps a n y.1 y.2
/-- A LOAD submitted earlier is still to be answered (R312). -/
def State.loadAhead (s : State) (h : W64) : Bool :=
  (s.host.cmds.takeWhile fun c => c.handle != h).any fun c => c.opcode == 1 && c.phase != .due
/-- The write is over, written or not. -/
def State.endFlash (s : State) (h : W64) : State := s.updMem fun m => { m with writing := m.writing.filter fun w => w.1 != h }
/-- `n` bytes from a device address of a function. -/
def State.fnBytes (s : State) (fn a n : Nat) : List Byte :=
  ((s.fnWords fn (a / 8 * 8) ((a % 8 + n + 7) / 8)).flatMap fun w => leBytes w.toNat 8).drop (a % 8) |>.take n
/-- Whether any word of [a, a + n) is poison-marked. -/
def State.fnBad (s : State) (fn a n : Nat) : Bool := n != 0 && s.fnMarks fn (a / 8 * 8) ((a % 8 + n + 7) / 8)
/-- Count a command's read of its source: on port A, or as decodes of DRAM. -/
def State.sourceRead (s : State) (fn a n : Nat) : State := if isHostWin a 1 then s.paRead fn n else s.hubRead 256 a n
/-- The source of a FLASH_WRITE is read: poison stops it, and every block is checked (R296, R458). -/
def State.flashSourceRead (s : State) (c : Cmd) (ep : Bool) : State :=
  let a := (c.word 2).toNat
  let n := c.flashSource
  let src := s.fnBytes c.fn a n
  let s := s.sourceRead c.fn a n
  if ep || s.fnBad c.fn a n then (s.endFlash c.handle).due c.handle 3 0
  else
    let q := c.qpar
    if c.flashRange.cls = 2 && !(q.present src ((q.elems c.flashRange.len).getD 0)).2.2.2.1 then (s.endFlash c.handle).due c.handle 8 4
    else (s.keepWords c.handle (leWords src ((n + 7) / 8))).keep c.handle readStage 2

/-- FLASH_WRITE: the checks of R310, then the source is read, at once from DRAM or by the host's completion (R309, R310). -/
def execFlashWrite (h : W64) (s : State) : Out :=
  match s.openCmd h 0x0C with
  | none => .next s
  | some c =>
    let a := (c.word 2).toNat
    if s.loadAhead h || s.stepUses a c.flashSource then .next (s.keep h waitStage 1)
    else match s.flashFault c with
      | some w => .next (s.due h 8 w)
      | none =>
        if s.wrstop then .next (s.due h 0x0D 1)
        else if decide (a < 16 * halfStack) && s.die (stackOf a) != .powered then .next (s.due h 6 0)
        else
          let s := (s.begin h).updMem fun m => { m with writing := m.writing ++ [(h, c.flashRange)] }
          .next (if isHostWin a 1 then s.keep h readStage 1 else s.flashSourceRead c false)

/-! ### The commit (R307, R308, R311) -/

/-- A range without what [a, a + n) takes from it. -/
def cutRange (a n : Nat) (r : FRange) : List FRange :=
  if overlaps a n r.base r.len then
    (if r.base < a then [{ r with len := a - r.base }] else []) ++
      (if a + n < r.base + r.len then
        [{ r with base := a + n, len := r.base + r.len - (a + n), shadow := if r.shadow = 0 then 0 else r.shadow + (a + n - r.base) }] else [])
  else [r]
/-- Raw NAND blocks of a flash die (R304). -/
def rawBlocks : Nat := 262144
/-- Blocks that its share of the user capacity takes (R304). -/
def userBlocks : Nat := 238419
/-- Bytes of source data that wear a flash die out: half of 29.2 PB (R304). -/
def ratedWrites : Nat := 14600000000000000
/-- The journal's value `k` of flash die `n`. -/
def State.journal (s : State) (n k : Nat) : Nat := count s.mem.journal (4 * n + k)
/-- Add to it. -/
def State.addJournal (s : State) (n k v : Nat) : State := s.updMem fun m => { m with journal := bump m.journal (4 * n + k) v }
/-- A mounted flash die's registers show what its couch layer knows (R308). -/
def State.showFlash (s : State) (n : Nat) : State :=
  if !(s.reg (aFlStatus n)).bit 0 then s
  else
    let spare := rawBlocks - userBlocks - s.journal n 2
    let busy := s.mem.refresh.any fun k => k / 2 ^ 20 == n
    let bit := fun (b : Bool) (i : Nat) => if b then 2 ^ i else 0
    let v := 1 + bit (decide (spare * 200 < rawBlocks)) 1 + bit (decide (spare * 1000 < rawBlocks)) 2 + bit busy 3 +
      min (spare * 1000 / rawBlocks) 255 * 2 ^ 8 + min (s.journal n 0 * 100 / ratedWrites) 255 * 2 ^ 16
    let s := s.setReg (aFlStatus n) (BitVec.ofNat 64 v)
    let s := s.setReg (aFlHostw n) (BitVec.ofNat 64 (s.journal n 0 / 4096))
    (s.setReg (aFlUncorr n) (BitVec.ofNat 64 (s.journal n 1))).setReg (aFlRetired n) (BitVec.ofNat 64 (min (s.journal n 2) (2 ^ 32 - 1)))
/-- Both dies. -/
def State.showFlashes (s : State) : State := (s.showFlash 0).showFlash 1
/-- Bytes of open values (log entry 7). -/
def State.freeBytes (s : State) (n : Nat) : List Byte × State :=
  (((List.range ((n + 7) / 8)).flatMap fun i => leBytes (Config.freeValue (s.free + i)).toNat 8).take n, { s with free := s.free + (n + 7) / 8 })
/-- The range takes its new contents, class and shadow at once: copies, heat and lines of its sheets go (R311), and the blocks of its
units count reads and age afresh (R306, log entry 88). `src` is the length of the source. -/
def State.commitFlash (s : State) (r : FRange) (bytes : List Byte) (src : Nat) : State :=
  let first := sheetOf r.base
  let n := r.len / 65536
  let leaves := if r.cls = 1 then
      (List.range (16 * n)).map fun i => (16 * first + i, packLeaf r.pf ((bytes.drop (4096 * i)).take 4096))
    else []
  let s := s.updMem fun m => { m with
    flash := Mem.writeBytes (Mem.clear m.flash r.base r.len) r.base bytes,
    flashBad := NatSet.delRange m.flashBad (r.base / 4096) (r.len / 4096),
    leafStored := leaves.foldl (fun l e => FMap.set ([] : List Byte) l e.1 e.2)
      (FMap.keep m.leafStored fun k => decide (k < 16 * first) || decide (16 * (first + n) ≤ k)),
    ranges := (m.ranges.flatMap (cutRange r.base r.len)) ++ [r],
    copies := m.copies.filterMap fun e =>
      if first ≤ e.1 % 2 ^ 28 && e.1 % 2 ^ 28 < first + n then
        let c : Copy := { e.2 with heat := 0, t2 := false, fetch := none, raised := false, win := false }
        if c = Copy.none then none else some (e.1, c)
      else some e }
  let s := s.dropLines r.base r.len
  let lo := 16 * first / 16384
  let hi := (16 * (first + n) + 16383) / 16384
  let s := s.updMem fun m => { m with blocks := m.blocks.filter fun e => decide (e.1 % 2 ^ 20 < lo) || decide (hi ≤ e.1 % 2 ^ 20) }
  let s := [0, 1].foldl (fun (s : State) d => (s.addJournal d 3 (hi - lo)).addJournal d 0 (src / 2)) s
  s.showAllWres.showFlashes

/-- The journal record of a FLASH_WRITE is durable, and its completion is due; a range that has come to be read meanwhile is refused
(R310, R311). -/
def State.flashCommit (s : State) (h : W64) : State :=
  match (s.cmd h).filter fun c => c.opcode == 0x0C && c.phase == .running && c.at readStage == 2 with
  | none => s
  | some c =>
    let r := c.flashRange
    let n := c.flashSource
    let s := s.endFlash h
    if s.flashRead r.base r.len then s.due h 8 1
    else
      let src := ((c.kept ((n + 7) / 8)).flatMap fun w => leBytes w.toNat 8).take n
      if r.cls = 2 then
        let z := c.qpar.present src ((c.qpar.elems r.len).getD 0)
        let gap := s.freeBytes (if c.qpar.block then z.2.1 - z.1.length else 0)
        let tail := gap.2.freeBytes (if c.qpar.block then r.len - z.2.1 - z.2.2.1.length else 0)
        let s := (tail.2.commitFlash r (z.1 ++ gap.1 ++ z.2.2.1 ++ tail.1) n).due h 0 r.len
        s.updCmd h fun c => { c with sstat := z.2.2.2.2.toNat }
      else (s.commitFlash r src n).due h 0 r.len

/-! ### Reads from NAND (R299–R306) -/

/-- The flash die that holds 4 KiB unit `i`: sheets are striped over both. -/
def unitFd (i : Nat) : Nat := i % 2
/-- The block of that die that holds it. -/
def unitBlock (i : Nat) : Nat := i / 2 / 8192
/-- A block joins the refresh list (R306). -/
def State.toRefresh (s : State) (fd b : Nat) : State :=
  (s.updMem fun m => { m with refresh := NatSet.ins m.refresh (2 ^ 20 * fd + b) }).showFlash fd
/-- Change what is known of a NAND block. -/
def State.updBlock (s : State) (fd b : Nat) (f : NandBlock → NandBlock) : State :=
  s.updMem fun m => { m with blocks := FMap.upd NandBlock.fresh m.blocks (2 ^ 20 * fd + b) f }
/-- A unit is read from its block `n` times: 100,000 reads send the block to the refresh list (R306). -/
def State.unitRead (s : State) (i n : Nat) : State :=
  let k := 2 ^ 20 * unitFd i + unitBlock i
  let s := s.updBlock (unitFd i) (unitBlock i) fun b => { b with reads := b.reads + n }
  if 100000 ≤ (FMap.get NandBlock.fresh s.mem.blocks k).reads then s.toRefresh (unitFd i) (unitBlock i) else s
/-- A unit whose read retry is exhausted is counted, and its block is to be relocated and retired (R305, R306). -/
def State.unitLost (s : State) (i : Nat) : State :=
  ((s.addJournal (unitFd i) 1 1).updBlock (unitFd i) (unitBlock i) fun b => { b with hard := true }).toRefresh (unitFd i) (unitBlock i)
/-- Stored bytes read from T3 for a sheet of a domain, on a flash die (R522, R525, R533). -/
def State.countT3 (s : State) (dom sheet fd n : Nat) : State :=
  let r := s.policyRgn dom sheet
  (s.addReg (aObsFd fd) n).addCtr r 11 0 n
/-- The stored bytes of one leaf. -/
def State.leafBytes (s : State) (leaf : Nat) : Nat :=
  match s.rangeOf (flashBase + 4096 * leaf) with
  | some r => if r.cls = 1 then (FMap.get ([] : List Byte) s.mem.leafStored leaf).length else s.storedBytes (leaf / 16) / 16
  | none => 4096
/-- Where leaf `k` of a sheet begins in the sheet's stored form (R292, R294). -/
def State.leafStart (s : State) (sheet k : Nat) : Nat :=
  match s.rangeOf (flashBase + 65536 * sheet) with
  | some r =>
    if r.cls = 1 then
      (List.range k).foldl (fun n i => n + (FMap.get ([] : List Byte) s.mem.leafStored (16 * sheet + i)).length) (if sheet % 16 = 0 then 512 else 0)
    else s.storedBytes sheet * k / 16
  | none => 4096 * k
/-- The leaves that stored unit `u` of a sheet holds a part of. -/
def State.unitLeaves (s : State) (sheet u : Nat) : List Nat :=
  ((List.range 16).filter fun k => decide (s.leafStart sheet k < 4096 * (u + 1)) && decide (4096 * u < s.leafStart sheet k + s.leafBytes (16 * sheet + k))).map
    (16 * sheet + ·)
/-- Fill the miss entries of a domain for the lines of [a, a + n). -/
def State.fillFlash (s : State) (dom a n : Nat) : State :=
  s.slices.foldl (fun s e => e.2.miss.foldl (fun (s : State) m =>
    if decide (a ≤ m.line) && decide (m.line < a + n) && !m.filled && s.domainOf m.rtag == dom then s.fillMiss e.1 m else s) s) s
/-- A miss entry of the domain waits for a line of the leaf. -/
def State.leafWanted (s : State) (dom leaf : Nat) : Bool :=
  s.slices.any fun e => e.2.miss.any fun m => m.line / 4096 == flashBase / 4096 + leaf && !m.filled && s.domainOf m.rtag == dom

/-- FLASH_LEAF_READ: the leaf behind a demand read arrives from NAND, and the rest of its sheet is sent for where a granule can be
had; where none can, only the leaf passes through, and is counted. `uncorr`: read retry is exhausted; `weak`: a codeword needed more
than 96 corrected bits; `crcBad`: the class L check fails, on this read and on the two that follow (R300, R304–R306, R465). -/
def execFlashLeafRead (dom leaf : Nat) (uncorr : LeafEcc) (crcBad : Bool) (s : State) : Out :=
  if !s.leafWanted dom leaf then .next s
  else
    let sheet := leaf / 16
    let z := s.startFetch dom sheet 1 (s.copyOf dom sheet).heat
    let clsL := match s.rangeOf (flashBase + 4096 * leaf) with | some r => r.cls == 1 | none => false
    let fails := (crcBad && clsL) || s.leafBad leaf
    let reads := if fails then 3 else 1
    let s := z.1.unitRead leaf reads
    let s := if z.2 == .short then s.updMem fun m => { m with passed := m.passed + 1 } else s
    let s := if z.2 == .going && !fails then s else s.countT3 dom sheet (unitFd leaf) (reads * s.leafBytes leaf)
    let s := if uncorr.weak then s.toRefresh (unitFd leaf) (unitBlock leaf) else s
    let s := if uncorr.uncorr then (s.unitLost leaf).markLeaf leaf true else s
    let deliver := fun (s : State) => s.fillFlash dom (flashBase + 4096 * leaf) 4096
    .next (if fails then s.leafFails dom leaf (64 + unitFd leaf) deliver else deliver s)

/-- SHEET_FETCH_DONE: the sheet has its T2 copy in the domain: a sheet fetched for a window takes heat at least P2, and T1 is filled
where P1 or WT1 asks for it (R290, R298–R302). Stored units of the sheet whose read retry was exhausted are `lost`, those that needed more
than 96 corrected bits `weak` (R305, R306). With EN 0 no copy is made (R286). -/
def execSheetFetchDone (dom : Nat) (sheet : SheetFetch) (s : State) : Out :=
  let ⟨sheet, lost, weak⟩ := sheet
  if (s.copyOf dom sheet).fetch.isNone then .next s
  else if !s.plcOn then .next (s.updCopy dom sheet fun c => { c with fetch := none, win := false })
  else
    let pins := (s.copyOf dom sheet).pins
    let p2 := s.plcP2 dom sheet
    let s := s.updCopy dom sheet fun c => { c with t2 := true, fetch := none, win := false, heat := (if c.win then max c.heat p2 else c.heat) }
    let n := s.storedBytes sheet
    let units := (n + 4095) / 4096
    let s := (List.range units).foldl (fun (s : State) i =>
      (s.unitRead (16 * sheet + i) 1).countT3 dom sheet (unitFd i) (min 4096 (n - 4096 * i))) s
    let s := (lost.filter (· < units)).foldl (fun (s : State) u =>
      (s.unitLeaves sheet u).foldl (fun (s : State) l => s.markLeaf l true) (s.unitLost (16 * sheet + u))) s
    let s := (weak.filter (· < units)).foldl (fun (s : State) u => s.toRefresh (unitFd u) (unitBlock (16 * sheet + u))) s
    let s := s.countT2 dom sheet 1 n
    let p1 := s.plcP1 dom sheet
    let wt1 := pins.any fun p => (s.plcRgn (p / 1024) 0).bit 29
    let s := if wt1 || (p1 != 0 && decide (p1 ≤ (s.copyOf dom sheet).heat)) then s.fillT1 dom sheet else s
    let s := s.fillFlash dom (flashBase + 65536 * sheet) 65536
    .next s.showAllWres

/-! ### The couch layer's upkeep (R306, R307) -/

/-- RETENTION_TRIGGER: data programmed more than 90 days ago (R306). -/
def execRetentionTrigger (fd block : Nat) (s : State) : Out :=
  .next ((s.updBlock fd block fun b => { b with old := true }).toRefresh fd block)

/-- Device time lies in one of the windows of background work, `lo` to `hi` of every 32,768 dt (R260). -/
def State.inWindow (s : State) (lo hi : Nat) : Bool := decide (lo ≤ s.time.now % 32768) && decide (s.time.now % 32768 ≤ hi)
/-- REFRESH_RELOCATION: in a wear window, the block's valid units are copied to a fresh block and the old one is erased; one whose read
retry was exhausted, or whose erase fails, is retired, and so are `fresh` blocks whose program failed on the way (R260, R306, R307). -/
def execRefreshRelocation (fd : Nat) (block : Relocation) (s : State) : Out :=
  let ⟨block, fresh, eraseFails⟩ := block
  let k := 2 ^ 20 * fd + block
  if !(NatSet.mem s.mem.refresh k) || !s.inWindow 0 983 then .next s
  else
    let b := FMap.get NandBlock.fresh s.mem.blocks k
    let s := s.updMem fun m => { m with refresh := NatSet.del m.refresh k, blocks := FMap.set NandBlock.fresh m.blocks k NandBlock.fresh }
    let s := s.addJournal fd 3 (fresh + 1)
    .next ((s.addJournal fd 2 (fresh + if b.hard || eraseFails then 1 else 0)).showFlash fd)

end Sys2Proof.Machine
end

