-- ==== Sys2Proof/Machine/LinkBase.lean ====
section
/-! DEFINITION. Glogal links as the slots see them: the torus, routes and dateline channels, queues, and acknowledgement entries
(R397, R409–R413). -/

namespace Sys2Proof.Machine

/-! ### The torus (R397, R398) -/

/-- This module's coordinate along a dimension: 0 X, 1 Y, 2 Z. -/
def State.glCoord (s : State) (dim : Nat) : Nat := s.regBits (aGlNode 0) (6 * dim + 5) (6 * dim)
/-- The torus size along a dimension. -/
def State.glSize (s : State) (dim : Nat) : Nat := s.regBits (aGlNode 0) (24 + 7 * dim) (18 + 7 * dim)
/-- The identifier of the node at three coordinates. -/
def State.nodeAt (s : State) (x y z : Nat) : Nat := x + s.glSize 0 * (y + s.glSize 1 * z)
/-- This module's identifier. -/
def State.ownNode (s : State) : Nat := s.nodeAt (s.glCoord 0) (s.glCoord 1) (s.glCoord 2)
/-- How many nodes the torus has. -/
def State.nodeCount (s : State) : Nat := s.glSize 0 * s.glSize 1 * s.glSize 2
/-- A node's coordinate along a dimension. -/
def State.coordOf (s : State) (node dim : Nat) : Nat :=
  if dim = 0 then node % s.glSize 0
  else if dim = 1 then node / s.glSize 0 % s.glSize 1
  else node / (s.glSize 0 * s.glSize 1)
/-- The dimension of a link 6k + d. -/
def linkDim (l : Nat) : Nat := l % 6 / 2
/-- The link leads in the negative direction. -/
def linkNeg (l : Nat) : Bool := l % 2 == 1
/-- Hops from this module to a coordinate along a dimension, in a direction. -/
def State.hopsTo (s : State) (dim : Nat) (neg : Bool) (c : Nat) : Nat :=
  let n := s.glSize dim
  if neg then (s.glCoord dim + n - c) % n else (c + n - s.glCoord dim) % n
/-- The direction in which a slot for `node` leaves, none at the node itself (R410). -/
def State.routeDir (s : State) (node : Nat) : Option Nat :=
  ([0, 1, 2].find? fun dim => s.coordOf node dim != s.glCoord dim).map fun dim =>
    let c := s.coordOf node dim
    2 * dim + (if s.hopsTo dim false c ≤ s.hopsTo dim true c then 0 else 1)
/-- A link carries traffic. -/
def State.linkUp (s : State) (l : Nat) : Bool := (s.link l).st == .up
/-- The peer's coordinate along a link's dimension. -/
def capCoord (c : Capability) (dim : Nat) : Nat :=
  let dx := c.dx.toNat
  let dy := c.dy.toNat
  if dim = 0 then c.node.toNat % dx else if dim = 1 then c.node.toNat / dx % dy else c.node.toNat / (dx * dy)
/-- The coordinate of a link's peer. -/
def State.peerCoord (s : State) (l : Nat) : Nat := match (s.link l).peer with | some c => capCoord c (linkDim l) | none => 0
/-- The link reaches a node's position, or one on the way to it: it is UP and its peer does not lie beyond (R404, R413). -/
def State.linkReaches (s : State) (l node : Nat) : Bool :=
  s.linkUp l && decide (node < s.nodeCount) &&
    decide (s.hopsTo (linkDim l) (linkNeg l) (s.peerCoord l) ≤ s.hopsTo (linkDim l) (linkNeg l) (s.coordOf node (linkDim l)))
/-- The dateline channel on a link for what arrived along `from`, none if injected here (R411). -/
def State.dateline (s : State) (l : Nat) (from_ : Option (Nat × BitVec 1)) : BitVec 1 :=
  let d := linkDim l
  let crosses := if linkNeg l then decide (s.glCoord d < s.peerCoord l) else decide (s.peerCoord l < s.glCoord d)
  if crosses then 1 else match from_ with
    | some (dim, v) => if dim = d then v else 0
    | none => 0

/-! ### Queues -/

/-- Queue a data slot on a link; `held` names the link and the channel whose place a routed slot holds. -/
def State.queueSlot (s : State) (l : Nat) (x : Slot) (held : Option (Nat × Nat)) : State :=
  s.updLink l fun k => { k with dataq := k.dataq ++ [(x, held)] }
/-- A place of a receive channel is free again, which the credit word will tell (R409). -/
def State.freePlace (s : State) (held : Option (Nat × Nat)) : State := match held with
  | some (l, c) => s.updLink l fun k => { k with freed := bump k.freed c 1 }
  | none => s
/-- An acknowledgement entry (R412). -/
def ackWord (dst slink tag gen st : Nat) : W64 :=
  BitVec.ofNat 64 (dst % 2 ^ 16 + slink % 64 * 2 ^ 16 + tag % 2048 * 2 ^ 22 + gen % 16 * 2 ^ 33 + st % 8 * 2 ^ 38 + 2 ^ 41)
/-- Set DVC of an entry. -/
def ackDvc (a : W64) (v : BitVec 1) : W64 := mergeBits a (BitVec.ofNat 64 (v.toNat * 2 ^ 37)) (2 ^ 37)
/-- Send an entry on its way on lane k; one that no link takes is lost (R410, R413). -/
def State.routeAck (s : State) (k : Nat) (from_ : Option (Nat × BitVec 1)) (a : W64) (held : Option (Nat × Nat)) : State :=
  match s.routeDir (a.bits 15 0) with
  | none => s.freePlace held
  | some d =>
    let l := 6 * k + d
    if s.linkReaches l (a.bits 15 0) then s.updLink l fun x => { x with ackq := x.ackq ++ [(ackDvc a (s.dateline l from_), held)] }
    else s.freePlace held
/-- Acknowledge a slot with a status: 0 OK, 1 REFUSED, 2 UNREACHABLE, 3 MISMATCH. -/
def State.sendAck (s : State) (k : Nat) (x : Slot) (st : Nat) : State :=
  s.routeAck k none (ackWord x.src.toNat x.slink.toNat x.tag.toNat x.gen.toNat st) none
/-- Pass a routed slot on, or discard it with UNREACHABLE (R410, R413). -/
def State.passSlot (s : State) (k : Nat) (from_ : Nat × BitVec 1) (x : Slot) (d : Nat) (held : Option (Nat × Nat)) : State :=
  let l := 6 * k + d
  if s.linkReaches l x.dst.toNat then s.queueSlot l { x with dvc := s.dateline l (some from_) } held else (s.freePlace held).sendAck k x 2

/-! ### Tags (R183, R414) -/

/-- A link tag's use. -/
def Link.tag (k : Link) (t : Nat) : Option TagUse := FMap.get none k.tagUse t
/-- Show the tags outstanding. -/
def State.showTags (s : State) (l : Nat) : State := s.setReg (aGlTags l) (BitVec.ofNat 64 (s.link l).tagUse.length)
/-- The lowest free tag of a link. -/
def Link.freeTag (k : Link) : Option Nat :=
  if k.tagUse.length < 2048 then (List.range 2048).find? fun t => (k.tag t).isNone else none
/-- Take a tag under a new generation. -/
def State.takeLinkTag (s : State) (l t : Nat) (u : TagUse) : State :=
  (s.updLink l fun k => { k with
    tagGen := FMap.set 0 k.tagGen t ((count k.tagGen t + 1) % 16),
    tagUse := FMap.set none k.tagUse t (some u) }).showTags l
/-- Release a tag; `late` increments its generation, so that a later acknowledgement is stale. -/
def State.dropLinkTag (s : State) (l t : Nat) (late : Bool) : State :=
  (s.updLink l fun k => { k with
    tagGen := if late then FMap.set 0 k.tagGen t ((count k.tagGen t + 1) % 16) else k.tagGen,
    tagUse := FMap.set none k.tagUse t none }).showTags l

end Sys2Proof.Machine
end

