-- ==== Sys2Proof/Machine/Coll.lean ====
section
/-! DEFINITION. The collective engine: groups, the phases of a collective, its slots in wide and narrow form, plans, checkpoints, and
how a member ends (R426–R449). -/

namespace Sys2Proof.Machine

/-! ### Groups (R426, R428) -/

/-- GID of entry `g`. -/
def State.gid (s : State) (g : Nat) : Nat := (s.grpWord g 0).bits 15 0
/-- OWNER. -/
def State.gOwner (s : State) (g : Nat) : Nat := (s.grpWord g 0).bits 27 16
/-- REGION. -/
def State.gRegion (s : State) (g : Nat) : Nat := (s.grpWord g 0).bits 35 28
/-- The lanes of KMASK. -/
def State.gLanes (s : State) (g : Nat) : List Nat := (List.range 6).filter fun k => (s.grpWord g 0).bit (36 + k)
/-- GLEVEL. -/
def State.gLevel (s : State) (g : Nat) : Nat := (s.grpWord g 0).bits 60 45
/-- VALID. -/
def State.gValid (s : State) (g : Nat) : Bool := (s.grpWord g 0).bit 61
/-- The dimensions in ORDER. -/
def orderDims (o : Nat) : List Nat :=
  match o with
  | 0 => [0, 1, 2] | 1 => [0, 2, 1] | 2 => [1, 0, 2] | 3 => [1, 2, 0] | 4 => [2, 0, 1] | _ => [2, 1, 0]
/-- Box origin, members and stride along a dimension, of a word 1. -/
def boxOrigin (w : W64) (dim : Nat) : Nat := w.bits (6 * dim + 5) (6 * dim)
def boxLen (w : W64) (dim : Nat) : Nat := w.bits (24 + 7 * dim) (18 + 7 * dim)
def boxStride (w : W64) (dim : Nat) : Nat := if w.bit (39 + dim) then 2 else 1
/-- A node's offset from the origin along a dimension. -/
def State.boxOff (s : State) (w : W64) (node dim : Nat) : Nat :=
  (s.coordOf node dim + s.glSize dim - boxOrigin w dim % s.glSize dim) % s.glSize dim
/-- A node is a member of the box. -/
def State.boxHas (s : State) (w : W64) (node : Nat) : Bool :=
  decide (node < s.nodeCount) && [0, 1, 2].all fun dim =>
    s.boxOff w node dim % boxStride w dim == 0 && decide (s.boxOff w node dim / boxStride w dim < boxLen w dim)
/-- A node's position along a dimension of group `g`. -/
def State.gPos (s : State) (g node dim : Nat) : Nat := s.boxOff (s.grpWord g 1) node dim / boxStride (s.grpWord g 1) dim
/-- The member that differs from this one by its position along a dimension. -/
def State.gPeer (s : State) (g dim p : Nat) : Nat :=
  let w := s.grpWord g 1
  let c := fun (d : Nat) => if d = dim then (boxOrigin w d + p * boxStride w d) % s.glSize d else s.glCoord d
  s.nodeAt (c 0) (c 1) (c 2)
/-- The valid entry with an identifier. -/
def State.gFind (s : State) (id : Nat) : Option Nat := (List.range 64).find? fun g => s.gValid g && s.gid g == id
/-- SEQ of entry `g`. -/
def State.gSeq (s : State) (g : Nat) : Nat := s.regBits (aCeGrp g 3) 39 0
/-- Bits [31:0] of the group watermark. -/
def State.gWm (s : State) (g : Nat) : Nat := (s.reg (aCeGrp g 4)).bits 31 0

/-! ### Shape of a collective (R430–R434) -/

/-- Bytes of an element of DFMT. -/
def CollRun.de (r : CollRun) : Nat := max (fmtBits r.dfmt / 8) 1
/-- The scalar all-reduce (R430). -/
def CollRun.scalar (r : CollRun) : Bool := !r.reshard && r.cop == 0 && !r.narrow && r.dfmt == 0 && r.len == 4
/-- The geometry of a run: each dimension in ORDER with its members and this member's position, the lanes, a stripe's bytes, and
the granule of its pieces. -/
structure Geo where
  ds : List (Nat × Nat × Nat)
  lanes : List Nat
  stripe : Nat
  gran : Nat
deriving DecidableEq, Repr
/-- The geometry of a run of group `g`. -/
def State.geo (s : State) (g : Nat) (r : CollRun) : Geo :=
  let w := s.grpWord g 1
  let lanes := if r.scalar then (s.gLanes g).take 1 else s.gLanes g
  ⟨(orderDims ((s.grpWord g 0).bits 44 42)).map fun d => (d, boxLen w d, s.gPos g s.ownNode d), lanes, r.len / max lanes.length 1,
    if r.narrow || r.cop < 2 then r.de else 1⟩
/-- The phases in order: kind 0 reduce, 1 place, 2 broadcast, 3 barrier, with the place of its dimension in ORDER (R434, R443). -/
def CollRun.phases (r : CollRun) (geo : Geo) : List (Nat × Nat) :=
  let up := (List.range 3).filter fun i => decide (1 < (geo.ds.getD i (0, 1, 0)).2.1)
  if r.reshard then (if r.via = 1 then up.map fun i => (3, i) else [])
  else match r.cop with
    | 0 => up.map (fun i => (0, i)) ++ up.reverse.map fun i => (1, i)
    | 1 => up.map fun i => (0, i)
    | 2 => up.reverse.map fun i => (1, i)
    | 3 => up.map fun i => (2, i)
    | _ => []
/-- Piece `p` of `l` of a range, in granules. -/
def subRange (x : Nat × Nat) (l gran p : Nat) : Nat × Nat :=
  let c := (x.2 + l * gran - 1) / (l * gran) * gran
  (x.1 + p * c, min c (x.2 - p * c))
/-- The part of a stripe that the phase of dimension place `i` works on. -/
def Geo.range (geo : Geo) (i : Nat) : Nat × Nat := (geo.ds.take i).foldl (fun x d => subRange x d.2.1 geo.gran d.2.2) (0, geo.stripe)
/-- Piece `c` of the phase of dimension place `i`. -/
def Geo.piece (geo : Geo) (i c : Nat) : Nat × Nat := subRange (geo.range i) (geo.ds.getD i (0, 1, 0)).2.1 geo.gran c
/-- The slots that `n` bytes take in a phase of a kind (R407, R435). -/
def CollRun.slots (r : CollRun) (kind n : Nat) : Nat :=
  if r.narrow then (n / r.de + 223) / 224 else if kind = 0 then (n / r.de + 63) / 64 else (n + 255) / 256
/-- How far along its ring a member lies from ROOT in a broadcast phase; none where the phase passes it by (R434). -/
def State.bcastRel (s : State) (g : Nat) (r : CollRun) (geo : Geo) (i : Nat) : Option Nat :=
  let later := geo.ds.drop (i + 1)
  if later.all fun d => d.2.2 == s.gPos g r.root d.1 then
    let d := geo.ds.getD i (0, 1, 0)
    some ((d.2.2 + d.2.1 - s.gPos g r.root d.1) % d.2.1)
  else none
/-- The slots that a lane receives in a phase. -/
def State.expected (s : State) (g : Nat) (r : CollRun) (geo : Geo) (p : Nat × Nat) : Nat :=
  let d := geo.ds.getD p.2 (0, 1, 0)
  let sum := fun (skip : Nat) => (((List.range d.2.1).filter fun c => c != skip).map fun c => r.slots p.1 (geo.piece p.2 c).2).sum
  match p.1 with
  | 0 => sum ((d.2.2 + d.2.1 - 1) % d.2.1)
  | 1 => sum d.2.2
  | 2 => (match s.bcastRel g r geo p.2 with | some n => if n = 0 then 0 else r.slots 2 geo.stripe | none => 0)
  | _ => d.2.1 - 1
/-- The key of phase `i` of lane `k`. -/
def phaseKey (k i : Nat) : Nat := 8 * k + i

/-! ### Slots (R407, R432, R435) -/

/-- Elements of `w` bytes with their marks, as a data slot and its POISON. -/
def packSlot (w : Nat) (l : List (Nat × Bool)) : BitVec 2048 × BitVec 32 :=
  (BitVec.ofNat 2048 (l.foldr (fun e n => e.1 % 2 ^ (8 * w) + 2 ^ (8 * w) * n) 0),
    BitVec.ofNat 32 ((List.range 32).foldr (fun x n => (if l.zipIdx.any fun e => e.1.2 && e.2 * w / 8 == x then 1 else 0) + 2 * n) 0))
/-- Element `i` of `w` bytes of a slot, and its mark. -/
def slotElem (x : Slot) (w i : Nat) : Nat × Bool := ((x.data.extractLsb' (8 * w * i) (8 * w)).toNat, x.poison.getLsbD (w * i / 8))
/-- One narrow block: 32 codes, its scale, and whether it is marked. -/
structure NBlock where
  codes : List Nat
  scale : Nat
  bad : Bool
deriving DecidableEq, Repr
/-- Up to seven blocks as a slot: each word that carries an element or the scale of a marked block is marked (R435, R457). -/
def packBlocks (l : List NBlock) : BitVec 2048 × BitVec 32 :=
  let pad := List.replicate (7 - l.length) (⟨List.replicate 32 0, 0, false⟩ : NBlock)
  packSlot 1 (((l ++ pad).flatMap fun b => b.codes.map fun c => (c, b.bad)) ++ (l ++ pad).map fun b => (b.scale, b.bad))
/-- Block `b` of a slot. -/
def slotBlock (x : Slot) (b : Nat) : NBlock :=
  let l := (List.range 32).map fun i => slotElem x 1 (32 * b + i)
  let sc := slotElem x 1 (224 + b)
  ⟨l.map (·.1), sc.1, sc.2 || l.any (·.2)⟩
/-- Quantise 32 values (R436). -/
def quantN (l : List (W32 × Bool)) : NBlock × Ev :=
  let q := quantBlock 1 0 1 (l.map (·.1))
  (⟨q.2.1, q.1, l.any (·.2)⟩, q.2.2.1)
/-- Widen a block (R436). -/
def NBlock.widen (b : NBlock) : List (W32 × Bool) × Ev :=
  let l := b.codes.map fun c => blockToF32 1 b.scale c
  (l.map fun e => (e.1, b.bad), l.foldl (fun a e => a ||| e.2) 0)
/-- Cut a list into groups of 32. -/
def groups32 {α : Type} : List α → Nat → List (List α)
  | _, 0 => []
  | l, n + 1 => l.take 32 :: groups32 (l.drop 32) n
/-- A data slot of the group, for lane `k`; its link and tag are set when it is injected. -/
def State.mkSlot (s : State) (g k dst op off : Nat) (d : BitVec 2048 × BitVec 32) : Slot :=
  ⟨1, 0, BitVec.ofNat 16 dst, BitVec.ofNat 16 s.ownNode, BitVec.ofNat 6 (6 * k), 0, 0, BitVec.ofNat 4 op, BitVec.ofNat 16 (s.gid g),
    BitVec.ofNat 32 (s.gWm g), BitVec.ofNat 40 off, d.2, d.1⟩
/-- The lane of a slot. -/
def slotLane (x : Slot) : Nat := x.slink.toNat / 6

/-! ### Sending (R414, R432, R438) -/

/-- Change the run of a group. -/
def State.updRun (s : State) (g : Nat) (f : CollRun → CollRun) : State := s.updGroup g fun x => { x with run := x.run.map f }
/-- The run is to end with a status, the first one given. -/
def State.collFail (s : State) (g status : Nat) : State := s.updRun g fun r => if r.fail = 0 then { r with fail := status } else r
/-- Put a slot on its link under a tag; without a tag it waits, without a way the transfer is lost. `again` marks a READY that has
been refused before. -/
def State.injectSlot (s : State) (g : Nat) (again : Bool) (x : Slot) : State :=
  match (s.group g).run, s.routeDir x.dst.toNat with
  | some r, some d =>
    let l := 6 * slotLane x + d
    if !s.linkReaches l x.dst.toNat then s.collFail g 0x0B
    else match (s.link l).freeTag with
      | none => s.updRun g fun r => { r with txq := r.txq ++ [x] }
      | some t =>
        let s := s.takeLinkTag l t ⟨g, r.handle, if x.op = 1 && !again then some x else none⟩
        let y : Slot := { x with slink := BitVec.ofNat 6 l, tag := BitVec.ofNat 11 t, gen := BitVec.ofNat 4 (count (s.link l).tagGen t),
                                 dvc := s.dateline l none }
        ((s.queueSlot l y none).updRun g fun r => { r with outst := r.outst + 1 }).addCtr (s.gRegion g) 14 0 256
  | _, _ => s
/-- Send a slot once the READY of its key has come. -/
def State.emit (s : State) (g key : Nat) (x : Slot) : State :=
  match (s.group g).run with
  | none => s
  | some r =>
    if NatSet.mem r.ready key then s.injectSlot g false x
    else s.updRun g fun r => { r with holdq := FMap.upd ([] : List Slot) r.holdq key fun l => l ++ [x] }
/-- The READY of a key has come: what waits for it goes. -/
def State.openKey (s : State) (g key : Nat) : State :=
  match (s.group g).run with
  | none => s
  | some r =>
    (FMap.get ([] : List Slot) r.holdq key).foldl (fun s x => s.injectSlot g false x)
      (s.updRun g fun r => { r with ready := NatSet.ins r.ready key, holdq := FMap.set ([] : List Slot) r.holdq key [] })
/-- The slots that wait for tags try again. -/
def State.pumpTx (s : State) (g : Nat) : State :=
  match (s.group g).run with
  | none => s
  | some r => r.txq.foldl (fun s x => s.injectSlot g (x.op == 1) x) (s.updRun g fun r => { r with txq := [] })
/-- The data of this member's READY (R432). -/
def State.readyData (s : State) (g : Nat) (r : CollRun) : Nat :=
  let w := fun (i : Nat) => match s.cmd r.handle with | some c => (c.word i).toNat | none => 0
  w 1 + w 4 * 2 ^ 64 + s.gLevel g * 2 ^ 128 + (s.grpDigest g).toNat * 2 ^ 144
/-- Send READY to a peer. -/
def State.sendReady (s : State) (g k peer : Nat) : State :=
  match (s.group g).run with
  | none => s
  | some r => s.injectSlot g false (s.mkSlot g k peer 1 (s.gSeq g) (BitVec.ofNat 2048 (s.readyData g r), 0))

/-! ### Operands and results (R433, R436) -/

/-- An element as it lies in DRAM, widened, and its mark. -/
def State.collElem (s : State) (r : CollRun) (a : Nat) : W32 × Bool :=
  let v := leNat (s.fnBytes 0 a r.de)
  (if r.dfmt = 1 then (f16ToF32 v).1 else if r.dfmt = 2 then BitVec.ofNat 32 (f19Word v) else BitVec.ofNat 32 v, s.fnBad 0 a r.de)
/-- This member's own value of element `e` of stripe `j`: its source, or the partial that earlier phases left. -/
def State.ownValue (s : State) (r : CollRun) (geo : Geo) (j : Nat) (first : Bool) (e : Nat) : W32 × Bool :=
  if first then s.collElem r (r.src + j * geo.stripe + r.de * e)
  else
    let n := j * geo.stripe / r.de + e
    (BitVec.ofNat 32 (count r.part n - 1), NatSet.mem r.partPoison n)
/-- Note events of the run. -/
def State.collEvents (s : State) (g : Nat) (e : Ev) : State := s.updRun g fun r => { r with sstat := r.sstat ||| (e &&& (evQsat ||| evOvf)) }
/-- Store elements in DFMT; a poisoned one is stored marked and noted (R438). -/
def State.storeElems (s : State) (g : Nat) (r : CollRun) (l : List (Nat × W32 × Bool)) : State :=
  let conv := fun (w : W32) => if r.dfmt = 1 then (f32ToF16 .rne w).1 else if r.dfmt = 2 then (f32ToF19 .rne w).1.toNat else w.toNat
  let bytes := fun (l : List (Nat × W32 × Bool)) => l.flatMap fun e => bytesAt e.1 (conv e.2.1) r.de
  let bad := l.filter fun e => e.2.2
  let s := s.putDevBytes 256 (bytes (l.filter fun e => !e.2.2)) false
  if bad.isEmpty then s else (s.putDevBytes 256 (bytes bad) true).updRun g fun r => { r with poisoned := true }
/-- Store the bytes of a slot from address `a`, `n` of them. -/
def State.storeRaw (s : State) (g : Nat) (x : Slot) (a n : Nat) : State :=
  let l := (List.range n).map fun i => (slotElem x 1 i, a + i)
  let put := fun (l : List ((Nat × Bool) × Nat)) => l.map fun e => (e.2, BitVec.ofNat 8 e.1.1)
  let bad := l.filter fun e => e.1.2
  let s := s.putDevBytes 256 (put (l.filter fun e => !e.1.2)) false
  if bad.isEmpty then s else (s.putDevBytes 256 (put bad) true).updRun g fun r => { r with poisoned := true }
/-- Bytes of DRAM as the elements of a slot, with their marks. -/
def State.rawSlot (s : State) (a n : Nat) : BitVec 2048 × BitVec 32 :=
  packSlot 1 ((s.fnBytes 0 a n).zipIdx.map fun e => (e.1.toNat, s.devMark ((a + e.2) / 8 * 8)))
/-- Where element `e` of stripe `j` is stored at DST. -/
def CollRun.dstAt (r : CollRun) (geo : Geo) (j e : Nat) : Nat := r.dst + j * geo.stripe + r.de * e
/-- Final values of consecutive elements from `e` of stripe `j`: reduce-scatter stores them in its piece, all-reduce in the tensor,
in narrow mode as its owner quantises them (R433, R436). `base` is the first element of the member's own piece. -/
def State.storeFinal (s : State) (g : Nat) (r : CollRun) (geo : Geo) (j base e : Nat) (l : List (W32 × Bool)) : State :=
  if r.cop = 1 then
    let q := (geo.ds.map fun d => d.2.1).foldl (· * ·) 1
    s.storeElems g r (l.zipIdx.map fun x => (r.dst + j * (geo.stripe / q) + r.de * (e + x.2 - base), x.1))
  else if !r.narrow then s.storeElems g r (l.zipIdx.map fun x => (r.dstAt geo j (e + x.2), x.1))
  else
    ((groups32 l (l.length / 32)).zipIdx).foldl (fun (s : State) b =>
      let q := quantN b.1
      let w := q.1.widen
      let s := (s.collEvents g q.2).collEvents g w.2
      let s := s.storeElems g r (w.1.zipIdx.map fun x => (r.dstAt geo j (e + 32 * b.2 + x.2), x.1))
      s.updRun g fun r => { r with
        quant := FMap.set ([] : List Byte) r.quant ((j * geo.stripe / r.de + e) / 32 + b.2)
          ((q.1.codes ++ [q.1.scale, if q.1.bad then 1 else 0]).map (BitVec.ofNat 8)) }) s
/-- A block kept for placing. -/
def CollRun.keptBlock (r : CollRun) (n : Nat) : NBlock :=
  let l := FMap.get ([] : List Byte) r.quant n
  ⟨(List.range 32).map fun i => (l.getD i 0).toNat, (l.getD 32 0).toNat, l.getD 33 0 != 0⟩
/-- Values of a reduce step as a slot, with the events of quantising them. -/
def CollRun.packValues (r : CollRun) (l : List (W32 × Bool)) : (BitVec 2048 × BitVec 32) × Ev :=
  if r.narrow then
    let z := (groups32 l (l.length / 32)).map quantN
    (packBlocks (z.map (·.1)), z.foldl (fun a e => a ||| e.2) 0)
  else (packSlot 4 (l.map fun e => (e.1.toNat, e.2)), 0)
/-- Values of slot `x` of a reduce step, `n` of them, widened. -/
def CollRun.slotValues (r : CollRun) (x : Slot) (n : Nat) : List (W32 × Bool) × Ev :=
  if r.narrow then
    let z := (List.range (n / 32)).map fun b => (slotBlock x b).widen
    (z.flatMap (·.1), z.foldl (fun a e => a ||| e.2) 0)
  else ((List.range n).map fun i => let e := slotElem x 4 i; (BitVec.ofNat 32 e.1, e.2), 0)
/-- One addition of a reduction. -/
def CollRun.addOne (r : CollRun) (a b : W32 × Bool) : (W32 × Bool) × Ev :=
  let z := if r.dfmt = 10 then intResult 32 (a.1.toInt + b.1.toInt) else f32Add .rne a.1 b.1
  ((z.1, a.2 || b.2), z.2)
/-- Elements in one slot of a reduce step. -/
def CollRun.perSlot (r : CollRun) : Nat := if r.narrow then 224 else 64

/-! ### A lane's phases -/

/-- The slots of piece `c` that a lane sends first in a phase, by slot number. -/
def State.firstSlots (s : State) (_g : Nat) (r : CollRun) (geo : Geo) (j i : Nat) (p : Nat × Nat) (c : Nat) :
    List ((BitVec 2048 × BitVec 32) × Ev) :=
  let x := if p.1 = 2 then (0, geo.stripe) else geo.piece p.2 c
  let elems := fun (n : Nat) => (List.range (min r.perSlot (x.2 / r.de - r.perSlot * n))).map fun q => x.1 / r.de + r.perSlot * n + q
  (List.range (r.slots p.1 x.2)).map fun n =>
    if p.1 = 0 then r.packValues ((elems n).map (s.ownValue r geo j (i == 0)))
    else if r.narrow then
      (packBlocks ((List.range (min 7 (x.2 / r.de / 32 - 7 * n))).map fun b =>
        r.keptBlock ((j * geo.stripe / r.de + x.1 / r.de) / 32 + 7 * n + b)), 0)
    else (s.rawSlot ((if p.1 = 2 && r.root == s.ownNode then r.src else r.dst) + j * geo.stripe + x.1 + 256 * n) (min 256 (x.2 - 256 * n)), 0)
/-- Begin phase `i` of lane `k`: READY to the predecessor, and the first slots to the successor (R432–R434, R443). -/
def State.phaseStart (s : State) (g k i : Nat) (r : CollRun) (geo : Geo) (p : Nat × Nat) : State :=
  let d := geo.ds.getD p.2 (0, 1, 0)
  let succ := s.gPeer g d.1 ((d.2.2 + 1) % d.2.1)
  let pred := s.gPeer g d.1 ((d.2.2 + d.2.1 - 1) % d.2.1)
  let rel := if p.1 = 2 then s.bcastRel g r geo p.2 else none
  let s := if p.1 ≠ 2 || rel.any (0 < ·) then s.sendReady g k pred else s
  let j := (geo.lanes.idxOf k)
  let c := if p.1 = 0 then (d.2.2 + d.2.1 - 1) % d.2.1 else if p.1 = 1 then d.2.2 else 0
  let spp := r.slots p.1 (if p.1 = 2 then geo.stripe else (geo.piece p.2 0).2)
  if p.1 = 3 then s.emit g (phaseKey k i) (s.mkSlot g k succ 4 0 (0, 0))
  else if p.1 = 2 && rel != some 0 then s
  else (s.firstSlots g r geo j i p c).zipIdx.foldl (fun (s : State) e =>
    (s.collEvents g e.1.2).emit g (phaseKey k i) (s.mkSlot g k succ (if p.1 = 0 then 2 else 3) (256 * (c * spp + e.2)) e.1.1)) s
/-- Enter the lane's phase at hand, and those after it that receive nothing. -/
def State.laneEnter (s : State) (g k : Nat) : Nat → State
  | 0 => s
  | fuel + 1 =>
    match (s.group g).run with
    | none => s
    | some r =>
      let geo := s.geo g r
      let i := count r.phase k
      match (r.phases geo)[i]? with
      | none => s
      | some p =>
        let s := s.phaseStart g k i r geo p
        if s.expected g r geo p = 0 then State.laneEnter (s.updRun g fun r => { r with phase := FMap.set 0 r.phase k (i + 1) }) g k fuel
        else s
/-- A slot of the lane's phase has been taken; the last one opens the next phase. -/
def State.phaseGot (s : State) (g k : Nat) : State :=
  match (s.group g).run with
  | none => s
  | some r =>
    let geo := s.geo g r
    let i := count r.phase k
    match (r.phases geo)[i]? with
    | none => s
    | some p =>
      let n := count r.got (phaseKey k i) + 1
      let s := s.updRun g fun r => { r with got := FMap.set 0 r.got (phaseKey k i) n }
      if n = s.expected g r geo p then (s.updRun g fun r => { r with phase := FMap.set 0 r.phase k (i + 1) }).laneEnter g k 8 else s

/-! ### Plans (R440, R441) -/

/-- One entry of a plan. -/
structure PlanEnt where
  recv : Bool
  peer : Nat
  addr : Nat
  len : Nat
  ckoff : Nat
deriving DecidableEq, Repr
/-- Entry `i` of the plan at an address, with absolute addresses. -/
def State.planEnt (s : State) (r : CollRun) (i : Nat) : PlanEnt :=
  let w := fun (k : Nat) => s.devWord (r.plan + 32 + 32 * i + 8 * k)
  let recv := (w 0).bit 0
  ⟨recv, (w 0).bits 31 16, (w 1).bits 51 0 + (if r.reshard then 0 else if recv then r.dst else r.src), (w 2).bits 39 0, (w 3).bits 39 0⟩
/-- The entries of a plan. -/
def State.planEnts (s : State) (r : CollRun) : List PlanEnt :=
  if r.reshard || r.cop == 4 then (List.range ((s.devWord r.plan).bits 12 0)).map (s.planEnt r) else []
/-- The key under which slots wait for the READY of a plan's peer. -/
def peerKey (n : Nat) : Nat := 64 + n
/-- The bits of a plan that must be zero. -/
def State.planForm (s : State) (r : CollRun) : Bool :=
  let n := (s.devWord r.plan).bits 12 0
  let zero := fun (a keep : Nat) => ((s.devWord a).toNat &&& (2 ^ 64 - 1 - keep)) == 0
  decide (1 ≤ n) && decide (n ≤ 4096) && zero r.plan (maskBits 12 0) && ([8, 16, 24].all fun o => zero (r.plan + o) 0) &&
    (List.range n).all fun i =>
      let a := r.plan + 32 + 32 * i
      zero a (maskBits 0 0 + maskBits 31 16) && zero (a + 8) (maskBits 51 0) && zero (a + 16) (maskBits 39 0) && zero (a + 24) (maskBits 39 0)
/-- The plan is one that R440, or for a checkpoint R443, allows. -/
def State.planOk (s : State) (fn g : Nat) (r : CollRun) : Bool :=
  let es := s.planEnts r
  let indexed := es.zipIdx
  s.mapped fn r.plan 32 (entDram true false) && s.planForm r && s.mapped fn r.plan (32 + 32 * es.length) (entDram true false) &&
    es.all (fun e => e.len % 256 == 0 && s.mapped fn e.addr e.len (entDram (!e.recv) e.recv)) &&
    (if r.via = 1 then es.all fun e => !e.recv && e.peer == 0 && decide (e.ckoff + e.len ≤ r.len)
     else
      es.all (fun e => e.ckoff == 0 && e.peer != s.ownNode && s.boxHas (s.grpWord g 1) e.peer &&
        (r.reshard || decide (e.addr + e.len ≤ (if e.recv then r.dst else r.src) + r.len))) &&
      indexed.all fun x => !x.1.recv || indexed.all fun y => x.2 == y.2 || !overlaps x.1.addr x.1.len y.1.addr y.1.len)
/-- The sends of a plan, slot by slot round the lanes, each entry from the lowest (R441; log entry 99). -/
def State.planSend (s : State) (g : Nat) (r : CollRun) : State :=
  let lanes := s.gLanes g
  let es := s.planEnts r
  let s := ((es.filter (·.recv)).map (·.peer)).eraseDups.foldl (fun (s : State) n => s.sendReady g (lanes.headD 0) n) s
  (es.filter fun e => !e.recv).foldl (fun (s : State) e => (List.range (e.len / 256)).foldl (fun (s : State) n =>
    s.emit g (peerKey e.peer) (s.mkSlot g (lanes.getD (n % max lanes.length 1) 0) e.peer 3 (256 * n) (s.rawSlot (e.addr + 256 * n) 256))) s) s

/-! ### Ending (R438, R449) -/

/-- The bytes of receive entry `i` that arrive on lane `k`: its slots go round the lanes (R441). -/
def State.planShare (s : State) (g k len : Nat) : Nat :=
  let lanes := s.gLanes g
  256 * ((List.range (len / 256)).filter fun n => lanes.getD (n % max lanes.length 1) 0 == k).length
/-- The key under which what lane `k` has brought of entry `i` is counted. -/
def planKey (i k : Nat) : Nat := 8 * i + k
/-- Every slot is sent and acknowledged, every phase is over, and every receive range is full. -/
def State.collDone (s : State) (g : Nat) (r : CollRun) : Bool :=
  let geo := s.geo g r
  r.outst == 0 && r.holdq.isEmpty && r.txq.isEmpty && (s.group g).refused.isEmpty && r.durable &&
    geo.lanes.all (fun k => count r.phase k == (r.phases geo).length) &&
    (r.via == 1 || (s.planEnts r).zipIdx.all fun e => !e.1.recv || (s.gLanes g).all fun k => count r.rgot (planKey e.2 k) == s.planShare g k e.1.len)
/-- A member that ends early sends nothing further: its queued slots and their tags go. -/
def State.dropQueued (s : State) (g : Nat) : State :=
  let mine := fun (x : Slot × Option (Nat × Nat)) => x.1.src.toNat == s.ownNode && x.1.job.toNat == s.gid g
  (List.range 36).foldl (fun (s : State) l =>
    let q := (s.link l).dataq.filter mine
    q.foldl (fun (s : State) x => s.dropLinkTag l x.1.tag.toNat false) (s.updLink l fun k => { k with dataq := k.dataq.filter fun x => !mine x })) s
/-- SEQ advances and ACTIVE falls. -/
def State.gAdvance (s : State) (g : Nat) : State :=
  (s.setRegBits (aCeGrp g 3) 39 0 ((s.gSeq g + 1) % 2 ^ 40)).setRegBits (aCeGrp g 3) 40 40 0
/-- The run of group `g` ends with a status: its completion is due, and the passes it carries a norm for learn of it. -/
def State.collEnd (s : State) (g status : Nat) : State :=
  match (s.group g).run with
  | none => s
  | some r =>
    let s := if r.fail = 0 then s else s.dropQueued g
    let s := (s.updGroup g fun x => { x with run := none, refused := [] }).gAdvance g
    let s := (s.endFlash r.handle).due r.handle status 0
    (s.updCmd r.handle fun c => { c with sstat := r.sstat.toNat }).normDone r.handle status

/-- A command's place in the collective engine: its group entry plus one once accepted. -/
def groupStage : Nat := 2
/-- 1 the drain it names is awaited, 2 the next step boundary, 0 neither. -/
def trigStage : Nat := 3
/-- A pass waits for its result (R326). -/
def boundStage : Nat := 4
/-- The next accepted command of group `g`, in submission order. -/
def State.collHead (s : State) (g : Nat) : Option Cmd :=
  s.host.cmds.find? fun c => c.phase == .running && c.at groupStage == g + 1
/-- The run that a command makes. -/
def Cmd.collRun (c : Cmd) : CollRun :=
  let w := c.word 1
  if c.opcode = 0x0E then
    ⟨c.handle, true, w.bits 0 0, 4, false, 0, 0, 0, (c.word 3).toNat, (c.word 4).bits 39 0, (c.word 2).bits 51 0, [], [], [], [], [], [], [], [], [],
      0, false, 0, w.bits 0 0 == 0, 0⟩
  else
    ⟨c.handle, false, 0, w.bits 2 0, w.bit 3, w.bits 7 4, w.bits 47 32, (c.word 2).toNat, (c.word 3).toNat, (c.word 4).bits 39 0,
      (c.word 6).bits 51 0, [], [], [], [], [], [], [], [], [], 0, false, 0, true, 0⟩
/-- The level that a run needs (R444). -/
def CollRun.level (r : CollRun) : Nat :=
  if r.reshard || r.cop == 4 || (decide (r.cop < 2) && (r.dfmt == 1 || r.dfmt == 10)) then 2 else 1
/-- The group may not run this level now (R444, R445). -/
def State.levelBad (s : State) (g : Nat) (r : CollRun) : Bool :=
  decide (s.gLevel g < r.level) || ((s.reg (aGlLstat 0)).bit 8 && decide (s.gLevel g < s.flevel))
/-- The nodes that a run sends to first. -/
def State.firstHops (s : State) (g : Nat) (r : CollRun) : List Nat :=
  let geo := s.geo g r
  ((r.phases geo).map fun p => let d := geo.ds.getD p.2 (0, 1, 0); s.gPeer g d.1 ((d.2.2 + 1) % d.2.1)) ++
    (if r.via = 1 then [] else ((s.planEnts r).filter fun e => !e.recv).map (·.peer))
/-- The status with which a command ends at its start, 0 where it runs (R438, R444). -/
def State.startStatus (s : State) (g : Nat) (r : CollRun) : Nat :=
  if s.levelBad g r then 0x0C
  else if (s.reg (aCeGrp g 3)).bit 41 then 5
  else if (s.geo g r).lanes.any fun k => (s.firstHops g r).any fun n =>
    match s.routeDir n with | some d => !s.linkUp (6 * k + d) | none => false then 0x0B
  else 0

/-! ### READY (R432, R449) -/

/-- The watermark that a READY carries. -/
def readyWm (x : Slot) : Nat := (x.data.extractLsb' 144 128).toNat
/-- Hold a READY for the command to come; a second one from the same member is refused. -/
def State.holdReady (s : State) (g k : Nat) (x : Slot) : State × Nat :=
  let l := FMap.get ([] : List Slot) (s.group g).readyHeld k
  if x.offset.toNat < s.gSeq g || l.any (fun y => y.src == x.src) then (s, 1)
  else (s.updGroup g fun q => { q with readyHeld := FMap.set ([] : List Slot) q.readyHeld k (l ++ [x]) }, 0)
/-- The key that a READY from a member opens on lane `k`: the lowest phase to it that is not ready, or the plan's peer. -/
def State.readyKey (s : State) (g k : Nat) (r : CollRun) (src : Nat) : Option Nat :=
  let geo := s.geo g r
  let hit := (List.range (r.phases geo).length).find? fun i =>
    let d := geo.ds.getD ((r.phases geo).getD i (0, 0)).2 (0, 1, 0)
    s.gPeer g d.1 ((d.2.2 + 1) % d.2.1) == src && !(NatSet.mem r.ready (phaseKey k i))
  match hit with
  | some i => some (phaseKey k i)
  | none =>
    if r.via ≠ 1 && ((s.planEnts r).any fun e => !e.recv && e.peer == src) && !(NatSet.mem r.ready (peerKey src)) then some (peerKey src) else none
/-- Compare a READY with the running collective: what it opens is sent. Answers the acknowledgement's ST. -/
def State.takeReady (s : State) (g k : Nat) (x : Slot) : State × Nat :=
  match (s.group g).run with
  | none => if readyWm x = (s.grpDigest g).toNat then s.holdReady g k x else (s, 3)
  | some r =>
    if readyWm x ≠ (s.grpDigest g).toNat then (s.collFail g 5, 3)
    else if x.offset.toNat = (s.gSeq g + 1) % 2 ^ 40 then s.holdReady g k x
    else if x.offset.toNat ≠ s.gSeq g || x.data.toNat % 2 ^ 144 ≠ s.readyData g r % 2 ^ 144 then (s.collFail g 8, 1)
    else match s.readyKey g k r x.src.toNat with
      | none => (s, 1)
      | some key => (s.openKey g key, 0)

/-! ### Starting -/

/-- All-gather and broadcast at their source, and a reduction with no phase: what this member stores before anything is sent
(R434, R436). -/
def State.collSource (s : State) (g : Nat) (r : CollRun) : State :=
  let geo := s.geo g r
  let q := (geo.ds.map fun d => d.2.1).foldl (· * ·) 1
  geo.lanes.zipIdx.foldl (fun (s : State) kj =>
    let j := kj.2
    if r.cop < 2 then
      if (r.phases geo).isEmpty then
        s.storeFinal g r geo j 0 0 ((List.range (geo.stripe / r.de)).map (s.ownValue r geo j true))
      else s
    else if r.cop = 2 || (r.cop = 3 && r.root == s.ownNode) then
      let x := if r.cop = 2 then geo.range 3 else (0, geo.stripe)
      let a := if r.cop = 2 then r.src + j * (geo.stripe / q) else r.src + j * geo.stripe
      if r.narrow then
        (s.storeFinal g { r with cop := 0 } geo j (x.1 / r.de) (x.1 / r.de) ((List.range (x.2 / r.de)).map fun e => s.collElem r (a + r.de * e)))
      else
        (List.range ((x.2 + 255) / 256)).foldl (fun (s : State) n =>
          let d := s.rawSlot (a + 256 * n) (min 256 (x.2 - 256 * n))
          s.storeRaw g (s.mkSlot g kj.1 0 3 0 d) (r.dst + j * geo.stripe + x.1 + 256 * n) (min 256 (x.2 - 256 * n))) s
    else s) s
/-- The words of a checkpoint: the send ranges at their offsets, open values between them (log entry 7). -/
def State.ckptBytes (s : State) (r : CollRun) : List Byte × State :=
  let z := s.freeBytes r.len
  let m := (s.planEnts r).foldl (fun (m : Array Byte) e =>
    (s.fnBytes 0 e.addr e.len).zipIdx.foldl (fun (m : Array Byte) b => m.setIfInBounds (e.ckoff + b.2) b.1) m) z.1.toArray
  (m.toList, z.2)
/-- The range of a flash checkpoint: class F (R443). -/
def CollRun.ckptRange (r : CollRun) : FRange := ⟨r.dst, r.len, 0, 0, 0, 8, 0, 0, 0⟩
/-- Write a checkpoint: into a host window at once, towards flash by a class F write (R443). -/
def State.ckptWrite (s : State) (g fn : Nat) (r : CollRun) : State :=
  let es := s.planEnts r
  let bad := es.any fun e => s.fnBad 0 e.addr e.len
  if isHostWin r.dst 1 then
    let s := es.foldl (fun (s : State) e =>
      ((List.range (e.len / 8)).foldl (fun (s : State) i =>
        s.putFnWord fn (r.dst + e.ckoff + 8 * i) (s.devWord (e.addr + 8 * i)) (s.devMark (e.addr + 8 * i))) s).paWrite fn e.len) s
    s.updRun g fun r => { r with durable := true, poisoned := r.poisoned || bad }
  else if bad then s.collFail g 3
  else if s.wrstop then s.collFail g 0x0D
  else
    let z := s.ckptBytes r
    let s := z.2.updMem fun m => { m with writing := m.writing ++ [(r.handle, r.ckptRange)] }
    (s.keepWords r.handle (leWords z.1 (r.len / 8))).keep r.handle readStage 2
/-- Enter the first phase of every lane. -/
def State.enterLanes (s : State) (g : Nat) (r : CollRun) : State := (s.geo g r).lanes.foldl (fun (s : State) k => s.laneEnter g k 8) s
/-- Start a command on group `g` (R432, R438). -/
def State.collBegin (s : State) (g : Nat) (c : Cmd) : State :=
  let r := c.collRun
  let held := (s.group g).readyHeld
  let s := (s.updGroup g fun q => { q with run := some r, readyHeld := [], refused := [] }).setRegBit (aCeGrp g 3) 40
  let s := if r.reshard && r.via == 1 then s.ckptWrite g c.fn r else s.collSource g r
  let s := held.foldl (fun (s : State) e => e.2.foldl (fun (s : State) x => (s.takeReady g e.1 x).1) s) s
  let s := if r.via ≠ 1 then s.planSend g r else s
  match (s.group g).run with
  | none => s
  | some r => if r.durable then s.enterLanes g r else s
/-- End the run of group `g` where it is over, and start what waits behind it. -/
def State.collSettle (s : State) (g : Nat) : Nat → State
  | 0 => s
  | fuel + 1 =>
    match (s.group g).run with
    | some r =>
      if r.fail ≠ 0 then State.collSettle (s.collEnd g r.fail) g fuel
      else if s.collDone g r then State.collSettle (s.collEnd g (if r.poisoned then 3 else 0)) g fuel
      else s
    | none =>
      match (s.collHead g).filter fun c => c.at trigStage == 0 && !(NatSet.mem s.digestBad g) with
      | none => s
      | some c =>
        if !s.gValid g then State.collSettle ((s.due c.handle 8 1).normDone c.handle 8) g fuel
        else
          let st := s.startStatus g c.collRun
          if st = 0 then State.collSettle (s.collBegin g c) g fuel
          else State.collSettle (((s.gAdvance g).due c.handle st 0).normDone c.handle st) g fuel
/-- Settle group `g`, with turns for every command in flight. -/
def State.collGo (s : State) (g : Nat) : State := s.collSettle g (2 * s.host.cmds.length + 2)

/-! ### The commands (R429, R430, R442, R443) -/

/-- The elements of unit U by mode and COP, in bytes, and whether Q divides too (R430). -/
def CollRun.unit (r : CollRun) : Nat := if r.narrow then 128 else if r.cop < 2 then 32 * r.de else 256
/-- DFMT is one that the mode and COP allow. -/
def CollRun.fmtOk (r : CollRun) : Bool :=
  if r.narrow then r.dfmt == 0 || r.dfmt == 2
  else if r.cop < 2 then [0, 1, 2, 10].contains r.dfmt else decide (r.dfmt ≤ 10)
/-- [a, a + n) lies on a half-stack whose die is not powered. -/
def State.stackDown (s : State) (a n : Nat) : Bool :=
  n != 0 && ((List.range (stackOf (a + n - 1) + 1)).drop (stackOf a)).any fun q => s.die q != .powered
/-- Bytes at SRC and at DST. -/
def CollRun.spans (r : CollRun) (q : Nat) : Nat × Nat :=
  (if r.cop = 2 then r.len / q else r.len, if r.cop = 1 then r.len / q else r.len)
/-- The first command word at fault under R429, R430 and R440. -/
def State.collFault (s : State) (c : Cmd) : Option Nat :=
  let r := c.collRun
  let w := c.word 1
  match (s.gFind (w.bits 31 16)).filter fun g => s.gOwner g == c.fn with
  | none => some 1
  | some g =>
    let q := [0, 1, 2].foldl (fun n d => n * boxLen (s.grpWord g 1) d) 1
    let sp := r.spans q
    let trig := (c.word 0).bit 17
    if trig && (r.cop == 3 || r.cop == 4) then some 0
    else if decide (4 < r.cop) || !r.fmtOk || (r.narrow && r.cop == 4) ||
        (if r.cop = 3 then !(s.boxHas (s.grpWord g 1) r.root) else w.bits 47 40 != 0) then some 1
    else if !(s.mapped c.fn r.src sp.1 (entDram true false)) then some 2
    else if !(s.mapped c.fn r.dst sp.2 (entDram false true)) ||
        (overlaps r.src sp.1 r.dst sp.2 && !(r.cop == 0 && r.src == r.dst)) then some 3
    else if !r.scalar && (r.len = 0 || r.len % (r.unit * (s.gLanes g).length * (if r.cop < 3 then q else 1)) ≠ 0) then some 4
    else if r.cop = 4 && !(s.planOk c.fn g r) then some 6
    else none
/-- A COLL qualifies for a pass (R326). -/
def State.qualifies (s : State) (c : Cmd) (x : Pass) : Bool :=
  let d := s.updDesc x.addr
  c.opcode == 6 && (c.word 0).bit 17 && c.fn == handleFn x.handle && (c.word 1).bits 38 32 == uStart d &&
    (c.word 2).toNat == uNormw d && (c.word 3).toNat == uNormw d &&
    match s.gFind ((c.word 1).bits 31 16) with | some g => s.gRegion g == x.region | none => false
/-- A COLL accepted after the declaration binds to the passes that still wait for one, and starts at the next step boundary. -/
def State.bindLate (s : State) (h : W64) : State :=
  match s.cmd h with
  | none => s
  | some c =>
    let ps := s.passes.filter fun x => x.ph == 1 && x.bound.isNone && s.qualifies c x
    if ps.isEmpty then s
    else
      let s := (s.keep h trigStage 2).keep h boundStage 1
      ps.foldl (fun (s : State) x => s.updPass x.q x.id fun y => { y with bound := some h }) s
/-- Accept a COLL with a COP that `p` picks (R429, R430). -/
def State.collCmd (s : State) (h : W64) (p : Nat → Bool) : State :=
  match (s.openCmd h 6).filter fun c => p ((c.word 1).bits 2 0) with
  | none => s
  | some c =>
    match s.collFault c with
    | some w => s.due h 8 w
    | none =>
      let g := (s.gFind ((c.word 1).bits 31 16)).getD 0
      let r := c.collRun
      let q := [0, 1, 2].foldl (fun n d => n * boxLen (s.grpWord g 1) d) 1
      if s.stackDown r.src (r.spans q).1 || s.stackDown r.dst (r.spans q).2 then s.due h 6 0
      else
        let s := (s.begin h).keep h groupStage (g + 1)
        if (c.word 0).bit 17 then (s.keep h trigStage 1).bindLate h else s.collGo g
/-- ALL_REDUCE (R429–R438); a reserved COP is refused here. -/
def execAllReduce (h : W64) (s : State) : Out := .next (s.collCmd h fun c => c == 0 || decide (4 < c))
/-- REDUCE_SCATTER. -/
def execReduceScatter (h : W64) (s : State) : Out := .next (s.collCmd h fun c => c == 1)
/-- ALL_GATHER. -/
def execAllGather (h : W64) (s : State) : Out := .next (s.collCmd h fun c => c == 2)
/-- BROADCAST. -/
def execBroadcast (h : W64) (s : State) : Out := .next (s.collCmd h fun c => c == 3)
/-- PERMUTE (R440, R441). -/
def execPermute (h : W64) (s : State) : Out := .next (s.collCmd h fun c => c == 4)

/-- The first command word at fault under R440, R442 and R443; in flight is the RUN or STEP that the region has taken up (R146). -/
def State.reshardFault (s : State) (c : Cmd) : Option Nat :=
  let r := c.collRun
  match (s.gFind ((c.word 1).bits 31 16)).filter fun g => s.gOwner g == c.fn with
  | none => some 1
  | some g =>
    if r.via = 0 && (s.rgn (s.gRegion g)).run.isSome then some 1
    else if !(s.planOk c.fn g r) then some 2
    else if r.via = 1 && isFlash r.dst 1 &&
        (r.dst % 65536 != 0 || s.flashRead r.dst r.len || !(s.mapped c.fn r.dst r.len fun e => e.kind == 1 && e.wr)) then some 3
    else if r.via = 1 && !isFlash r.dst 1 && !(s.mapped c.fn r.dst r.len (entHost false true 0)) then some 3
    else if r.via = 1 && isFlash r.dst 1 && (r.len % 65536 != 0 || r.len = 0) then some 4
    else none
/-- Accept a RESHARD with a VIA. -/
def State.reshardCmd (s : State) (h : W64) (via : Nat) : State :=
  match (s.openCmd h 0x0E).filter fun c => (c.word 1).bits 0 0 == via with
  | none => s
  | some c =>
    match s.reshardFault c with
    | some w => s.due h 8 w
    | none =>
      let g := (s.gFind ((c.word 1).bits 31 16)).getD 0
      if (s.planEnts c.collRun).any fun e => s.stackDown e.addr e.len then s.due h 6 0
      else ((s.begin h).keep h groupStage (g + 1)).collGo g
/-- RESHARD_PERMUTE (R442). -/
def execReshardPermute (h : W64) (s : State) : Out := .next (s.reshardCmd h 0)
/-- RESHARD_CHECKPOINT (R443). -/
def execReshardCheckpoint (h : W64) (s : State) : Out := .next (s.reshardCmd h 1)

/-- A flash checkpoint's journal record is durable: the barrier begins (R443). -/
def State.ckptCommit (s : State) (h : W64) : State :=
  match (s.cmd h).filter fun c => c.opcode == 0x0E && c.phase == .running && c.at readStage == 2 with
  | none => s
  | some c =>
    let g := c.at groupStage - 1
    match (s.group g).run.filter fun r => r.handle == h && !r.durable with
    | none => s
    | some r =>
      let s := s.endFlash h
      if s.flashRead r.dst r.len then (s.collFail g 8).collGo g
      else
        let s := s.commitFlash r.ckptRange ((c.kept (r.len / 8)).flatMap fun w => leBytes w.toNat 8) r.len
        ((s.updRun g fun r => { r with durable := true }).enterLanes g r).collGo g
/-- Blocks of the two flash dies whose program failed on the way are retired (R306). -/
def State.retireBlocks (s : State) (bad0 bad1 : Nat) : State :=
  ((s.addJournal 0 2 bad0).addJournal 1 2 bad1).showFlashes
/-- FLASH_WRITE_COMMIT: the journal record of a FLASH_WRITE or of a flash checkpoint is durable, after `bad0` and `bad1` blocks of the two
flash dies failed to program (R306, R311, R443). -/
def execFlashWriteCommit (h : FlashCommit) (s : State) : Out :=
  let busy := s.mem.writing.any fun w => w.1 == h.handle
  .next (if busy then ((s.flashCommit h.handle).ckptCommit h.handle).retireBlocks h.bad0 h.bad1 else s.discardReport h.handle)

/-! ### Slots at the engine (R413, R432–R443) -/

/-- Take a REDUCE slot of lane `k`. Answers the acknowledgement's ST. -/
def State.takeReduce (s : State) (g k : Nat) (r : CollRun) (x : Slot) : State × Nat :=
  let geo := s.geo g r
  let i := count r.phase k
  match ((r.phases geo)[i]?).filter fun p => p.1 == 0 with
  | none => (s, 1)
  | some p =>
    let d := geo.ds.getD p.2 (0, 1, 0)
    let own := d.2.2
    let spp := max (r.slots 0 (geo.piece p.2 0).2) 1
    let c := x.offset.toNat / 256 / spp
    let n := x.offset.toNat / 256 % spp
    let pc := geo.piece p.2 c
    if x.src.toNat ≠ s.gPeer g d.1 ((own + d.2.1 - 1) % d.2.1) || d.2.1 ≤ c || c = (own + d.2.1 - 1) % d.2.1 || r.slots 0 pc.2 ≤ n then (s, 1)
    else
      let j := geo.lanes.idxOf k
      let e := pc.1 / r.de + r.perSlot * n
      let cnt := min r.perSlot (pc.2 / r.de - r.perSlot * n)
      let z := r.slotValues x cnt
      let sums := z.1.zipIdx.map fun v => r.addOne v.1 (s.ownValue r geo j (i == 0) (e + v.2))
      let l := sums.map (·.1)
      let s := s.collEvents g z.2
      let s :=
        if c ≠ own then
          let y := r.packValues l
          (s.collEvents g y.2).emit g (phaseKey k i) (s.mkSlot g k (s.gPeer g d.1 ((own + 1) % d.2.1)) 2 x.offset.toNat y.1)
        else if (r.phases geo)[i + 1]?.any fun q => q.1 == 0 then
          let base := j * geo.stripe / r.de + e
          s.updRun g fun r => { r with
            part := l.zipIdx.foldl (fun m v => FMap.set 0 m (base + v.2) (v.1.1.toNat + 1)) r.part,
            partPoison := l.zipIdx.foldl (fun m v => NatSet.put m (base + v.2) v.1.2) r.partPoison }
        else s.storeFinal g r geo j (pc.1 / r.de) e l
      (s.phaseGot g k, 0)
/-- Store a piece's slot at DST: raw bytes, or narrow blocks widened, which are kept for the phases to come. -/
def State.storePlaced (s : State) (g : Nat) (r : CollRun) (geo : Geo) (j : Nat) (pc : Nat × Nat) (n : Nat) (x : Slot) : State :=
  if r.narrow then
    (List.range (min 7 (pc.2 / r.de / 32 - 7 * n))).foldl (fun (s : State) b =>
      let blk := slotBlock x b
      let w := blk.widen
      let e := pc.1 / r.de + 32 * (7 * n + b)
      let s := (s.collEvents g w.2).storeElems g r (w.1.zipIdx.map fun v => (r.dstAt geo j (e + v.2), v.1))
      s.updRun g fun r => { r with
        quant := FMap.set ([] : List Byte) r.quant ((j * geo.stripe / r.de + e) / 32)
          ((blk.codes ++ [blk.scale, if blk.bad then 1 else 0]).map (BitVec.ofNat 8)) }) s
  else s.storeRaw g x (r.dst + j * geo.stripe + pc.1 + 256 * n) (min 256 (pc.2 - 256 * n))
/-- Take a PLACE slot of a plan on lane `k`: the first receive entry from its sender of which the lane still has slots to bring
(R441). -/
def State.takePlan (s : State) (g k : Nat) (r : CollRun) (x : Slot) : State × Nat :=
  match (s.planEnts r).zipIdx.find? fun e => e.1.recv && e.1.peer == x.src.toNat && decide (count r.rgot (planKey e.2 k) < s.planShare g k e.1.len) with
  | none => (s, 1)
  | some e =>
    if e.1.len < x.offset.toNat + 256 then (s, 1)
    else ((s.storeRaw g x (e.1.addr + x.offset.toNat) 256).updRun g fun r => { r with rgot := bump r.rgot (planKey e.2 k) 256 }, 0)
/-- Take a PLACE slot of lane `k`. -/
def State.takePlace (s : State) (g k : Nat) (r : CollRun) (x : Slot) : State × Nat :=
  let geo := s.geo g r
  let i := count r.phase k
  if r.cop = 4 then (if r.via = 1 then (s, 1) else s.takePlan g k r x)
  else match ((r.phases geo)[i]?).filter fun p => p.1 == 1 || p.1 == 2 with
    | none => (s, 1)
    | some p =>
      let d := geo.ds.getD p.2 (0, 1, 0)
      let own := d.2.2
      let whole := p.1 == 2
      let spp := max (r.slots p.1 (if whole then geo.stripe else (geo.piece p.2 0).2)) 1
      let c := x.offset.toNat / 256 / spp
      let n := x.offset.toNat / 256 % spp
      let pc := if whole then (0, geo.stripe) else geo.piece p.2 c
      let rel := if whole then s.bcastRel g r geo p.2 else some 1
      if x.src.toNat ≠ s.gPeer g d.1 ((own + d.2.1 - 1) % d.2.1) || r.slots p.1 pc.2 ≤ n || rel.all (· == 0) ||
          (if whole then c != 0 else decide (d.2.1 ≤ c) || c == own) then (s, 1)
      else
        let s := s.storePlaced g r geo (geo.lanes.idxOf k) pc n x
        let last := if whole then rel == some (d.2.1 - 1) else c == (own + 1) % d.2.1
        let s := if last then s
          else s.emit g (phaseKey k i) (s.mkSlot g k (s.gPeer g d.1 ((own + 1) % d.2.1)) 3 x.offset.toNat (x.data, x.poison))
        (s.phaseGot g k, 0)
/-- Take a BARRIER slot of lane `k`: it goes on until it has come round (R443). -/
def State.takeBarrier (s : State) (g k : Nat) (r : CollRun) (x : Slot) : State × Nat :=
  let geo := s.geo g r
  let i := count r.phase k
  match ((r.phases geo)[i]?).filter fun p => p.1 == 3 with
  | none => (s, 1)
  | some p =>
    let d := geo.ds.getD p.2 (0, 1, 0)
    let h := x.offset.toNat / 256
    if x.src.toNat ≠ s.gPeer g d.1 ((d.2.2 + d.2.1 - 1) % d.2.1) then (s, 1)
    else
      let s := if h + 2 < d.2.1 then s.emit g (phaseKey k i) (s.mkSlot g k (s.gPeer g d.1 ((d.2.2 + 1) % d.2.1)) 4 (256 * (h + 1)) (0, 0)) else s
      (s.phaseGot g k, 0)
/-- A data slot for this module at the slice of lane `k`: acknowledged once it is placed (R413, R438). -/
def State.ceSlot (s : State) (k : Nat) (x : Slot) : State :=
  match s.gFind x.job.toNat with
  | none => s.sendAck k x 1
  | some g =>
    if x.wm.toNat ≠ s.gWm g then
      ((s.sendAck k x 3).collFail g 5).collGo g
    else
      let z := if x.op = 1 then s.takeReady g k x
        else match (s.group g).run with
          | none => (s, 1)
          | some r =>
            if r.fail ≠ 0 then (s, 1)
            else if x.op = 2 then s.takeReduce g k r x
            else if x.op = 3 then s.takePlace g k r x
            else if x.op = 4 then s.takeBarrier g k r x
            else (s, 1)
      let s := if z.2 = 0 then z.1.addCtr (s.gRegion g) 15 0 256 else z.1
      (s.sendAck k x z.2).collGo g

/-! ### Acknowledgements (R414, R438) -/

/-- An acknowledgement for a slot of this module: its tag is released, and its transfer learns its ST. -/
def State.ackIn (s : State) (a : W64) : State :=
  let l := a.bits 21 16
  let t := a.bits 32 22
  match (if a.bits 36 33 = count (s.link l).tagGen t then (s.link l).tag t else none) with
  | none => s.addReg aObsStale 1
  | some u =>
    let s := s.dropLinkTag l t false
    match (s.group u.grp).run.filter fun r => r.handle == u.handle with
    | none => s
    | some _ =>
      let g := u.grp
      let s := s.updRun g fun r => { r with outst := r.outst - 1 }
      let s := match a.bits 40 38 with
        | 0 => s
        | 1 => (match u.ready with
          | some x => s.updGroup g fun q => { q with refused := FMap.upd ([] : List Slot) q.refused (l / 6) fun y => y ++ [x] }
          | none => s.collFail g 8)
        | 2 => s.collFail g 0x0B
        | _ => s.collFail g 5
      (s.pumpTx g).collGo g
/-- A tag that is released unacknowledged loses its transfer (R414). -/
def State.loseTag (s : State) (l t : Nat) : State :=
  match (s.link l).tag t with
  | none => s
  | some u =>
    let s := s.dropLinkTag l t true
    match (s.group u.grp).run.filter fun r => r.handle == u.handle with
    | none => s
    | some _ => ((s.updRun u.grp fun r => { r with outst := r.outst - 1 }).collFail u.grp 0x0B).collGo u.grp

/-- READY_SLOT (R432). -/
def execReadySlot (l : Nat) (x : Slot) (s : State) : Out := .next (if x.op = 1 then s.ceSlot (l / 6) x else s)
/-- REDUCE_SLOT (R433). -/
def execReduceSlot (l : Nat) (x : Slot) (s : State) : Out := .next (if x.op = 2 then s.ceSlot (l / 6) x else s)
/-- PLACE_SLOT (R433). -/
def execPlaceSlot (l : Nat) (x : Slot) (s : State) : Out := .next (if x.op = 3 then s.ceSlot (l / 6) x else s)
/-- BARRIER_SLOT (R443). -/
def execBarrierSlot (l : Nat) (x : Slot) (s : State) : Out := .next (if x.op = 4 then s.ceSlot (l / 6) x else s)
/-- TAG_TIMEOUT: a tag unacknowledged for 1 ms (R414). -/
def execTagTimeout (l tag : Nat) (s : State) : Out := .next (s.loseTag l tag)
/-- READY_RESEND: the READYs of lane `k` that were refused go again (R449). -/
def execReadyResend (g k : Nat) (s : State) : Out :=
  let q := FMap.get ([] : List Slot) (s.group g).refused k
  .next ((q.foldl (fun (s : State) x => s.injectSlot g true x)
    (s.updGroup g fun y => { y with refused := FMap.set ([] : List Slot) y.refused k [] })).collGo g)
/-- COLL_STALL_TIMEOUT: 10 ms without a slot sent, received or acknowledged (R438). -/
def execCollStallTimeout (g : Nat) (s : State) : Out := .next ((s.collFail g 7).collGo g)
/-- DIGEST_RECOMPUTE: the digest is formed from its inputs, and what waited for it goes on (R448). -/
def execDigestRecompute (g : Nat) (s : State) : Out :=
  .next (if g = 64 then s.computeWm else if g < 64 && s.gValid g then (s.computeGrp g).collGo g else s)

/-! ### At boundaries (R429, R438) -/

/-- The drain of group `grp` of region `r` is declared: the COLLs that wait for it start (R429). -/
def State.trigColl (s : State) (r grp : Nat) : State :=
  let hit := s.host.cmds.filter fun c => c.phase == .running && c.opcode == 6 && c.at trigStage == 1 &&
    s.gRegion (c.at groupStage - 1) == r && (c.word 1).bits 38 32 == grp
  hit.foldl (fun (s : State) c => (s.keep c.handle trigStage 0).collGo (c.at groupStage - 1)) s
/-- The COLLs that start at this boundary (R326, R429). -/
def State.lateColl (s : State) : State :=
  (s.host.cmds.filter fun c => c.phase == .running && c.opcode == 6 && c.at trigStage == 2).foldl (fun (s : State) c =>
    (s.keep c.handle trigStage 0).collGo (c.at groupStage - 1)) s
/-- The COLLs whose DEADLINE has passed (R438). -/
def State.lateDeadlines (s : State) : State :=
  (s.host.cmds.filter fun c => c.phase == .running && c.opcode == 6 && (c.word 5) != 0 && decide ((c.word 5).toNat < s.time.now)).foldl
    (fun (s : State) c =>
      let g := c.at groupStage - 1
      if (s.group g).run.any fun r => r.handle == c.handle then (s.collFail g 9).collGo g
      else (((s.gAdvance g).due c.handle 9 0).normDone c.handle 9).collGo g) s
/-- Every collective of a function ends with a status (R359). -/
def State.stopColls (s : State) (fn status : Nat) : State :=
  (List.range 64).foldl (fun (s : State) g =>
    if s.gOwner g == fn && (s.group g).run.isSome then (s.collFail g status).collGo g else s) s

end Sys2Proof.Machine
end

