-- ==== Sys2Proof/Machine/Pavane.lean ====
section
/-! DEFINITION. Pavane: the time source and its states, time loads, follower steps, and the grid (R249–R258). -/

namespace Sys2Proof.Machine

/-! ### Modes and states (R253, R254) -/

/-- The word of PAV_CTL in force: a write takes effect at the next figure boundary (R253). -/
def State.pavCtl (s : State) : W64 := match s.pend.pavCtl with | some w => w | none => s.reg aPavCtl
/-- MODE in force: 0 root, 1 follower, 2 free-run. -/
def State.pavMode (s : State) : Nat := s.pavCtl.bits 1 0
/-- EPOCHEN in force. -/
def State.pavEpoch (s : State) : Bool := s.pavCtl.bit 3
/-- STATE of PAV_STATUS: 0 ACQUIRE, 1 LOCKED, 2 SLEW, 3 HOLDOVER, 4 FREERUN. -/
def State.pavState (s : State) : Nat := s.regBits aPavStatus 2 0
/-- Set STATE. -/
def State.setPav (s : State) (v : Nat) : State := s.setRegBits aPavStatus 2 0 v
/-- Set a bit of PAV_STATUS. -/
def State.pavFlag (s : State) (i : Nat) : State := s.setRegBit aPavStatus i
/-- The source link in use, if it is valid (R255). -/
def State.sourceLink (s : State) : Option Nat :=
  let w := s.reg aPavSrc
  if w.bit 14 then (if w.bit 13 then some (w.bits 12 7) else none) else if w.bit 6 then some (w.bits 5 0) else none
/-- A link is fused off: the Z links of the FX-2524 (R4, R7). -/
def State.linkFused (s : State) (l : Nat) : Bool := decide (36 ≤ l) || (s.power.variant == 2 && decide (4 ≤ l % 6))
/-- DEPTH and DEPTHERR (R254, R259): 0 in root mode, one more than the source's depth in follower mode, 63 without one. -/
def State.showDepth (s : State) : State :=
  let d := if s.pavMode = 0 then 0 else if s.pavMode = 1 then (match s.time.srcDepth with | some n => min (n + 1) 63 | none => 63) else 63
  let s := s.setRegBits aPavStatus 21 16 d
  s.setRegBits aPavStatus 6 6 (if s.pavMode = 1 && s.time.srcDepth.isSome && decide (32 < d) then 1 else 0)
/-- Change what is kept of device time. -/
def State.updTime (s : State) (f : TimeSt → TimeSt) : State := { s with time := f s.time }

/-- A write of MODE, REFSEL and EPOCHEN: a MODE of 3 leaves the field (R253). -/
def State.pavWrite (s : State) (v : W64) : State :=
  let force := s.pavCtl
  let mask := maskBits 3 2 + (if v.bits 1 0 = 3 then 0 else maskBits 1 0)
  let new := mergeBits (s.reg aPavCtl) v mask
  let s := s.setReg aPavCtl new
  { s with pend := { s.pend with pavCtl := if new = force then none else some force } }
/-- At a figure boundary the change takes effect and Pavane enters ACQUIRE; free-run holds FREERUN (R253, R254). -/
def State.pavApply (s : State) : State :=
  match s.pend.pavCtl with
  | none => s
  | some _ =>
    let s := { s with pend := { s.pend with pavCtl := none, tload := false } }
    let s := (s.updTime fun t => { t with epochMiss := 0, epochGood := 0, toBak := false, srcDepth := none }).setRegBits aPavSrc 14 14 0
    (s.setPav (if s.pavMode = 2 then 4 else 0)).showDepth

/-! ### Setting device time (R249, R256) -/

/-- Every context and engine of the module is EMPTY. -/
def State.allEmpty (s : State) : Bool :=
  s.cus.all (fun e => (List.range 4).all fun k => (e.2.ctxAt k).st == .empty) &&
    s.mus.all fun e => (List.range 4).all fun k => (e.2.engAt k).st == .empty
/-- An armed grid change is cancelled, which sets GRIDREF. -/
def State.cancelGrid (s : State) : State :=
  if s.pend.gridAt.isSome then { s.pavFlag 10 with pend := { s.pend with gridAt := none } } else s
/-- Device time becomes `t`, a multiple of 8 dt: TLDONE, and an armed grid change goes (R256). -/
def State.setTime (s : State) (t : Nat) : State :=
  ((s.updTime fun x => { x with now := t % 2 ^ 64 / 8 * 8 }).pavFlag 7).cancelGrid
/-- TLOAD: refused, at once, or pending for the next EPOCH edge; an armed grid change is cancelled (R256, R277). -/
def State.timeLoad (s : State) : State :=
  let s := s.cancelGrid
  let v := (s.reg aPavTlval).toNat
  if !s.allEmpty || s.pavMode == 1 || (s.pavEpoch && v % max (s.regBits aPavPer 47 0) 1 != 0) then s.pavFlag 8
  else if s.pavMode = 0 && s.pavEpoch then { s with pend := { s.pend with tload := true } }
  else s.setTime v

/-! ### Loss and return of the reference (R257, R258) -/

/-- The backup link can take over: it is up and reports a depth of at most 31. -/
def State.bakFit (s : State) : Bool :=
  let w := s.reg aPavSrc
  let l := w.bits 12 7
  w.bit 13 && !w.bit 14 && (s.link l).st == .up && match (s.link l).peerDepth with | some d => decide (d ≤ 31) | none => false
/-- The loss of the reference or source is detected: a follower with a fit backup switches at the next figure boundary, else REFLOST
and HOLDOVER (R257). Pavane that is still acquiring waits (R255). -/
def State.refLost (s : State) : State :=
  if s.pavMode == 2 || !(s.pavState == 1 || s.pavState == 2) then s
  else if s.pavMode = 1 && s.bakFit then s.updTime fun t => { t with toBak := true }
  else ((s.pavFlag 3).setPav 3).updTime fun t => { t with lostFor := some 0 }
/-- The switch to the backup at a figure boundary. -/
def State.pavSwitch (s : State) : State :=
  if !s.time.toBak then s
  else
    let s := s.updTime fun t => { t with toBak := false }
    if s.bakFit then
      let d := (s.link ((s.reg aPavSrc).bits 12 7)).peerDepth
      ((((s.setRegBit aPavSrc 14).pavFlag 5).setPav 2).updTime fun t => { t with srcDepth := d }).showDepth
    else s.refLost
/-- A link leaves UP: it may be the active source (R255, R425). -/
def State.sourceDown (s : State) (l : Nat) : State :=
  if s.pavMode = 1 && s.sourceLink = some l then s.refLost else s

/-! ### The grid (R251, R252) -/

/-- STEPDT, STEPS and CYCLE of PAV_GRID_NEXT. -/
def State.gridNext (s : State) : Nat × Nat × Nat :=
  let w := s.reg aPavGridNext
  (w.bits 15 0, w.bits 32 16, w.bits 45 33)
/-- They are legal (R13, R251). -/
def gridLegal (g : Nat × Nat × Nat) : Bool :=
  g.1 % 8 == 0 && decide (64 ≤ g.1) && decide (g.1 ≤ 1024) && decide (16 ≤ g.2.1) && decide (g.2.1 ≤ 65536) &&
    decide (1 ≤ g.2.2) && decide (g.2.2 ≤ 4096)
/-- A write of PAV_GRID_AT arms a grid change, or sets GRIDREF (R252). -/
def State.armGrid (s : State) (at_ : Nat) : State :=
  let g := s.gridNext
  if gridLegal g && at_ % max s.figDt 1 == 0 && at_ % max (g.1 * g.2.1) 1 == 0 && decide (s.time.now + s.figDt ≤ at_) then
    { s with pend := { s.pend with gridAt := some at_ } }
  else s.pavFlag 10
/-- The region whose range holds a table index. -/
def State.allotOwner (s : State) (i : Nat) : Option Nat :=
  (s.cfg.allot.find? fun e => decide (e.2.bits 11 0 ≤ i) && decide (i < e.2.bits 11 0 + e.2.bits 24 12)).map (·.1)
/-- Entries that do not fit the new grid are invalidated in both banks and counted (R252). -/
def State.fitEntries (s : State) : State :=
  let bad := fun (e : Nat × (W64 × W64)) =>
    let x : SchedEnt := ⟨e.1 % 4096, e.2.1, e.2.2⟩
    x.v && (decide (s.cfg.steps ≤ x.step) || (x.base == 0 && decide (s.cfg.cycle ≤ x.figoff)))
  let s' := { s with banks := s.banks.filter fun e => !bad e }
  (s.banks.filter bad).foldl (fun (s : State) e => match s.allotOwner (e.1 % 4096) with | some r => s.noopSched r | none => s) s'
/-- At AT: the grid takes the values of PAV_GRID_NEXT where every context and engine is EMPTY; every group digest follows, and the module's
within 1 ms (R252, R446, R498). -/
def State.applyGrid (s : State) : State :=
  match s.pend.gridAt with
  | none => s
  | some at_ =>
    let g := s.gridNext
    let s := { s with pend := { s.pend with gridAt := none } }
    if !s.allEmpty || !gridLegal g || at_ % (g.1 * g.2.1) != 0 then s.pavFlag 10
    else
      let s := { s with cfg := { s.cfg with stepdt := g.1, steps := g.2.1, cycle := g.2.2 } }
      let s := ((s.setReg aPavGrid (mergeBits (s.reg aPavGrid) (s.reg aPavGridNext) (maskBits 45 0))).pavFlag 9).fitEntries
      (List.range 64).foldl (fun (s : State) g => if s.gValid g then s.computeGrp g else s) s

/-! ### The rows -/

/-- PAV_CTL_WRITE (R253); a one in TLOAD performs a time load with it. -/
def State.pavCtlWrite (s : State) (v : W64) : State := if v.bit 4 then (s.pavWrite v).timeLoad else s.pavWrite v
def execPavCtlWrite (v : W64) (s : State) : Out := s.pfWrite aPavCtl (s.pavCtlWrite v)
/-- TLOAD (R256). -/
def execTload (s : State) : Out := s.pfWrite aPavCtl s.timeLoad
/-- A rising EPOCH edge reaches the detectors of SRC 0, where EPOCH is used (R253, R268). -/
def State.epochRise (s : State) : State :=
  if s.pavEpoch then s.rgns.foldl (fun (s : State) e => s.latchWhere e.1 (fun op => op.bits 1 0 == 0) false) s else s
/-- EPOCH_EDGE: a rising edge: its error against the nearest multiple of PER; a pending time load takes effect (R253–R257). -/
def execEpochEdge (t : Nat) (s : State) : Out :=
  let s := s.epochRise
  if !(s.pavMode == 0 && s.pavEpoch) then .next s
  else if s.pend.tload then
    let s := { s with pend := { s.pend with tload := false } }
    .next (if s.allEmpty then s.setTime (s.reg aPavTlval).toNat else s.pavFlag 8)
  else
    let per := max (s.regBits aPavPer 47 0) 1
    let d := t % per
    let err : Int := if 2 * d ≤ per then (d : Int) else (d : Int) - per
    let s := s.setReg aPavOffset (BitVec.ofInt 64 err)
    if err.natAbs ≤ 32 then .next (s.updTime fun x => { x with epochMiss := 0, epochGood := min (x.epochGood + 1) 16 })
    else
      let s := (s.pavFlag 4).updTime fun x => { x with epochMiss := x.epochMiss + 1, epochGood := 0 }
      .next (if 3 ≤ s.time.epochMiss then s.refLost else s)
/-- The source link in use is up. -/
def State.sourceUp (s : State) : Bool := match s.sourceLink with | some l => (s.link l).st == .up | none => false
/-- PAV_LOCK: the criterion of R254 has held. ACQUIRE becomes LOCKED after 16 good EPOCH edges in a row in root mode with EPOCH, on a source
within ±2 dt in follower mode, and on a locked frequency in root mode without EPOCH; SLEW becomes LOCKED once the measured offset is
within ±2 dt. -/
def execPavLock (s : State) : Out :=
  let near := decide ((s.reg aPavOffset).toInt.natAbs ≤ 2)
  let acquired := if s.pavMode = 1 then s.sourceUp && near else s.pavMode = 0 && (!s.pavEpoch || decide (16 ≤ s.time.epochGood))
  let slewed := if s.pavMode = 1 then s.sourceUp && near else s.pavMode = 0 && (!s.pavEpoch || near)
  .next (if (s.pavState == 0 && acquired) || (s.pavState == 2 && slewed) then s.setPav 1 else s)
/-- REFERENCE_LOSS (R257). -/
def execReferenceLoss (s : State) : Out := .next s.refLost
/-- HOLDOVER_EXPIRY: 60 s in HOLDOVER (R254). -/
def execHoldoverExpiry (s : State) : Out := .next (if s.pavState = 3 then s.setPav 4 else s)
/-- A loss condition of R257 holds by what the state shows: a follower's source link is not up, or a root has missed three EPOCH edges in
a row. -/
def State.lossHolds (s : State) : Bool :=
  if s.pavMode = 1 then !s.sourceUp else s.pavMode = 0 && s.pavEpoch && decide (3 ≤ s.time.epochMiss)
/-- REFERENCE_REQUALIFY: the loss conditions have not held for the time of R258, and Pavane slews. -/
def execReferenceRequalify (s : State) : Out :=
  .next (if s.pavMode ≠ 2 && !s.lossHolds && (s.pavState == 3 || s.pavState == 4) then s.setPav 2 else s)
/-- FOLLOWER_STEP: a follower that acquires its source while everything is EMPTY steps to its time (R256). -/
def execFollowerStep (t : Nat) (s : State) : Out :=
  .next (if s.pavMode = 1 && s.pavState = 0 && s.sourceUp && s.allEmpty then s.setTime t else s)
/-- PAV_GRID_AT (R252). -/
def execPavGridAt (v : W64) (s : State) : Out := s.pfWrite aPavGridAt (s.armGrid v.toNat)
/-- GRID_CHANGE_APPLY, at AT (R252). -/
def execGridChangeApply (s : State) : Out := .next (if s.pend.gridAt = some s.time.now then s.applyGrid else s)
/-- PAV_SRC_WRITE: refused as a whole with SRCREF, or taken (R255). -/
def State.pavSrcWrite (s : State) (v : W64) : State :=
  let pri := v.bits 5 0
  let bak := v.bits 12 7
  if (v.bit 6 && s.linkFused pri) || (v.bit 13 && s.linkFused bak) || (v.bit 6 && v.bit 13 && pri == bak) then s.pavFlag 11
  else s.setReg aPavSrc (mergeBits (s.reg aPavSrc) (v &&& BitVec.ofNat 64 (maskBits 13 0)) (maskBits 13 0 + (if v.bit 13 then 0 else maskBits 14 14)))
def execPavSrcWrite (v : W64) (s : State) : Out := s.pfWrite aPavSrc (s.pavSrcWrite v)

end Sys2Proof.Machine
end

