-- ==== Sys2Proof/Machine/Links.lean ====
section
/-! DEFINITION. Glogal links above the optical PHY, and the Promenade bypass: states, frames, retry, credits, time transfer and
switches (R397–R425, R447, R552). -/

namespace Sys2Proof.Machine

/-! ### Link registers (R422) -/

/-- Set DOWNWHY: 0 none, 1 NOLIGHT, 2 LANE, 3 ALIGN, 4 WIRING, 5 LEVEL, 6 RETRY, 7 NOFRAME, 8 HOST. -/
def State.downWhy (s : State) (l w : Nat) : State := s.setRegBits (aGlLstat l) 6 3 w
/-- Put a link into a state, which GL_LSTAT reports. -/
def State.setLink (s : State) (l : Nat) (st : LinkState) : State :=
  let v := match st with | .off => 0 | .bypass => 1 | .train => 2 | .align => 3 | .negotiate => 4 | .up => 5
  (s.updLink l fun k => { k with st := st }).setRegBits (aGlLstat l) 2 0 v
/-- The pair of a link. -/
def pairOf (l : Nat) : Nat := 3 * (l / 6) + l % 6 / 2
/-- The links of a pair. -/
def pairLinks (p : Nat) : List Nat := [6 * (p / 3) + 2 * (p % 3), 6 * (p / 3) + 2 * (p % 3) + 1]
/-- MIXLONG clears when no link is MIXED (R404). -/
def State.mixShow (s : State) : State :=
  if (List.range 36).any fun l => (s.reg (aGlLstat l)).bit 7 then s
  else (List.range 36).foldl (fun (s : State) l => s.setRegBits (aGlLstat l) 8 8 0) s
/-- A training attempt begins (R402). -/
def State.enterTrain (s : State) (l : Nat) : State :=
  ((s.updLink l fun k => { k with passed := false }).setLink l .train).addReg (aGlRetrain l) 1

/-- What queues and tags of a link come to when it leaves UP: its own outstanding tags are released, and routed slots queued or in
its retry buffer are answered UNREACHABLE; places are counted afresh (R409, R413, R414, R416, R425). -/
def State.emptyLink (s : State) (l : Nat) : State :=
  let k := s.link l
  let lost := (k.dataq.map (·.1) ++ (k.retry.flatMap (·.slots)).filter fun x => x.sk == 1).filter fun x => x.src.toNat != s.ownNode
  let held := k.dataq.map (·.2) ++ k.ackq.map (·.2)
  let left := fun (h : Option (Nat × Nat)) => if h.any fun x => x.1 == l then none else h
  let s := s.updLink l fun k => { k with dataq := [], ctlq := [], ackq := [], retry := [], resend := [], tries := [], nak := false,
                                         missing := false, peerDepth := none, echoes := 0, echoSum := 0, lastRx := none }
  let s := (List.range 6).foldl (fun (s : State) d => s.updLink (6 * (l / 6) + d) fun x => { x with
    dataq := x.dataq.map fun e => (e.1, left e.2), ackq := x.ackq.map fun e => (e.1, left e.2) }) s
  let s := held.foldl State.freePlace s
  let s := (k.tagUse.map (·.1)).foldl (fun (s : State) t => s.loseTag l t) s
  lost.foldl (fun (s : State) x => s.sendAck (l / 6) x 2) s
/-- A link leaves its state for another; leaving UP ends what it carried. -/
def State.leaveLink (s : State) (l : Nat) (next : LinkState) : State :=
  let up := s.linkUp l
  let s := (s.updLink l fun k => { k with light := false, passed := false }).setLink l next
  let s := (s.setRegBits (aGlLstat l) 39 24 0).setRegBits (aGlLstat l) 7 7 0
  let s := s.setRegBits (aPavLdly l) 32 32 0
  let s := s.mixShow
  if up then (s.sourceDown l).emptyLink l else s
/-- A link goes down for a reason, and trains again (R401, R408). -/
def State.linkDown (s : State) (l why : Nat) : State := ((s.leaveLink l .train).downWhy l why).enterTrain l

/-! ### Training (R402–R405) -/

/-- LIGHT_DETECT: light at both receivers starts the training (R402). -/
def execLightDetect (l : Nat) (s : State) : Out :=
  .next (if (s.link l).st = .train && s.power.seated then s.updLink l fun k => { k with light := true } else s)
/-- LINK_TRAIN_DONE: with all eight lanes trained the link enters ALIGN; a closed pair's link reports its loopback lanes (R402,
R419). -/
def execLinkTrainDone (l : Nat) (laneok : Byte) (s : State) : Out :=
  let show_ := s.setRegBits (aGlLstat l) 23 16 laneok.toNat
  match (s.link l).st with
  | .train => .next (if !(s.link l).light then s else if laneok = 0xff then show_.setLink l .align else show_.downWhy l 2)
  | .bypass => .next show_
  | _ => .next s
/-- LINK_ALIGN_DONE: the link enters NEGOTIATE, and its capability message goes out (R402, R403). -/
def execLinkAlignDone (l : Nat) (s : State) : Out :=
  .next (if (s.link l).st = .align then (s.updLink l fun k => { k with passed := false, retry := [], resend := [] }).setLink l .negotiate else s)
/-- LINK_TRAIN_TIMEOUT: a link that has not reached UP begins training again (R402). -/
def execLinkTrainTimeout (l : Nat) (s : State) : Out :=
  match (s.link l).st with
  | .train => .next ((s.downWhy l (if (s.link l).light then 2 else 1)).enterTrain l)
  | .align => .next ((s.downWhy l 3).enterTrain l)
  | .negotiate => .next (s.enterTrain l)
  | _ => .next s

/-- What holds a link in NEGOTIATE: 4 WIRING, 5 LEVEL, 0 nothing (R404). -/
def State.capCheck (s : State) (l : Nat) (c : Capability) : Nat :=
  let dim := linkDim l
  let size := s.glSize dim
  let own := s.glCoord dim
  let at_ := capCoord c dim
  let ahead := fun (n : Nat) => if linkNeg l then (own + n * size - n) % size else (own + n) % size
  if c.dx.toNat ≠ s.glSize 0 || c.dy.toNat ≠ s.glSize 1 || c.dz.toNat ≠ s.glSize 2 then 4
  else if c.k ≠ l / 6 || c.dir ≠ (if linkNeg l then l % 6 - 1 else l % 6 + 1) then 4
  else if ([0, 1, 2].filter fun d => d != dim).any fun d => capCoord c d != s.glCoord d then 4
  else if !([1, 2, 3, 4, 5].any fun n => ahead n == at_) then 4
  else if s.flevel + 1 < c.flevel.toNat || c.flevel.toNat + 1 < s.flevel then 5
  else 0
/-- A capability message of the far end (R403, R404). -/
def State.takeCapability (s : State) (l : Nat) (c : Capability) : State :=
  if (s.link l).st ≠ .negotiate then s
  else
    let w := s.capCheck l c
    let s := s.updLink l fun k => { k with peer := some c, passed := w == 0 }
    let s := (s.setRegBits (aGlLstat l) 55 40 c.node.toNat).setRegBits (aGlLstat l) 61 56 (6 * c.k + c.dir)
    if w = 0 then s else s.downWhy l w
/-- CAPABILITY_MESSAGE (R403, R404). -/
def execCapabilityMessage (l : Nat) (c : Capability) (s : State) : Out := .next (s.takeCapability l c)

/-- LINK_UP: a link that has passed enters UP, its delay measured: all counts start at zero. The symbols of NEGOTIATE from which the
first delay is formed are open, and so is the delay (R404, R409, R425, log entry 52). -/
def execLinkUp (l : Nat) (s : State) : Out :=
  match (s.link l).peer with
  | none => .next s
  | some c =>
    if (s.link l).st ≠ .negotiate || !(s.link l).passed then .next s
    else
      let n := min s.flevel c.flevel.toNat
      let s := s.updLink l fun k => { k with
        next := 0, expect := 0, nak := false, missing := false, retry := [], resend := [], tries := [],
        dataq := [], ctlq := [], ackq := [], credit := [], sent := [], freed := [], lastRx := none, txts := [], echoes := 0, echoSum := 0,
        peerDepth := none }
      let z := s.fresh
      let s := z.2.setReg (aPavLdly l) (BitVec.ofNat 64 (z.1.bits 31 0 + 2 ^ 32))
      let s := (s.setLink l .up).setRegBits (aGlLstat l) 39 24 n
      .next ((s.setRegBits (aGlLstat l) 7 7 (if n < s.flevel then 1 else 0)).mixShow)
/-- CALIBRATION_MESSAGE: the equaliser is optimised again without stopping traffic; no state of the link changes (R405). -/
def execCalibrationMessage (l : Nat) (s : State) : Out := let _ := l; .next s
/-- MIXLONG_EXPIRY: a link has been MIXED for 24 hours (R404). -/
def execMixlongExpiry (s : State) : Out :=
  .next (if (List.range 36).any fun l => (s.reg (aGlLstat l)).bit 7 then
    (List.range 36).foldl (fun (s : State) l => s.setRegBits (aGlLstat l) 8 8 1) s else s)
/-- LINK_DOWN_NOFRAME (R408). -/
def execLinkDownNoframe (l : Nat) (s : State) : Out := .next (if s.linkUp l then s.linkDown l 7 else s)
/-- LINK_DOWN_LANE (R405). -/
def execLinkDownLane (l : Nat) (s : State) : Out := .next (if s.linkUp l then s.linkDown l 2 else s)

/-! ### Frames (R407) -/

/-- An empty slot. -/
def Slot.none : Slot := ⟨0, 0, 0, 0, 0, 0, 0, 0, 0, 0, 0, 0, 0⟩
/-- A slot's header. -/
def slotHeader (x : Slot) : List Byte :=
  leBytes (x.sk.toNat + x.dvc.toNat * 2 ^ 2 + x.dst.toNat * 2 ^ 3 + x.src.toNat * 2 ^ 19 + x.slink.toNat * 2 ^ 35 + x.tag.toNat * 2 ^ 41 +
    x.gen.toNat * 2 ^ 52 + x.op.toNat * 2 ^ 56) 8 ++
  leBytes (x.job.toNat + x.wm.toNat * 2 ^ 16) 8 ++ leBytes x.offset.toNat 8 ++ leBytes x.poison.toNat 8
/-- A slot of a list, empty beyond its end. -/
def slotAt (l : List Slot) (i : Nat) : Slot := l.getD i Slot.none
/-- The bytes of a frame that its CRC covers: 0–251 and 256–1,535. -/
def frameBytes (f : Frame) : List Byte :=
  let b := fun (p : Bool) (i : Nat) => if p then 2 ^ i else 0
  leBytes (f.seq.toNat + f.lack.toNat * 2 ^ 12 + b f.nak 24 + b f.rpl 25) 8 ++
  leBytes f.cr0.toNat 2 ++ leBytes f.cr1.toNat 2 ++ leBytes f.ca0.toNat 2 ++ leBytes f.ca1.toNat 2 ++
  leBytes f.txt.toNat 8 ++ leBytes f.rxt.toNat 8 ++
  leBytes (f.eseq.toNat + f.depth.toNat * 2 ^ 12 + b f.tlock 18 + b f.ev 19) 8 ++
  (List.range 5).flatMap (fun i => slotHeader (slotAt f.slots i)) ++
  (List.range 6).flatMap (fun i => leBytes (f.acks.getD i 0).toNat 8) ++ [0, 0, 0, 0] ++
  (List.range 5).flatMap fun i => leBytes (slotAt f.slots i).data.toNat 256
/-- The CRC of a frame. -/
def frameCrc (f : Frame) : W32 := crc32 (frameBytes f)

/-! ### Sending (R406, R408, R409, R415) -/

/-- The link slot that a frame leaving at `t` belongs to. -/
def linkSlot (t : Nat) : Nat := (t + 32768 - 16) % 32768 / 512
/-- The strict regions that own a link slot (R383). -/
def State.slotOwners (s : State) (n : Nat) : List Nat :=
  (s.cfg.part0.map (·.1)).filter fun r => partValid (s.part0 r) && partStrict (s.part0 r) && (FMap.get (0 : W64) s.cfg.tdiv1 r).bit n
/-- The strict region whose own data a slot carries, if any. -/
def State.slotRegion (s : State) (x : Slot) : Option Nat :=
  if x.src.toNat = s.ownNode then
    (s.gFind x.job.toNat).bind fun g => let r := s.gRegion g; if partValid (s.part0 r) && partStrict (s.part0 r) then some r else none
  else none
/-- A strict region's window on a link is open (R266). -/
def State.windowOpen (s : State) (r l : Nat) : Bool := (s.rgn r).slots.any fun w => w.1 == l && decide (s.time.now < w.2)
/-- A data slot may go into a frame of link slot `n`: strict data in its own slots and windows, other data where no strict data may
go (R383, R415). -/
def State.slotFits (s : State) (l n : Nat) (q : List (Slot × Option (Nat × Nat))) (x : Slot) : Bool :=
  let strictFit := fun (y : Slot) => match s.slotRegion y with
    | some r => (s.slotOwners n).contains r && s.windowOpen r l
    | none => false
  decide (n < 63) && match s.slotRegion x with
    | some _ => strictFit x
    | none => (s.slotOwners n).isEmpty || !(q.any fun e => strictFit e.1)
/-- Take up to `room` slots that fit, in order; a channel without credit holds its later slots back. `free` counts the places known
free in D0 and D1. -/
def takeSlots (fit : Slot → Bool) : List (Slot × Option (Nat × Nat)) → Nat → Nat × Nat →
    List (Slot × Option (Nat × Nat)) × List (Slot × Option (Nat × Nat))
  | [], _, _ => ([], [])
  | x :: l, room, free =>
    let have_ := if x.1.dvc = 0 then free.1 else free.2
    if room = 0 || have_ = 0 || !fit x.1 then let z := takeSlots fit l room free; (z.1, x :: z.2)
    else
      let z := takeSlots fit l (room - 1) (if x.1.dvc = 0 then (free.1 - 1, free.2) else (free.1, free.2 - 1))
      (x :: z.1, z.2)
/-- The same for acknowledgement entries. -/
def takeAcks : List (W64 × Option (Nat × Nat)) → Nat → Nat × Nat → List (W64 × Option (Nat × Nat)) × List (W64 × Option (Nat × Nat))
  | [], _, _ => ([], [])
  | a :: l, room, free =>
    let have_ := if a.1.bit 37 then free.2 else free.1
    if room = 0 || have_ = 0 then let z := takeAcks l room free; (z.1, a :: z.2)
    else
      let z := takeAcks l (room - 1) (if a.1.bit 37 then (free.1, free.2 - 1) else (free.1 - 1, free.2))
      (a :: z.1, z.2)
/-- The places of a channel that the sender knows to be free: 0 D0, 1 D1, 2 A0, 3 A1. -/
def Link.freePlaces (k : Link) (c : Nat) : Nat := (if c < 2 then 512 else 1024) - (count k.sent c - count k.credit c)
/-- The control word, credits, time fields and CRC of a frame, filled for this transmission (R408, R416). -/
def State.fillFrame (s : State) (l : Nat) (f : Frame) (rpl : Bool) : Frame :=
  let k := s.link l
  let e := k.lastRx.getD (0, 0)
  let c := fun (i : Nat) => BitVec.ofNat 16 (count k.freed i)
  let f := { f with lack := BitVec.ofNat 12 (k.expect + 4095), nak := k.nak, rpl := rpl, cr0 := c 0, cr1 := c 1, ca0 := c 2, ca1 := c 3,
                    txt := BitVec.ofNat 64 s.time.now, rxt := BitVec.ofNat 64 e.2, eseq := BitVec.ofNat 12 e.1,
                    depth := BitVec.ofNat 6 (s.regBits aPavStatus 21 16), tlock := s.pavState == 1, ev := k.lastRx.isSome }
  { f with crc := frameCrc f }
/-- A control slot (R407). -/
def ctlSlot (code : Nat) (bytes : List Byte) : Slot :=
  { Slot.none with sk := 2, op := BitVec.ofNat 4 code, data := BitVec.ofNat 2048 (leNat bytes) }
/-- A frame leaves: it is recorded for echoes, and the NAK it carries is given. -/
def State.frameOut (s : State) (l : Nat) (f : Frame) : State :=
  let q := f.seq.toNat
  s.updLink l fun k => { k with
    out := [f], nak := false,
    txts := FMap.set 0 (FMap.set 0 k.txts ((q + 4096 - 256) % 4096) 0) q (f.txt.toNat + 1) }
/-- Send a frame again (R408). -/
def State.sendAgain (s : State) (l : Nat) (f : Frame) : State :=
  let g := s.fillFrame l f true
  let s := s.updLink l fun k => { k with resend := k.resend.drop 1, tries := bump k.tries f.seq.toNat 1,
                                         retry := k.retry.map fun x => if x.seq = f.seq then g else x }
  (s.frameOut l g).addReg (aGlReplay l) 1
/-- Send a new frame (R406–R409, R415). -/
def State.sendNew (s : State) (l : Nat) : State :=
  let k := s.link l
  let n := linkSlot s.time.now
  let ctl := if n = 63 then k.ctlq.take (min 5 (k.freePlaces 0)) else []
  let z := takeSlots (s.slotFits l n k.dataq) k.dataq (5 - ctl.length) (k.freePlaces 0 - ctl.length, k.freePlaces 1)
  let a := takeAcks k.ackq 6 (k.freePlaces 2, k.freePlaces 3)
  let used := fun (m : FMap Nat) => z.1.foldl (fun (m : FMap Nat) x => bump m x.1.dvc.toNat 1) (bump m 0 ctl.length)
  let usedA := fun (m : FMap Nat) => a.1.foldl (fun (m : FMap Nat) x => bump m (if x.1.bit 37 then 3 else 2) 1) m
  let slots := ctl ++ z.1.map (·.1)
  let f : Frame := ⟨BitVec.ofNat 12 k.next, 0, false, false, 0, 0, 0, 0, 0, 0, 0, 0, false, false,
    slots ++ List.replicate (5 - slots.length) Slot.none, a.1.map (·.1) ++ List.replicate (6 - a.1.length) 0, 0⟩
  let g := s.fillFrame l f false
  let s := s.updLink l fun k => { k with
    next := (k.next + 1) % 4096, retry := (k.retry ++ [g]).drop (k.retry.length + 1 - 128),
    dataq := z.2, ctlq := k.ctlq.drop ctl.length, ackq := a.2, sent := usedA (used k.sent) }
  let s := (z.1.map (·.2) ++ a.1.map (·.2)).foldl State.freePlace s
  (s.frameOut l g).addReg (aObsGl l 0) (256 * z.1.length)
/-- A frame of NEGOTIATE carries the capability message, whose byte layout the spec leaves open (R403, log entry 7). -/
def State.sendCapability (s : State) (l : Nat) : State :=
  let z := s.freeBytes 256
  let f : Frame := ⟨0, 0, false, false, 0, 0, 0, 0, 0, 0, 0, 0, false, false,
    ctlSlot 1 z.1 :: List.replicate 4 Slot.none, List.replicate 6 0, 0⟩
  let g := z.2.fillFrame l f false
  z.2.updLink l fun k => { k with out := [g] }
/-- FRAME_SEND: the link's next frame: a resend where one is asked for, else a new one (R406, R408). -/
def execFrameSend (l : Nat) (s : State) : Out :=
  match (s.link l).st with
  | .negotiate => .next (s.sendCapability l)
  | .up => match (s.link l).resend with
    | f :: _ => .next (s.sendAgain l f)
    | [] => .next (s.sendNew l)
  | _ => .next s

/-! ### Watermark heartbeats (R447) -/

/-- The groups to which both ends of a link belong, in GID order from where the last heartbeat stopped. -/
def State.hbGroups (s : State) (l : Nat) : List Nat :=
  let peer := match (s.link l).peer with | some c => c.node.toNat | none => s.ownNode
  let mine := (List.range 64).filter fun g => s.gValid g && s.boxHas (s.grpWord g 1) s.ownNode && s.boxHas (s.grpWord g 1) peer
  let sorted := mine.mergeSort fun a b => decide (s.gid a ≤ s.gid b)
  (sorted.filter fun g => decide ((s.link l).hbFrom ≤ s.gid g)) ++ sorted.filter fun g => decide (s.gid g < (s.link l).hbFrom)
/-- HEARTBEAT_SEND: in a figure whose number 1,024 divides, an UP link queues its watermark control slot (R447). -/
def execHeartbeatSend (l : Nat) (s : State) : Out :=
  if !s.linkUp l || s.time.now / s.figDt % 1024 ≠ 0 then .next s
  else
    let gs := (s.hbGroups l).take 13
    let bytes := leBytes s.wmDigest.toNat 16 ++ [BitVec.ofNat 8 gs.length, 0] ++
      gs.flatMap fun g => leBytes (s.gid g) 2 ++ leBytes (s.grpDigest g).toNat 16
    .next (s.updLink l fun k => { k with
      ctlq := k.ctlq ++ [ctlSlot 3 bytes],
      hbFrom := match gs.getLast? with | some g => s.gid g + 1 | none => k.hbFrom })
/-- A watermark heartbeat of the far end: SYSMIS for the module's, MISMATCH for a group's (R447). -/
def State.takeHeartbeat (s : State) (l : Nat) (bytes : List Byte) : State :=
  let s := if leNat (bytes.take 16) = s.wmDigest.toNat then s else s.setRegBit (aCeGstat (l / 6)) 7
  (List.range (min (leNat ((bytes.drop 16).take 1)) 13)).foldl (fun (s : State) i =>
    let e := (bytes.drop (18 + 18 * i)).take 18
    match s.gFind (leNat (e.take 2)) with
    | none => s
    | some g => if leNat (e.drop 2) = (s.grpDigest g).toNat then s else s.setRegBit (aCeGrp g 3) 41) s
/-- WATERMARK_EXCHANGE (R447). -/
def execWatermarkExchange (l : Nat) (bytes : List Byte) (s : State) : Out := .next (if s.linkUp l then s.takeHeartbeat l bytes else s)

/-! ### Receiving (R408–R416) -/

/-- An acknowledgement entry arrives on a link: it ends here, or goes on (R410, R414). -/
def State.takeAck (s : State) (l : Nat) (a : W64) : State :=
  if !a.bit 41 then s
  else
    let held := some (l, if a.bit 37 then 3 else 2)
    if a.bits 15 0 = s.ownNode then (s.freePlace held).ackIn a
    else s.routeAck (l / 6) (some (linkDim l, if a.bit 37 then 1 else 0)) a held
/-- A data or control slot arrives on a link (R410–R413). -/
def State.takeSlotIn (s : State) (l : Nat) (x : Slot) : State :=
  if x.sk = 2 then
    let s := s.freePlace (some (l, 0))
    if x.op = 3 then s.takeHeartbeat l (leBytes x.data.toNat 256) else s
  else if x.sk = 1 then
    let s := s.addReg (aObsGl l 1) 256
    let held := some (l, x.dvc.toNat)
    match s.routeDir x.dst.toNat with
    | none => (s.freePlace held).ceSlot (l / 6) x
    | some d => s.passSlot (l / 6) (linkDim l, x.dvc) x d held
  else s
/-- A frame is dropped: NAK goes out with the next frame, and the expected one is awaited (R408). -/
def State.dropFrame (s : State) (l : Nat) : State :=
  if (s.link l).missing then s else s.updLink l fun k => { k with missing := true, nak := true }
/-- The frame's LACK and NAK; a ninth resend of one frame takes the link down (R408, R425; log entry 99). -/
def State.takeLack (s : State) (l : Nat) (f : Frame) : State :=
  let passed := fun (q : BitVec 12) => decide ((f.lack - q).toNat < 2048)
  let s := s.updLink l fun k => { k with retry := k.retry.filter (fun x => !passed x.seq), resend := k.resend.filter (fun x => !passed x.seq),
                                         tries := k.tries.filter fun e => !passed (BitVec.ofNat 12 e.1) }
  let k := s.link l
  let want := (f.lack.toNat + 1) % 4096
  if !f.nak || want = k.next then s
  else if !(k.retry.any fun x => x.seq.toNat == want) || decide (8 ≤ count k.tries want) then s.linkDown l 6
  else s.updLink l fun k => { k with resend := k.retry }
/-- The frame as a time-transfer symbol (R253, R256, R416). -/
def State.takeSymbol (s : State) (l : Nat) (f : Frame) (arrival : Nat) : State :=
  let k := s.link l
  let t1 := count k.txts f.eseq.toNat
  let s := if f.ev && t1 ≠ 0 && decide (k.echoes < 1024) then
      s.updLink l fun k => { k with
        echoes := k.echoes + 1,
        echoSum := k.echoSum + (((arrival : Int) - ((t1 - 1 : Nat) : Int)) - ((f.txt.toNat : Int) - (f.rxt.toNat : Int))) }
    else s
  let s := s.updLink l fun k => { k with lastRx := some (f.seq.toNat, arrival), peerDepth := some f.depth.toNat }
  if s.pavMode = 1 && s.sourceLink = some l then
    let s := (s.updTime fun t => { t with srcDepth := some f.depth.toNat }).showDepth
    let w := s.reg (aPavLdly l)
    if w.bit 32 then
      let asym : Int := ((s.reg (aGlAsym l)).extractLsb' 0 16).toInt
      let din := (w.bits 31 0 : Int) - asym / 2
      s.setReg aPavOffset (BitVec.ofInt 64 ((arrival : Int) - ((f.txt.toNat : Int) + din)))
    else s
  else s
/-- An accepted frame (R408–R416). -/
def State.acceptFrame (s : State) (l : Nat) (f : Frame) (arrival : Nat) : State :=
  let slots := f.slots.filter fun x => x.sk == 1 || x.sk == 2
  let acks := f.acks.filter fun a => a.bit 41
  let s := s.updLink l fun k => { k with
    expect := (k.expect + 1) % 4096, missing := false, nak := false,
    credit := FMap.set 0 (FMap.set 0 (FMap.set 0 (FMap.set 0 k.credit 0
      (count k.credit 0 + (f.cr0.toNat + 2 ^ 16 - count k.credit 0 % 2 ^ 16) % 2 ^ 16)) 1
      (count k.credit 1 + (f.cr1.toNat + 2 ^ 16 - count k.credit 1 % 2 ^ 16) % 2 ^ 16)) 2
      (count k.credit 2 + (f.ca0.toNat + 2 ^ 16 - count k.credit 2 % 2 ^ 16) % 2 ^ 16)) 3
      (count k.credit 3 + (f.ca1.toNat + 2 ^ 16 - count k.credit 3 % 2 ^ 16) % 2 ^ 16) }
  let s := s.takeSymbol l f arrival
  let s := acks.foldl (fun (s : State) a => s.takeAck l a) s
  (slots.foldl (fun (s : State) x => s.takeSlotIn l x) s).takeLack l f
/-- FRAME_RECEIVE: a frame is accepted where its CRC checks, every codeword could be corrected, and its SEQ is the one expected; else
it is dropped whole (R408). How many symbols its codewords had corrected is open (R422, log entry 20). In NEGOTIATE it brings
capability messages, which have a row of their own. -/
def execFrameReceive (l : Nat) (f : Frame) (fecBad : Bool) (arrival : Nat) (s : State) : Out :=
  if (s.link l).st ≠ .up && (s.link l).st ≠ .negotiate then .next s
  else
    let z := s.fresh
    let s := z.2.addReg (aGlFeccorr l) z.1.toNat
    let s := if fecBad then s.addReg (aGlFecunc l) 1 else s
    if fecBad || f.crc ≠ frameCrc f then
      let s := s.addReg (aGlCrcerr l) 1
      .next (if s.linkUp l then s.dropFrame l else s)
    else if !s.linkUp l then .next s
    else if f.seq.toNat ≠ (s.link l).expect then .next (s.dropFrame l)
    else .next (s.acceptFrame l f arrival)
/-- NAK_REPEAT: 1 µs on, NAK goes again while the expected frame is awaited (R408). -/
def execNakRepeat (l : Nat) (s : State) : Out :=
  .next (if s.linkUp l && (s.link l).missing then s.updLink l fun k => { k with nak := true } else s)
/-- ACK_ENTRY (R410, R414). -/
def execAckEntry (l : Nat) (a : W64) (s : State) : Out := .next (if s.linkUp l then s.takeAck l a else s)
/-- DELAY_MEASURE: the mean one-way delay from 1,024 echoes; which way a fraction is rounded is open (R416, log entry 7). -/
def execDelayMeasure (l : Nat) (s : State) : Out :=
  let k := s.link l
  if !s.linkUp l || k.echoes < 1024 then .next s
  else
    let d := k.echoSum / 2048
    let z := if k.echoSum % 2048 = 0 then ((0 : W64), s) else s.fresh
    let v := (d + (z.1.bits 0 0 : Nat)) % (2 ^ 32 : Nat)
    .next ((z.2.setReg (aPavLdly l) (BitVec.ofNat 64 (v.toNat + 2 ^ 32))).updLink l fun k => { k with echoes := 0, echoSum := 0 })

/-! ### The bypass (R418–R424, R552) -/

/-- CLOSE, CROSS and MOVING of link die `k`, from its pairs. -/
def State.showByp (s : State) (k : Nat) : State :=
  let fused := fun (j : Nat) => s.linkFused (6 * k + 2 * j)
  let bits := fun (p : Nat → Bool) => (List.range 3).foldr (fun j n => (if !fused j && p j then 1 else 0) + 2 * n) 0
  let s' := s.setRegBits (aGlByp k) 5 3 (bits fun j => (s.pair (3 * k + j)).cross)
  s'.setRegBits (aGlByp k) 8 6 (bits fun j => (s.pair (3 * k + j)).target.isSome)
/-- Drive a pair to cross or bar; one that is there already, and at rest, stays (R418, R425). -/
def State.drivePair (s : State) (p : Nat) (cross : Bool) : State :=
  let x := s.pair p
  let s := if x.cross = cross && x.target.isNone then s else s.updPair p fun x => { x with target := some cross }
  s.showByp (p / 3)
/-- Close every pair of the module (R420). -/
def State.closeAll (s : State) : State :=
  (List.range 18).foldl (fun (s : State) p => s.drivePair p true)
    ((List.range 6).foldl (fun (s : State) k => s.setRegBits (aGlByp k) 2 0 (if s.power.variant = 2 then 3 else 7)) s)
/-- An entry of KIND 7 names the link (R490). -/
def State.linkBad (s : State) (l : Nat) : Bool := s.power.defects.any fun d => d.kind == 7 && d.index == l
/-- The position a link takes when nothing carries traffic on it: held, fused off, in BYPASS, or training. -/
def State.restLink (s : State) (l : Nat) : State :=
  if s.linkFused l || (s.reg (aGlLctl l)).bit 0 || ((s.pair (pairOf l)).stuck && s.linkBad l) then s.setLink l .off
  else if (s.pair (pairOf l)).cross then s.setLink l .bypass
  else s.enterTrain l
/-- SWITCH_SETTLED: the drive of a pair ends; its links are in BYPASS, or train with their neighbours (R418, R419, R423). -/
def execSwitchSettled (k pair : Nat) (s : State) : Out :=
  let p := 3 * k + pair
  match (s.pair p).target with
  | none => .next s
  | some c =>
    let s := (s.updPair p fun x => { x with cross := c, target := none }).showByp k
    .next ((pairLinks p).foldl (fun (s : State) l =>
      match (s.link l).st with
      | .off => s
      | .bypass => if c then s else s.enterTrain l
      | _ => if c then s.leaveLink l .bypass else s) s)
/-- GL_BYP_CLOSE: a write of CLOSE; one that clears a bit while WFHOLD is 1, or before stage 8, is ignored, and a pair with a link held OFF
for a defect stays closed (R421, R490). -/
def State.bypClose (s : State) (k : Nat) (v : W64) : State :=
  let old := s.regBits (aGlByp k) 2 0
  let fix := ((List.range 3).map fun j => if (s.pair (3 * k + j)).stuck then old / 2 ^ j % 2 * 2 ^ j else 0).sum
  let new := (v.bits 2 0 % (if s.power.variant = 2 then 4 else 8)) ||| fix
  let clears := (List.range 3).any fun j => old / 2 ^ j % 2 == 1 && new / 2 ^ j % 2 == 0
  if clears && ((s.reg (aGlByp k)).bit 9 || !s.stageReached 8) then s
  else
    let s := s.setRegBits (aGlByp k) 2 0 new
    (List.range 3).foldl (fun (s : State) j => if s.linkFused (6 * k + 2 * j) then s else s.drivePair (3 * k + j) (new / 2 ^ j % 2 == 1)) s
def execGlBypClose (k : Nat) (v : W64) (s : State) : Out := s.pfWrite (aGlByp k) (s.bypClose k v)
/-- GL_LCTL_HOLD: a held link is OFF; a released one goes to BYPASS, or trains (R401, R422). -/
def State.lctlHold (s : State) (l : Nat) (hold : Bool) : State :=
  if s.linkFused l then s
  else
    let s := s.setRegBits (aGlLctl l) 0 0 (if hold then 1 else 0)
    if hold then (if (s.link l).st = .off then s else s.leaveLink l .off)
    else if (s.link l).st = .off then s.restLink l else s
def execGlLctlHold (l : Nat) (hold : Bool) (s : State) : Out := s.pfWrite (aGlLctl l) (s.lctlHold l hold)
/-- GL_LCTL_RETRAIN: the link goes down with reason HOST and trains (R422). -/
def State.lctlRetrain (s : State) (l : Nat) : State :=
  match (s.link l).st with
  | .off => s
  | .bypass => s
  | _ => s.linkDown l 8
def execGlLctlRetrain (l : Nat) (s : State) : Out := s.pfWrite (aGlLctl l) (s.lctlRetrain l)
/-- GL_NODE_WRITE: taken on all six dies only while every link is in OFF or BYPASS, else refused with NODEREF (R397). -/
def State.nodeWrite (s : State) (v : W64) : State :=
  let c := fun (i : Nat) => v.bits (6 * i + 5) (6 * i)
  let d := fun (i : Nat) => v.bits (24 + 7 * i) (18 + 7 * i)
  let quiet := (List.range 36).all fun l => (s.link l).st == .off || (s.link l).st == .bypass
  let fit := decide (d 0 * d 1 * d 2 ≤ 16384) && [0, 1, 2].all fun i => decide (c i < d i) && decide (d i ≤ 64)
  let zOk := s.power.variant != 2 || decide (d 2 ≤ 1)
  let all := fun (w : Nat → W64) => (List.range 6).foldl (fun (s : State) k => s.setReg (aGlNode k) (w k)) s
  if quiet && fit && zOk then
    let node := c 0 + d 0 * (c 1 + d 1 * c 2)
    all fun k => BitVec.ofNat 64 (v.bits 38 0 + node * 2 ^ 39 + (if (s.reg (aGlNode k)).bit 63 && !v.bit 63 then 2 ^ 63 else 0))
  else all fun k => mergeBits (s.reg (aGlNode k)) (BitVec.ofNat 64 (2 ^ 63)) (2 ^ 63)
def execGlNodeWrite (v : W64) (s : State) : Out := s.pfWrite (aGlNode 0) (s.nodeWrite v)

end Sys2Proof.Machine
end

