-- ==== Sys2Proof/Machine/Runs.lean ====
section
/-! DEFINITION. RUN and STEP: the checks of a STEP's lists, taking up, the run instance, drain declarations, slow-tier and off-load
transfers on port B, and how a RUN or STEP ends (R36, R146, R244–R246, R317, R326–R333, R351). -/

namespace Sys2Proof.Machine

/-! ### The lists of a STEP (R315–R317, R327, R331) -/

/-- UPDN, SLOWN and OFFN. -/
def Cmd.updN (c : Cmd) : Nat := (c.word 5).bits 12 0
def Cmd.slowN (c : Cmd) : Nat := (c.word 5).bits 21 13
def Cmd.offN (c : Cmd) : Nat := (c.word 5).bits 34 22
/-- The address of update descriptor, slow descriptor and off-load entry `i`. -/
def Cmd.updAt (c : Cmd) (i : Nat) : Nat := (c.word 2).bits 51 0 + 128 * i
def Cmd.slowAt (c : Cmd) (i : Nat) : Nat := (c.word 3).bits 51 0 + 64 * i
def Cmd.offAt (c : Cmd) (i : Nat) : Nat := (c.word 4).bits 51 0 + 32 * i

/-- A device window as the checks see it. -/
structure Win where
  base : Nat
  len : Nat
  wr : Bool
  ou : Bool
deriving DecidableEq, Repr
/-- The device windows of region `r`, of every bank. -/
def State.regionWins (s : State) (r : Nat) : List Win :=
  (s.regionMus r).flatMap fun m => (s.mu m).eng.flatMap fun g => g.2.banks.flatMap fun b => [0, 1].filterMap fun n =>
    if winLen b.2 n = 0 then none else some ⟨winBase b.2 n, winLen b.2 n, winWr b.2 n, winOu b.2 n⟩
/-- A window holds all of [a, a + n). -/
def Win.holds (w : Win) (a n : Nat) : Bool := decide (w.base ≤ a) && decide (a + n ≤ w.base + w.len)
/-- [a, a + n) overlaps a window that `p` picks. -/
def hitsWin (ws : List Win) (p : Win → Bool) (a n : Nat) : Bool := ws.any fun w => p w && overlaps a n w.base w.len

/-- A word is F32, not negative and finite. -/
def nonNeg (w : W32) : Bool := decide (w.toNat < 0x7f800000) || w == 0x80000000
/-- A word is F32 zero. -/
def isZero32 (w : W32) : Bool := w == 0 || w == 0x80000000
/-- Reserved fields and reserved values of an update descriptor (R316, R317). -/
def updForm (d : Upd) : Bool :=
  let block := uBlock d
  (uWord d 0).bits 31 19 == 0 && decide (uSched d < 3) && (block || ((uWord d 0).bits 3 2 == 0 && !uCol d && uRowlen d == 0)) &&
    ([1, 2, 3, 4, 5, 7].all fun i => (uWord d i).bits 63 52 == 0) && decide (1 ≤ uN d) && decide (uN d ≤ 2 ^ 28) &&
    uWord d 14 == 0 && (uWord d 15).bits 63 32 == 0 && ([0, 1, 2, 3, 4].all fun i => uBase d i % 64 == 0) &&
    (!block || (decide (1 ≤ uRowlen d) && uN d % uRowlen d == 0 && (!uCol d || uN d / uRowlen d % uBs d == 0)))
/-- The scalars of an update descriptor (R317). -/
def updScalars (d : Upd) : Bool :=
  let beta := fun (w : W32) => decide (0x3f000000 ≤ w.toNat) && decide (w.toNat < 0x3f800000)
  let eps := uF32 d 9 true
  beta (uF32 d 10 false) && beta (uF32 d 10 true) && decide (0 < eps.toNat) && decide (eps.toNat < 0x7f800000) &&
    [uF32 d 8 false, uF32 d 8 true, uF32 d 9 false, uF32 d 11 false, uF32 d 11 true].all nonNeg
/-- [a, a + n) is DRAM of the function, on powered half-stacks. -/
def State.ownDram (s : State) (fn a n : Nat) (rd wr : Bool) : Bool :=
  s.mapped fn a n (entDram rd wr) && !s.stackDown a n
/-- An update descriptor stands against the region (R317). -/
def State.updOk (s : State) (fn ngrp : Nat) (ws : List Win) (d : Upd) : Bool :=
  let q := stackOf (uBase d 0)
  let arr := uArrays d
  let cn := uF32 d 11 false
  updForm d && updScalars d && decide (uStart d < ngrp) &&
    arr.zipIdx.all (fun e => s.ownDram fn e.1.1 e.1.2 true (e.2 < 4)) &&
    arr.all (fun e => stackOf e.1 == q && stackOf (e.1 + e.2 - 1) == q) && s.stackPresent q &&
    ((List.range (uNg d)).all fun b => ws.any fun w => w.ou && w.holds (uGrad d b) (4 * uN d)) &&
    (arr.take 3).all (fun e => !hitsWin ws (fun _ => true) e.1 e.2) &&
    !hitsWin ws (fun w => w.wr || w.ou) (uBase d 3) (uWorkLen d) &&
    (if isZero32 cn && uNormw d = 0 then true else uNormw d != 0 && uNormw d % 4 == 0 && s.ownDram fn (uNormw d) 4 true false)
/-- Two lists of arrays share a byte. -/
def arraysMeet (a b : List (Nat × Nat)) : Bool := a.any fun x => b.any fun y => overlaps x.1 x.2 y.1 y.2
/-- Some two members of a list, at different places, are related. -/
def anyPair {α : Type} (p : α → α → Bool) : List α → Bool
  | [] => false
  | x :: l => l.any (p x) || anyPair p l

/-- The words of a slow descriptor. -/
def State.slowDesc (s : State) (a : Nat) : List W64 := (List.range 8).map fun i => s.devWord (a + 8 * i)
/-- Fields of a slow descriptor (R327). -/
def sWord (d : List W64) (i : Nat) : W64 := d.getD i 0
def sLag (d : List W64) : Nat := (sWord d 0).bits 2 0 + 1
def sStart (d : List W64) : Nat := (sWord d 0).bits 10 3
def sId (d : List W64) : Nat := (sWord d 0).bits 18 11
def sN (d : List W64) : Nat := (sWord d 0).bits 63 32
def sWork (d : List W64) : Nat := (sWord d 1).bits 51 0
def sGrad (d : List W64) : Nat := (sWord d 2).bits 51 0
def sHost (d : List W64) : Nat := (sWord d 3).bits 51 0
def sSseq (d : List W64) : Nat := (sWord d 4).bits 31 0
def sVseq (d : List W64) : Nat := (sWord d 4).bits 63 32
def sVlen (d : List W64) : Nat := (sWord d 5).bits 31 0
/-- A length rounded up to 4 KiB. -/
def page4k (n : Nat) : Nat := (n + 4095) / 4096 * 4096
/-- The bytes of one slot of the host ring (R328). -/
def sSlot (d : List W64) : Nat := 4096 + page4k (4 * sN d) + page4k (sVlen d)
/-- A slow descriptor stands against the region and the update sets (R327). -/
def State.slowOk (s : State) (fn ngrp : Nat) (ws : List Win) (sets : List (List (Nat × Nat))) (d : List W64) : Bool :=
  let own := [(sWork d, sVlen d), (sGrad d, 4 * sN d)]
  (sWord d 0).bits 31 19 == 0 && ([1, 2, 3].all fun i => (sWord d i).bits 63 52 == 0) && (sWord d 5).bits 63 32 == 0 && sWord d 6 == 0 &&
    (sWord d 7).bits 63 32 == 0 && decide (sStart d < ngrp) && sVlen d % 128 == 0 && sHost d % 4096 == 0 && sWork d % 64 == 0 && sGrad d % 64 == 0 &&
    s.ownDram fn (sWork d) (sVlen d) true true && s.ownDram fn (sGrad d) (4 * sN d) true false &&
    (ws.any fun w => w.wr && w.holds (sGrad d) (4 * sN d)) && !hitsWin ws (fun w => w.wr || w.ou) (sWork d) (sVlen d) &&
    !(sets.any (arraysMeet own)) &&
    s.cfg.map.any fun e => e.owner == fn && entHost true true 1 e && decide (e.base ≤ sHost d) && decide (sHost d + 16 * sSlot d ≤ e.base + e.len)

/-- The words of an off-load entry. -/
def State.offEnt (s : State) (a : Nat) : List W64 := (List.range 4).map fun i => s.devWord (a + 8 * i)
/-- Fields of an off-load entry (R331). -/
def oBack (d : List W64) : Bool := (sWord d 0).bit 0
def oDram (d : List W64) : Bool := (sWord d 0).bit 1
def oBuf (d : List W64) : Nat := (sWord d 0).bits 17 2
def oTrig (d : List W64) : Nat := (sWord d 0).bits 25 18
def oId (d : List W64) : Nat := (sWord d 0).bits 33 26
def oDev (d : List W64) : Nat := (sWord d 1).bits 51 0
def oHaddr (d : List W64) : Nat := (sWord d 2).bits 51 0
def oLen (d : List W64) : Nat := (sWord d 3).bits 31 0
/-- The buffer section that an entry names: its MU, first and last row. -/
def State.offBuf (s : State) (r : Nat) (d : List W64) : Option (Nat × Nat × Nat) :=
  (s.rgn r).img.bind fun i => (i.bufs.find? fun b => b.1 / 4096 == oBuf d).map fun b => (b.1 % 4096, b.2)
/-- An off-load entry stands against the region (R331). -/
def State.offOk (s : State) (fn r ngrp : Nat) (ws : List Win) (d : List W64) : Bool :=
  (sWord d 0).bits 63 34 == 0 && (sWord d 1).bits 63 52 == 0 && (sWord d 2).bits 63 52 == 0 && (sWord d 3).bits 63 32 == 0 &&
    decide (oTrig d < ngrp) && oLen d % 128 == 0 && s.mapped fn (oHaddr d) (oLen d) (entHost (oBack d) (!oBack d) 1) &&
    if oDram d then
      oBuf d == 0 && s.ownDram fn (oDev d) (oLen d) (!oBack d) (oBack d) && (ws.any fun w => w.holds (oDev d) (oLen d))
    else
      oDev d == 0 && match s.offBuf r d with | some b => oLen d == 128 * (b.2.2 + 1 - b.2.1) | none => false

/-- The first command word of a STEP at fault (R317, R327, R331, R458). -/
def State.stepFault (s : State) (c : Cmd) : Option Nat :=
  let r := c.region
  let n := s.ngrp r
  let ws := s.regionWins r
  let upds := (List.range c.updN).map fun i => s.updDesc (c.updAt i)
  let sets := upds.map uArrays
  let slows := (List.range c.slowN).map fun i => s.slowDesc (c.slowAt i)
  let offs := (List.range c.offN).map fun i => s.offEnt (c.offAt i)
  let slowSets := slows.map fun d => [(sWork d, sVlen d), (sGrad d, 4 * sN d)]
  if s.fnMarks c.fn (c.updAt 0) (16 * c.updN) || !(upds.all (s.updOk c.fn n ws)) || anyPair arraysMeet sets then some 2
  else if s.fnMarks c.fn (c.slowAt 0) (8 * c.slowN) || !(slows.all (s.slowOk c.fn n ws sets)) || anyPair arraysMeet slowSets then some 3
  else if s.fnMarks c.fn (c.offAt 0) (4 * c.offN) || !(offs.all (s.offOk c.fn r n ws)) then some 4
  else if 4096 < c.updN || 256 < c.slowN || 4096 < c.offN then some 5
  else none

/-! ### Taking up (R146, R241, R351) -/

/-- Port B met an error under this STEP (R330). -/
def pbErrAt : Nat := 5
/-- A run just taken up. -/
def Cmd.runState (c : Cmd) (now : Nat) : RunState :=
  ⟨c.handle, c.opcode == 4, now, false, 0, [], if c.opcode = 4 then c.slowN else 0, [], if c.opcode = 4 then c.offN else 0, 0, 0, 0, 0,
    none, none, false⟩
/-- Region `r` takes up its oldest accepted RUN or STEP; one that finds a held status completes with it, and one on a region
without an image, never loaded, unloaded or wedged, is refused. -/
def State.takeUpN (s : State) (r : Nat) : Nat → State
  | 0 => s
  | fuel + 1 =>
    if (s.rgn r).run.isSome then s
    else match s.host.cmds.find? fun c => (c.opcode == 3 || c.opcode == 4) && c.region == r && c.phase == .running with
      | none => s
      | some c =>
        match (s.rgn r).held with
        | some p => State.takeUpN ((s.due c.handle p.1 p.2).updRgn r fun g => { g with held := none }) r fuel
        | none =>
          if (s.rgn r).img.isNone || (s.rgn r).wedged ≠ 0 then State.takeUpN (s.due c.handle 8 0) r fuel
          else s.updRgn r fun g => { g with run := some (c.runState s.time.now) }
/-- Take up what waits for region `r`. -/
def State.takeUp (s : State) (r : Nat) : State := s.takeUpN r (s.host.cmds.length + 1)

/-- RUN: accepted, and taken up when the region is free; on a region that goes down it completes DOMAIN_DOWN (R36, R146, R218, R351). -/
def execRun (h : W64) (s : State) : Out :=
  match s.openCmd h 3 with
  | none => .next s
  | some c => .next (if s.rgnStopped c.region then s.due h 6 0 else (s.begin h).takeUp c.region)
/-- STEP: its lists are checked, then as RUN (R36, R317). -/
def execStepCmd (h : W64) (s : State) : Out :=
  match s.openCmd h 4 with
  | none => .next s
  | some c =>
    if s.rgnStopped c.region then .next (s.due h 6 0)
    else if (s.rgn c.region).held.isSome then .next ((s.begin h).takeUp c.region)
    else match s.stepFault c with
    | some w => .next (s.due h 8 w)
    | none => .next ((s.begin h).takeUp c.region)

/-! ### The run instance begins (R268, R298, R318) -/

/-- The pass of update set `i` of a STEP. -/
def State.newPass (s : State) (c : Cmd) (i : Nat) : Pass :=
  let a := c.updAt i
  ⟨stackOf (uBase (s.updDesc a) 0), 4096 * c.region + i, c.region, c.handle, a, 0, 0, none, 0, 0, 0, 0, 0, 0, 0, 0⟩
/-- A transfer of port B is in progress (R567). -/
def State.pbShow (s : State) : State :=
  let busy := s.rgns.any fun e => match e.2.run with
    | some x => x.begun && ((List.range x.nslow).any (fun i => count x.slow (2 * i) == 0) || (List.range x.noff).any fun i => count x.off i == 1)
    | none => false
  { s with host := { s.host with portBBusy := busy } }.setPbReg pbStatus
    (mergeBits (s.pbReg pbStatus) (if busy then 1 else 0) 1)
/-- At a figure boundary the run taken up begins, where an instance is free and no pass of an earlier STEP is left (R268, R298). -/
def State.beginRun (s : State) (r : Nat) : State :=
  match (s.rgn r).run.filter fun x => !x.begun with
  | none => s
  | some x =>
    match (s.cmd x.handle).filter fun c => c.phase == .running with
    | none => s
    | some c =>
      if 4 ≤ (s.rgn r).graded.length || s.passes.any fun p => p.region == r then s
      else
        let d := if c.word 1 = 0 then none else some (c.word 1).toNat
        let id := (s.rgn r).nextInst
        let s := s.beginInst r 0 x.handle d 0
        let s := s.updRgn r fun g => { g with group := 0, declared := [], faults := [], run := some { x with begun := true, inst := id } }
        let s := s.updHost fun h => { h with pbq := h.pbq ++ (List.range x.nslow).map fun i => ⟨r, false, i⟩ }
        let new := if x.isStep then (List.range c.updN).map (s.newPass c) else []
        let s : State := if new.any (fun (p : Pass) => s.die p.q != .powered) then s.regionDown r else s
        let kept := new.filter fun (p : Pass) => s.die p.q == DiePhase.powered
        let s := { s with passes := s.passes ++ kept }
        (s.pinAhead r).pbShow

/-! ### Port B (R329, R330, R332, R567) -/

/-- The words of [0, n) bytes, the last one of four bytes where n is not a multiple of 8: offset and bytes. -/
def pieces (n : Nat) : List (Nat × Nat) := (List.range ((n + 7) / 8)).map fun i => (8 * i, min 8 (n - 8 * i))
/-- The host bus address behind a host window address of a function is written on port B; a marked word goes with EP (R339). -/
def State.pbPut (s : State) (fn a n : Nat) (v : W64) (bad : Bool) : State :=
  let h := s.hostAddr fn a
  let s := s.updHost fun x => { x with mem := Mem.writeNat x.mem h v.toNat n, poison := if bad || n = 8 then NatSet.put x.poison (h / 8) bad else x.poison }
  if bad then s.setPbReg pbStatus (s.pbReg pbStatus ||| 2) else s
/-- Count bytes that port B moved for region `r`: reads (0) or writes (1) of host memory. -/
def State.pbCount (s : State) (r w n : Nat) : State :=
  let s := (s.addReg (aObsPb w) n).addCtr r (16 + w) 0 n
  (s.setPbReg pbRdb (s.reg (aObsPb 0))).setPbReg pbWrb (s.reg (aObsPb 1))
/-- Count a finished transfer, and one with poisoned data (R567). -/
def State.pbDone (s : State) (bad : Bool) : State :=
  let w := s.pbReg pbXfers
  s.setPbReg pbXfers (BitVec.ofNat 64 (min (w.bits 31 0 + 1) (2 ^ 32 - 1) + min (w.bits 63 32 + (if bad then 1 else 0)) (2 ^ 32 - 1) * 2 ^ 32))
/-- The STEP's transfer met poison or a port B error: it completes POISONED (R330). -/
def State.runPoison (s : State) (r : Nat) (bad : Bool) : State :=
  if bad then s.updRgn r fun g => { g with run := g.run.map fun x => { x with status := if x.status = 0 then 3 else x.status } } else s
/-- Port B fails a transfer of this STEP: the link is down, or a completion brought an error. -/
def State.pbBad (s : State) (h : W64) : Bool := !s.host.portB || (s.cmd h).any fun c => c.at pbErrAt != 0
/-- The error has fallen on a transfer. -/
def State.pbClear (s : State) (h : W64) : State := s.keep h pbErrAt 0
/-- Change the run of region `r`. -/
def State.updRunR (s : State) (r : Nat) (f : RunState → RunState) : State := s.updRgn r fun g => { g with run := g.run.map f }
/-- The first begin and the last end of the STEP's port B transfers (R333). -/
def State.pbStamp (s : State) (r : Nat) : State :=
  s.updRunR r fun x => { x with pb := some ((x.pb.getD (s.time.now, 0)).1, s.time.now) }

/-! ### The slow tier (R327–R329) -/

/-- The run of region `r` with its command and the descriptor of slow set `i`. -/
def State.slowSet (s : State) (r i : Nat) : Option (RunState × Cmd × List W64) :=
  match (s.rgn r).run.filter fun x => x.isStep && x.begun && decide (i < x.nslow) with
  | none => none
  | some x => (s.cmd x.handle).map fun c => (x, c, s.slowDesc (c.slowAt i))
/-- The sequence number whose values a STEP with sequence n wants: n − 1 − LAG, of 64 bits. -/
def sWant (d : List W64) : Nat := (sSseq d + 2 ^ 64 - 1 - sLag d) % 2 ^ 64
/-- A transfer of port B is the first of those in progress in its direction, by the order in which they started (R330): a pull and a return
read host memory, an out transfer writes it. -/
def State.pbTurn (s : State) (r : Nat) (off : Bool) (i : Nat) : Bool :=
  let reads := fun (j : PbJob) => !j.off || (match (s.rgn j.region).run.bind fun x => s.cmd x.handle with
    | some c => (s.devWord (c.offAt j.idx)).bit 0
    | none => false)
  let live := fun (j : PbJob) => (s.rgn j.region).run.any fun x =>
    if j.off then count x.off j.idx == 1 else decide (j.idx < x.nslow) && count x.slow (2 * j.idx) == 0
  (s.host.pbq.find? fun j => live j && reads j == reads ⟨r, off, i⟩) == some ⟨r, off, i⟩
/-- SLOW_PULL: the slot's header is read, and where its VSEQ is the one wanted its values are copied into WORK (R329, R330). -/
def execSlowPull (r i : Nat) (s : State) : Out :=
  match (s.slowSet r i).filter fun x => count x.1.slow (2 * i) == 0 && s.pbTurn r false i with
  | none => .next s
  | some (x, c, d) =>
    let slot := sHost d + sWant d % 16 * sSlot d
    let down := !s.host.portB
    let bad := s.pbBad x.handle
    let hit := !down && (s.fnWord c.fn (slot + 8)).toNat == sWant d && !s.fnMark c.fn (slot + 8)
    let from_ := slot + 4096 + page4k (4 * sN d)
    let words := (List.range (if hit then sVlen d / 8 else 0)).map fun k => (k, s.fnWord c.fn (from_ + 8 * k), bad || s.fnMark c.fn (from_ + 8 * k))
    let s := words.foldl (fun (s : State) e => s.putDevWord (sWork d + 8 * e.1) e.2.1 e.2.2) s
    let s := if hit then s.putDevWord (c.slowAt i + 32) (BitVec.ofNat 64 (sSseq d + sWant d % 2 ^ 32 * 2 ^ 32)) false else s
    let v := if hit then sWant d % 2 ^ 32 else sVseq d
    let stale := min ((sSseq d : Int) - 1 - (v : Int)).toNat 15
    let poison := bad || words.any fun e => e.2.2
    let s := if down then s else s.pbCount r 0 (16 + if hit then sVlen d else 0)
    let s := ((s.runPoison r poison).pbDone poison).pbClear x.handle
    .next ((s.updRunR r fun x => { x with slow := FMap.set 0 x.slow (2 * i) 1, stale := max x.stale stale }).pbStamp r).pbShow
/-- Release an id at every MU of region `r`. -/
def State.releaseId (s : State) (r id : Nat) : State := (s.regionMus r).foldl (fun (s : State) m => s.releaseMu r m id) s
/-- An off-load return with this id has yet to be released. -/
def State.offPending (s : State) (x : RunState) (c : Cmd) (id : Nat) : Bool :=
  (List.range x.noff).any fun j => let d := s.offEnt (c.offAt j); oBack d && oId d == id && decide (count x.off j < 3)
/-- At a step boundary the id of a pulled slow set is released; one that an off-load return shares goes with the later of the two
(R329, R336). -/
def State.slowFree (s : State) (r i : Nat) : State :=
  match (s.slowSet r i).filter fun x => count x.1.slow (2 * i) == 1 with
  | none => s
  | some (x, c, d) =>
    let s := s.updRunR r fun x => { x with slow := FMap.set 0 x.slow (2 * i) 2 }
    if s.offPending x c (sId d) then s else s.releaseId r (sId d)
/-- SLOW_RELEASE: at a step boundary (R329; log entry 99). -/
def execSlowRelease (r i : Nat) (s : State) : Out := .next (if s.onStep s.time.now then s.slowFree r i else s)
/-- At the declaration of START's drain the gradients go to slot n mod 16, then GSEQ (R328, R329). -/
def State.slowPush (s : State) (r i : Nat) : State :=
  match (s.slowSet r i).filter fun x => count x.1.slow (2 * i + 1) == 0 with
  | none => s
  | some (x, c, d) =>
    let slot := sHost d + sSseq d % 16 * sSlot d
    let n := 4 * sN d
    let bad := s.pbBad x.handle
    let marks := s.fnBad c.fn (sGrad d) n
    let s := if !s.host.portB then s else
      let s := (pieces n).foldl (fun (s : State) p =>
        s.pbPut c.fn (slot + 4096 + p.1) p.2 (s.devWord (sGrad d + p.1)) (bad || s.devMark (sGrad d + p.1))) (s.hubRead c.region (sGrad d) n)
      (s.pbPut c.fn slot 8 (BitVec.ofNat 64 (sSseq d)) false).pbCount r 1 (n + 8)
    let s := ((s.runPoison r (bad || marks)).pbDone (bad || marks)).pbClear x.handle
    (s.updRunR r fun x => { x with slow := FMap.set 0 x.slow (2 * i + 1) 1 }).pbStamp r

/-! ### Off-load (R331, R332) -/

/-- The run of region `r` with its command and off-load entry `i`. -/
def State.offSet (s : State) (r i : Nat) : Option (RunState × Cmd × List W64) :=
  match (s.rgn r).run.filter fun x => x.isStep && x.begun && decide (i < x.noff) with
  | none => none
  | some x => (s.cmd x.handle).map fun c => (x, c, s.offEnt (c.offAt i))
/-- The rows of an entry: 128 bytes each, of an MU's scratchpad or of DRAM. -/
def State.offRow (s : State) (r : Nat) (d : List W64) (k : Nat) : Row :=
  if oDram d then
    let a := oDev d + 128 * k
    ⟨BitVec.ofNat 1024 (leNat (s.fnBytes 0 a 128)), BitVec.ofNat 16 ((List.range 16).foldr (fun w n => (if s.devMark (a + 8 * w) then 1 else 0) + 2 * n) 0)⟩
  else match s.offBuf r d with
    | some b => s.spadRow b.1 (128 * (b.2.1 + k))
    | none => Row.zero
/-- Write a row of an entry. -/
def State.putOffRow (s : State) (r : Nat) (d : List W64) (k : Nat) (x : Row) : State :=
  if oDram d then
    (List.range 16).foldl (fun (s : State) w => s.putDevWord (oDev d + 128 * k + 8 * w) (Row.word x w) (x.poison.getLsbD w)) s
  else match s.offBuf r d with
    | some b => let o := 128 * (b.2.1 + k); (s.putSpadRow b.1 o x fullMask).spadWritten b.1 o 128
    | none => s
/-- OFFLOAD_END: the transfer that a drain started has moved its rows (R330, R332, R339). -/
def execOffloadEnd (r i : Nat) (s : State) : Out :=
  match (s.offSet r i).filter fun x => count x.1.off i == 1 && s.pbTurn r true i with
  | none => .next s
  | some (x, c, d) =>
    let bad := s.pbBad x.handle
    let rows := List.range (oLen d / 128)
    let z := rows.foldl (fun (z : State × Bool) k =>
      let s := z.1
      let h := oHaddr d + 128 * k
      if oBack d then
        let v : Row := ⟨BitVec.ofNat 1024 (leNat (s.fnBytes c.fn h 128)), BitVec.ofNat 16 ((List.range 16).foldr (fun w n =>
          (if bad || s.fnMark c.fn (h + 8 * w) then 1 else 0) + 2 * n) 0)⟩
        (s.putOffRow r d k v, z.2 || v.poison != 0)
      else
        let v := s.offRow r d k
        let s := if oDram d then s.hubRead c.region (oDev d + 128 * k) 128
          else match s.offBuf r d with | some b => s.decodeSpad b.1 (128 * (b.2.1 + k)) 128 | none => s
        let s := if s.host.portB then
          (List.range 16).foldl (fun (s : State) w => s.pbPut c.fn (h + 8 * w) 8 (Row.word v w) (bad || v.poison.getLsbD w)) s else s
        (s, z.2 || v.poison != 0)) (s, bad)
    let s := if s.host.portB then z.1.pbCount r (if oBack d then 0 else 1) (oLen d) else z.1
    let s := ((s.runPoison r z.2).pbDone z.2).pbClear x.handle
    .next ((s.updRunR r fun x => { x with off := FMap.set 0 x.off i 2 }).pbStamp r).pbShow
/-- At a step boundary the id of an ended transfer is released; a return that shares it with a slow set that is still to be released
leaves it to that one (R332, R336). -/
def State.offFree (s : State) (r i : Nat) : State :=
  match (s.offSet r i).filter fun x => count x.1.off i == 2 with
  | none => s
  | some (x, c, d) =>
    let s := s.updRunR r fun x => { x with off := FMap.set 0 x.off i 3 }
    let shared := oBack d && (List.range x.nslow).any fun j => sId (s.slowDesc (c.slowAt j)) == oId d && decide (count x.slow (2 * j) < 2)
    if shared then s else s.releaseId r (oId d)
/-- The releases of a boundary. -/
def State.freeIds (s : State) (r : Nat) : State :=
  match (s.rgn r).run with
  | none => s
  | some x =>
    let s := (List.range x.nslow).foldl (fun (s : State) i => s.slowFree r i) s
    (List.range x.noff).foldl (fun (s : State) i => s.offFree r i) s

/-! ### Drain declarations (R245, R246, R298, R326, R332, R429) -/

/-- A context that faulted under the wave of groups at hand is still FAULTED; an engine that faulted keeps its own descriptor's group from
draining (R190, R246). -/
def State.hasFault (s : State) (r : Nat) : Bool :=
  (s.rgn r).faults.any fun k => ((s.cu (k / 4)).ctxAt (k % 4)).st == .faulted
/-- The drain of the region's pending group is to be declared at this boundary: it holds, and the run that it belongs to began at an
earlier one (R245). -/
def State.drainDue (s : State) (r : Nat) : Bool :=
  let g := s.rgn r
  g.img.isSome && decide (g.group < s.ngrp r) && !(g.run.any fun x => x.begun && (s.inst r x.inst).any fun i => i.t0 == s.time.now) &&
    !s.hasFault r && s.drainHolds r g.group
/-- No group of region `r` is pending and its work has gone on: a wave of groups begins (R245; log entry 91). -/
def State.wakeDrain (s : State) (r : Nat) : State :=
  let g := s.rgn r
  if g.img.isSome && decide (s.ngrp r ≤ g.group) && !((List.range (s.ngrp r)).all fun i => s.drainHolds r i) then s.beginWave r else s
/-- The COLL to which a pass is bound at the declaration: the oldest qualifying one that waits for it (R326). -/
def State.waitingColl (s : State) (x : Pass) : Option Cmd :=
  s.host.cmds.find? fun c => c.phase == .running && c.at trigStage == 1 && s.qualifies c x
/-- The passes of group `g` of the run begin, or are bound to their all-reduce (R318, R326). -/
def State.duePasses (s : State) (r g : Nat) : State :=
  (s.passes.filter fun x => x.region == r && x.ph == 0 && uStart (s.updDesc x.addr) == g).foldl (fun (s : State) x =>
    if uNormar (s.updDesc x.addr) then
      let b := s.waitingColl x
      let s := match b with | some c => s.keep c.handle boundStage 1 | none => s
      s.updPass x.q x.id fun y => { y with ph := 1, at_ := s.time.now, bound := b.map (·.handle) }
    else (s.updPass x.q x.id fun y => { y with ph := 2, at_ := s.time.now }).ouShow x.q) s
/-- Declare the drain of the region's pending group. -/
def State.declareDrain (s : State) (r : Nat) : State :=
  let g := (s.rgn r).group
  let now := s.time.now
  let s := s.updRgn r fun x => { x with
    insts := x.insts.map fun i => if i.t0 < now then { i with drains := NatSet.ins i.drains g } else i,
    absDrain := FMap.set 0 x.absDrain (2 * g) (now + 1), declared := NatSet.ins x.declared g, group := g + 1,
    run := x.run.map fun y => if y.begun && decide (s.ngrp r ≤ g + 1) then { y with drained := true } else y }
  let s := (s.addCtr r 25 1 1).emitTrace r (s.traceDie r) 7 0 0 0 g (s.flightHandle r)
  let s := s.pinAhead r
  let s := (s.duePasses r g).trigColl r g
  let s := match (s.rgn r).run with
    | none => s
    | some x =>
      match s.cmd x.handle with
      | none => s
      | some c =>
        let slow := (List.range x.nslow).filter fun i => sStart (s.slowDesc (c.slowAt i)) == g
        let off := (List.range x.noff).filter fun i => oTrig (s.offEnt (c.offAt i)) == g && count x.off i == 0
        let s := slow.foldl (fun (s : State) i => s.slowPush r i) s
        let s := off.foldl (fun (s : State) i => (s.updRunR r fun x => { x with off := FMap.set 0 x.off i 1 }).pbStamp r) s
        let s := s.updHost fun h => { h with pbq := h.pbq ++ off.map fun i => (⟨r, true, i⟩ : PbJob) }
        s.pbShow
  (s.regionMus r).foldl (fun (s : State) m => s.muGo m) s
/-- Declare in ascending order the drains that hold, at most `n`. -/
def State.tryDrains (s : State) (r : Nat) : Nat → State
  | 0 => s
  | n + 1 => if s.drainDue r then (s.declareDrain r).tryDrains r n else s
/-- Phase 3 of a boundary: the drains of region `r` that hold are declared (R245, R269). -/
def State.tryDrain (s : State) (r : Nat) : State := (s.wakeDrain r).tryDrains r (s.ngrp r)
/-- DRAIN_DECLARE: at a step boundary, the drain of group `g` of region `r`, where it is the pending one and holds (R245). -/
def execDrainDeclare (r g : Nat) (s : State) : Out :=
  .next (if s.onStep s.time.now && (s.rgn r).group == g && s.drainDue r then s.declareDrain r else s)

/-! ### The end of a RUN or STEP (R36, R271, R318, R329) -/

/-- Its final drain holds: every group is drained, every pass has ended, every slow set is written back and every transfer released. -/
def State.runOver (s : State) (x : RunState) : Bool :=
  x.begun && x.drained && !(s.passes.any fun p => p.handle == x.handle) &&
    (List.range x.nslow).all (fun i => count x.slow (2 * i) == 2 && count x.slow (2 * i + 1) == 1) &&
    (List.range x.noff).all fun i => count x.off i == 3
/-- SSEQ = n + 1 is written back (R329). -/
def State.slowEnd (s : State) (x : RunState) (c : Cmd) : State :=
  (List.range x.nslow).foldl (fun (s : State) i =>
    let d := s.slowDesc (c.slowAt i)
    s.putDevWord (c.slowAt i + 32) (BitVec.ofNat 64 ((sSseq d + 1) % 2 ^ 32 + sVseq d * 2 ^ 32)) false) s
/-- A run whose final drain holds is due for its completion at this boundary (R36, R218, R271). -/
def State.finishRun (s : State) (r : Nat) : State :=
  match (s.rgn r).run with
  | none => s
  | some x =>
    match (s.cmd x.handle).filter fun c => c.phase == .running with
    | none => s
    | some c =>
      if !s.runOver x then s
      else
        let s := s.slowEnd x c
        let i := s.inst r x.inst
        let late := match i.bind (·.deadline) with | some d => decide (d < s.time.now) | none => false
        let down := match (s.rgn r).fstat with | some p => decide (x.since ≤ p.2) | none => false
        let status := if down then 6 else if x.status ≠ 0 then x.status else if late then 9 else (i.map (·.grade)).getD 0
        s.due x.handle status 0
/-- MARK entries for a phase stand in the region's active bank (R333). -/
def State.marksPhase (s : State) (r p : Nat) : Bool := (s.rgnEnts r (s.bankOf r)).any fun e => e.action == 7 && e.w1.bits 2 0 == p
/-- The stamps of a phase record: those of MARK actions, or the defaults for the update and the off-load of a STEP (R333, R529). -/
def State.phaseStamps (s : State) (r : Nat) (x : RunState) (i : Inst) : FMap Nat × FMap Nat :=
  let set := fun (m : FMap Nat × FMap Nat) (p : Nat) (v : Option (Nat × Nat)) => match v with
    | some b => if s.marksPhase r p || !x.isStep then m else (FMap.set 0 m.1 p (b.1 + 1), FMap.set 0 m.2 p (b.2 + 1))
    | none => m
  set (set (i.begins, i.ends) 2 x.upd) 4 x.pb
/-- A region's run ends as its completion is written: counts, its phase record, its instance; the next one is taken up (R146, R268,
R352, R525, R528). Answers the command as it is to be recorded. -/
def State.closeRun (s : State) (c : Cmd) : State × Cmd :=
  let r := c.region
  match (s.rgn r).run.filter fun x => x.handle == c.handle with
  | none => (s, c)
  | some x =>
    let sstat := (s.regionMus r).foldl (fun (b : Byte) m => (List.range 4).foldl (fun b e => b ||| (s.eng m e).sstat) b) 0
    let c := { c with sstat := sstat.toNat, stale := min x.stale 15, passSkip := min x.passSkip 255,
                      detail := BitVec.ofNat 64 (c.detail.bits 31 0 + min x.skipped (2 ^ 31 - 1) * 2 ^ 32) }
    let s := match (s.inst r x.inst).filter fun _ => x.begun with
      | none => s
      | some i =>
        let z := s.phaseStamps r x i
        let p : PhaseRec := ⟨c.handle, i.t0, s.time.now, c.status, x.isStep, z.1, z.2⟩
        let s := s.updRgn r fun g => { g with phases := (p :: g.phases).take 16 }
        let s := s.addCtr r 23 (if x.isStep then 1 else 0) 1
        let s := if c.status = 1 then s.addCtr r 24 0 1 else if c.status = 9 then s.addCtr r 24 1 1 else s
        (s.emitTrace r (s.traceDie r) 5 0 0 0 c.status (some c.handle)).endInst r x.inst
    let s := { s with passes := s.passes.filter fun p => !(p.handle == c.handle && decide (p.ph < 2)) }
    let s := s.updRgn r fun g => { g with run := none }
    let s := s.updHost fun h => { h with pbq := h.pbq.filter fun j => j.region != r }
    (s.pbShow, c)

end Sys2Proof.Machine
end

