-- ==== Sys2Proof/Machine/Feed.lean ====
section
/-! DEFINITION. The feed ports: frames, egress windows, dispatch, answers, backstops and responses (R362–R371, R37, R271). -/

namespace Sys2Proof.Machine

/-! ### Frames (R363, R364) -/

/-- A big-endian number from bytes. -/
def beNat (l : List Byte) : Nat := l.foldl (fun n b => 256 * n + b.toNat) 0
/-- The low `n` bytes of a number, big-endian. -/
def beBytes (v n : Nat) : List Byte := (leBytes v n).reverse
/-- Bytes `[i, i + n)` of a frame. -/
def cut (f : List Byte) (i n : Nat) : List Byte := (f.drop i).take n
/-- The ones' complement sum of 16-bit big-endian words, an odd last byte padded with zero. -/
def onesSum : List Byte → Nat → Nat
  | a :: b :: l, n => let t := n + 256 * a.toNat + b.toNat; onesSum l (t % 65536 + t / 65536)
  | [a], n => let t := n + 256 * a.toNat; t % 65536 + t / 65536
  | [], n => n

/-- Word 0 and word 1 of a model slot in force (R365). -/
def State.feedWord (s : State) (n w : Nat) : W64 :=
  FMap.get (pfReset (aFeedSlot n w)) (if w = 0 then s.cfg.feed0 else s.cfg.feed1) n
/-- FEED_CTL's EN, UDP, TTL, ETYPE and UPORT. -/
def State.feedEn (s : State) (p : Nat) : Bool := (s.reg (aFeedCtl p)).bit 0
def State.feedUdp (s : State) (p : Nat) : Bool := (s.reg (aFeedCtl p)).bit 2
/-- Where the device header of a port's frames starts. -/
def State.feedHead (s : State) (p : Nat) : Nat := if s.feedUdp p then 42 else 14

/-- The header fields of a request that the checks read. -/
structure ReqHead where
  mslot : Nat
  key : Nat
  reqid : Nat
  plen : Nat
  zeroOk : Bool
deriving DecidableEq, Repr
/-- The device header of a frame at an offset (R364). -/
def reqHead (f : List Byte) (o : Nat) : ReqHead :=
  let b := fun (i : Nat) => (f.getD (o + i) 0).toNat
  ⟨(b 2 + 256 * b 3) % 4096, leNat (cut f (o + 4) 2), leNat (cut f (o + 8) 4), leNat (cut f (o + 12) 2),
   b 0 == 1 && b 1 == 1 && b 3 / 16 == 0 && b 6 == 0 && b 7 == 0 && b 14 == 0 && b 15 == 0⟩

/-- The Ethernet, IPv4 and UDP fields of a frame are those of the port (R363). -/
def State.feedAddressed (s : State) (p : Nat) (f : List Byte) : Bool :=
  let at_ := fun (i n : Nat) => beNat (cut f i n)
  s.feedEn p && at_ 0 6 == (s.reg (aFeedMac p)).bits 47 0 &&
    if s.feedUdp p then
      let ulen := at_ 38 2
      let pseudo := cut f 26 8 ++ [0, 17] ++ cut f 38 2
      at_ 12 2 == 0x0800 && at_ 14 1 == 0x45 && at_ 20 2 % 16384 == 0 && at_ 23 1 == 17 &&
        at_ 30 4 == (s.reg (aFeedIp p)).bits 31 0 && onesSum (cut f 14 20) 0 == 0xffff &&
        at_ 36 2 == (s.reg (aFeedCtl p)).bits 47 32 && (at_ 40 2 == 0 || onesSum (pseudo ++ cut f 34 ulen) 0 == 0xffff)
    else at_ 12 2 == (s.reg (aFeedCtl p)).bits 31 16

/-- The frame's length agrees with PLEN (R367). -/
def State.feedLength (s : State) (p : Nat) (f : List Byte) : Bool :=
  let o := s.feedHead p
  let n := (reqHead f o).plen
  (if f.length = 64 then decide (o + 36 + n ≤ 64) else f.length == o + 36 + n) &&
    (!s.feedUdp p || (beNat (cut f 16 2) == 60 + n && beNat (cut f 38 2) == 40 + n))
/-- The frame's check sequence. -/
def fcsOk (f : List Byte) : Bool := decide (64 ≤ f.length) && (crc32 (f.take (f.length - 4))).toNat == leNat (f.drop (f.length - 4))

/-! ### Egress windows (R368), in 25ths of dt -/

/-- The wire time of a frame with preamble, SFD and gap: 0.32 ns a byte. -/
def wireTime (n : Nat) : Nat := 128 * (n + 20)
/-- From the start of a frame to the end of its SFD at the pins (R371). -/
def State.egress (s : State) (p : Nat) : Nat := if NatSet.mem s.feed.fec p then 20224 else 7424
/-- The length of the full response frame of a slot. -/
def State.respLen (s : State) (p outlen : Nat) : Nat := max 64 (s.feedHead p + 36 + outlen)
/-- The windows that are reserved on a port. -/
def State.windows (s : State) (p : Nat) : List (Nat × Nat) :=
  (s.feed.reqs.filter fun q => q.port == p && !q.sent).map fun q => (q.win, q.winLen)
/-- The latest start at or before `t` whose window meets none of those reserved; none where time runs out. -/
def placeWindow (ws : List (Nat × Nat)) (w : Nat) : Nat → Nat → Option Nat
  | _, 0 => none
  | t, fuel + 1 =>
    match ws.find? fun x => decide (t < x.1 + x.2) && decide (x.1 < t + w) with
    | none => some t
    | some x => if x.1 < w then none else placeWindow ws w (x.1 - w) fuel
/-- The window of a request with deadline `d` on port `p`, if it can be placed. -/
def State.egressWindow (s : State) (p d w : Nat) : Option Nat :=
  let t := 25 * d - s.egress p
  ((placeWindow (s.windows p) w t ((s.windows p).length + 1)).filter fun x => decide (25 * s.time.now + 25600 ≤ x))

/-! ### Acceptance (R366, R367, R369) -/

/-- Region `r` has an image that a request can run. -/
def State.loaded (s : State) (r : Nat) : Bool := (s.rgn r).img.isSome && (s.rgn r).wedged == 0
/-- The reason for which a frame is discarded, the lowest first. -/
def State.feedReason (s : State) (p : Nat) (f : List Byte) (arrival : Nat) : Option Nat :=
  let h := reqHead f (s.feedHead p)
  let w0 := s.feedWord h.mslot 0
  let w1 := s.feedWord h.mslot 1
  let fn := w0.bits 11 0
  if !fcsOk f || !s.feedLength p f then some 0
  else if !s.feedAddressed p f then some 1
  else if !h.zeroOk then some 2
  else if !w0.bit 56 || !w0.bit (57 + p) || !s.fnEnabled fn || s.isResetting fn then some 3
  else if h.key ≠ w0.bits 51 36 then some 4
  else if 128 * (w1.bits 50 48 + 1) < h.plen then some 5
  else if !s.mayTakeSlot fn || !s.cqRoom fn (w0.bits 55 52) then some 6
  else if (s.egressWindow p (arrival + 16 * w0.bits 35 20) (wireTime (s.respLen p (w1.bits 61 51)))).isNone then some 7
  else none
/-- A discarded frame is counted, for its slot's function too under reasons 3 to 7 (R367, R534). -/
def State.feedDiscard (s : State) (p k : Nat) (f : List Byte) : State :=
  let s := s.addReg (aFeedDisc p k) 1
  let w0 := s.feedWord (reqHead f (s.feedHead p)).mslot 0
  if 3 ≤ k && w0.bit 56 then s.fnCount (w0.bits 11 0) 22 1 else s

/-- Change the requests of a handle. -/
def State.updReq (s : State) (h : W64) (f : FeedReq → FeedReq) : State :=
  { s with feed := { s.feed with reqs := s.feed.reqs.map fun q => if q.handle == h then f q else q } }
/-- The request in handle slot `i`. -/
def State.feedReq (s : State) (i : Nat) : Option FeedReq := s.feed.reqs.find? fun q => q.slot == i && !q.sent
/-- The region of a request. -/
def FeedReq.region (q : FeedReq) : Nat := q.w0.bits 19 12
/-- Write the payload into the input rows of instance `k`, with zeros to the end of the last row (R369). -/
def State.deliverInput (s : State) (q : FeedReq) (k : Nat) : State :=
  let m := q.w1.bits 11 0
  let rows := max 1 ((q.payload.length + 127) / 128)
  if s.dieRefuses (unitDie m) then s.regionDown q.region
  else (List.range rows).foldl (fun (s : State) i =>
    let o := 128 * (q.w1.bits 23 12 + 8 * k + i)
    (s.putSpadRow m o ⟨BitVec.ofNat 1024 (leNat (cut q.payload (128 * i) 128)), 0⟩ fullMask).spadWritten m o 128) s
/-- Give waiting requests of region `r` their instance buffers, oldest first, the lowest free one each (R268, R365). -/
def State.giveBuffers (s : State) (r : Nat) : State :=
  (s.feed.reqs.filter fun q => q.region == r && q.k.isNone && q.answered.isNone && !q.sent).foldl (fun (s : State) q =>
    match (List.range 4).find? fun k => !(s.feed.reqs.any fun x => x.region == r && x.k == some k) with
    | none => s
    | some k => (s.deliverInput q k).updReq q.handle fun x => { x with k := some k, written := true }) s

/-- The DETAIL of a request's completion (R354). -/
def reqDetail (reqid mslot p : Nat) : W64 := BitVec.ofNat 64 (reqid + mslot * 2 ^ 32 + p * 2 ^ 44)
/-- Accept a frame that passed every check: a handle, a record, a deadline and a window (R346, R367–R369). -/
def State.feedAccept (s : State) (p : Nat) (f : List Byte) (arrival : Nat) : State :=
  let o := s.feedHead p
  let h := reqHead f o
  let w0 := s.feedWord h.mslot 0
  let w1 := s.feedWord h.mslot 1
  let fn := w0.bits 11 0
  let r := w0.bits 19 12
  let d := arrival + 16 * w0.bits 35 20
  let w := wireTime (s.respLen p (w1.bits 61 51))
  let win := (s.egressWindow p d w).getD 0
  let z := s.takeSeq fn
  let t := z.2.takeSlot fn
  let hd := mkHandle fn t.1 t.2.1 z.1
  let s := ((t.2.2.reserveCq fn (w0.bits 55 52)).fnCount fn 21 1).addReg (aObsFeed p) 1
  let c : Cmd := ⟨hd, fn, 0, w0.bits 55 52, z.1, true, [], .running, 0, reqDetail h.reqid h.mslot p, 0, 0, 0, r, [], []⟩
  let answered := if s.loaded r then none else some (8, ([] : List Byte))
  let q : FeedReq := ⟨t.1, hd, p, h.mslot, w0, w1, h.reqid, beNat (cut f 6 6), beNat (cut f 26 4), beNat (cut f 34 2), arrival, d, win, w,
    cut f (o + 32) h.plen, none, none, false, [], answered, false⟩
  let s := s.updHost fun x => { x with cmds := x.cmds ++ [c] }
  let s := { s with feed := { s.feed with reqs := s.feed.reqs ++ [q] } }
  s.giveBuffers r
/-- A request frame for model slot `n` reaches the detectors of the slot's region whose ARM names SRC 2 and that slot: its start is a
first edge, its acceptance the second (R268; log entry 92). -/
def State.slotEdge (s : State) (n : Nat) (second : Bool) : State :=
  s.latchWhere ((s.feedWord n 0).bits 19 12) (fun op => op.bits 1 0 == 2 && op.bits 35 20 == n) second
/-- FEED_FRAME: a frame whose last byte is in: discarded and counted, or accepted (R363–R369, R483). -/
def execFeedFrame (p : Nat) (bytes : List Byte) (arrival : Nat) (s : State) : Out :=
  if s.power.st == .ready && NatSet.mem s.feed.link p then
    let n := (reqHead bytes (s.feedHead p)).mslot
    match s.feedReason p bytes arrival with
    | some k => .next ((if 3 < k then s.slotEdge n false else s).feedDiscard p k bytes)
    | none => .next (((s.slotEdge n false).slotEdge n true).feedAccept p bytes arrival)
  else .next s

/-! ### Dispatch, answers and backstops (R268, R271, R369, R370) -/

/-- Dispatch a delivered request at a step boundary: its instance begins; a region without an image answers VERIFY_FAILED. -/
def State.dispatch (s : State) (q : FeedReq) : State :=
  let r := q.region
  if !q.written || q.inst.isSome || q.answered.isSome || q.sent then s
  else if !s.loaded r then s.updReq q.handle fun x => { x with answered := some (8, []) }
  else if 4 ≤ (s.rgn r).graded.length then s
  else
    let id := (s.rgn r).nextInst
    ((s.beginInst r 1 q.handle (some q.deadline) 0).beginWave r).updReq q.handle fun x => { x with inst := some id, marks := [] }
/-- REQUEST_DISPATCH, at a step boundary (R268, R369). -/
def execRequestDispatch (q : Nat) (s : State) : Out :=
  match (s.feedReq q).filter fun _ => s.onStep s.time.now with
  | none => .next s
  | some x => .next (s.dispatch x)

/-- The output rows of a request. -/
def FeedReq.outRows (q : FeedReq) : List Nat :=
  (List.range ((q.w1.bits 61 51 + 127) / 128)).map fun i => q.w1.bits 47 36 + 8 * q.k.getD 0 + i
/-- The answer of a dispatched request is ready: every output row is marked, or with OUTLEN 0 the drain of group 0 holds (R370). -/
def State.answerIn (s : State) (q : FeedReq) : Bool :=
  match q.inst.bind (s.inst q.region) with
  | none => false
  | some i =>
    if q.w1.bits 61 51 = 0 then
      NatSet.mem i.drains 0 || (decide (i.t0 < s.time.now) && !s.hasFault q.region && s.drainHolds q.region 0)
    else decide (q.marks.length = q.outRows.length)
/-- The region's entries of BASE 2 declare a fallback (R218, R270). -/
def State.declaresFallback (s : State) (r : Nat) : Bool :=
  (s.rgnEnts r (s.bankOf r)).any fun e => e.base == 2 && e.action == 5 && e.w1.bits 3 2 != 0
/-- The grade of a request's answer (R37, R218, R270). -/
def State.reqGrade (s : State) (q : FeedReq) : Nat :=
  let down := match (s.rgn q.region).fstat with | some p => decide (q.arrival ≤ p.2) | none => false
  let own := ((q.inst.bind (s.inst q.region)).map (·.grade)).getD 9
  if down then (if own != 9 && s.declaresFallback q.region then 1 else 9) else own
/-- Read the answer and grade the request; a poisoned word among the bytes read withholds it (R370, R458, R467). -/
def State.feedAnswer (s : State) (q : FeedReq) : State :=
  let m := q.w1.bits 35 24
  let n := q.w1.bits 61 51
  let rows := q.outRows.zipIdx
  let bytes := (rows.flatMap fun e => leBytes (s.spadRow m (128 * e.1)).data.toNat 128).take n
  let bad := rows.any fun e => (List.range 16).any fun w => decide (128 * e.2 + 8 * w < n) && (s.spadRow m (128 * e.1)).poison.getLsbD w
  let s := rows.foldl (fun (s : State) e => s.decodeSpad m (128 * e.1) 128) s
  let g := s.reqGrade q
  if bad then (s.addReg aMemFeedpois 1).updReq q.handle fun x => { x with answered := some (9, []) }
  else s.updReq q.handle fun x => { x with answered := some (g, if g < 2 then bytes else []) }
/-- ANSWER_READY (R370). -/
def execAnswerReady (q : Nat) (s : State) : Out :=
  match (s.feedReq q).filter fun x => x.answered.isNone && s.answerIn x with
  | none => .next s
  | some x => .next (s.feedAnswer x)

/-- The backstop of a request: the last step boundary at or before S − 64 ns (R370, R371). -/
def State.backstopAt (s : State) (q : FeedReq) : Nat := (q.win / 25 - 1024) / s.stepDt * s.stepDt
/-- A request's backstop: an answer that is ready is sent, else the response carries LATE (R271, R370). -/
def State.backstop (s : State) (q : FeedReq) : State :=
  if q.answered.isSome then s
  else if s.answerIn q then s.feedAnswer q
  else
    let s := match q.inst with
      | some id => { s.updInst q.region id Inst.markLate with feed := { s.feed with discarded := s.feed.discarded + 1 } }
      | none => s
    s.updReq q.handle fun x => { x with answered := some (9, []) }
/-- BACKSTOP: the backstop of a request whose boundary is reached (R271). -/
def execBackstop (q : Nat) (s : State) : Out :=
  match (s.feedReq q).filter fun x => decide (s.backstopAt x ≤ s.time.now) with
  | none => .next s
  | some x => .next (s.backstop x)

/-! ### Responses (R363, R364, R368, R370) -/

/-- The STATUS of a response frame: only OK, DEGRADED, LATE and VERIFY_FAILED stand there (R364). -/
def frameStatus (st : Nat) : Nat := if st = 0 || st = 1 || st = 8 then st else 9
/-- The response frame of a request with a status and a payload. -/
def State.response (s : State) (q : FeedReq) (st : Nat) (pay : List Byte) : List Byte :=
  let p := q.port
  let dev := [1, 2] ++ leBytes q.mslot 2 ++ [0, 0, BitVec.ofNat 8 st, 0] ++ leBytes q.reqid 4 ++ leBytes pay.length 2 ++ [0, 0] ++
    leBytes q.arrival 8 ++ leBytes q.deadline 8 ++ pay
  let ctl := s.reg (aFeedCtl p)
  let mac := beBytes q.srcMac 6 ++ beBytes ((s.reg (aFeedMac p)).bits 47 0) 6
  let body :=
    if s.feedUdp p then
      let ip := fun (sum : Nat) => beBytes 0x4500 2 ++ beBytes (28 + dev.length) 2 ++ beBytes 0 2 ++ beBytes 0x4000 2 ++
        [BitVec.ofNat 8 (ctl.bits 15 8), 17] ++ beBytes sum 2 ++ beBytes ((s.reg (aFeedIp p)).bits 31 0) 4 ++ beBytes q.srcIp 4
      mac ++ beBytes 0x0800 2 ++ ip (0xffff - onesSum (ip 0) 0) ++
        beBytes (ctl.bits 47 32) 2 ++ beBytes q.srcPort 2 ++ beBytes (8 + dev.length) 2 ++ beBytes 0 2 ++ dev
    else mac ++ beBytes (ctl.bits 31 16) 2 ++ dev
  let f := body ++ List.replicate (60 - body.length) 0
  f ++ leBytes (crc32 f).toNat 4

/-- The response may leave now: in or after its window, or before it where the port is free until its frame has ended. -/
def State.mayLeave (s : State) (q : FeedReq) : Bool :=
  let t := 25 * s.time.now
  decide (q.win ≤ t) ||
    !(s.feed.reqs.any fun x => x.port == q.port && x.handle != q.handle && !x.sent && decide (t < x.win + x.winLen) && decide (x.win < t + q.winLen))
/-- A graded answer leaves; the completion is due at the next step boundary with the same status (R37, R370). -/
def State.sendResponse (s : State) (x : FeedReq) : State :=
  match x.answered with
  | none => s
  | some a =>
    let f := s.response x (frameStatus a.1) a.2
    let s := { s with feed := { s.feed with out := s.feed.out ++ [(x.port, f)] } }
    let s := s.updReq x.handle fun y => { y with sent := true }
    match s.cmd x.handle with
    | some c => if c.phase == .running then s.updCmd x.handle fun c => { c with phase := .due, status := a.1 } else s
    | none => { s with feed := { s.feed with reqs := s.feed.reqs.filter fun y => y.handle != x.handle } }
/-- RESPONSE_SEND (R37, R368, R370). -/
def execResponseSend (q : Nat) (s : State) : Out :=
  match (s.feedReq q).filter s.mayLeave with
  | none => .next s
  | some x => .next (s.sendResponse x)
/-- As time passes, the graded answers whose windows have begun leave in window order: a reserved window is never moved, so every
accepted request's response leaves by its deadline (R37, R368). -/
def State.sendDue (s : State) : State :=
  let due := s.feed.reqs.filter fun q => !q.sent && q.answered.isSome && decide (q.win < 25 * s.time.now)
  (due.mergeSort fun a b => decide (a.win ≤ b.win)).foldl (fun (s : State) q => s.sendResponse q) s

/-- The completion of a request is written: its instance ends, its buffer is free (R268, R355). -/
def State.closeReq (s : State) (c : Cmd) : State :=
  match s.feed.reqs.find? fun q => q.handle == c.handle with
  | none => s
  | some q =>
    let r := q.region
    let s := match q.inst with | some id => s.endInst r id | none => s
    let s := if c.status = 1 then s.addCtr r 24 0 1 else if c.status = 9 then s.addCtr r 24 1 1 else s
    let reqs := if q.sent then s.feed.reqs.filter fun y => y.handle != c.handle
      else s.feed.reqs.map fun y => if y.handle == c.handle then { y with inst := none, k := none, written := false } else y
    { s with feed := { s.feed with reqs := reqs } }.giveBuffers r

/-! ### Links and slots (R362, R366, R565) -/

/-- FEED_LINK_UP: the port's link trains, with FEC as FEED_CTL asks (R362). -/
def execFeedLinkUp (p : Nat) (s : State) : Out :=
  .next (if s.awake then
      { s with feed := { s.feed with link := NatSet.ins s.feed.link p, fec := NatSet.put s.feed.fec p ((s.reg (aFeedCtl p)).bit 1) } }.setRegBit (aFeedStat p) 0
    else s)
/-- FEED_LINK_DOWN (R362). -/
def execFeedLinkDown (p : Nat) (s : State) : Out :=
  .next ({ s with feed := { s.feed with link := NatSet.del s.feed.link p } }.setRegBits (aFeedStat p) 0 0 0)

/-- A unit id names an MU of region `r` (R22, R366). -/
def State.muOf (s : State) (r m : Nat) : Bool := isMu m && s.inRegion r m && s.dieExists (unitDie m)
/-- An entry with VALID set that R366 refuses. -/
def State.feedSlotBad (s : State) (w0 w1 : W64) : Bool :=
  let fn := w0.bits 11 0
  let r := w0.bits 19 12
  w0.bit 56 && (!s.fnEnabled fn || s.nsq fn == 0 || !(partValid (s.part0 r)) || (s.bankIndex r fn).isNone || !s.muOf r (w1.bits 11 0) ||
    !s.muOf r (w1.bits 35 24) || decide (4064 < w1.bits 23 12) || decide (4064 < w1.bits 47 36) || decide (s.ncq fn ≤ w0.bits 55 52) ||
    decide (w0.bits 35 20 < 512))
/-- FEED_SLOT_WRITE: word 0 applies the entry at the next step boundary, or is refused and the entry reads as in force (R366, R565). -/
def State.feedSlotWrite (s : State) (n : Nat) (v : W64) : State :=
  let w0 := mergeBits 0 v (pfRw (aFeedSlot n 0))
  let w1 := s.reg (aFeedSlot n 1)
  if s.feedSlotBad w0 w1 then
    let cur := match FMap.get (none : Option (W64 × W64)) s.pend.feed n with
      | some p => p
      | none => (s.feedWord n 0, s.feedWord n 1)
    let s := (s.setReg (aFeedSlot n 0) cur.1).setReg (aFeedSlot n 1) cur.2
    (s.setRegBit aFeedSlotStat 0).setRegBits aFeedSlotStat 27 16 n
  else
    let s := s.setReg (aFeedSlot n 0) w0
    { s with pend := { s.pend with feed := FMap.set (none : Option (W64 × W64)) s.pend.feed n (some (w0, w1)) } }
/-- FEED_SLOT_WRITE (R366). -/
def execFeedSlotWrite (n : Nat) (v : W64) (s : State) : Out := s.pfWrite (aFeedSlot n 0) (s.feedSlotWrite n v)
/-- At a step boundary the written slots come into force (R366). -/
def State.applySlots (s : State) : State :=
  let s := s.pend.feed.foldl (fun (s : State) e => match e.2 with
    | none => s
    | some w => { s with cfg := { s.cfg with
        feed0 := FMap.set (pfReset (aFeedSlot e.1 0)) s.cfg.feed0 e.1 w.1,
        feed1 := FMap.set (pfReset (aFeedSlot e.1 1)) s.cfg.feed1 e.1 w.2 } }) s
  { s with pend := { s.pend with feed := [] } }

end Sys2Proof.Machine
end

