-- ==== Sys2Proof/Machine/Cmds.lean ====
section
/-! DEFINITION. The commands that move, scrub, schedule and count, host read completions, port B, the patrol and trace records
(R273, R274, R349, R351, R458–R464, R523–R534, R567). -/

namespace Sys2Proof.Machine

/-! ### XFER (R336, R339, R349, R458) -/

/-- The bytes that fall on the aligned word `w` of the destination: place, byte and the source word's mark. -/
def State.xferWord (s : State) (fn src dst n w : Nat) : List (Nat × Nat × Bool) :=
  (List.range 8).filterMap fun j =>
    let a := 8 * w + j
    if decide (dst ≤ a) && decide (a < dst + n) then
      let x := src + (a - dst)
      some (j, (s.fnWord fn (x / 8 * 8)).bits (8 * (x % 8) + 7) (8 * (x % 8)), s.fnMark fn (x / 8 * 8))
    else none
/-- Write some bytes of an aligned word of a function; a word written in part keeps its mark. -/
def State.putFnPart (s : State) (fn w : Nat) (l : List (Nat × Nat × Bool)) : State :=
  let v := l.foldl (fun (v : W64) e => mergeBits v (BitVec.ofNat 64 (e.2.1 * 256 ^ e.1)) (maskBits (8 * e.1 + 7) (8 * e.1))) (s.fnWord fn (8 * w))
  s.putFnWord fn (8 * w) v (l.any (·.2.2) || (decide (l.length < 8) && s.fnMark fn (8 * w)))
/-- Move the bytes of an XFER, the source as it stood before; `ep` marks every word (R458). -/
def State.xferMove (s : State) (c : Cmd) (ep : Bool) : State :=
  let src := (c.word 1).toNat
  let dst := (c.word 2).toNat
  let n := (c.word 3).toNat
  let words := if n = 0 then [] else (List.range ((dst + n - 1) / 8 + 1 - dst / 8)).map fun i => dst / 8 + i
  let data := words.map fun w => (w, (s.xferWord c.fn src dst n w).map fun e => (e.1, e.2.1, e.2.2 || ep))
  let bad := data.any fun e => e.2.any (·.2.2)
  let s := s.sourceRead c.fn src n
  let s := data.foldl (fun (s : State) e => s.putFnPart c.fn e.1 e.2) s
  let s := if isHostWin dst 1 then s.paWrite c.fn n else s
  s.due c.handle (if bad && (isHostWin dst 1 || isHostWin src 1) then 3 else 0) n
/-- XFER: it waits for a STEP in flight whose array it names, then moves its bytes, at once or when the host's data is in. -/
def execXfer (h : W64) (s : State) : Out :=
  match s.openCmd h 5 with
  | none => .next s
  | some c =>
    let src := (c.word 1).toNat
    let dst := (c.word 2).toNat
    let n := (c.word 3).toNat
    let down := fun (a : Nat) => decide (a < 16 * halfStack) && s.stackDown a n
    if n % 64 ≠ 0 then .next (s.due h 8 3)
    else if s.stepUses src n || s.stepUses dst n then .next (s.keep h waitStage 1)
    else if down src || down dst then .next (s.due h 6 0)
    else if isHostWin src 1 then .next ((s.begin h).keep h readStage 1)
    else .next ((s.begin h).xferMove c false)

/-! ### FENCE (R213, R351) -/

/-- Where a FENCE stands: 1 its event waits for a boundary, 2 the fence is placed, 3 it has held. -/
def fenceStage : Nat := 6
/-- FENCE (R351). -/
def execFence (h : W64) (s : State) : Out :=
  match s.openCmd h 7 with
  | none => .next s
  | some _ => .next ((s.begin h).keep h fenceStage 1)
/-- The FENCEs at a stage. -/
def State.fencesAt (s : State) (k : Nat) : List Cmd := s.host.cmds.filter fun c => c.opcode == 7 && c.phase == .running && c.at fenceStage == k
/-- At a boundary the fence events are placed. -/
def State.placeFences (s : State) : State :=
  (s.fencesAt 1).foldl (fun (s : State) c => (s.updRgn c.region fun g => { g with fence := max g.fence 1 }).keep c.handle fenceStage 2) s
/-- A placed fence whose region is released has held. -/
def State.heldFences (s : State) : State :=
  (s.fencesAt 2).foldl (fun (s : State) c => if (s.rgn c.region).fence = 0 then s.keep c.handle fenceStage 3 else s) s
/-- A FENCE whose fence has held is due once every XFER, FLASH_WRITE and COLL before it has completed. -/
def State.dueFences (s : State) : State :=
  (s.fencesAt 3).foldl (fun (s : State) c =>
    if (s.host.cmds.takeWhile fun x => x.handle != c.handle).any fun x =>
        x.fn == c.fn && [0x05, 0x06, 0x0C].contains x.opcode && x.phase != .due
    then s else s.due c.handle 0 0) s

/-! ### SCHED_WRITE and SCHED_SWAP (R267, R273, R274) -/

/-- Neither a copy, a swap nor an earlier SCHED_WRITE or SCHED_SWAP of the region is in the way. -/
def State.schedFree (s : State) (c : Cmd) : Bool :=
  let g := s.rgn c.region
  !g.copying && g.swap.isNone &&
    !((s.host.cmds.takeWhile fun x => x.handle != c.handle).any fun x => (x.opcode == 9 || x.opcode == 0x0A) && x.region == c.region && x.phase != .due)
/-- Entries from words. -/
def schedEnts : List W64 → List (W64 × W64)
  | a :: b :: l => (a, b) :: schedEnts l
  | _ => []
/-- The entries are checked and written into the shadow bank, all or none. -/
def State.schedDo (s : State) (c : Cmd) (ep : Bool) : State :=
  let r := c.region
  let a := (c.word 1).toNat
  let first := (c.word 2).bits 11 0
  let n := (c.word 2).bits 24 12
  let l := schedEnts (s.fnWords c.fn a (2 * n))
  let bad := if ep || s.fnMarks c.fn a (2 * n) then some 8 else (s.badSched (partOwner (s.part0 r)) r l).head?.map (·.2)
  let s := s.sourceRead c.fn a (16 * n)
  match bad with
  | some st => s.due c.handle st (if st = 8 then 1 else 0)
  | none =>
    let bank := 1 - s.bankOf r
    let base := (s.allotOf r).1 + first
    (l.zipIdx.foldl (fun (s : State) e => s.setBankEnt bank (base + e.2) e.1) s).due c.handle 0 0
/-- SCHED_WRITE (R273). -/
def execSchedWrite (h : W64) (s : State) : Out :=
  match s.openCmd h 9 with
  | none => .next s
  | some c =>
    let first := (c.word 2).bits 11 0
    let n := (c.word 2).bits 24 12
    if !s.schedFree c then .next s
    else if n = 0 || 4096 < n || (s.allotOf c.region).2 < first + n then .next (s.due h 8 2)
    else if isHostWin (c.word 1).toNat 1 then .next ((s.begin h).keep h readStage 1)
    else .next ((s.begin h).schedDo c false)
/-- When Pavane accepted a SCHED_SWAP, plus one. -/
def swapStage : Nat := 10
/-- SCHED_SWAP: it commits at the first figure boundary from now (R274). -/
def execSchedSwap (h : W64) (s : State) : Out :=
  match s.openCmd h 0x0A with
  | none => .next s
  | some c =>
    if s.schedFree c then .next (((s.begin h).keep h swapStage (s.time.now + 1)).updRgn c.region fun g => { g with swap := some h })
    else .next s
/-- The commit of a swap in phase 1; one accepted in the cycle of the boundary waits for the next (R269, R274). -/
def State.commitSwap (s : State) (r : Nat) : State :=
  match (s.rgn r).swap with
  | none => s
  | some h =>
    if (s.cmd h).any fun c => decide (s.time.now < c.at swapStage) then s
    else
      let s := s.selectBank r (!(NatSet.mem s.cfg.bankB r))
      (s.updRgn r fun g => { g with swap := none, copying := true, swaps := g.swaps + 1 }).due h 0 0
/-- SCHED_SWAP_COMMIT, at a figure boundary (R274). -/
def execSchedSwapCommit (r : Nat) (s : State) : Out := .next (if s.onFigure s.time.now then s.commitSwap r else s)
/-- BANK_COPY_DONE: the active range stands in the shadow range (R274). -/
def execBankCopyDone (r : Nat) (s : State) : Out :=
  if !(s.rgn r).copying then .next s
  else
    let b := s.bankOf r
    let a := s.allotOf r
    let live := s.banks.filter fun e => decide (4096 * b + a.1 ≤ e.1) && decide (e.1 < 4096 * b + a.1 + a.2)
    let s := s.clearBank r (1 - b)
    let s := live.foldl (fun (s : State) e => s.setBankEnt (1 - b) (e.1 - 4096 * b) e.2) s
    .next (s.updRgn r fun g => { g with copying := false })

/-! ### COUNTERS (R107, R523–R528, R534) -/

/-- The SET of a COUNTERS command: KIND and ARG. -/
def Cmd.kind (c : Cmd) : Nat := (c.word 2).bits 3 0
def Cmd.arg (c : Cmd) : Nat := (c.word 2).bits 15 4
/-- The command word at fault under R523. -/
def State.countersFault (s : State) (c : Cmd) : Option Nat :=
  let r := c.arg % 256
  let len := (c.word 3).toNat
  let valid := partValid (s.part0 r)
  let ok := if c.kind ≤ 2 then decide (c.arg < 256) && valid && (c.fn == 0 || partOwner (s.part0 r) == c.fn)
    else if c.kind = 4 then valid && c.fn == 0
    else c.kind == 15 && (c.fn == 0 || c.arg == c.fn)
  if !ok then some 2 else if len = 0 || len % 32 ≠ 0 then some 3 else none
/-- A COUNTERS command of some kinds is accepted or refused (R523). -/
def State.countersCmd (s : State) (h : W64) (p : Nat → Bool) : State :=
  match (s.openCmd h 0x0B).filter fun c => p c.kind with
  | none => s
  | some c => match s.countersFault c with
    | some w => s.due h 8 w
    | none => s.begin h
/-- COUNTERS_REGION: KIND 0x0, and the kinds that R523 refuses (R525). -/
def execCountersRegion (h : W64) (s : State) : Out := .next (s.countersCmd h fun k => !(([1, 2, 4, 15] : List Nat).contains k))
/-- COUNTERS_UNIT: KIND 0x1 (R526). -/
def execCountersUnit (h : W64) (s : State) : Out := .next (s.countersCmd h (· == 1))
/-- COUNTERS_PHASE: KIND 0x2 (R528). -/
def execCountersPhase (h : W64) (s : State) : Out := .next (s.countersCmd h (· == 2))
/-- COUNTERS_WINDOWS: KIND 0x4 (R527). -/
def execCountersWindows (h : W64) (s : State) : Out := .next (s.countersCmd h (· == 4))
/-- COUNTERS_FUNCTION: KIND 0xF (R534). -/
def execCountersFunction (h : W64) (s : State) : Out := .next (s.countersCmd h (· == 15))

/-- Fields of a given width that saturate, low first, in one word (R522). -/
def satFields (w : Nat) (l : List Nat) : W64 := BitVec.ofNat 64 (l.foldr (fun v n => min v (2 ^ w - 1) + 2 ^ w * n) 0)
/-- The 24 words of a region's counters (R525). -/
def State.regionCounters (s : State) (r : Nat) : List W64 :=
  let k := fun (w p : Nat) => count (s.rgn r).ctr (ctrKey w p)
  (List.range 24).map fun i =>
    let w := i + 4
    if w = 21 || w = 22 then satFields 16 [k w 0, k w 1, k w 2, k w 3]
    else if w = 19 || 23 ≤ w then satFields 32 [k w 0, k w 1]
    else BitVec.ofNat 64 (k w 0)
/-- The reported value of a context's state (R81). -/
def CtxState.code : CtxState → Nat
  | .empty => 0 | .ready => 1 | .active => 2 | .done => 3 | .faulted => 4
/-- The reported value of an engine's state (R163). -/
def EngState.code : EngState → Nat
  | .empty => 0 | .idle => 1 | .run => 2 | .hold => 3 | .wait => 4 | .faulted => 5
/-- Pairs of 32-bit counters as words, low half first. -/
def packPairs : List Nat → List W64
  | a :: b :: l => satFields 32 [a, b] :: packPairs l
  | [a] => [satFields 32 [a]]
  | [] => []
/-- The record of one unit (R526). -/
def State.unitCounters (s : State) (u : Nat) : List W64 :=
  let head := fun (mu : Bool) (st : Nat → Nat) =>
    BitVec.ofNat 64 (unitX u + 64 * unitY u + (if mu then 2 ^ 12 else 0) + ((List.range 4).map fun i => st i * 2 ^ (15 + 3 * i)).sum)
  let disc := (s.fabric u).disc
  if isMu u then
    let m := s.mu u
    [head true fun e => (m.engAt e).st.code] ++
      (List.range 4).flatMap (fun e => let g := m.engAt e
        packPairs [g.rc % 2 ^ 32, count g.cnt 0, count g.cnt 1, count g.cnt 2, count g.cnt 3, g.sstat.toNat]) ++
      [satFields 32 [m.rwait, disc], satFields 32 [m.resend], 0]
  else
    let c := s.cu u
    [head false fun k => (c.ctxAt k).st.code] ++
      packPairs ((List.range 4).flatMap fun k => (List.range 7).map fun i => count (c.ctxAt k).stalls i) ++ [satFields 32 [c.shiftStall, disc]]
/-- The record of one phase record (R528, R529). -/
def PhaseRec.recWords (p : PhaseRec) : List W64 :=
  [p.handle, BitVec.ofNat 64 p.tstart, BitVec.ofNat 64 p.tdone, BitVec.ofNat 64 (p.status + if p.isStep then 256 else 0)] ++
    (List.range 5).flatMap (fun k => [BitVec.ofNat 64 (count p.begins k - 1), BitVec.ofNat 64 (count p.ends k - 1)]) ++ [0, 0]
/-- The window sets of bank `b` of an MU (R527). -/
def State.windowWords (s : State) (m b : Nat) : List W64 :=
  (List.range 4).flatMap fun e =>
    let w := FMap.get ([] : List W64) (s.eng m e).banks b
    (List.range 6).map fun i => if i < 5 then w.getD i 0 else 0
/-- The counters of a function (R534). -/
def State.functionCounters (s : State) (fn : Nat) : List W64 :=
  (List.range 20).map fun i =>
    let v := count s.host.fnCtr (64 * fn + i + 4)
    BitVec.ofNat 64 (if i + 4 = 23 then v % 2 ^ 17 else v)
/-- The records of a set. -/
def State.counterSet (s : State) (c : Cmd) : List (List W64) :=
  let r := c.arg % 256
  match c.kind with
  | 0 => [s.regionCounters r]
  | 1 => (s.regionUnits r).map s.unitCounters
  | 2 => (s.rgn r).phases.map PhaseRec.recWords
  | 4 => ((s.regionUnits r).filter isMu).map fun m => s.windowWords m (c.arg / 256)
  | _ => [s.functionCounters c.arg]
/-- Sample the set at a step boundary and write what LEN takes of it (R524). -/
def State.sample (s : State) (c : Cmd) : State :=
  let recs := s.counterSet c
  let body := recs.flatten
  let size := 32 + 8 * body.length
  let head := [BitVec.ofNat 64 size, BitVec.ofNat 64 s.time.now, BitVec.ofNat 64 ((c.word 2).bits 15 0 + c.fn * 2 ^ 16), BitVec.ofNat 64 recs.length]
  let n := min (c.word 3).toNat size
  let a := (c.word 1).toNat
  let bytes := ((head ++ body).flatMap fun w => leBytes w.toNat 8).take n
  let words := if n = 0 then [] else (List.range ((a + n - 1) / 8 + 1 - a / 8)).map fun i => a / 8 + i
  let s := words.foldl (fun (s : State) w => s.putFnPart c.fn w ((List.range 8).filterMap fun j =>
    if decide (a ≤ 8 * w + j) && decide (8 * w + j < a + n) then some (j, (bytes.getD (8 * w + j - a) 0).toNat, false) else none)) s
  (if isHostWin a 1 then s.paWrite c.fn n else s).due c.handle 0 0
/-- The COUNTERS commands that wait for their sample. -/
def State.sampleAll (s : State) : State :=
  (s.host.cmds.filter fun c => c.opcode == 0x0B && c.phase == .running).foldl (fun (s : State) c => s.sample c) s
/-- COUNTERS_SAMPLE, at a step boundary (R524). -/
def execCountersSample (h : W64) (s : State) : Out :=
  match (s.cmd h).filter fun c => c.opcode == 0x0B && c.phase == .running && s.onStep s.time.now with
  | none => .next s
  | some c => .next (s.sample c)

/-! ### WATERMARK (R349, R498) -/

/-- WATERMARK: the module's digest and the time of its computation go to DST. -/
def execWatermark (h : W64) (s : State) : Out :=
  match s.openCmd h 0x0F with
  | none => .next s
  | some c =>
    let a := (c.word 1).toNat
    if decide (a < 16 * halfStack) && s.stackDown a 32 then .next (s.due h 6 0)
    else
      let d := s.wmDigest
      let s := s.putFnWords c.fn a [d.extractLsb' 0 64, d.extractLsb' 64 64, s.reg aWmTime, 0]
      .next ((if isHostWin a 1 then s.paWrite c.fn 32 else s).due h 0 (d.extractLsb' 0 32).toNat)

/-! ### Scrubbing and the patrol (R455, R460–R464) -/

/-- A calender read of the DRAM word at `a`: its outcome (0 clean, 1 CORR, 2 CHKONLY, 3 UNCORR, 4 POISON) is counted, and what is not
clean written back corrected or poison-encoded; `kind` is the log's (R451, R460, R469). -/
def State.scrubWord (s : State) (kind a : Nat) : Nat × State :=
  let k := upsetDram a
  let u := count s.mem.upset k
  let clear := fun (s : State) => s.updMem fun m => { m with upset := FMap.set 0 m.upset k 0 }
  if u = 1 then (1, clear (s.countErr (stackOf a) 0))
  else if u = 2 then (2, clear (s.countErr (stackOf a) 1))
  else if u = 3 then
    let s := (s.countErr (stackOf a) 2).logRec (stackOf a) kind (Config.syndrome (a + 3)).toNat a none
    (3, (clear s).updMem fun m => { m with dramPoison := NatSet.ins m.dramPoison (a / 8) })
  else if NatSet.mem s.mem.dramPoison (a / 8) then (4, s.countErr (stackOf a) 3)
  else (0, s)
/-- A calender read of word `w` of the line `x` that slice `i` holds, in the same way (R456, R460, R463). -/
def State.scrubCopy (s : State) (kind i : Nat) (x : Line) (w : Nat) : Nat × State :=
  let src := 16 + i / 16
  let a := x.addr + 8 * w
  let u := count x.upset w
  let fix := fun (s : State) (f : Line → Line) =>
    s.updSlice i fun c => { c with lines := c.lines.map fun y => if y.addr == x.addr && y.part == x.part then f y else y }
  let clear := fun (y : Line) => { y with upset := FMap.set 0 y.upset w 0 }
  if u = 1 then (1, fix (s.countErr src 0) clear)
  else if u = 2 then (2, fix (s.countErr src 1) clear)
  else if u = 3 then
    let s := (s.countErr src 2).logRec src kind (Config.syndrome (a + 3)).toNat a none
    (3, fix s fun y => { clear y with row := ⟨y.row.data, y.row.poison ||| BitVec.ofNat 16 (2 ^ w)⟩ })
  else if x.row.poison.getLsbD w then (4, s.countErr src 3)
  else (0, s)
/-- What a SCRUB has found. -/
structure Scrub where
  words : Nat
  corr : Nat
  chk : Nat
  unc : Nat
  poi : Nat
  addrs : List W64
deriving DecidableEq, Repr
/-- Enter one outcome. -/
def Scrub.add (z : Scrub) (o a : Nat) (inCache : Bool) : Scrub :=
  let e := BitVec.ofNat 64 (a + (o - 2) * 2 ^ 52 + if inCache then 2 ^ 54 else 0)
  { z with
    words := z.words + 1, corr := z.corr + (if o = 1 then 1 else 0), chk := z.chk + (if o = 2 then 1 else 0),
    unc := z.unc + (if o = 3 then 1 else 0), poi := z.poi + (if o = 4 then 1 else 0),
    addrs := if 3 ≤ o && z.addrs.length < 8 then z.addrs ++ [e] else z.addrs }
/-- Read one line: each word at the half-stack, and in the home slice's copy where one is held (R463). -/
def State.scrubLine (z : State × Scrub) (l : Nat) : State × Scrub :=
  let s := z.1.countHs l 0 128
  let copy := (s.slice (s.homeSlice l)).any l
  (List.range 16).foldl (fun (z : State × Scrub) w =>
    let a := l + 8 * w
    let o := z.1.scrubWord 3 a
    let z := (o.2, z.2.add o.1 a false)
    match copy with
    | none => z
    | some x =>
      let o := z.1.scrubCopy 3 (z.1.homeSlice l) x w
      (o.2, z.2.add o.1 a true)) (s, z.2)
/-- When a SCRUB's first line was read, plus one. -/
def scrubStart : Nat := 7
/-- The pass over the first lines of a SCRUB's range, its summary and its completion (R463, R464). -/
def State.scrubPass (s : State) (c : Cmd) (lines status : Nat) : State :=
  let z := ((linesOf (c.word 1).toNat (c.word 2).toNat).take lines).foldl State.scrubLine (s, ⟨0, 0, 0, 0, 0, []⟩)
  let t := z.2
  let ws := ([t.words, t.corr, t.chk, t.unc, t.poi, c.at scrubStart - 1, s.time.now].map (BitVec.ofNat 64)) ++
    (List.range 8).map (fun i => t.addrs.getD i 0) ++ [0]
  let res := (c.word 3).toNat
  let s := z.1.putFnWords c.fn res ws
  let s := if isHostWin res 1 then s.paWrite c.fn 128 else s
  let sat := fun (n w : Nat) => min n (2 ^ w - 1)
  s.due c.handle status (sat (t.corr + t.chk) 32 + sat (t.unc + t.poi) 31 * 2 ^ 32)
/-- SCRUB: one at a time for each function (R463). -/
def execScrub (h : W64) (s : State) : Out :=
  match s.openCmd h 8 with
  | none => .next s
  | some c =>
    let a := (c.word 1).toNat
    let n := (c.word 2).toNat
    if (s.host.cmds.takeWhile fun x => x.handle != h).any fun x => x.fn == c.fn && x.opcode == 8 && x.phase != .due then .next (s.keep h waitStage 1)
    else if n % 128 ≠ 0 then .next (s.due h 8 2)
    else if s.stackDown a n then .next (s.due h 6 0)
    else .next ((s.begin h).keep h scrubStart (s.time.now + 1))
/-- SCRUB_PASS_DONE: every line has been read (R463, R464). -/
def execScrubPassDone (h : W64) (s : State) : Out :=
  match (s.cmd h).filter fun c => c.opcode == 8 && c.phase == .running with
  | none => .next (s.discardReport h)
  | some c => .next (s.scrubPass c ((c.word 2).toNat / 128 + 1) 0)
/-- A SCRUB that is stopped completes with a status and the lines read so far; how many is open (R359, R470, log entry 7). -/
def State.scrubStop (s : State) (c : Cmd) (status : Nat) : State :=
  let z := s.fresh
  z.2.scrubPass c (z.1.toNat % ((c.word 2).toNat / 128 + 1)) status

/-- The lines of a half-stack. -/
def stackLines : Nat := halfStack / 128
/-- A finished patrol pass of a source is counted. -/
def State.countPass (s : State) (src : Nat) : State := s.addRegSat (aMemCnt src 5) 31 0 1
/-- Set a patrol's place. -/
def State.setPatrol (s : State) (k v : Nat) : State := s.updMem fun m => { m with patrol := FMap.set 0 m.patrol k v }
/-- The patrol of half-stack `q` reads its next 152 lines (R460, R461). -/
def State.patrolDram (s : State) (q : Nat) : State :=
  if s.stackPresent q && !s.dieRefuses q then
    let p := count s.mem.patrol q
    let s := (List.range 152).foldl (fun (s : State) i =>
      let l := halfStack * q + 128 * ((p + i) % stackLines)
      (List.range 16).foldl (fun (s : State) w => (s.scrubWord 2 (l + 8 * w)).2) (s.addReg (aObsHs q 0) 128)) s
    let s := if stackLines ≤ p + 152 then s.countPass q else s
    s.setPatrol q ((p + 152) % stackLines)
  else s
/-- The patrol of die `d`'s slices reads its next two lines of each, in ascending set and way. -/
def State.patrolSlices (s : State) (d : Nat) : State :=
  let p := count s.mem.patrol (16 + d)
  let read := fun (s : State) (i n : Nat) => ((s.slice (16 * d + i)).lines.filter fun l => setOf l.addr == n / 16 && l.way == n % 16).foldl
    (fun (s : State) l => (List.range 16).foldl (fun (s : State) w => (s.scrubCopy 2 (16 * d + i) l w).2) s) s
  let s := (List.range 16).foldl (fun (s : State) i => read (read s i p) i (p + 1)) s
  let s := if 16384 ≤ p + 2 then s.countPass (16 + d) else s
  s.setPatrol (16 + d) ((p + 2) % 16384)
/-- PATROL_WINDOW: one scrub window of die `q`, t mod 32,768 in 0–255 (R260, R460, R462). -/
def execPatrolWindow (q : Nat) (s : State) : Out :=
  if (s.reg aMemCtl).bit 0 && s.inWindow 0 255 && s.power.st == .ready && s.dieExists q && s.die q == .powered
  then .next ((s.patrolDram q).patrolSlices q)
  else .next s
/-- SP_PATROL: the next scratchpad row of MU `m` (R460, R462). -/
def execSpPatrol (m : Nat) (s : State) : Out :=
  let d := unitDie m
  if (s.reg aMemCtl).bit 1 && s.power.st == .ready && s.dieExists d && s.die d == .powered then
    let p := count s.mem.patrol (64 + m)
    let s := (List.range 16).foldl (fun (s : State) w =>
      let k := spadKey m (128 * p + 8 * w)
      let u := count s.mem.upset (upsetSpad k)
      let clear := fun (s : State) => s.updMem fun x => { x with upset := FMap.set 0 x.upset (upsetSpad k) 0 }
      if u = 1 then clear (s.countErr (32 + d) 0)
      else if u = 2 then clear (s.countErr (32 + d) 1)
      else if u = 3 then
        let whr := unitX m * 2 ^ 52 + unitY m * 2 ^ 58 + (128 * p + 8 * w)
        let s := (s.countErr (32 + d) 2).logRec (32 + d) 2 (Config.syndrome (whr + 3)).toNat whr (s.ownerOf m)
        (clear s).updMem fun x => { x with spadPoison := NatSet.ins x.spadPoison (k / 8) }
      else if NatSet.mem s.mem.spadPoison (k / 8) then s.countErr (32 + d) 3
      else s) s
    if p + 1 = 4096 then
      let s := (s.setPatrol (64 + m) 0).setPatrol (8192 + m) (count s.mem.patrol (8192 + m) + 1)
      let mus := ((List.range 4096).filter fun u => isMu u && unitDie u == d).map fun u => count s.mem.patrol (8192 + u)
      .next (s.setRegBits (aMemCnt (32 + d) 5) 31 0 (min (mus.foldl min (count s.mem.patrol (8192 + m))) (2 ^ 32 - 1)))
    else .next (s.setPatrol (64 + m) (p + 1))
  else .next s

/-! ### Host reads and port B (R330, R339, R458, R567) -/

/-- A read on a port ends: its data is in, `ep` with poison or a completer error. -/
def State.hostRead (s : State) (portB : Bool) (h : W64) (ep : Bool) : State :=
  match s.cmd h with
  | none => s.discardReport h
  | some c =>
    let own := if opNamesRegion c.opcode then some (c.fn, c.region) else none
    let a := if c.opcode = 0x0C then c.word 2 else if c.opcode = 4 then c.word 3 else c.word 1
    let log := fun (s : State) => if ep then s.logRec (if portB then 67 else 66) 7 0 (a.bits 51 0) own else s
    if portB then
      if ep && c.opcode == 4 then ((log s).setPbReg pbStatus (s.pbReg pbStatus ||| 4)).keep h pbErrAt 1 else s
    else if c.phase != .running || c.at readStage != 1 then s
    else
      let s := log s
      match c.opcode with
      | 1 => s.loadRead c ep
      | 5 => s.xferMove c ep
      | 9 => s.schedDo c ep
      | 0x0C => s.flashSourceRead c ep
      | _ => s
/-- HOST_READ_COMPLETION (R458). -/
def execHostReadCompletion (portB : Bool) (h : W64) (ep : Bool) (s : State) : Out := .next (s.hostRead portB h ep)
/-- HOST_READ_TIMEOUT: as a completion with a completer error (R458, R567). -/
def execHostReadTimeout (portB : Bool) (h : W64) (s : State) : Out := .next (s.hostRead portB h true)
/-- PORT_B_LINK_DOWN: transfers in progress complete with poisoned data (R330, R567). -/
def execPortBLinkDown (s : State) : Out :=
  let s := if s.host.portBBusy then
      let hit := s.rgns.filterMap fun e => (e.2.run.filter fun x => x.isStep && x.begun).map (·.handle)
      (hit.foldl (fun (s : State) h => s.keep h pbErrAt 1) s).setPbReg pbStatus (s.pbReg pbStatus ||| 8)
    else s
  .next (s.updHost fun h => { h with portB := false })
/-- PORT_B_LINK_UP (R567). -/
def execPortBLinkUp (s : State) : Out := .next (if s.power.perstN && s.awake then s.updHost fun h => { h with portB := true } else s)

/-! ### Trace records (R530–R532) -/

/-- A dropped record of region `r`. -/
def State.dropTrace (s : State) (r : Nat) : State := (s.updRgn r fun g => { g with trLost := g.trLost + 1 }).addCtr r 26 1 1
/-- Word 0 of OBS_TRC_n in force. -/
def State.trcWord (s : State) (r w : Nat) : W64 := FMap.get (pfReset (aObsTrc r w)) (if w = 0 then s.cfg.trc0 else s.cfg.trc1) r
/-- Clear EN of region `r`'s tracing, in force and as read. -/
def State.trcOff (s : State) (r : Nat) : State :=
  let w := mergeBits (s.trcWord r 0) 0 (maskBits 57 57)
  { s with cfg := { s.cfg with trc0 := FMap.set (pfReset (aObsTrc r 0)) s.cfg.trc0 r w } }.setReg (aObsTrc r 0) w
/-- The writer takes a record: it is numbered and written, or dropped at the cap or by the map (R531, R532). -/
def State.writeTrace (s : State) (x : TraceRec) : State :=
  let r := x.region
  let g := s.rgn r
  let w := s.trcWord r 0
  if !w.bit 57 then s
  else if (s.trcWord r 1).bits 20 8 ≤ g.trFig then s.dropTrace r
  else
    let a := w.bits 51 0 + 32 * ((g.trSeq - 1) % 2 ^ w.bits 56 52)
    if !(s.mapped (partOwner (s.part0 r)) a 32 (entDram false true)) then (s.dropTrace r).trcOff r
    else
      let w1 := g.trSeq % 2 ^ 32 + x.kind * 2 ^ 32 + r * 2 ^ 36 + x.x * 2 ^ 44 + x.y * 2 ^ 50 + x.ce * 2 ^ 56 + min g.trLost 63 * 2 ^ 58
      let s := s.putDevWords a [BitVec.ofNat 64 x.time, BitVec.ofNat 64 w1, BitVec.ofNat 64 (x.lay + x.oper * 2 ^ 16 + x.data.toNat * 2 ^ 32), x.handle]
      (s.updRgn r fun g => { g with trSeq := g.trSeq + 1, trFig := g.trFig + 1, trLost := 0 }).addCtr r 26 0 1
/-- TRACE_RECORD_ARRIVE: the oldest record of a die's buffer reaches the writer (R532). -/
def execTraceRecordArrive (die : Nat) (s : State) : Out :=
  match FMap.get ([] : List TraceRec) s.traces die with
  | [] => .next s
  | x :: l => .next ({ s with traces := FMap.set ([] : List TraceRec) s.traces die l }.writeTrace x)

end Sys2Proof.Machine
end

