-- ==== Sys2Proof/Machine/Commit.lean ====
section
/-! DEFINITION. Staged configuration: the four commits and their boundaries, the entries applied at the write of word 0, and the
registers whose write has a rule of its own (R194, R262, R286, R287, R341, R378, R388, R427, R493, R494, R498, R531, R569, R570). -/

namespace Sys2Proof.Machine

/-! ### Commits (R565, R570) -/

/-- The listed words of a table in the register file, by entry: those of `n` entries of `stride` bytes at `base`, word at `o`. -/
def State.regTable (s : State) (base stride n o : Nat) : FMap W64 :=
  (s.regs.filter fun e => inArr e.1 base stride n && within e.1 base stride == o).map fun e => ((e.1 - base) / stride, e.2)
/-- The lowest of the values whose checks fail. -/
def lowest (l : List (Nat × Bool)) : Option Nat := (l.find? (·.2)).map (·.1)
/-- The first entry at fault in index order, with its RESULT: 0 and 0 where there is none. -/
def firstFault (idx : List Nat) (check : Nat → Option Nat) : Nat × Nat :=
  match idx.find? fun n => (check n).isSome with
  | some n => ((check n).getD 0, n)
  | none => (0, 0)
/-- A CTL register after a validation: BUSY where accepted, RESULT and BADIDX. -/
def State.ctlResult (s : State) (a : Nat) (z : Nat × Nat) : State :=
  s.setReg a (BitVec.ofNat 64 ((if z.1 = 0 then 2 else 0) + z.1 * 2 ^ 4 + z.2 * 2 ^ 8))
/-- BUSY of a CTL register. -/
def State.ctlBusy (s : State) (a : Nat) : Bool := (s.reg a).bit 1
/-- An applied commit is no longer busy. -/
def State.ctlIdle (s : State) (a : Nat) : State := s.setRegBits a 1 1 0

/-- Every context and engine of region `r` is EMPTY. -/
def State.rgnEmpty (s : State) (r : Nat) : Bool :=
  (s.regionCus r).all (fun u => (s.cu u).ctx.all fun e => e.2.st == .empty) && (s.regionMus r).all fun m => (s.mu m).eng.all fun e => e.2.st == .empty
/-- A command or feed request of region `r` is in flight. -/
def State.rgnBusy (s : State) (r : Nat) : Bool :=
  (s.rgn r).run.isSome || s.host.cmds.any fun c => c.region == r && (c.words.isEmpty || opNamesRegion c.opcode) && c.phase != .due

/-! ### The partition map (R192–R194, R380, R393, R491, R569, R570) -/

/-- The tables as staged. -/
def State.stagedPart (s : State) : PartTables :=
  ⟨s.regTable 0xE0000 16 256 0, s.regTable 0xE0000 16 256 8, s.regTable 0xD8000 16 256 0, s.regTable 0xD8000 16 256 8⟩
/-- Two rectangles of blocks share one. -/
def rectsMeet (a b : W64) : Bool :=
  decide (a.bits 3 0 ≤ b.bits 11 8) && decide (b.bits 3 0 ≤ a.bits 11 8) && decide (a.bits 7 4 ≤ b.bits 15 12) && decide (b.bits 7 4 ≤ a.bits 15 12)
/-- The dies of a rectangle of blocks. -/
def rectDies (w : W64) : List Nat :=
  (List.range 16).filter fun d => decide (w.bits 3 0 ≤ 4 * (d % 4) + 3) && decide (4 * (d % 4) ≤ w.bits 11 8) && decide (w.bits 7 4 ≤ 4 * (d / 4) + 3) &&
    decide (4 * (d / 4) ≤ w.bits 15 12)
/-- SLOTS of an entry. -/
def partSlots (w : W64) : Nat := w.bits 36 32
/-- The values 0x1 to 0x4 and 0x6 of one entry. -/
def State.partCheck (s : State) (t : PartTables) (n : Nat) : Option Nat :=
  let w0 := FMap.get (0 : W64) t.part0 n
  let w1 := FMap.get (0 : W64) t.part1 n
  let low := (List.range n).filter fun m => partValid (FMap.get (0 : W64) t.part0 m)
  let strict := fun (m : Nat) => let w := FMap.get (0 : W64) t.part0 m; partValid w && partStrict w
  let ways := fun (m : Nat) => (FMap.get (0 : W64) t.part1 m).bits 15 0
  let names := fun (m d : Nat) => (FMap.get (0 : W64) t.part1 m).bit (16 + d)
  let bad4 :=
    if partStrict w0 then
      !([1, 2, 4, 8, 16].contains (partSlots w0)) ||
        (List.range 16).any fun d => w1.bit (16 + d) &&
          (let on := low.filter fun m => strict m && names m d
           decide (4 ≤ on.length) || (on.any fun m => ways m &&& ways n != 0) ||
             decide (((List.range 16).filter fun i => !((n :: on).any fun m => (ways m).testBit i)).length < 2))
    else w1.bits 31 0 != 0 || partSlots w0 != 0
  let changed := partValid (s.part0 n) && (s.part0 n != w0 || s.part1 n != w1)
  let busy := changed && (!s.rgnEmpty n || s.rgnBusy n)
  if partValid w0 then
    lowest [(1, decide (w0.bits 11 8 < w0.bits 3 0) || decide (w0.bits 15 12 < w0.bits 7 4) || (rectDies w0).any fun d => !s.dieExists d),
      (2, low.any fun m => rectsMeet (FMap.get (0 : W64) t.part0 m) w0), (3, busy), (4, bad4), (6, !s.fnEnabled (partOwner w0))]
  else lowest [(3, busy)]

/-- A region's points on the mesh: its routers, those of the dies it names, and the hub's attachment routers that serve them (R197,
R200), as (bx, by). -/
def footprint (w0 w1 : W64) : List (Nat × Nat) :=
  let own := (List.range 16).flatMap fun y => ((List.range 16).filter fun x => partHas w0 x y).map fun x => (x, y)
  let named := (List.range 16).flatMap fun d => if w1.bit (16 + d) then
    (List.range 16).map fun i => (4 * (d % 4) + i % 4, 4 * (d / 4) + i / 4) else []
  let hub := (if own.any fun p => decide (p.1 ≤ 7) then [(6, 0)] else []) ++ (if own.any fun p => decide (8 ≤ p.1) then [(9, 0)] else [])
  own ++ named ++ hub
/-- The output of router (x, y) in direction 0 N, 1 E, 2 S, 3 W, or 4 towards its slice, lies on a route between two of the points:
first along x, then along y (R199). -/
def onRoute (ps : List (Nat × Nat)) (named : W64) (x y dir : Nat) : Bool :=
  match dir with
  | 0 => (ps.any fun p => p.1 == x && decide (y < p.2)) && ps.any fun p => decide (p.2 ≤ y)
  | 2 => (ps.any fun p => p.1 == x && decide (p.2 < y)) && ps.any fun p => decide (y ≤ p.2)
  | 1 => (ps.any fun p => p.2 == y && decide (p.1 ≤ x)) && ps.any fun p => decide (x < p.1)
  | 3 => (ps.any fun p => p.2 == y && decide (x ≤ p.1)) && ps.any fun p => decide (p.1 < x)
  | _ => named.bit (16 + (4 * (y / 4) + x / 4))
/-- The link joins a router to one of the hub's attachment routers, where slot 0 carries telemetry (R260, R569). -/
def hubLink (x y dir : Nat) : Bool :=
  let hub := fun (a b : Nat) => b == 0 && (a == 6 || a == 9)
  hub x y || (match dir with | 0 => hub x (y + 1) | 1 => hub (x + 1) y | 2 => decide (0 < y) && hub x (y - 1) | 3 => decide (0 < x) && hub (x - 1) y | _ => false)
/-- Place shares (region, slots), in the order given, round a frame of 64: each takes evenly spaced slots at the lowest offset that is
free. Answers the first region that cannot be placed, or that carries the frame past `most` slots or `lanes` regions (R569). -/
def placeShares (most lanes : Nat) : List (Nat × Nat) → NatSet → Nat → Option Nat
  | [], _, _ => none
  | (r, k) :: l, taken, n =>
    let step := 64 / max k 1
    let slots := fun (o : Nat) => if k = 63 then (List.range 63).map (· + 1) else (List.range k).map fun j => o + j * step
    match (List.range step).find? fun o => (slots o).all fun x => !(NatSet.mem taken x) with
    | none => some r
    | some o =>
      if lanes < n + 1 then some r
      else
        let taken := (slots o).foldl NatSet.ins taken
        if most < taken.length then some r else placeShares most lanes l taken (n + 1)
/-- Larger shares first, ties in ascending region number. -/
def insShare (x : Nat × Nat) : List (Nat × Nat) → List (Nat × Nat)
  | [] => [x]
  | y :: l => if y.2 < x.2 then x :: y :: l else y :: insShare x l
/-- The earliest region, in placement order, among those that fail somewhere. -/
def firstPlaced (order : List (Nat × Nat)) (failed : List Nat) : Option Nat := (order.find? fun e => failed.contains e.1).map (·.1)
/-- The TDIV values of entry `n` that R380 refuses. -/
def tdivCheck (t : PartTables) (n : Nat) : Option Nat :=
  let w0 := FMap.get (0 : W64) t.part0 n
  let d0 := FMap.get (0 : W64) t.tdiv0 n
  let d1 := FMap.get (0 : W64) t.tdiv1 n
  let strict := fun (m : Nat) => let w := FMap.get (0 : W64) t.part0 m; partValid w && partStrict w
  if !partValid w0 then none
  else if partStrict w0 then
    lowest [(5, !([0, 1, 2, 4, 8, 16, 32, 63].contains (d0.bits 5 0)) || d1.bit 63 ||
      (List.range n).any fun m => strict m && (FMap.get (0 : W64) t.tdiv1 m &&& d1) != 0)]
  else lowest [(5, d0 != 0 || d1 != 0)]
/-- The RESULT 0x5 of a map that passes every other check, and its BADIDX. -/
def shareFault (t : PartTables) : Nat × Nat :=
  let z := firstFault (List.range 256) (tdivCheck t)
  if z.1 ≠ 0 then z
  else
    let strict := (t.part0.filter fun e => partValid e.2 && partStrict e.2).map (·.1)
    let order := strict.foldl (fun l r => insShare (r, partSlots (FMap.get (0 : W64) t.part0 r)) l) []
    let foot := order.map fun e => (e, footprint (FMap.get (0 : W64) t.part0 e.1) (FMap.get (0 : W64) t.part1 e.1), FMap.get (0 : W64) t.part1 e.1)
    let links := (List.range 16).flatMap fun y => (List.range 16).flatMap fun x => (List.range 5).map fun d => (x, y, d)
    let failed := links.filterMap fun l =>
      let here := (foot.filter fun e => onRoute e.2.1 e.2.2 l.1 l.2.1 l.2.2).map (·.1)
      let hub := hubLink l.1 l.2.1 l.2.2
      if here.isEmpty then none else placeShares (if hub then 49 else 48) 4 here (if hub then [0] else []) 0
    match firstPlaced order failed with
    | some r => (5, r)
    | none =>
      let dorder := strict.foldl (fun l r => insShare (r, (FMap.get (0 : W64) t.tdiv0 r).bits 5 0) l) []
      let failed := (List.range 16).filterMap fun q =>
        placeShares 64 256 (dorder.filter fun e => decide (0 < e.2) && (FMap.get (0 : W64) t.part1 e.1).bit (16 + q)) [0] 0
      match firstPlaced dorder failed with
      | some r => (5, r)
      | none => (0, 0)
/-- HUB_PART_COMMIT: the whole map is validated; an accepted one waits for the next figure boundary (R194). -/
def State.partCommit (s : State) : State :=
  if s.ctlBusy aPartCtl then s
  else
    let t := s.stagedPart
    let z := firstFault (List.range 256) (s.partCheck t)
    let z := if z.1 = 0 then shareFault t else z
    let s := s.ctlResult aPartCtl z
    if z.1 = 0 then { s with pend := { s.pend with part := some t } } else s
/-- HUB_PART_COMMIT (R194). -/
def execHubPartCommit (s : State) : Out := s.pfWrite aPartCtl s.partCommit

/-- Write zeros with valid check bits into the scratchpads of the MUs that `p` picks (R393, R454). -/
def State.zeroSpad (s : State) (p : Nat → Bool) : State :=
  s.updMem fun m => { m with
    spad := m.spad.filter fun e => !p (e.1 / 2 ^ 19),
    spadPoison := m.spadPoison.filter fun k => !p (8 * k / 2 ^ 19),
    upset := m.upset.filter fun e => e.1 % 2 == 0 || !p (8 * (e.1 / 2) / 2 ^ 19) }
/-- Write back the dirty lines of a slice that `p` picks, and drop them all. -/
def State.flushLines (s : State) (i : Nat) (p : Line → Bool) : State :=
  let out := (s.slice i).lines.filter p
  let s := out.foldl (fun (s : State) l => if l.dirty then s.writeBack 256 l.addr l.shown fullMask else s) s
  s.updSlice i fun c => { c with lines := c.lines.filter fun l => !p l }
/-- Lines in ways that their partition no longer holds leave the slices. -/
def State.flushLost (s : State) : State :=
  s.slices.foldl (fun (s : State) e => s.flushLines e.1 fun l =>
    !((s.waysOf l.part (e.1 / 16)).contains l.way) || (match l.part with | some r => (s.partitionOf r (e.1 / 16)).isNone | none => false)) s
/-- Region `r`'s trace ring is off and its counters and phase records are clear (R535). -/
def State.clearObs (s : State) (r : Nat) : State :=
  let s := { s with cfg := { s.cfg with trc0 := FMap.set (pfReset (aObsTrc r 0)) s.cfg.trc0 r (pfReset (aObsTrc r 0)),
                                        trc1 := FMap.set (pfReset (aObsTrc r 1)) s.cfg.trc1 r (pfReset (aObsTrc r 1)) } }
  let s := (s.setReg (aObsTrc r 0) (pfReset (aObsTrc r 0))).setReg (aObsTrc r 1) (pfReset (aObsTrc r 1))
  s.updRgn r fun g => { g with ctr := [], phases := [], trLost := 0, trFig := 0 }
/-- PARTITION_APPLY: at a figure boundary the accepted map comes into force (R194, R393, R531, R535). -/
def State.applyPart (s : State) : State :=
  match s.pend.part with
  | none => s
  | some t =>
    let old := s
    let s := { s with cfg := { s.cfg with part0 := t.part0, part1 := t.part1, tdiv0 := t.tdiv0, tdiv1 := t.tdiv1 }, pend := { s.pend with part := none } }
    let owner := fun (s : State) (u : Nat) => (s.regionOf u).map fun r => partOwner (s.part0 r)
    let s := s.zeroSpad fun m => (old.regionOf m).isSome && (old.regionOf m != s.regionOf m || owner old m != owner s m)
    let s := s.flushLost
    let gone := (List.range 256).filter fun r => old.domainOf r == r && s.domainOf r != r
    let s := s.updMem fun m => { m with copies := m.copies.filter fun e => !(gone.contains (e.1 / 2 ^ 28)) }
    let s := (List.range 256).foldl (fun (s : State) r =>
      if !partValid (old.part0 r) || (old.part0 r == s.part0 r && old.part1 r == s.part1 r) then s
      else
        let removed := !partValid (s.part0 r) || partOwner (old.part0 r) != partOwner (s.part0 r)
        let s := if removed then s.clearObs r else s.trcOff r
        if removed then s.updRgn r fun g => { Region.empty with trSeq := g.trSeq } else s) s
    s.ctlIdle aPartCtl
/-- PARTITION_APPLY (R194). -/
def execPartitionApply (s : State) : Out := .next (if s.onFigure s.time.now then s.applyPart else s)

/-! ### PAV_ALLOT (R262) -/

/-- BASE and COUNT of a staged range. -/
def allotRange (t : FMap W64) (n : Nat) : Nat × Nat := let w := FMap.get (0 : W64) t n; (w.bits 11 0, w.bits 24 12)
/-- The checks of one range. -/
def State.allotCheck (s : State) (t : FMap W64) (n : Nat) : Option Nat :=
  let a := allotRange t n
  let meets := fun (b : Nat × Nat) => decide (0 < a.2) && decide (0 < b.2) && decide (a.1 < b.1 + b.2) && decide (b.1 < a.1 + a.2)
  let used := s.rgnEnts n 0 != [] || s.rgnEnts n 1 != [] || !s.rgnEmpty n
  lowest [(1, decide (4096 < a.1 + a.2)), (2, (List.range n).any fun m => meets (allotRange t m)),
    (3, s.allotOf n != a && used), (4, decide (0 < a.2) && !partValid (s.part0 n))]
/-- PAV_ALLOT_COMMIT (R262). -/
def State.allotCommit (s : State) : State :=
  if s.ctlBusy aAllotCtl then s
  else
    let t := s.regTable 0x101000 8 256 0
    let z := firstFault (List.range 256) (s.allotCheck t)
    let s := s.ctlResult aAllotCtl z
    if z.1 = 0 then { s with pend := { s.pend with allot := some t } } else s
def execPavAllotCommit (s : State) : Out := s.pfWrite aAllotCtl s.allotCommit
/-- ALLOT_APPLY: at a figure boundary (R262). A region whose range changes has bank A active again (R263). -/
def State.applyAllot (s : State) : State :=
  match s.pend.allot with
  | none => s
  | some t =>
    let moved := (List.range 256).filter fun r => allotRange t r != s.allotOf r
    let s := { s with cfg := { s.cfg with allot := t }, pend := { s.pend with allot := none } }.ctlIdle aAllotCtl
    moved.foldl (fun (s : State) r => s.selectBank r false) s
def execAllotApply (s : State) : Out := .next (if s.onFigure s.time.now then s.applyAllot else s)

/-! ### HUB_FNRING (R341) -/

/-- A ring of function `fn` is enabled. -/
def State.ringsOn (s : State) (fn : Nat) : Bool := (List.range 16).any fun r => s.sqOn fn r || s.cqOn fn r
/-- The rings of entries below `n + 1` of a staged table. -/
def ringSum (t : FMap W64) (n : Nat) : Nat :=
  let low := t.filter fun e => decide (e.1 ≤ n)
  2 * (n + 1 - low.length) + (low.map fun e => W64.bits e.2 4 0 + W64.bits e.2 9 5).sum
/-- The checks of one entry. -/
def State.ringCheck (s : State) (t : FMap W64) (n : Nat) : Option Nat :=
  let w := FMap.get (pfReset (aFnring n)) t n
  let sq := w.bits 4 0
  let cq := w.bits 9 5
  lowest [(1, decide (16 < sq) || decide (16 < cq) || (sq == 0) != (cq == 0) || decide (w.bits 26 10 < 8) || decide (65536 < w.bits 26 10)),
    (2, decide (8192 < ringSum t n)), (3, s.fnRing n != w && s.ringsOn n)]
/-- HUB_FNRING_COMMIT (R341). -/
def State.ringCommit (s : State) : State :=
  if s.ctlBusy aFnringCtl then s
  else
    let t := s.regTable 0xA0000 8 4096 0
    let z := firstFault (List.range 4096) (s.ringCheck t)
    let s := s.ctlResult aFnringCtl z
    if z.1 = 0 then { s with pend := { s.pend with fnring := some t } } else s
def execHubFnringCommit (s : State) : Out := s.pfWrite aFnringCtl s.ringCommit
/-- FNRING_APPLY: at a figure boundary (R341). -/
def State.applyRings (s : State) : State :=
  match s.pend.fnring with
  | none => s
  | some t => { s with cfg := { s.cfg with fnring := t }, pend := { s.pend with fnring := none } }.ctlIdle aFnringCtl
def execFnringApply (s : State) : Out := .next (if s.onFigure s.time.now then s.applyRings else s)

/-! ### HUB_MAP (R377, R378, R394, R395) -/

/-- Staged entry `n`. -/
def State.mapStaged (s : State) (n : Nat) : Option MapEnt :=
  let w3 := s.reg (aMap n 3)
  if w3.bit 18 then
    some ⟨n, (s.reg (aMap n 0)).bits 51 0, (s.reg (aMap n 1)).bits 51 0, (s.reg (aMap n 2)).toNat, w3.bits 11 0, w3.bits 13 12, w3.bit 14, w3.bit 15, w3.bits 17 16⟩
  else none
/-- Every valid staged entry, in index order: only an entry whose word 3 is listed can be valid. -/
def State.mapTable (s : State) : List MapEnt :=
  ((s.regs.filter fun e => inArr e.1 0x20000 32 16384 && within e.1 0x20000 32 == 24).map fun e => (e.1 - 0x20000) / 32).filterMap s.mapStaged
/-- A valid entry's form and address range (R27, R377, R491). -/
def State.mapForm (s : State) (e : MapEnt) : Bool :=
  e.base % 4096 == 0 && e.len % 4096 == 0 && decide (0 < e.len) && decide (e.kind < 3) &&
    (if e.kind = 2 then e.haddr % 4096 == 0 else e.haddr == 0 && e.ports == 0) &&
    (match e.kind with
     | 0 => s.isDram e.base e.len && ((List.range (stackOf (e.base + e.len - 1) + 1)).drop (stackOf e.base)).all fun q => s.stackPresent q && s.dieExists q
     | 1 => isFlash e.base e.len
     | _ => isHostWin e.base e.len)
/-- Two valid entries that may not stand together (R378). -/
def mapClash (a b : MapEnt) : Bool :=
  a.kind == b.kind && match a.kind with
    | 1 => a.owner != b.owner && (a.wr || b.wr) && overlaps a.base a.len b.base b.len
    | 2 => overlaps a.base a.len b.base b.len || (a.owner != b.owner && overlaps a.haddr a.len b.haddr b.len)
    | _ => overlaps a.base a.len b.base b.len
/-- The stretches of addresses that a collective names. -/
def collSpans (c : Cmd) : List (Nat × Nat) :=
  if c.opcode = 6 then [((c.word 2).toNat, (c.word 4).toNat), ((c.word 3).toNat, (c.word 4).toNat)]
  else if c.opcode = 0x0E then [((c.word 3).toNat, (c.word 4).toNat)] else []
/-- The stretches of addresses that the image of a LOAD under verification names (R396). -/
def loadSpans (c : Cmd) : List (Nat × Nat) :=
  if c.opcode = 1 && c.at readStage = 2 then
    let m := imageOf (c.kept (c.imageLen / 8)) c.imageLen
    ((m.of 2).flatMap fun x => [0, 1].map fun n => (winBase x.wset n, winLen x.wset n)) ++
      (if (c.word 0).bit 18 then [] else [(m.fra, 4096), (m.desca, m.descl)])
  else []
/-- The stretches that a command reaches through its lists: the arrays and slots of a STEP, the source of a FLASH_WRITE, a plan and the
ranges of a RESHARD's. -/
def State.listSpans (s : State) (c : Cmd) : List (Nat × Nat) :=
  let plan := fun (a : Nat) => (a, 32 + 32 * (s.devWord a).bits 12 0)
  if c.opcode = 4 then
    (List.range c.updN).flatMap (fun i => uArrays (s.updDesc (c.updAt i))) ++
      (List.range c.slowN).flatMap (fun i =>
        let d := s.slowDesc (c.slowAt i)
        [(sWork d, sVlen d), (sGrad d, 4 * sN d), (sHost d, 16 * sSlot d)]) ++
      (List.range c.offN).flatMap fun i =>
        let d := s.offEnt (c.offAt i)
        (oHaddr d, oLen d) :: if oDram d then [(oDev d, oLen d)] else []
  else if c.opcode = 0x0C then [((c.word 2).toNat, c.flashSource)]
  else if c.opcode = 0x0E then plan (c.word 2).toNat :: (s.planEnts c.collRun).map fun e => (e.addr, e.len)
  else if c.opcode = 6 && c.collRun.cop = 4 then [plan (c.word 6).toNat]
  else []
/-- An entry in force is reached by a loaded window or area, or by a command in flight (R378). -/
def State.mapUsed (s : State) (e : MapEnt) : Bool :=
  let hits := fun (a n : Nat) => n != 0 && overlaps a n e.base e.len
  (s.mus.any fun m => m.2.eng.any fun g => g.2.st != .empty && g.2.banks.any fun b =>
      (s.regionOf m.1).any (fun r => s.bankIndex r e.owner == some b.1) && [0, 1].any fun n => hits (winBase b.2 n) (winLen b.2 n)) ||
    (s.rgns.any fun g => partValid (s.part0 g.1) && partOwner (s.part0 g.1) == e.owner && !s.rgnEmpty g.1 && match g.2.img with
      | some i => hits i.fra 4096 || hits i.desca i.descl
      | none => false) ||
    (s.host.cmds.any fun c => c.fn == e.owner && c.phase != .due && !c.words.isEmpty &&
      ((cmdSpans c.words).any (fun p => hits p.base p.len) || (collSpans c ++ loadSpans c ++ s.listSpans c).any fun p => hits p.1 p.2))
/-- The checks of one entry; `t` holds the valid staged entries. -/
def State.mapCheck (s : State) (t : List MapEnt) (n : Nat) : Option Nat :=
  let old := s.cfg.map.find? fun e => e.idx == n
  let now := t.find? fun e => e.idx == n
  let bad3 := match old with
    | some e => old != now && (s.mapUsed e || s.isResetting e.owner || NatSet.mem s.host.zeroing e.owner)
    | none => false
  match now with
  | some e => lowest [(1, !s.mapForm e), (2, t.any fun x => decide (x.idx < n) && mapClash x e), (3, bad3), (4, !s.fnEnabled e.owner)]
  | none => lowest [(3, bad3)]
/-- HUB_MAP_COMMIT (R378). -/
def State.mapCommit (s : State) : State :=
  if s.ctlBusy aMapCtl then s
  else
    let t := s.mapTable
    let idx := (t.map (·.idx) ++ s.cfg.map.map (·.idx)).foldl NatSet.ins []
    let z := firstFault idx (s.mapCheck t)
    let s := s.ctlResult aMapCtl z
    if z.1 = 0 then { s with pend := { s.pend with map := some t } } else s
def execHubMapCommit (s : State) : Out := s.pfWrite aMapCtl s.mapCommit
/-- [a, a + n) without a list of stretches. -/
def cutSpan : List (Nat × Nat) → Nat → Nat → List (Nat × Nat)
  | [], a, n => if n = 0 then [] else [(a, n)]
  | (b, k) :: l, a, n =>
    if overlaps a n b k then cutSpan l a (b - a) ++ cutSpan l (max a (b + k)) (a + n - (b + k)) else cutSpan l a n
/-- Write a stretch of DRAM with zeros that carry valid check bits; no slice keeps a line of it (R394, R395). -/
def State.zeroDram (s : State) (a n : Nat) : State :=
  let s := s.dropLines a n
  s.updMem fun m => { m with
    dram := Mem.clear m.dram a n, dramPoison := NatSet.delRange m.dramPoison (a / 8) (n / 8),
    upset := m.upset.filter fun e => e.1 % 2 == 1 || decide (4 * e.1 < a) || decide (a + n ≤ 4 * e.1) }
/-- MAP_APPLY: DRAM that changes its owner or leaves the map is cleared, and the map comes into force at a figure boundary (R378,
R394). -/
def State.applyMap (s : State) : State :=
  match s.pend.map with
  | none => s
  | some t =>
    let lost := (s.cfg.map.filter (·.kind == 0)).flatMap fun e =>
      cutSpan ((t.filter fun x => x.kind == 0 && x.owner == e.owner).map fun x => (x.base, x.len)) e.base e.len
    let s := lost.foldl (fun (s : State) x => s.zeroDram x.1 x.2) s
    { s with cfg := { s.cfg with map := t }, pend := { s.pend with map := none } }.ctlIdle aMapCtl
def execMapApply (s : State) : Out := .next (if s.onFigure s.time.now then s.applyMap else s)

/-! ### Placement (R285–R287) -/

/-- A pool leaves its populated half-stack. -/
def State.poolBad (s : State) : Bool := (List.range 16).any fun q =>
  let w := s.reg (aPlcPool q)
  decide (0 < w.bits 45 23) && s.stackPresent q && decide (halfStack / 4096 < w.bits 22 0 + w.bits 45 23)
/-- PLC_CTL_EN: a change of EN (R286). -/
def State.plcEn (s : State) (en : Bool) : State :=
  if s.plcOn = en then s
  else if !s.allEmpty then s.setRegBit aPlcStatus 1
  else if en && s.poolBad then s.setRegBit aPlcStatus 2
  else (s.setRegBits aPlcCtl 0 0 (if en then 1 else 0)).setRegBits aPlcStatus 0 0 (if en then 1 else 0)
def execPlcCtlEn (en : Bool) (s : State) : Out := s.pfWrite aPlcCtl (s.plcEn en)
/-- PLC_CTL_CLR: every copy and heat counter goes, while EN is 0 (R286). -/
def State.plcClr (s : State) : State :=
  if s.plcOn then s
  else s.updMem fun m => { m with copies := m.copies.filterMap fun e =>
    let c : Copy := { e.2 with heat := 0, t2 := false, fetch := none, raised := false, win := false }
    if c = Copy.none then none else some (e.1, c) }
def execPlcCtlClr (s : State) : Out := s.pfWrite aPlcCtl s.plcClr
/-- The words of PLC_RGN_n that are in force or wait for their boundary. -/
def State.plcLast (s : State) (n : Nat) : W64 × W64 := match FMap.get (none : Option (W64 × W64)) s.pend.plc n with
  | some p => p
  | none => (s.plcRgn n 0, s.plcRgn n 1)
/-- A policy that R287 refuses. -/
def State.plcBad (s : State) (n : Nat) (w0 w1 : W64) : Bool :=
  let strict := fun (r : Nat) => partValid (s.part0 r) && partStrict (s.part0 r)
  let quota := fun (r : Nat) => if r = n then w1.bits 22 0 else (s.plcLast r).2.bits 22 0
  let past := (List.range 16).any fun q => decide (s.poolGranules q <
    (((List.range 256).filter fun r => strict r && (s.domainDies r).any fun d => s.poolOf d == q).map quota).sum)
  (w0.bits 7 0 != 0 && decide (w0.bits 7 0 ≤ w0.bits 15 8)) || w0.bits 26 24 == 0 || w0.bits 28 27 == 0 || w0.bits 28 27 == 3 ||
    (w1.bits 22 0 != 0 && !strict n) || past
/-- PLC_RGN_WRITE: word 0 with the word 1 last written; accepted, it applies at the next figure boundary (R287, R565). -/
def State.plcWrite (s : State) (n : Nat) (v : W64) : State :=
  let w0 := mergeBits 0 v (pfRw (aPlcRgn n 0))
  let w1 := s.reg (aPlcRgn n 1)
  if s.plcBad n w0 w1 then
    ((s.setReg (aPlcRgn n 0) (s.plcLast n).1).setReg (aPlcRgn n 1) (s.plcLast n).2).setRegBit aPlcStatus 3
  else
    let s := s.setReg (aPlcRgn n 0) w0
    { s with pend := { s.pend with plc := FMap.set (none : Option (W64 × W64)) s.pend.plc n (some (w0, w1)) } }
def execPlcRgnWrite (n : Nat) (v : W64) (s : State) : Out := s.pfWrite (aPlcRgn n 0) (s.plcWrite n v)
/-- At a figure boundary the accepted policies come into force; a run under way pins the windows that its region's LEAD now reaches
(R287, R298). -/
def State.applyPlc (s : State) : State :=
  let news := s.pend.plc.map (·.1)
  let s := s.pend.plc.foldl (fun (s : State) e => match e.2 with
    | none => s
    | some w => { s with cfg := { s.cfg with
        plc0 := FMap.set (pfReset (aPlcRgn e.1 0)) s.cfg.plc0 e.1 w.1, plc1 := FMap.set (0 : W64) s.cfg.plc1 e.1 w.2 } }) s
  news.foldl (fun (s : State) r => if (s.rgn r).run.any (·.begun) then s.pinAhead r else s) { s with pend := { s.pend with plc := [] } }

/-! ### Guests (R388) -/

/-- The function has a command, a feed request or a guest window set in region `r`. -/
def State.guestBusy (s : State) (r j fn : Nat) : Bool :=
  (s.host.cmds.any fun c => c.fn == fn && c.region == r && (c.words.isEmpty || opNamesRegion c.opcode)) ||
    (s.regionMus r).any fun m => (s.mu m).eng.any fun g => !(FMap.get ([] : List W64) g.2.banks j).isEmpty
/-- Guest entry j of region `n` in force. -/
def State.guestWord (s : State) (n j : Nat) : W64 := FMap.get (0 : W64) s.cfg.guest (16 * n + j)
/-- The entry as it was last accepted. -/
def State.guestLast (s : State) (n j : Nat) : W64 := (FMap.get (none : Option W64) s.pend.guest (16 * n + j)).getD (s.guestWord n j)
/-- HUB_GUEST_WRITE: entry 0 ignores writes; else refused with GUESTREF, or applied at the next step boundary (R388). -/
def State.guestWrite (s : State) (n j : Nat) (v : W64) : State :=
  let w := mergeBits 0 v (maskBits 12 0)
  let fn := w.bits 11 0
  let old := s.guestWord n j
  let bad := (w.bit 12 && (!s.fnEnabled fn || (partValid (s.part0 n) && partOwner (s.part0 n) == fn) ||
      (List.range 16).any fun i => i != j && i != 0 && (s.guestLast n i).bit 12 && (s.guestLast n i).bits 11 0 == fn)) ||
    (old.bit 12 && old != w && s.guestBusy n j (old.bits 11 0))
  if j = 0 then s
  else if bad then ((s.setRegBit aGuestStat 0).setRegBits aGuestStat 15 8 n).setRegBits aGuestStat 19 16 j
  else
    let s := s.setReg (aGuest n j) w
    { s with pend := { s.pend with guest := FMap.set (none : Option W64) s.pend.guest (16 * n + j) (some w) } }
def execHubGuestWrite (n j : Nat) (v : W64) (s : State) : Out := s.pfWrite (aGuest n j) (s.guestWrite n j v)
/-- At a step boundary the written entries come into force (R388). -/
def State.applyGuests (s : State) : State :=
  let s := s.pend.guest.foldl (fun (s : State) e => match e.2 with
    | none => s
    | some w => { s with cfg := { s.cfg with guest := FMap.set (0 : W64) s.cfg.guest e.1 w } }) s
  { s with pend := { s.pend with guest := [] } }

/-! ### Collective groups (R426, R427, R446) -/

/-- The words of entry `n` that are in force or wait for their boundary. -/
def State.grpLast (s : State) (n : Nat) : List W64 := match FMap.get (none : Option (List W64)) s.pend.grp n with
  | some l => l
  | none => (List.range 3).map fun w => FMap.get (pfReset (aCeGrp n w)) ((FMap.get ([] : List W64) s.cfg.grp n).zipIdx.map fun e => (e.2, e.1)) w
/-- The module is a member of the box that words 0 and 1 describe, and the box fits its torus (R427, R428). -/
def State.grpBox (s : State) (w1 : W64) : Bool :=
  [0, 1, 2].all fun d =>
    let l := w1.bits (24 + 7 * d) (18 + 7 * d)
    let st := if w1.bit (39 + d) then 2 else 1
    let size := s.glSize d
    let o := w1.bits (6 * d + 5) (6 * d)
    let p := (s.glCoord d + size - o % max size 1) % max size 1
    decide (1 ≤ l) && decide (l ≤ 64) && decide (l * st ≤ size) && p % st == 0 && decide (p / st < l)
/-- A write of word 0 that R427 refuses. -/
def State.grpBad (s : State) (n : Nat) (w0 w1 : W64) : Bool :=
  let active := (s.reg (aCeGrp n 3)).bit 40
  let r := w0.bits 35 28
  let fn := w0.bits 27 16
  let gl := w0.bits 60 45
  active && (w0.bit 61 || ((s.grpLast n).getD 0 0).bit 61) || (w0.bit 61 &&
    (((List.range 64).any fun m => m != n && ((s.grpLast m).getD 0 0).bit 61 && ((s.grpLast m).getD 0 0).bits 15 0 == w0.bits 15 0) ||
      !s.fnEnabled fn || !partValid (s.part0 r) || partOwner (s.part0 r) != fn || w0.bits 41 36 == 0 || decide (5 < w0.bits 44 42) ||
      !s.grpBox w1 || gl == 0 || decide (gl + 1 < s.flevel) || decide (s.flevel < gl)))
/-- CE_GRP_WRITE: word 0 with the words 1 and 2 last written; accepted, it applies at the next figure boundary (R427, R565). -/
def State.grpWrite (s : State) (n : Nat) (v : W64) : State :=
  let w0 := mergeBits 0 v (pfRw (aCeGrp n 0))
  let w1 := s.reg (aCeGrp n 1)
  let w2 := s.reg (aCeGrp n 2)
  if s.grpBad n w0 w1 then
    let s := (s.grpLast n).zipIdx.foldl (fun (s : State) e => s.setReg (aCeGrp n e.2) e.1) s
    (List.range 6).foldl (fun (s : State) k => (s.setRegBit (aCeGstat k) 0).setRegBits (aCeGstat k) 6 1 n) s
  else
    let s := s.setReg (aCeGrp n 0) w0
    { s with pend := { s.pend with grp := FMap.set (none : Option (List W64)) s.pend.grp n (some [w0, w1, w2]) } }
def execCeGrpWrite (n : Nat) (v : W64) (s : State) : Out := s.pfWrite (aCeGrp n 0) (s.grpWrite n v)
/-- At a figure boundary the written entries come into force, each with its digest, SEQ, ACTIVE and MISMATCH zero (R427). -/
def State.applyGroups (s : State) : State :=
  let s := s.pend.grp.foldl (fun (s : State) e => match e.2 with
    | none => s
    | some l =>
      let s := { s with cfg := { s.cfg with grp := FMap.set ([] : List W64) s.cfg.grp e.1 l }, groups := FMap.set Group.idle s.groups e.1 Group.idle }
      (s.setReg (aCeGrp e.1 3) 0).computeGrp e.1) s
  { s with pend := { s.pend with grp := [] } }

/-! ### The watermark tag, retraining, firmware slots and trace rings (R493, R494, R498, R531) -/

/-- HUB_WMTAG_WRITE: it applies at the next figure boundary (R498). -/
def State.wmtagWrite (s : State) (v : W64) : State := { s with pend := { s.pend with wmtag := some v } }.setReg aWmTag v
def execHubWmtagWrite (v : W64) (s : State) : Out := s.pfWrite aWmTag (s.wmtagWrite v)
/-- The tag comes into force. -/
def State.applyWmtag (s : State) : State :=
  match s.pend.wmtag with
  | none => s
  | some v => { s with cfg := { s.cfg with wmtag := v }, pend := { s.pend with wmtag := none } }
/-- WATERMARK_RECOMPUTE: the digest over what is in force replaces the old one (R498). -/
def execWatermarkRecompute (s : State) : Out := .next s.computeWm

/-- MEM_TRAIN GO on a channel of half-stack `q`: refused with TREF, or BUSY (R493). -/
def State.trainGo (s : State) (q chan : Nat) : State :=
  let a := aMemTrain q
  let named := (List.range 256).any fun r => partValid (s.part0 r) && partStrict (s.part0 r) && (s.part1 r).bit (16 + q)
  if (s.reg a).bit 5 || s.die q != .powered || !s.stackPresent q || named then s.setRegBit a 6
  else ((s.setRegBits a 3 0 (chan % 16)).setRegBit a 5).updPower fun p => { p with retrain := FMap.set 0 p.retrain q (chan % 16 + 1) }
def execMemTrainGo (q chan : Nat) (s : State) : Out := s.pfWrite (aMemTrain q) (s.trainGo q chan)
/-- RETRAIN_DONE: a success replaces the channel's stored settings; a failure sets TFAIL (R493). -/
def execRetrainDone (q : Nat) (ok : Bool) (s : State) : Out :=
  let c := count s.power.retrain q
  if c = 0 then .next s
  else
    let s := (s.setRegBits (aMemTrain q) 5 5 0).updPower fun p => { p with
      retrain := FMap.set 0 p.retrain q 0, ifSettings := if ok then NatSet.ins p.ifSettings q else p.ifSettings }
    .next (if ok then s else s.setRegBit (aMemTrain q) 7)
/-- DRIFT_TRACK: interface drift is followed on a channel without moving other traffic; nothing that software sees changes (R493). -/
def execDriftTrack (q chan : Nat) (s : State) : Out := let _ := (q, chan); .next s

/-- PROG: refused with PRES 3, or in progress (R494). -/
def State.fwProg (s : State) : State :=
  let n := s.regBits aFwCtl 63 32
  let a := s.regBits aFwSrc 51 0
  if (s.reg aFwCtl).bit 4 || !s.stageDone 7 || n = 0 || decide (2 ^ 25 < n) || !(s.mapped 0 a n (entDram true false)) then s.setRegBits aFwCtl 6 5 3
  else (s.setRegBits aFwCtl 6 5 0).setRegBit aFwCtl 4
def execHubFwctlProg (s : State) : Out := s.pfWrite aFwCtl s.fwProg
/-- FW_PROGRAM_DONE: the slot that did not boot holds the image, or verification has failed and nothing is written (R494). -/
def execFwProgramDone (verified : Bool) (s : State) : Out :=
  if !(s.reg aFwCtl).bit 4 then .next s
  else
    let s := (s.setRegBits aFwCtl 4 4 0).setRegBits aFwCtl 6 5 (if verified then 1 else 2)
    .next (if verified then s.updPower fun p => { p with fwSlots := p.fwSlots &&& (if (s.reg aFwCtl).bit 1 then 2 else 1) } else s)

/-- An OBS_TRC_n write that R531 refuses. -/
def State.trcBad (s : State) (n : Nat) (w0 w1 : W64) : Bool :=
  let base := w0.bits 51 0
  let log := w0.bits 56 52
  let len := 32 * 2 ^ log
  !s.rgnEmpty n || base % 4096 != 0 || decide (log < 6) || decide (20 < log) || w1.bits 20 8 == 0 || decide (4096 < w1.bits 20 8) ||
    !partValid (s.part0 n) || !(s.mapped (partOwner (s.part0 n)) base len (entDram false true)) || stackOf base != stackOf (base + len - 1) ||
    (partStrict (s.part0 n) && !(s.part1 n).bit (16 + stackOf base))
/-- OBS_TRC_WRITE: word 0 with the word 1 last written, at once (R531, R565). -/
def State.trcWrite (s : State) (n : Nat) (v : W64) : State :=
  let w0 := mergeBits 0 v (pfRw (aObsTrc n 0))
  let w1 := s.reg (aObsTrc n 1)
  if s.trcBad n w0 w1 then
    (((s.setReg (aObsTrc n 0) (s.trcWord n 0)).setReg (aObsTrc n 1) (s.trcWord n 1)).setRegBit aObsTrcStat 0).setRegBits aObsTrcStat 8 1 n
  else
    let s := { s with cfg := { s.cfg with trc0 := FMap.set (pfReset (aObsTrc n 0)) s.cfg.trc0 n w0, trc1 := FMap.set (pfReset (aObsTrc n 1)) s.cfg.trc1 n w1 } }
    let s := s.setReg (aObsTrc n 0) w0
    if w0.bit 57 then s.updRgn n fun g => { g with trSeq := 1 } else s
def execObsTrcWrite (n : Nat) (v : W64) (s : State) : Out := s.pfWrite (aObsTrc n 0) (s.trcWrite n v)

end Sys2Proof.Machine
end

