-- ==== Sys2Proof/Machine/Power.lean ====
section
/-! DEFINITION. The power-down and power-up sequences of a compute die (R215–R219, R284). -/

namespace Sys2Proof.Machine

/-- The regions with a block on die `d`. -/
def State.rgnsOn (s : State) (d : Nat) : List Nat := (s.cfg.part0.map (·.1)).filter fun r => (s.regionDies r).contains d

/-- Row 1: the die's regions are fenced, and every domain drops the copies homed on it, its die set changing at the next figure
boundary (R216, R284). -/
def State.powerDown (s : State) (d : Nat) : State :=
  if s.die d != .powered || decide (16 ≤ d) then s
  else
    let s := { s.setDie d .fencing with pend := { s.pend with die := NatSet.ins s.pend.die d } }
    (s.rgnsOn d).foldl (fun (s : State) r => s.updRgn r fun g => { g with fence := max g.fence 1 }) (s.dropDieCopies d)
/-- DIE_POWER_DOWN (R216). -/
def execDiePowerDown (d : Nat) (s : State) : Out := .next (s.powerDown d)
/-- The flash-window reads that wait at slice `i` of a die that is being gated go to their domain's new homes (R284). -/
def State.moveReads (s : State) (i : Nat) : State :=
  let c := s.slice i
  let goes := fun (f : Flit) => isFlash f.addr 1 && !(s.domainDies (s.domainOf f.rtag)).isEmpty
  let reqs := ((c.miss.flatMap (·.reqs)) ++ c.park).filter goes
  if reqs.isEmpty then s
  else
    let s := s.updSlice i fun c => { c with
      miss := (c.miss.map fun m => { m with reqs := m.reqs.filter fun f => !goes f }).filter (fun m => !m.reqs.isEmpty),
      park := c.park.filter (fun f => !goes f), order := c.order.filter fun f => !reqs.contains f }
    reqs.foldl (fun (s : State) f => s.inject { f with dst := .slice (s.requestSlice f.rtag f.addr) }) s
/-- At a figure boundary the die sets of the domains change: reads that waited go to the new homes (R284). -/
def State.applyDies (s : State) : State :=
  let dies := s.pend.die
  let s := { s with pend := { s.pend with die := [] } }
  if dies.isEmpty then s
  else (dies.foldl (fun (s : State) d => (List.range 16).foldl (fun (s : State) k => s.moveReads (16 * d + k)) s) s).showAllWres

/-- The feed requests of region `r` are answered: with what its dispatched instances hold, or with no payload (R218). -/
def State.downReqs (s : State) (r : Nat) : State :=
  (s.feed.reqs.filter fun q => q.region == r && q.answered.isNone).foldl (fun (s : State) q =>
    if q.inst.isSome then s.feedAnswer q else s.updReq q.handle fun x => { x with answered := some (s.reqGrade q, []) }) s
/-- The commands in flight of region `r` complete with DOMAIN_DOWN: RUN, STEP, FENCE, LOAD, SCHED_WRITE and a SCHED_SWAP that has not
committed (R216, R218). -/
def State.downCmds (s : State) (r : Nat) : State :=
  let inFl := fun (c : Cmd) => c.region == r && c.phase == .running && [1, 3, 4, 7, 9, 0x0A].contains c.opcode
  let s := s.updRgn r fun g => { g with swap := g.swap.filter fun h => !((s.cmd h).any inFl) }
  let down := fun (c : Cmd) => if inFl c then { c with phase := .due, status := 6, detail := if c.opcode = 1 then 2 else 0 } else c
  s.updHost fun x => { x with cmds := x.cmds.map down }
/-- SCRUBs and running collectives that touch half-stack `d` end with DOMAIN_DOWN (R218, R470). -/
def State.downStack (s : State) (d : Nat) : State :=
  let hits := fun (a n : Nat) => n != 0 && s.isDram a 1 && decide (stackOf a ≤ d) && decide (d ≤ stackOf (a + n - 1))
  let s := (s.host.cmds.filter fun c => c.opcode == 8 && c.phase == .running && hits (c.word 1).toNat (c.word 2).toNat).foldl
    (fun (s : State) c => s.scrubStop c 6) s
  (List.range 64).foldl (fun (s : State) g =>
    match (s.group g).run.bind fun r => s.cmd r.handle with
    | some c => if (collSpans c).any fun x => hits x.1 x.2 then (s.collFail g 6).collGo g else s
    | none => s) s
/-- REFUSE_STATE_ENTRY: once the fences hold, the routers refuse what is addressed into the die (R216 row 2). -/
def execRefuseStateEntry (d : Nat) (s : State) : Out :=
  if s.die d == .fencing && (s.rgnsOn d).all fun r => s.fenceHolds r then
    .next (((s.rgnsOn d).foldl (fun (s : State) r => ((s.regionDown r).downCmds r).downReqs r) (s.downStack d)).setDie d .refusing)
  else .next s

/-- A slice holds lines of die `d`'s own, or of its half-stack. -/
def State.heldFor (s : State) (d i : Nat) (l : Line) : Bool := i / 16 == d || (s.isDram l.addr 1 && stackOf l.addr == d)
/-- POWER_DOWN_WRITEBACK_DONE: accepted requests are finished, the OU's passes stop, dirty lines are written back (R216 row 3, R324). -/
def execPowerDownWritebackDone (d : Nat) (s : State) : Out :=
  if s.die d == .refusing && (List.range 16).all fun k => (s.slice (16 * d + k)).miss.isEmpty && (s.slice (16 * d + k)).park.isEmpty then
    let s := (s.passes.filter fun x => x.q == d).foldl (fun (s : State) x => (s.stopPass x).regionDown x.region) s
    let s := s.slices.foldl (fun (s : State) e => s.flushLines e.1 (s.heldFor d e.1)) s
    .next (s.setDie d .selfRefresh)
  else .next s
/-- SELF_REFRESH_CONFIRMED: the half-stack keeps its contents; a retrain that runs is waited for (R216 row 4, R521). -/
def execSelfRefreshConfirmed (d : Nat) (s : State) : Out :=
  .next (if s.die d == .selfRefresh && count s.power.retrain d == 0 then s.setDie d .holding else s)

/-- A gated die is powered: its scratchpad and die cache are filled (R219, R454). -/
def State.fillDie (s : State) (d : Nat) : State :=
  let s := (s.setDie d .poweringUp).zeroSpad fun m => unitDie m == d
  s.updPower fun p => { p with upAsk := NatSet.del p.upAsk d }
/-- REFUSE_HOLD_EXPIRY: power is removed and the die's regions are unloaded; a power-up asked for meanwhile follows (R216 row 6, R219). -/
def execRefuseHoldExpiry (d : Nat) (s : State) : Out :=
  if s.die d == .holding then
    let s := ((s.rgnsOn d).foldl (fun (s : State) r => (s.downCmds r).unloadRegion r) s).setDie d .gated
    .next (if NatSet.mem s.power.upAsk d then s.fillDie d else s)
  else .next s
/-- A die is to be powered up: now, or after the power-down sequence that runs (R219). -/
def State.powerUp (s : State) (d : Nat) : State :=
  match s.die d with
  | .gated => s.fillDie d
  | .fencing | .refusing | .selfRefresh | .holding => s.updPower fun p => { p with upAsk := NatSet.ins p.upAsk d }
  | _ => s
/-- DIE_POWER_UP (R219). -/
def execDiePowerUp (d : Nat) (s : State) : Out := .next (s.powerUp d)
/-- POWER_UP_DONE: the routers leave the refuse state at a figure boundary (R219). -/
def execPowerUpDone (d : Nat) (s : State) : Out := .next (if s.die d == .poweringUp && s.onFigure s.time.now then s.setDie d .powered else s)

end Sys2Proof.Machine
end

