-- ==== Sys2Proof/Machine/FnReset.lean ====
section
/-! DEFINITION. The reset of one function: QUIESCE, FLR and the clearing of its DRAM (R359–R361, R395, R396, R535). -/

namespace Sys2Proof.Machine

/-- The regions that a function owns. -/
def State.fnRegions (s : State) (fn : Nat) : List Nat :=
  (s.cfg.part0.filter fun e => partValid e.2 && partOwner e.2 == fn).map (·.1)

/-- Unsent feed requests that `p` picks are answered LATE, in the frame and in the record (R359 step 2). -/
def State.lateReqs (s : State) (p : FeedReq → Bool) : State :=
  let hit := (s.feed.reqs.filter fun q => !q.sent && p q).map (·.handle)
  let s := { s with feed := { s.feed with reqs := s.feed.reqs.map fun (q : FeedReq) => if hit.contains q.handle then { q with answered := some (9, []) } else q } }
  let late := fun (c : Cmd) => if hit.contains c.handle && c.phase == .running then { c with phase := .due, status := 9 } else c
  s.updHost fun x => { x with cmds := x.cmds.map late }

/-- Cancel one command: CANCELLED, or without a record; one whose completion is due keeps its own status (R359 step 3, R372). -/
def State.cancelCmd (s : State) (c : Cmd) (silent : Bool) : State :=
  let s := s.endFlash c.handle
  if c.phase == .due then s
  else if silent then ((s.closeRun c).1.dropCmd c.handle).takeUp c.region
  else if c.opcode == 8 && c.phase == .running then s.scrubStop c 2
  else s.due c.handle 2 0
/-- The commands of the function but the QUIESCE `h`, and the commands that guests have on its regions, are cancelled (R359 step 3,
R396). -/
def State.cancelAll (s : State) (fn : Nat) (h : Option W64) (silent : Bool) : State :=
  let own := s.fnRegions fn
  let s := s.stopColls fn 2
  let s := (s.host.cmds.filter fun c => c.fn == fn && !c.words.isEmpty && some c.handle != h).foldl (fun (s : State) c => s.cancelCmd c silent) s
  (s.host.cmds.filter fun c => c.fn != fn && !c.words.isEmpty && opNamesRegion c.opcode && own.contains c.region).foldl
    (fun (s : State) c => s.cancelCmd c false) s

/-- A region of the function is reset: its passes stop, it is unloaded, its scratchpad and its strict ways are written with zeros, its
copies dropped and its counters cleared (R359 steps 4 and 5, R393, R535). -/
def State.resetRegion (s : State) (r : Nat) : State :=
  let s := (s.passes.filter fun x => x.region == r).foldl (fun (s : State) x => s.stopPass x) s
  let s := (s.unloadRegion r).clearObs r
  let s := s.updRgn r fun g => { g with wedged := 0, idle := 0, fstat := none }
  let s := s.zeroSpad fun m => s.inRegion r m
  let s := s.slices.foldl (fun (s : State) e => s.flushLines e.1 fun l => l.part == some r) s
  let s := if s.domainOf r = r then s.updMem fun m => { m with copies := m.copies.filter fun e => e.1 / 2 ^ 28 != r } else s
  let s := (s.regionCus r).foldl (fun (s : State) u => s.setCu u Cu.empty) s
  (s.regionMus r).foldl (fun (s : State) m => s.updMu m fun x => { x with rwait := 0, resend := 0 }) s
/-- The bank of a guest is emptied in the regions that admit it (R389, R396). -/
def State.emptyBanks (s : State) (fn : Nat) : State :=
  s.cfg.part0.foldl (fun (s : State) e =>
    match s.bankIndex e.1 fn with
    | some j => if j = 0 then s else (s.regionMus e.1).foldl (fun (s : State) m => (List.range 4).foldl (fun (s : State) k =>
        s.updEng m k fun g => { g with banks := FMap.set ([] : List W64) g.banks j [] }) s) s
    | none => s) s
/-- Steps 1 to 5 of the reset of a function (R359). -/
def State.beginReset (s : State) (fn : Nat) (h : Option W64) (silent : Bool) : State :=
  let own := s.fnRegions fn
  let s := (s.updHost fun x => { x with resetting := NatSet.ins x.resetting fn, zeroing := NatSet.ins x.zeroing fn }).setFnReg fn fStatus
    (s.fnReg fn fStatus ||| 3)
  let s := s.lateReqs fun q => q.w0.bits 11 0 == fn || own.contains q.region
  let s := (s.cancelAll fn h silent).emptyBanks fn
  own.foldl (fun (s : State) r => s.resetRegion r) s

/-- Step 6: counters, slots and the submission sequence; and step 8: the FN_ registers at their Reset values. -/
def State.clearFn (s : State) (fn : Nat) : State :=
  s.updHost fun x => { x with
    fnCtr := x.fnCtr.filter (fun e => e.1 / 64 != fn), subSeq := FMap.set 0 x.subSeq fn 0,
    slots := x.slots.map fun e => if e.2.fn == some fn then (e.1, ⟨e.2.gen, none⟩) else e }
def State.clearRings (s : State) (fn : Nat) : State :=
  let keep := fun (m : FMap Nat) => m.filter fun e => e.1 / 16 != fn
  let s := s.updHost fun x => { x with
    resetting := NatSet.del x.resetting fn, sqTail := keep x.sqTail, cqHead := keep x.cqHead, cqResv := keep x.cqResv,
    held := x.held.filter fun w => w.fn != fn }
  { s with fnRegs := s.fnRegs.filter fun e => e.1 / 65536 != fn }.setFnReg fn fStatus (if NatSet.mem s.host.zeroing fn then 2 else 0)
/-- The QUIESCE that resets a function. -/
def State.quiesceOf (s : State) (fn : Nat) : Option Cmd :=
  s.host.cmds.find? fun c => c.opcode == 0x0D && c.phase == .running && (c.word 1).bits 11 0 == fn
/-- Steps 6 to 8, once the records of the function's own commands are written; the QUIESCE's own record is the last (R359). -/
def State.endReset (s : State) (fn : Nat) : State :=
  let q := s.quiesceOf fn
  let left := s.host.cmds.any (fun c => c.fn == fn && some c.handle != q.map (·.handle)) || s.host.held.any fun w => w.fn == fn
  if left || (q.isSome && !s.host.portA) then s
  else
    let s := s.clearFn fn
    let s := match q with
      | some c => (s.postRecord { c with status := 0, detail := 0 }).dropCmd c.handle
      | none => s
    s.clearRings fn
/-- The resets that can end at this boundary. -/
def State.endResets (s : State) : State := s.host.resetting.foldl (fun (s : State) fn => s.endReset fn) s

/-- QUIESCE (R359). -/
def execQuiesce (h : W64) (s : State) : Out :=
  match s.openCmd h 0x0D with
  | none => .next s
  | some c =>
    let fn := (c.word 1).bits 11 0
    if s.isResetting fn then .next s
    else if !s.fnEnabled fn then .next (s.due h 0 0)
    else .next ((s.begin h).beginReset fn (some h) false)
/-- A QUIESCE that is resetting the function goes on as FLR: neither its record nor those of the commands that it cancelled are written
(R372). -/
def State.dropQuiesce (s : State) (fn : Nat) : State :=
  match s.quiesceOf fn with
  | none => s
  | some q =>
    let s := (s.host.cmds.filter fun c => c.fn == fn && !c.words.isEmpty && c.phase == .due).foldl (fun (s : State) c => (s.closeRun c).1.dropCmd c.handle) s
    (s.dropCmd q.handle).dropSlot q.handle
/-- FLR (R359). -/
def execFlr (fn : Nat) (s : State) : Out :=
  .next (if s.awake && s.fnEnabled fn then (s.dropQuiesce fn).beginReset fn none true else s)
/-- ZEROING_DONE: the function's DRAM ranges hold zeros and stay mapped to it (R395). -/
def execZeroingDone (fn : Nat) (s : State) : Out :=
  if !NatSet.mem s.host.zeroing fn then .next s
  else
    let s := (s.cfg.map.filter fun e => e.kind == 0 && e.owner == fn).foldl (fun (s : State) e => s.zeroDram e.base e.len) s
    .next ((s.updHost fun x => { x with zeroing := NatSet.del x.zeroing fn }).setFnBit fn fStatus 1 false)

/-- PERST_N is asserted: both ports go down, every function is reset as by FLR, and VF Enable is clear; the records of feed requests are
held as those of a port that is down (R358, R361, R372). -/
def State.perst (s : State) : State :=
  let fns := List.range (s.vfs + 1)
  let s := s.updHost fun x => { x with portA := false, portB := false }
  let s := fns.foldl (fun (s : State) fn => (s.dropQuiesce fn).beginReset fn none true) s
  s.updHost fun x => { x with vfOn := false }

end Sys2Proof.Machine
end

