-- ==== Sys2Proof/Machine/Wallf.lean ====
section
/-! DEFINITION. Wallflower (R500–R521): its sensors, what it decides alone, its log and alerts, and its SMBus commands. -/

namespace Sys2Proof.Machine

/-! ### Sensors (R500, R501) -/

/-- F of a sensor: how many samples its filtered value is the mean of. -/
def sensorF (n : Nat) : Nat := if n ≤ 24 then 8 else if n ≤ 32 then 4 else if n ≤ 35 then 10 else if n ≤ 38 then 1024 else if n ≤ 40 then 8 else 10
/-- A sensor that the variant fuses off. -/
def State.sensorFused (s : State) (n : Nat) : Bool :=
  decide (42 ≤ n) || (s.power.variant == 3 && ((decide (12 ≤ n) && decide (n ≤ 15)) || n == 31 || n == 32)) ||
    (s.power.variant == 1 && ([26, 28, 30, 32] : List Nat).contains n)
/-- A sensor whose domain is powered and out of reset: those of the hub die, the island and the carrier always are. -/
def State.sensorOn (s : State) (n : Nat) : Bool :=
  !s.sensorFused n && (s.awake || n == 22 || ([33, 34, 35, 39, 40, 41] : List Nat).contains n)
/-- The last readings of a sensor. -/
def State.samplesOf (s : State) (n : Nat) : List Int := FMap.get ([] : List Int) s.wf.samples n
/-- A filtered value is formed. -/
def State.formed (s : State) (n : Nat) : Bool := decide (sensorF n ≤ (s.samplesOf n).length)
/-- The filtered value times F. -/
def State.sumOf (s : State) (n : Nat) : Int := (s.samplesOf n).foldl (· + ·) 0
/-- The filtered value is at least `t`. -/
def State.atLeast (s : State) (n : Nat) (t : Int) : Bool := s.formed n && decide (t * (sensorF n : Int) ≤ s.sumOf n)
/-- The filtered value is above `t`. -/
def State.above (s : State) (n : Nat) (t : Int) : Bool := s.formed n && decide (t * (sensorF n : Int) < s.sumOf n)
/-- The filtered value is below `t`. -/
def State.below (s : State) (n : Nat) (t : Int) : Bool := s.formed n && decide (s.sumOf n < t * (sensorF n : Int))
/-- Show the reading of a sensor: its filtered value, whose rounding to 16 bits is open (log entry 7), or 0x8000. -/
def State.showSensor (s : State) (n : Nat) : State :=
  if s.formed n then
    let f := (sensorF n : Int)
    let z := if s.sumOf n % f = 0 then ((0 : W64), s) else s.fresh
    z.2.setReg (aWfSens n) (BitVec.ofNat 64 (BitVec.ofInt 16 (s.sumOf n / f + (z.1.bits 0 0 : Nat))).toNat)
  else s.setReg (aWfSens n) 0x8000
/-- Forget the samples of a sensor. -/
def State.dropSamples (s : State) (n : Nat) : State :=
  (s.updWf fun w => { w with samples := FMap.set ([] : List Int) w.samples n [] }).showSensor n
/-- Sensors whose domain has gone unpowered or into reset have no sample (R501). -/
def State.dropDark (s : State) : State :=
  (List.range 42).foldl (fun (s : State) n => if s.sensorOn n then s else s.dropSamples n)
    (s.updWf fun w => { w with missing := w.missing.filter fun n => s.sensorOn n })

/-! ### What the host and the bus see (R515–R520) -/

/-- THERM_TRIP_N is asserted (R502, R508). -/
def State.thermTrip (s : State) : Bool := s.wf.trip || s.wf.hwtrip
/-- The STATE byte. -/
def State.wfState (s : State) : Nat :=
  (match s.power.st with | .off => 0 | .standby => 1 | .reset => 2 | .bringup => 3 | .ready => 4) +
    (if s.wf.wfhold then 8 else 0) + (if s.thermTrip then 16 else 0) + (if s.power.pgood then 32 else 0)
/-- The word of gated dies. -/
def State.gatedWord (s : State) : Nat := (s.wf.gatedBy.map fun e => 2 ^ e.1).sum
/-- The bytes of a log record (R518). -/
def WfRec.recBytes (x : WfRec) : List Byte :=
  leBytes x.ms 4 ++ [BitVec.ofNat 8 x.action, BitVec.ofNat 8 x.cause, BitVec.ofNat 8 x.obj, BitVec.ofNat 8 x.state] ++ leBytes x.value 2 ++
    List.replicate 6 0
/-- The 128 bytes of LOG. -/
def State.wfLogBytes (s : State) : List Byte :=
  let l := (s.wf.log.take 8).flatMap WfRec.recBytes
  l ++ List.replicate (128 - l.length) 0
/-- Bring the mailbox up to date (R520). -/
def State.showWf (s : State) : State :=
  let s' := s.setReg aWfStat (BitVec.ofNat 64 (s.wfState + s.wf.alert.toNat * 2 ^ 8 + s.gatedWord * 2 ^ 24))
  let s' := s'.setReg aWfPlimit (BitVec.ofNat 64 s.wf.plimit)
  (List.range 8).foldl (fun (x : State) i =>
    let b := (s.wfLogBytes.drop (16 * i)).take 16
    (x.setReg (aWfLog i 0) (BitVec.ofNat 64 (leNat (b.take 8)))).setReg (aWfLog i 1) (BitVec.ofNat 64 (leNat (b.drop 8)))) s'
/-- Change what Wallflower keeps, and what the host sees of it. -/
def State.wfSet (s : State) (f : WfSt → WfSt) : State := (s.updWf f).showWf
/-- ALERT or ALERTMASK takes a new value: a bit of their AND that goes from 0 to 1 asserts SMB_ALERT_N again (R516). -/
def State.alertTo (s : State) (alert mask : BitVec 16) : State :=
  s.wfSet fun w => { w with
    alert := alert, mask := mask, answered := w.answered && ((alert &&& mask) &&& ~~~(w.alert &&& w.mask)) == 0 }
/-- Set a bit of ALERT. -/
def State.setAlert (s : State) (i : Nat) : State := s.alertTo (s.wf.alert ||| BitVec.ofNat 16 (2 ^ i)) s.wf.mask
/-- SMB_ALERT_N is asserted (R516). -/
def State.smbAlert (s : State) : Bool := (s.wf.alert &&& s.wf.mask) != 0 && !s.wf.answered
/-- Enter a decision in the log (R518). -/
def State.wfNote (s : State) (action cause obj : Nat) : State :=
  let x : WfRec := ⟨s.wf.ms % 2 ^ 32, action, cause, obj, s.wfState, if obj < 42 then s.regBits (aWfSens obj) 15 0 else 0x8000⟩
  s.wfSet fun w => { w with log := (x :: w.log).take 8 }

/-! ### Closing the pairs (R503, R507) -/

/-- Show WFHOLD on the six link dies. -/
def State.showHold (s : State) : State :=
  (List.range 6).foldl (fun (s : State) k => s.setRegBits (aGlByp k) 9 9 (if s.wf.wfhold then 1 else 0)) s
/-- Close every pair and hold them: nothing is held in Standby and Reset (R507, R509). -/
def State.wfClose (s : State) (cause obj : Nat) : State :=
  if s.wf.wfhold || !s.awake then s
  else (((s.updWf fun w => { w with wfhold := true }).closeAll.showHold).setAlert 4).wfNote 3 cause obj
/-- A condition of cause 4, 5 or 6 for a link die holds: it lasts until its release level (R503). -/
def State.holdCause (s : State) : Bool :=
  s.wf.hbAbsent || ([16, 17, 18, 19, 20, 21] : List Nat).any fun n => s.atLeast n 1280 || NatSet.mem s.wf.missing n

/-! ### Gating (R503–R506) -/

/-- Die `d` may be chosen. -/
def State.mayGate (s : State) (d : Nat) : Bool := decide (d < 16) && s.die d == .powered && count s.wf.gatedBy d == 0
/-- A gating waits for its turn. -/
def State.askGate (s : State) (obj cause : Nat) : State :=
  if s.wf.pend.contains (obj, cause) then s else s.updWf fun w => { w with pend := w.pend ++ [(obj, cause)] }
/-- The die that a waiting gating comes to, if any: the next of GORDER while the power condition holds, the lower-numbered die of a
stack, then the other while its condition holds (R503). -/
def State.gateTarget (s : State) (x : Nat × Nat) : Option Nat :=
  if x.2 = 3 then (if s.atLeast 38 s.wf.plimit then s.wf.gorder.find? s.mayGate else none)
  else if x.2 = 2 then
    let d := 2 * (x.1 - 25)
    if s.mayGate d then some d else if s.mayGate (d + 1) && s.atLeast x.1 1520 then some (d + 1) else none
  else if s.mayGate x.1 then some x.1 else none
/-- Gate a die (R503, R504). -/
def State.gate (s : State) (d cause : Nat) : State :=
  let s := s.updWf fun w => { w with gatedBy := FMap.set 0 w.gatedBy d (cause + 1), order := d :: w.order }
  ((s.powerDown d).setAlert 2).wfNote 1 cause d
/-- A die that Wallflower has gated is on its way to row 6 of its sequence (R504). -/
def State.gatingRuns (s : State) : Bool := s.wf.gatedBy.any fun e => e.2 != 0 && [.fencing, .refusing, .selfRefresh, .holding].contains (s.die e.1)
/-- GATE_DIE: the first waiting gating that still has a die begins, unless another is on its way; those before it are dropped (R504,
R509). -/
def execGateDie (s : State) : Out :=
  if !(s.power.st == .ready && s.wf.running && s.wf.taking && !s.wf.trip) || s.gatingRuns then .next s
  else
    let rest := s.wf.pend.dropWhile fun x => (s.gateTarget x).isNone
    match rest with
    | [] => .next (s.updWf fun w => { w with pend := [] })
    | x :: l =>
      match s.gateTarget x with
      | some d => .next ((s.updWf fun w => { w with pend := l }).gate d x.2)
      | none => .next s
/-- Die `d`'s own conditions hold: its temperature, its stack, its sensor. -/
def State.ownCause (s : State) (d : Nat) : Bool :=
  s.atLeast d 1600 || s.atLeast (25 + d / 2) 1520 || NatSet.mem s.wf.missing d
/-- The condition that gated die `d` is below its release level (R503, R506). -/
def State.released (s : State) (d : Nat) : Bool :=
  match count s.wf.gatedBy d with
  | 2 => s.below d 1440
  | 3 => s.below (25 + d / 2) 1360
  | 4 => s.below 38 ((s.wf.plimit : Int) - 2000)
  | 7 => !NatSet.mem s.wf.missing d
  | 1 => !s.ownCause d
  | _ => false
/-- UNGATE_DIE: the die gated last of those that nothing holds gated is powered again (R506). -/
def execUngateDie (s : State) : Out :=
  if !(s.awake && s.wf.running && s.wf.taking && !s.thermTrip) then .next s
  else match s.wf.order.find? fun d => !NatSet.mem s.wf.hostReq d && s.released d with
    | none => .next s
    | some d =>
      let cause := count s.wf.gatedBy d - 1
      let s := s.updWf fun w => { w with gatedBy := FMap.set 0 w.gatedBy d 0, order := w.order.filter (· != d) }
      .next (((s.powerUp d).setAlert 3).wfNote 2 cause d)

/-! ### Thermal trips (R502, R503, R508) -/

/-- The first sensor whose filtered value trips, with its cause. -/
def State.tripCause (s : State) : Option (Nat × Nat) :=
  let hot := fun (l : List Nat) (t : Int) (c : Nat) => (l.find? fun n => s.atLeast n t).map fun n => (n, c)
  (hot (List.range 16) 1840 1).orElse fun _ => (hot ((List.range 8).map (25 + ·)) 1680 2).orElse fun _ =>
    (hot ((List.range 6).map (16 + ·)) 1760 4).orElse fun _ => (hot [22, 23, 24, 41] 1760 9).orElse fun _ =>
    if s.below 35 500 then some (35, 8) else none
/-- A thermal trip: THERM_TRIP_N, every pair, every powered compute die (R508). -/
def State.doTrip (s : State) (cause obj : Nat) : State :=
  if s.wf.trip then s
  else
    let s := (((s.updWf fun w => { w with trip := true, pend := [] }).setAlert 0).wfNote 5 cause obj).wfClose cause obj
    if !s.awake then s
    else (List.range 16).foldl (fun (s : State) d =>
      if s.mayGate d then
        ((s.updWf fun w => { w with gatedBy := FMap.set 0 w.gatedBy d (cause + 1), order := d :: w.order }).powerDown d).setAlert 2
      else s) s
/-- HW_COMPARATOR_TRIP: the comparator of a logic die asserts THERM_TRIP_N, and Wallflower acts on it while it runs (R502, R508). -/
def execHwComparatorTrip (die : Nat) (s : State) : Out :=
  if decide (25 ≤ die) || !(s.awake || s.power.st == .reset) then .next s
  else
    let s := (s.updWf fun w => { w with hwtrip := true }).setAlert 1
    .next (if s.wf.running then s.doTrip 7 die else s)
/-- Every temperature that can be read lies below its release level (R508). -/
def State.cool (s : State) : Bool :=
  (List.range 42).all fun n =>
    let t : Int := if n ≤ 15 then 1440 else if n ≤ 24 || n = 41 then 1280 else 1360
    !(decide (n ≤ 32) || n == 41) || !s.formed n || s.below n t
/-- The trip clears at a sample with PGOOD low and everything cool (R508). -/
def State.tryClear (s : State) : State :=
  if s.thermTrip && !s.power.pgood && s.cool then (s.updWf fun w => { w with trip := false, hwtrip := false }).wfNote 6 0 0xff else s

/-! ### Samples (R500, R503, R504, R509, R517) -/

/-- The alert-only conditions that hold, by bit of ALERT. -/
def State.alertConds (s : State) : BitVec 16 :=
  let b := fun (i : Nat) (p : Bool) => if p then BitVec.ofNat 16 (2 ^ i) else 0
  b 7 (s.above 33 640) ||| b 8 (s.below 35 2000) ||| b 9 (s.above 34 960) ||| b 10 (s.below 36 40000 || s.above 36 60000) |||
    b 11 (s.below 39 3135 || s.above 39 3465) ||| b 12 (s.above 22 1520) ||| b 13 (s.above 23 1440 || s.above 24 1440)
/-- Alerts for the conditions entered. -/
def State.evalAlerts (s : State) : State :=
  let c := s.alertConds
  let new := c &&& ~~~s.wf.cond
  (s.updWf fun w => { w with cond := c }).alertTo (s.wf.alert ||| new) s.wf.mask
/-- Gatings that the conditions ask for, in bring-up to be acted on at its end (R503, R509). -/
def State.evalGates (s : State) : State :=
  if !s.awake then s
  else
    let s := (List.range 16).foldl (fun (s : State) d =>
      if !s.mayGate d then s else if s.atLeast d 1600 then s.askGate d 1 else if NatSet.mem s.wf.missing d then s.askGate d 6 else s) s
    let s := (List.range 8).foldl (fun (s : State) n =>
      if s.atLeast (25 + n) 1520 && (s.mayGate (2 * n) || s.mayGate (2 * n + 1)) then s.askGate (25 + n) 2 else s) s
    if s.atLeast 38 s.wf.plimit then s.askGate 16 3 else s
/-- Every filter has its samples: Wallflower decides again after a restart (R512). -/
def State.evalTaking (s : State) : State :=
  if s.wf.taking || !((List.range 42).all fun n => !s.sensorOn n || NatSet.mem s.wf.missing n || s.formed n) then s
  else s.updWf fun w => { w with taking := true }
/-- Wallflower judges its conditions: a trip first, then the pairs, then gating, then alerts (R504). -/
def State.judge (s : State) : State :=
  let s := s.evalTaking.tryClear
  if !s.wf.taking then s
  else match s.tripCause with
    | some c => (s.doTrip c.2 c.1).evalAlerts
    | none =>
      let s := match ((List.range 6).map (16 + ·)).find? fun n => s.atLeast n 1440 || NatSet.mem s.wf.missing n with
        | some n => s.wfClose (if s.atLeast n 1440 then 4 else 6) n
        | none => if s.wf.hbAbsent then s.wfClose 5 0xff else s
      s.evalGates.evalAlerts
/-- SENSOR_SAMPLE: a sensor gives a reading (R500, R503). -/
def execSensorSample (n : Nat) (v : Int) (s : State) : Out :=
  if !s.wf.running || !s.sensorOn n then .next s
  else
    let l := s.samplesOf n ++ [v]
    let s := s.updWf fun w => { w with
      samples := FMap.set ([] : List Int) w.samples n (l.drop (l.length - sensorF n)), missing := NatSet.del w.missing n }
    .next (s.showSensor n).judge
/-- SENSOR_MISSING: a powered sensor has failed to answer for 1 ms (R501, R503). -/
def execSensorMissing (n : Nat) (s : State) : Out :=
  if !s.wf.running || !s.sensorOn n || NatSet.mem s.wf.missing n then .next s
  else
    let s := ((s.updWf fun w => { w with missing := NatSet.ins w.missing n }).dropSamples n).setAlert 6
    if !s.wf.taking then .next s
    else if n < 16 then .next (if s.awake && s.mayGate n then s.askGate n 6 else s)
    else .next (if 16 ≤ n && n ≤ 21 then s.wfClose 6 n else s)
/-- HCP_HEARTBEAT (R503). -/
def execHcpHeartbeat (s : State) : Out := .next (s.updWf fun w => { w with hbAbsent := false })
/-- HEARTBEAT_LOSS: no heartbeat for 100 ms in Ready (R503, R517). -/
def execHeartbeatLoss (s : State) : Out :=
  if !(s.power.st == .ready && s.wf.running) || s.wf.hbAbsent then .next s
  else
    let s := (s.updWf fun w => { w with hbAbsent := true }).setAlert 5
    .next (if s.wf.taking then s.wfClose 5 0xff else s)

/-! ### Time, restarts and totals (R510–R512, R519) -/

/-- `dt` passes while aux is good: the millisecond count, and the hold of RESET_N (R475, R511, R518). -/
def State.wfTime (s : State) (dt : Nat) : State :=
  if !s.power.aux then s
  else
    let held := s.power.st == .reset && !s.power.resetN
    s.updWf fun w =>
      let k := (w.sub + dt) / 16000000
      { w with sub := (w.sub + dt) % 16000000, ms := (w.ms + k) % 2 ^ 32, curHold := if held then min (w.curHold + k) (2 ^ 32 - 1) else w.curHold }
/-- The hold of RESET_N ends: the count moves to the last-hold field (R511). -/
def State.holdEnds (s : State) : State := s.updWf fun w => { w with lastHold := w.curHold, curHold := 0, heldSet := false }
/-- RESET_HELD_EXPIRY: the hold passes 1 s (R511). -/
def execResetHeldExpiry (s : State) : Out :=
  .next (if s.wf.running && s.power.st == .reset && !s.power.resetN && !s.wf.heldSet then
    (s.updWf fun w => { w with heldSet := true }).setAlert 14 else s)
/-- WF_RESET_N: Wallflower alone restarts from its ROM; what lies in RAM is lost, the trips are kept (R476, R521). -/
def execWfResetN (s : State) : Out :=
  .next (if s.power.aux then
    s.wfSet fun w => { WfSt.reset with
      straps := w.straps, defects := w.defects, gorder := w.gorder, plimit := w.plimit, log := w.log, lastHold := w.lastHold, curHold := w.curHold,
      heldSet := w.heldSet, trip := w.trip, hwtrip := w.hwtrip, wfhold := w.wfhold, gatedBy := w.gatedBy, order := w.order, sub := w.sub, ms := w.ms }
  else s)
/-- WALLFLOWER_RESTART_DONE: the gated set is rebuilt from the dies' power state, and stays gated until the host asks; a comparator trip
found is acted on (R512, R521, log entry 13). -/
def execWallflowerRestartDone (s : State) : Out :=
  if !s.power.aux || s.wf.running then .next s
  else
    let down := if s.awake then (List.range 16).filter fun d => s.dieExists d && s.die d != .powered && s.die d != .poweringUp else []
    let s := (List.range 42).foldl (fun (s : State) n => s.dropSamples n) s
    let s := s.wfSet fun w => { w with
      running := true, gatedBy := down.foldl (fun m d => FMap.set 0 m d 1) [], order := down.reverse, hostReq := down }
    .next (if s.wf.hwtrip && !s.wf.trip then s.doTrip 7 0xff else s)
/-- A count of 32 bits that saturates. -/
def sat32 (n : Nat) : Nat := min n (2 ^ 32 - 1)
/-- ERRTOT_REFRESH (R519). -/
def execErrtotRefresh (s : State) : Out :=
  if !(s.power.pgood && s.wf.running) then .next s
  else
    let mem := fun (k : Nat) => ((List.range 64).map fun i => (s.reg (aMemCnt i k)).toNat).sum
    let gl := ((List.range 36).map fun l => (s.reg (aGlCrcerr l)).toNat).sum
    let l := [mem 0 + mem 1, mem 2 + mem 3, (s.reg aMemChkinc).toNat, (s.reg (aFlUncorr 0)).toNat + (s.reg (aFlUncorr 1)).toNat, gl,
      s.regBits aDefCtl 27 18]
    .next (s.updWf fun w => { w with errtot := l.map sat32 })

/-! ### SMBus (R513–R515) -/

/-- The bytes of a read command's answer; nothing answers while Wallflower does not run. -/
def State.smbRead (s : State) (b : List Byte) : State := s.updWf fun w => { w with out := if w.running then b else [] }
/-- VERSION. -/
def execSmbVersion (s : State) : Out := .next (s.smbRead (leBytes Config.romVersion.toNat 2))
/-- STATE. -/
def execSmbState (s : State) : Out := .next (s.smbRead (leBytes s.wfState 1))
/-- ALERT, read (R517). -/
def execAlertRead (s : State) : Out := .next (s.smbRead (leBytes s.wf.alert.toNat 2))
/-- ALERTMASK, read. -/
def execAlertmaskRead (s : State) : Out := .next (s.smbRead (leBytes s.wf.mask.toNat 2))
/-- GATED. -/
def execSmbGated (s : State) : Out := .next (s.smbRead (leBytes s.gatedWord 2))
/-- PLIMIT, read. -/
def execPlimitRead (s : State) : Out := .next (s.smbRead (leBytes s.wf.plimit 2))
/-- GORDER, read. -/
def execGorderRead (s : State) : Out := .next (s.smbRead (s.wf.gorder.map (BitVec.ofNat 8)))
/-- LASTCMD. -/
def execLastcmd (s : State) : Out := .next (s.smbRead (leBytes s.wf.lastcmd 1))
/-- RESETHELD: the current hold, then the last one (R511). -/
def execResetheld (s : State) : Out := .next (s.smbRead (leBytes s.wf.curHold 4 ++ leBytes s.wf.lastHold 4))
/-- SENSOR_n (R501). -/
def execSensorN (n : Nat) (s : State) : Out := .next (if n < 42 then s.smbRead (leBytes (s.regBits (aWfSens n) 15 0) 2) else s.smbRead [])
/-- ERRTOT (R519). -/
def execErrtot (s : State) : Out := .next (s.smbRead (s.wf.errtot.flatMap fun n => leBytes n 4))
/-- LOG: eight records, newest first (R518). -/
def execWfLog (s : State) : Out := .next (s.smbRead s.wfLogBytes)
/-- ALERT_RESPONSE: while SMB_ALERT_N is asserted Wallflower answers with its own address, which releases it (R516). -/
def execAlertResponse (s : State) : Out :=
  .next (if s.wf.running && s.smbAlert then
    (s.smbRead [BitVec.ofNat 8 (2 * (0x60 + s.wf.straps.toNat))]).updWf fun w => { w with answered := true }
  else s.smbRead [])

/-- The PEC of a write: over the address byte, the code and the data (R513, R514). -/
def State.pecFor (s : State) (code : Nat) (data : List Byte) : Byte :=
  pecOf ([BitVec.ofNat 8 (2 * (0x60 + s.wf.straps.toNat)), BitVec.ofNat 8 code] ++ data)
/-- A write: discarded with a wrong PEC, or without one that is required; else done, LASTCMD showing how it ended (R514, R515). -/
def State.smbWrite (s : State) (code : Nat) (data : List Byte) (pec : Option Byte) (need : Bool) (f : State → State × Nat) : State :=
  if !s.wf.running then s
  else
    let ok := match pec with | none => !need | some p => p == s.pecFor code data
    if ok then let z := f s; z.1.updWf fun w => { w with lastcmd := z.2 }
    else (s.updWf fun w => { w with lastcmd := 1, pecErrs := w.pecErrs + 1 }).setAlert 15
/-- ALERT_CLEAR: a one clears its bit (R516). -/
def execAlertClear (v : BitVec 16) (pec : Option Byte) (s : State) : Out :=
  .next (s.smbWrite 0x02 (leBytes v.toNat 2) pec false fun s => (s.alertTo (s.wf.alert &&& ~~~v) s.wf.mask, 0))
/-- ALERTMASK_WRITE. -/
def execAlertmaskWrite (v : BitVec 16) (pec : Option Byte) (s : State) : Out :=
  .next (s.smbWrite 0x03 (leBytes v.toNat 2) pec false fun s => (s.alertTo s.wf.alert v, 0))
/-- PLIMIT_WRITE: 8,000 to 21,000 (R505). -/
def execPlimitWrite (v : BitVec 16) (pec : Option Byte) (s : State) : Out :=
  .next (s.smbWrite 0x05 (leBytes v.toNat 2) pec true fun s =>
    if 8000 ≤ v.toNat && v.toNat ≤ 21000 then (s.wfSet fun w => { w with plimit := v.toNat }, 0) else (s, 2))
/-- GORDER_WRITE: a permutation of 0 to 15 (R505, R515). -/
def execGorderWrite (bytes : List Byte) (pec : Option Byte) (s : State) : Out :=
  let l := bytes.map (·.toNat)
  .next (s.smbWrite 0x06 (BitVec.ofNat 8 bytes.length :: bytes) pec true fun s =>
    if l.length = 16 && (List.range 16).all fun d => l.contains d then (s.updWf fun w => { w with gorder := l }, 0) else (s, 2))
/-- The existing dies that a word names, in ascending index. -/
def State.namedDies (s : State) (v : BitVec 16) : List Nat := (List.range 16).filter fun d => v.getLsbD d && s.dieExists d
/-- CMD_GATE: refused outside Ready; the dies named are gated in ascending index, one after another (R504, R515). -/
def execCmdGate (v : BitVec 16) (pec : Option Byte) (s : State) : Out :=
  .next (s.smbWrite 0x10 (leBytes v.toNat 2) pec true fun s =>
    if s.power.st ≠ .ready then (s, 3)
    else ((s.namedDies v).foldl (fun (s : State) d =>
      let s := s.updWf fun w => { w with hostReq := NatSet.ins w.hostReq d }
      if s.mayGate d then s.askGate d 0 else s) s, 0))
/-- CMD_UNGATE: the host's requests are withdrawn; a die whose own cause holds stays gated (R506, R515). -/
def execCmdUngate (v : BitVec 16) (pec : Option Byte) (s : State) : Out :=
  .next (s.smbWrite 0x11 (leBytes v.toNat 2) pec true fun s =>
    if s.power.st ≠ .ready then (s, 3)
    else
      let ds := s.namedDies v
      let kept := ds.any fun d => count s.wf.gatedBy d != 0 && !s.released d
      (s.updWf fun w => { w with hostReq := w.hostReq.filter (fun d => !ds.contains d), pend := w.pend.filter fun x => !(x.2 == 0 && ds.contains x.1) },
        if kept then 3 else 0))
/-- CMD_BYPASS_CLOSE (R507). -/
def execCmdBypassClose (pec : Option Byte) (s : State) : Out := .next (s.smbWrite 0x12 [1] pec true fun s => (s.wfClose 0 0xff, 0))
/-- CMD_BYPASS_RELEASE: WFHOLD is cleared where no condition holds it and no trip is latched (R507). -/
def execCmdBypassRelease (pec : Option Byte) (s : State) : Out :=
  .next (s.smbWrite 0x12 [0] pec true fun s =>
    if s.holdCause || s.thermTrip then (s, 3)
    else if !s.wf.wfhold then (s, 0)
    else ((s.updWf fun w => { w with wfhold := false }).showHold.wfNote 4 0 0xff, 0))

end Sys2Proof.Machine
end

