-- ==== Sys2Proof/Machine/Bringup.lean ====
section
/-! DEFINITION. Power, reset and the stages of bring-up (R471–R483, R485–R492, R552). -/

namespace Sys2Proof.Machine

/-! ### The defect list (R485, R486, R488) -/

/-- Word 0 of an entry. -/
def Defect.word0 (d : Defect) : Nat :=
  d.kind % 16 + d.origin % 4 * 2 ^ 4 + d.index % 64 * 2 ^ 8 + d.row % 16 * 2 ^ 14 + d.pos % 32 * 2 ^ 18 + d.slice % 16 * 2 ^ 23 +
    d.way % 16 * 2 ^ 27
/-- Two entries name the same part. -/
def Defect.samePart (a b : Defect) : Bool := { a with origin := 0 } == { b with origin := 0 }
/-- HUB_DEFECT_n, COUNT and FULL show the list. -/
def State.showDefects (s : State) : State :=
  let l := s.power.defects
  let s := { s with regs := s.regs.filter fun e => !(inArr e.1 0x10000 16 512) }
  let s := l.zipIdx.foldl (fun (s : State) e =>
    (s.setReg (aDefect e.2 0) (BitVec.ofNat 64 (Defect.word0 e.1))).setReg (aDefect e.2 1) (BitVec.ofNat 64 e.1.addr)) s
  s.setRegBits aDefCtl 28 18 (l.length + if l.length = 512 then 1024 else 0)
/-- Append an entry that is not in a list yet and finds room. -/
def addEntry (l : List Defect) (d : Defect) : List Defect := if l.any (Defect.samePart d) || decide (512 ≤ l.length) then l else l ++ [d]
/-- Enter a defect in the list and in Wallflower's store, and after stage 7 in the flash copy too. -/
def State.addDefect (s : State) (d : Defect) : State :=
  let s := (s.updPower fun p => { p with defects := addEntry p.defects d }).updWf fun w => { w with defects := addEntry w.defects d }
  if s.stageDone 7 then s.updPower fun p => { p with flashDefects := addEntry p.flashDefects d } else s
/-- Put an entry into a list ordered by entry. -/
def insEntry (l : List Defect) (d : Defect) : List Defect :=
  let below := fun (x : Defect) => decide (Defect.word0 x < Defect.word0 d) || (Defect.word0 x == Defect.word0 d && decide (x.addr < d.addr))
  l.takeWhile below ++ d :: l.dropWhile below
/-- The union of two copies, ordered by entry. -/
def mergeEntries (a b : List Defect) : List Defect :=
  ((a ++ b.filter fun d => !(a.any (Defect.samePart d))).foldl insEntry []).take 512

/-! ### The end of main power, and Reset (R420, R473–R475) -/

/-- All work ends at once: every unit, queue, command, configuration table and copy held in the hub or the dies goes, and nothing is
written any more; what lies in flash, in the host's memory and in Wallflower stays (R473, R474). -/
def State.quench (s : State) : State :=
  let s := if (s.reg aFwCtl).bit 4 then s.updPower fun p => { p with fwSlots := p.fwSlots ||| (if (s.reg aFwCtl).bit 1 then 1 else 2) } else s
  let links := s.links.map (·.1)
  let s := { s with
    cus := [], mus := [], fab := [], flits := [], wires := [], slices := [], rgns := [], banks := [], passes := [], traces := [], groups := [],
    net := NetSt.reset, ouLast := [], links := [], cfg := InForce.reset, pend := Pending.reset, feed := FeedSt.reset, wmDigest := 0, digestBad := [],
    time := { s.time with running := false, epochMiss := 0, epochGood := 0, lostFor := none, toBak := false, srcDepth := none },
    host := { HostSt.reset with mem := s.host.mem, poison := s.host.poison, mute := s.host.mute },
    mem := { s.mem with copies := [], writing := [], patrol := [], upset := [], ecc := [] },
    power := { s.power with retrain := [], upAsk := [], stageOk := none } }
  (links.foldl (fun (s : State) l => s.restLink l) s).closeAll
/-- Main power ends: PGOOD falls and the module is in Standby, or Off without aux (R473); Wallflower forgets what it has gated (R510). -/
def State.mainOff (s : State) : State :=
  if !s.power.pgood then s
  else
    let s := s.quench.updPower fun p => { p with
      pgood := false, fwImage := false, stageOk := none, st := if p.aux then .standby else .off }
    (s.wfSet fun w => { w with gatedBy := [], order := [], hostReq := [], pend := [], hbAbsent := false }).dropDark.showWf
/-- The module enters Reset (R474, R507). -/
def State.enterReset (s : State) : State :=
  let s := s.quench.updPower fun p => { p with st := .reset, stageOk := none }
  (s.wfSet fun w => { w with wfhold := false, hbAbsent := false, pend := [] }).showHold.dropDark.showWf

/-- What of a register a bring-up other than a cold start keeps (R16, R6). -/
def keepMask (keepFw : Bool) (off : Nat) : Nat :=
  pfSticky off ||| (if off = aHubId then maskBits 3 0 ||| (if keepFw then maskBits 63 16 else 0)
    else if off = aFwCtl && keepFw then maskBits 2 1
    else if keepFw && (List.range 6).any (fun k => off == aGlFlevel k) then maskBits 15 0 else 0)
/-- A bring-up of the kind that R471 gives begins: registers take their Reset values but for those it keeps. -/
def State.beginBringup (s : State) : State :=
  let cold := s.power.cold
  let keepFw := s.power.fwImage && (s.reg aFwCtl).bit 0 == (s.reg aFwCtl).bit 1
  let short := !cold && !(s.reg aDefCtl).bit 0 && s.power.everStage3
  let kept : FMap W64 := if cold then [] else s.regs.filterMap fun e =>
    let v := mergeBits (pfReset e.1) e.2 (keepMask keepFw e.1)
    if v = pfReset e.1 then none else some (e.1, v)
  let tag := s.reg aPairTag
  let s := s.holdEnds
  let s := { s with
    regs := kept, fnRegs := [], pbRegs := [], log := if cold then [] else s.log,
    power := { s.power with
      st := .bringup, cold := false, keepFw := keepFw, fwImage := s.power.fwImage && keepFw, everStage3 := s.power.everStage3 && !cold,
      stageOk := none, dies := [], rowMap := [], retrain := [], upAsk := [], variant := if cold then 0xf else s.power.variant,
      defects := if cold then [] else s.power.defects },
    time := TimeSt.reset, pairs := s.pairs.map fun (e : Nat × Pair) => (e.1, { e.2 with stuck := false }),
    pend := { Pending.reset with pavCtl := none } }
  let s := (s.setReg aPairTag tag).setPbReg pbPair tag
  let s := (s.setRegBits aHubStage 10 10 (if short then 1 else 0)).showDefects
  let s := (List.range 36).foldl (fun (s : State) l => s.restLink l) s
  let s := (List.range 6).foldl (fun (s : State) k => s.showByp k) s.closeAll
  let s := (s.wfSet fun w => { w with gatedBy := [], order := [], hostReq := [], pend := [] }).showHold.showWf
  (List.range 42).foldl (fun (s : State) n => s.showSensor n) s

/-! ### Supplies and pins (R472–R476, R542–R544, R552) -/

/-- AUX_GOOD: Wallflower starts from its ROM; the trips clear with aux (R472, R505, R508, R510). -/
def execAuxGood (straps : BitVec 2) (s : State) : Out :=
  if s.power.aux then .next s
  else
    let s := s.updPower fun p => { p with aux := true, st := .standby }
    .next (s.wfSet fun w => { WfSt.reset with
      running := true, taking := true, straps := straps, defects := w.defects, log := w.log, lastHold := w.lastHold })
/-- AUX_LOSS: main power ends; the next start is a cold one (R471, R473, R521). -/
def execAuxLoss (s : State) : Out :=
  if !s.power.aux then .next s
  else
    let s := (s.updPower fun p => { p with aux := false }).mainOff
    let s := s.updPower fun p => { p with st := .off, cold := true }
    .next (s.updWf fun w => { w with running := false, taking := false, trip := false, hwtrip := false, wfhold := false, samples := [], missing := [] })
/-- PWR_EN_ASSERT: the ramp begins, or waits for aux (R472). -/
def execPwrEnAssert (s : State) : Out := .next (s.updPower fun p => { p with pwrEn := true, v48 := true })
/-- PWR_EN_DEASSERT (R473). -/
def execPwrEnDeassert (s : State) : Out := .next (s.updPower fun p => { p with pwrEn := false }).mainOff
/-- PGOOD_ASSERT: every rail is within limits; the hub draws its pair tag at a cold start (R472, R508, R562, log entry 6). -/
def execPgoodAssert (pairTag : W64) (s : State) : Out :=
  if !(s.power.aux && s.power.pwrEn && s.power.v48) || s.thermTrip || s.power.pgood then .next s
  else
    let s := s.updPower fun p => { p with pgood := true, st := .reset }
    let s := if s.power.cold then s.setReg aPairTag pairTag else s
    let s := s.closeAll.showWf
    .next (if s.power.resetN then s.beginBringup else s)
/-- POWER_FAIL: 48 V below 36 V, or a rail out of its limits (R420, R473). -/
def execPowerFail (s : State) : Out := .next (s.updPower fun p => { p with v48 := false }).mainOff
/-- RESET_N_ASSERT: held low long enough to act (R474). -/
def execResetNAssert (s : State) : Out :=
  let t := s.updPower fun p => { p with resetN := false }
  .next (if s.awake then t.enterReset else t)
/-- RESET_N_DEASSERT: with main power present a bring-up begins (R471, R472). -/
def execResetNDeassert (s : State) : Out :=
  let t := s.updPower fun p => { p with resetN := true }
  .next (if s.power.st == .reset then t.beginBringup else t)
/-- PERST_N_ASSERT (R361). -/
def execPerstNAssert (s : State) : Out :=
  let t := s.updPower fun p => { p with perstN := false }
  .next (if s.awake then t.perst else t)
/-- PERST_N_DEASSERT: port A trains (R472). -/
def execPerstNDeassert (s : State) : Out := .next (s.updPower fun p => { p with perstN := true })
/-- PLUG_WITHDRAW: the shutters join the fibres past the module, and no light of its neighbours arrives (R424, R552). -/
def execPlugWithdraw (s : State) : Out := .next (s.updPower fun p => { p with seated := false })
/-- PLUG_SEAT: the harness is connected again; the switches stand as they were (R424). -/
def execPlugSeat (s : State) : Out := .next (s.updPower fun p => { p with seated := true })

/-! ### Firmware boot and the stages' registers (R478, R479, R481, R494) -/

/-- FIRMWARE_BOOT: a kept image runs on; else the slot of SEL, or the other one, is verified and started (R471, R481). -/
def execFirmwareBoot (ok0 ok1 : Bool) (flevel : BitVec 16) (build : BitVec 32) (s : State) : Out :=
  if s.power.st ≠ .bringup || s.regBits aHubStage 7 0 ≠ 0xff || s.power.keepFw then .next s
  else
    let sel := (s.reg aFwCtl).bit 0
    let ok := fun (slot : Bool) => (if slot then ok1 else ok0) && !(s.power.fwSlots.getLsbD (if slot then 1 else 0))
    if ok sel || ok (!sel) then
      let slot := if ok sel then sel else !sel
      let s := s.setRegBits aFwCtl 2 1 ((if slot then 1 else 0) + if slot = sel then 0 else 2)
      let s := (s.setRegBits aHubId 31 16 flevel.toNat).setRegBits aHubId 63 32 build.toNat
      let s := (List.range 6).foldl (fun (s : State) k => s.setReg (aGlFlevel k) (BitVec.ofNat 64 flevel.toNat)) s
      .next ((s.setRegBits aHubStage 11 11 0).updPower fun p => { p with fwImage := true })
    else .next (s.setRegBit aHubStage 11)
/-- A write of HUB_STAGE_GO (R479). -/
def State.stageGo (s : State) (n : Nat) : State :=
  let w := s.reg aHubStage
  if n ≤ 10 && n == (w.bits 3 0 + 1) % 16 && w.bits 7 4 == 15 && !w.bit 11 then
    (((s.setRegBits aHubStage 7 4 n).setRegBits aHubStage 8 8 0).setRegBits aHubStage 31 16 0).updPower fun p => { p with stageOk := none }
  else s.setRegBit aHubStage 9
/-- HUB_STAGE_GO (R479). -/
def execHubStageGo (v : W64) (s : State) : Out := s.pfWrite aStageGo (s.stageGo (v.bits 3 0))
/-- Stage `n` runs and has not acted yet. -/
def State.stageRuns (s : State) (n : Nat) : Bool := s.power.st == .bringup && s.regBits aHubStage 7 4 == n && s.power.stageOk.isNone
/-- The stage ends with a failure code and its object; code 0: it completes. -/
def State.stageEnd (s : State) (code whr : Nat) : State := s.updPower fun p => { p with stageOk := some (code, whr) }
/-- The stage's action, where it runs. -/
def State.inStage (s : State) (n : Nat) (f : State → State) : Out := .next (if s.stageRuns n then f s else s)
/-- STAGE_COMPLETE: HUB_STAGE and HUB_STIME_n report how the stage in progress ended (R478–R480); stage 8 waits for its switches. -/
def execStageComplete (us : BitVec 32) (s : State) : Out :=
  let n := s.regBits aHubStage 7 4
  match s.power.stageOk with
  | none => .next s
  | some (code, whr) =>
    if s.power.st ≠ .bringup || n = 15 || (n = 8 && s.pairs.any fun e => e.2.target.isSome) then .next s
    else
      let s := ((s.updPower fun p => { p with stageOk := none }).setReg (aStime n) (BitVec.ofNat 64 us.toNat)).setRegBits aHubStage 7 4 15
      if code ≠ 0 then .next (((s.setRegBit aHubStage 8).setRegBits aHubStage 23 16 code).setRegBits aHubStage 31 24 whr)
      else
        let s := s.setRegBits aHubStage 3 0 n
        let s := if n = 1 then s.setRegBits aHubId 3 0 s.power.variant.toNat else s
        .next (if n = 3 then s.updPower fun p => { p with everStage3 := true }
          else if n = 10 then (s.updPower fun p => { p with st := .ready }).showWf else s)

/-! ### The stages (R480) -/

/-- BRINGUP_STAGE_0 (R480, R484, R485). -/
def execBringupStage0 (auxOk wfOk : Bool) (s : State) : Out :=
  s.inStage 0 fun s =>
    if !auxOk then s.stageEnd 1 0
    else if !wfOk then s.stageEnd 2 0
    else ((s.updPower fun p => { p with defects := s.wf.defects }).showDefects).stageEnd 0 0
/-- BRINGUP_STAGE_1: the variant, which HUB_ID shows once the stage completes, the factory entries, and what the variant removes (R6,
R492). -/
def execBringupStage1 (fuseOk : Bool) (variant : BitVec 4) (factory : List Defect) (s : State) : Out :=
  s.inStage 1 fun s =>
    if !fuseOk || decide (3 < variant.toNat) then s.stageEnd 0x10 0
    else
      let s := s.updPower fun p => { p with variant := variant, factory := factory }
      let s := factory.foldl (fun (s : State) d => s.addDefect { d with origin := 0 }) s
      let s := if variant = 3 then [12, 13, 14, 15].foldl (fun (s : State) d => s.setDie d .fusedOff) s else s
      let s := (List.range 36).foldl (fun (s : State) l => if s.linkFused l then s.setLink l .off else s) s
      let s := (List.range 6).foldl (fun (s : State) k => (s.setRegBits (aGlByp k) 2 0 (if variant = 2 then 3 else 7)).showByp k) s
      (s.dropDark.showDefects).stageEnd 0 0
/-- BRINGUP_STAGE_2: device time starts at 0 under PAV_CTL (R254, R480, R483). -/
def execBringupStage2 (unlocked : Option Nat) (s : State) : Out :=
  s.inStage 2 fun s =>
    match unlocked with
    | some d => s.stageEnd 0x20 d
    | none =>
      let s := { s with time := { TimeSt.reset with running := true }, pend := { s.pend with pavCtl := none, tload := false } }
      ((s.setPav (if s.pavMode = 2 then 4 else 0)).showDepth).stageEnd 0 0
/-- CLR: the entries found by the module go from every copy; that of a removed die only where DIEOFF is clear and the die passes (R488,
R491). -/
def clearEntries (dieoff : Nat) (bad : Nat → Bool) (l : List Defect) : List Defect :=
  l.filter fun d => if d.kind = 6 then dieoff.testBit d.index || bad d.index else d.origin == 0
/-- BRINGUP_STAGE_3: the self-test; `found` are its failing positions and ways, `noSpare` a die with a failing part that has no entry kind
(R484, R487, R488). -/
def execBringupStage3 (found : List Defect) (noSpare : Option Nat) (wfOk : Bool) (s : State) : Out :=
  s.inStage 3 fun s =>
    let clr := (s.reg aDefCtl).bit 0
    let origin := if clr || !(s.reg aHubStage).bit 10 then 1 else 2
    let bad := fun (d : Nat) => noSpare == some d || found.any fun x => x.index == d
    let off := s.regBits aDefCtl 17 2
    let s := if clr then
        let s := s.updPower fun p => { p with defects := clearEntries off bad p.defects, flashDefects := clearEntries off bad p.flashDefects }
        (s.updWf fun w => { w with defects := clearEntries off bad w.defects }).setRegBits aDefCtl 0 0 0
      else s
    let new := found.filter fun d => !(s.power.defects.any (Defect.samePart d))
    if new.isEmpty || wfOk then
      let full := decide (512 < s.power.defects.length + new.length)
      let s := (new.foldl (fun (s : State) d => s.addDefect { d with origin := origin }) s).showDefects
      if full then s.stageEnd 0x30 0
      else match noSpare with
        | some d => s.stageEnd 0x31 d
        | none => s.stageEnd 0 0
    else s.showDefects.stageEnd 0x32 0

/-- The physical positions of one kind, 0 CU or 1 MU, of a local row, without the ones that fail (R489). -/
def rowPlaces (row kind : Nat) (bad : List Nat) : List Nat :=
  ((List.range 18).filter fun p => (p + row + kind) % 2 == 0 && !(bad.contains p)).take 8
/-- The failing positions of a row, from the list. -/
def State.rowBad (s : State) (d row kind : Nat) : List Nat :=
  (s.power.defects.filter fun x => x.kind == kind + 1 && x.index == d && x.row == row).map (·.pos)
/-- The first die that holds a row with two failing positions of one kind. -/
def State.unmapped (s : State) : Option Nat :=
  (List.range 16).find? fun d => s.dieExists d &&
    (List.range 32).any fun i => decide (2 ≤ (s.rowBad d (i / 2) (i % 2)).length)
/-- The failing ways of slice `i`. -/
def State.waysBad (s : State) (i : Nat) : List Nat :=
  (s.power.defects.filter fun x => x.kind == 3 && x.index == i / 16 && x.slice == i % 16).map (·.way)
/-- The first slice with more than two. -/
def State.overWays (s : State) : Option Nat := (List.range 256).find? fun i => s.dieExists (i / 16) && decide (2 < (s.waysBad i).length)
/-- Remove a die: it holds an entry of KIND 6, whose ORIGIN the spec does not give (R491, log entry 7). -/
def State.removeDie (s : State) (d : Nat) : State :=
  let s := (s.setDie d .removed).setRegBit aHubId 4
  if s.power.defects.any fun x => x.kind == 6 && x.index == d then s
  else let z := s.fresh; z.2.addDefect ⟨6, z.1.bits 1 0, d, 0, 0, 0, 0, 0⟩
/-- BRINGUP_STAGE_4: die removal, row sparing and way disables (R489–R491). Rows without a defect keep their first eight positions of each
kind; the others are listed in `rowMap`, kind + 2 · row + 32 · die. -/
def execBringupStage4 (s : State) : Out :=
  s.inStage 4 fun s =>
    let out := (List.range 16).filter fun d => s.die d != .fusedOff &&
      ((s.regBits aDefCtl 17 2).testBit d || s.power.defects.any fun x => x.kind == 6 && x.index == d)
    let s := (out.foldl (fun (s : State) d => s.removeDie d) s).showDefects
    match s.unmapped with
    | some d => s.stageEnd 0x40 d
    | none =>
      match s.overWays with
      | some i => s.stageEnd 0x41 i
      | none =>
        let rows := (List.range 512).foldl (fun (m : FMap (List Nat)) i =>
          let bad := s.rowBad (i / 32) (i / 2 % 16) (i % 2)
          if bad.isEmpty || !s.dieExists (i / 32) then m else FMap.set [] m i (rowPlaces (i / 2 % 16) (i % 2) bad)) []
        let s := s.updPower fun p => { p with rowMap := rows }
        let s := (List.range 256).foldl (fun (s : State) i =>
          if (s.waysBad i).isEmpty then s
          else s.updSlice i fun c => { c with disabled := (List.range 1024).flatMap fun t => ((s.waysBad i).foldl NatSet.ins []).map (wayKey t) }) s
        s.stageEnd 0 0

/-- BRINGUP_STAGE_5: half-sites without stored settings are base-trained, and every memory is filled with zeros; unrepaired granules hold
poison (R454, R480, R490). -/
def execBringupStage5 (badBase : Option Nat) (s : State) : Out :=
  s.inStage 5 fun s =>
    match badBase.filter fun q => s.stackPresent q && s.dieExists q && !(NatSet.mem s.power.ifSettings q) with
    | some q => s.stageEnd 0x50 q
    | none =>
      let granules := (s.power.defects.filter fun d => d.kind == 5).map (·.addr)
      let marks := granules.foldl (fun (m : NatSet) a => (List.range 512).foldl (fun (m : NatSet) w => NatSet.ins m (a / 8 + w)) m) []
      let sites := (List.range 16).filter fun q => s.stackPresent q && s.dieExists q
      let s := s.updMem fun m => { m with
        dram := [], dramPoison := marks, spad := [], spadPoison := [], upset := [], filled := true }
      (s.updPower fun p => { p with ifSettings := sites.foldl NatSet.ins p.ifSettings }).stageEnd 0 0
/-- BRINGUP_STAGE_6: every channel is trained and rows are repaired; `rows` are the new entries (R480, R490). -/
def execBringupStage6 (badTrain : Option Nat) (rows : List Defect) (s : State) : Out :=
  s.inStage 6 fun s =>
    match badTrain.filter fun q => s.stackPresent q && s.dieExists q with
    | some q => s.stageEnd 0x60 q
    | none =>
      let new := rows.filter fun d => d.kind == 4 || d.kind == 5
      ((new.foldl (fun (s : State) d => s.addDefect { d with origin := 3 }) s).showDefects).stageEnd 0 0
/-- BRINGUP_STAGE_7: the flash dies are mounted, their counters restored, the copies of the defect list merged, and the pools are empty
(R308, R480, R485). -/
def execBringupStage7 (badMount : Option Nat) (wfOk : Bool) (s : State) : Out :=
  s.inStage 7 fun s =>
    let up := [0, 1].filter fun n => badMount != some n
    let s := (up.foldl (fun (s : State) n => s.setRegBit (aFlStatus n) 0) s).showFlashes
    match badMount with
    | some n => s.stageEnd 0x70 n
    | none =>
      if !wfOk then s.stageEnd 0x71 0
      else
        let l := mergeEntries s.power.defects s.power.flashDefects
        let s := (s.updPower fun p => { p with defects := l, flashDefects := l }).updWf fun w => { w with defects := l }
        (s.showDefects.updMem fun m => { m with copies := [] }).stageEnd 0 0
/-- BRINGUP_STAGE_8: the bypass is opened; `badPairs` marks the pairs whose loopback fails to reach ALIGN (R423, R490). -/
def execBringupStage8 (badPairs : BitVec 18) (s : State) : Out :=
  s.inStage 8 fun s =>
    let stuck := (List.range 18).filter fun p => (pairLinks p).any s.linkBad
    let s := stuck.foldl (fun (s : State) p => s.updPair p fun x => { x with stuck := true }) s
    let s := (List.range 36).foldl (fun (s : State) l => if s.linkBad l then s.setLink l .off else s) s
    let skip := fun (p : Nat) => stuck.contains p || (pairLinks p).all (fun l => s.linkFused l) || (pairLinks p).all (fun l => (s.reg (aGlLctl l)).bit 0) ||
      s.wf.wfhold
    let bad := (List.range 18).filter fun p => !skip p && badPairs.getLsbD p
    let good := (List.range 18).filter fun p => !skip p && !(badPairs.getLsbD p)
    let s := bad.foldl (fun (s : State) p => (pairLinks p).foldl (fun (s : State) l => (s.downWhy l 3).addDefect ⟨7, 3, l, 0, 0, 0, 0, 0⟩) s) s
    let s := (List.range 6).foldl (fun (s : State) k => s.setRegBit (aGlByp k) 10) s.showDefects
    let s := good.foldl (fun (s : State) p =>
      (s.setRegBits (aGlByp (p / 3)) (p % 3) (p % 3) 0).drivePair p false) s
    s.stageEnd 0 0
/-- BRINGUP_STAGE_9: the watermark over the module's configuration (R495, R498). -/
def execBringupStage9 (s : State) : Out := s.inStage 9 fun s => s.computeWm.stageEnd 0 0
/-- BRINGUP_STAGE_10: nothing is left to do before Ready (R480, R483). -/
def execBringupStage10 (s : State) : Out := s.inStage 10 fun s => s.stageEnd 0 0

end Sys2Proof.Machine
end

