-- ==== Sys2Proof/Machine/Matrix.lean ====
section
/-! DEFINITION. The matrix class (R116–R120) and the end of a shift (R83). -/

namespace Sys2Proof.Machine

/-- Whether an mma must wait: registers still being filled or pushed, an earlier accumulator or operand, a full array
(R88, R89, R115). -/
def mmaWait (f : MmaF) (c : Cu) (k : Nat) (x : Ctx) : Wait :=
  let ins := (16 + f.b.toNat) :: (if f.fromQ then [] else [16 + f.a.toNat])
  let acc := 16 + f.c.toNat
  let rld := x.remote.any fun r => r.load && (r.reg == acc || ins.contains r.reg)
  let push := x.pushes.any fun r => r.reg == acc
  let dep := (c.runsOf k).any fun r => ins.contains r.acc || r.inputs.contains acc
  if rld || push then .quiet
  else if dep then .stall 3
  else if (c.arr.isSome && c.que.isSome) || x.rem.isSome || x.que.isSome then .stall 2
  else .go

/-- MMA: enters the array, awaits its partner when flagged, joins its context's flagged one, and holds issue when A comes from a
port (R85, R88, R116–R120). A flagged mma and its partner alike wait for a free place (log entry 75). -/
def execMma (u : Nat) (f : MmaF) (s : State) : Out :=
  issue u (.mma f) (mmaWait f) (fun k c x s =>
    let run : MmaRun := ⟨k, f, none, 0, [], none⟩
    match x.flag with
    | some r => s.setCu u ((c.enterRun { r with partner := some f }).setCtx k { x with flag := none }.advance)
    | none =>
      if f.pair = 1 then s.setCu u (c.setCtx k { x with flag := some run }.advance)
      else if f.fromQ then (s.setCu u ((c.enterRun run).setCtx k { x with hold := some ⟨[]⟩ })).pumpMma u
      else s.setCu u ((c.enterRun run).setCtx k x.advance)) s

/-- SHIFT_END: the shift's groups are in C; the next shift, or the queued mma, follows. A shift that still lacks an A token
holds (R83, R84, R90). What is left of a context that has yielded is saved with it when its shift ends (R104, R139). -/
def execShiftEnd (u : Nat) (s : State) : Out :=
  let c := s.cu u
  match c.arr with
  | none => .next s
  | some r =>
    if r.f.fromQ && r.shift == 0 && decide (r.rows.length < r.f.m) then .next (s.setCu u { c with shiftStall := c.shiftStall + 1 })
    else
      let c := c.setCtx r.ctx ((c.ctxAt r.ctx).runShift r)
      let c := { c with arr := if r.last then none else some { r with shift := r.shift + 1 } }
      let c := if (c.ctxAt r.ctx).st = .ready then c.saveRuns r.ctx else c
      let c := if c.arr.isNone then c.promote else c
      .next ((s.setCu u c).pumpMma u)

end Sys2Proof.Machine
end

