-- ==== Sys2Proof/Machine/Moves.lean ====
section
/-! DEFINITION. The move and queue class (R127–R130). -/

namespace Sys2Proof.Machine

/-- The codes of the registers a pop fills: consecutive ones, a port each (R127). -/
def popTargets (f : MoveF) : List Nat := (List.range (maskPorts f.pmask).length).map (f.reg.toNat + ·)

/-- POP: a tile pop holds issue until every named port has given m tokens; a V pop takes one token and does not inspect END
(R127, R128). -/
def execPop (u : Nat) (f : MoveF) (s : State) : Out :=
  let port := (maskPorts f.pmask).headD 0
  issue u (.move .pop f)
    (fun c k _ =>
      match c.hazard k ⟨[], if isVreg f.reg then [f.reg.toNat] else popTargets f⟩ with
      | .go => if isVreg f.reg && (c.qTokens port).isEmpty then .stall 0 else .go
      | w => w)
    (fun k c x s =>
      if isVreg f.reg then
        match c.qTokens port with
        | [] => s
        | t :: ts => s.setCu u ((c.setQ port ts).setCtx k (x.setVReg f.reg.toNat t.row).advance)
      else (s.setCu u (c.setCtx k { x with hold := some ⟨[]⟩ })).pumpPop u k f false) s

/-- PUSH: reads its rows as an rld brings them (R115); issues once its port has a free place; its rows leave as places free, END on the last (R127, R128). -/
def execPush (u : Nat) (f : MoveF) (s : State) : Out :=
  let port := (maskPorts f.pmask).headD 0
  issue u (.move .push f)
    (fun c k _ =>
      match c.hazardRows k ⟨[f.reg.toNat], []⟩ fun _ => false with
      | .go => if decide (2 ≤ (c.oTokens port).length) || (c.waitingPush port).isSome then .stall 1 else .go
      | w => w)
    (fun k c x s =>
      let x := { x with pushes := x.pushes ++ [(⟨port, f.reg.toNat, 0, f.mm1.toNat + 1⟩ : PushRun)] }
      (s.setCu u (c.setCtx k x.advance)).pumpPort u port pumpFuel) s

/-- DROP: pops and discards m tokens, with the END check of a tile pop (R127, R128). It moves no register; REG says by its code
alone whether MM1 may be other than 0 (log entry 77). -/
def execDrop (u : Nat) (f : MoveF) (s : State) : Out :=
  issue u (.move .drop f) (fun _ _ _ => .go)
    (fun k c x s => (s.setCu u (c.setCtx k { x with hold := some ⟨[]⟩ })).pumpPop u k f true) s

/-- The row index of rowget and rowput (R127). -/
def Ctx.rowIndex (x : Ctx) (f : MoveF) : Nat := if f.rsel = 1 then (x.sReg f.sa.toNat).val.toNat % 32 else f.imm.toNat
/-- Whether that index is poisoned (R134). -/
def Ctx.rowIndexPoison (x : Ctx) (f : MoveF) : Bool := f.rsel == 1 && (x.sReg f.sa.toNat).poi

/-- ROWGET: V ← row of T, once an rld that fills that row has brought it; a poisoned row index is a POISON fault (R115, R127,
R134). -/
def execRowget (u : Nat) (f : MoveF) (s : State) : Out :=
  issue u (.move .rowget f) (fun c k x => c.hazardRows k ⟨[f.reg.toNat], [f.pmask.toNat]⟩ (· == x.rowIndex f))
    (fun k c x s =>
      if x.rowIndexPoison f then s.cuFault u k 1 (3 + 8 * f.sa.toNat)
      else s.setCu u (c.setCtx k (x.setVReg f.pmask.toNat (x.regRow f.reg.toNat (x.rowIndex f))).advance)) s

/-- ROWPUT: row of T ← V in the unmasked lanes; a poisoned predicate poisons what is written (R127, R134). -/
def execRowput (u : Nat) (f : MoveF) (s : State) : Out :=
  issue u (.move .rowput f) (fun c k _ => c.hazard k ⟨[f.pmask.toNat], [f.reg.toNat]⟩)
    (fun k c x s =>
      if x.rowIndexPoison f then s.cuFault u k 1 (3 + 8 * f.sa.toNat)
      else
        let i := x.rowIndex f
        let v := (x.vReg f.pmask.toNat).lanes
        let new := ((x.regRow f.reg.toNat i).lanes.zipIdx).map fun p =>
          if x.mask f.pred f.pneg p.2 then
            let w := v.getD p.2 (0, false)
            (w.1, w.2 || x.maskPoison f.pred)
          else p.1
        s.setCu u (c.setCtx k (x.setRegRow f.reg.toNat i (Row.ofLanes new)).advance)) s

/-- LGET: S[SA] ← lane IMM of V, with the mark of its word (R127, R134). -/
def execLget (u : Nat) (f : MoveF) (s : State) : Out :=
  issueCtx u (.move .lget f) (fun _ => ⟨[f.reg.toNat], []⟩) (fun x =>
    let v := x.vReg f.reg.toNat
    x.setSReg f.sa.toNat ⟨v.lane f.imm.toNat, v.mark f.imm.toNat⟩) s

/-- LPUT: lane IMM of V ← S[SA] (R127). -/
def execLput (u : Nat) (f : MoveF) (s : State) : Out :=
  issueCtx u (.move .lput f) (fun _ => ⟨[], [f.reg.toNat]⟩) (fun x =>
    let v := x.sReg f.sa.toNat
    x.setVReg f.reg.toNat ((x.vReg f.reg.toNat).setLane f.imm.toNat (v.val, v.poi))) s

/-- The check of rld and rst at issue: the cause and DETAIL of the fault it finds (R130, R134, R145). -/
def State.remoteCheck (s : State) (u : Nat) (x : Ctx) (f : MoveF) : Option (Nat × Nat) :=
  let a := x.sReg f.sa.toNat
  let o := x.sReg f.sb.toNat
  let id := a.val.toNat % 4096
  let off := o.val.toNat
  let bounds := fun (reason : Nat) => some (2, id + off % 2 ^ 19 * 2 ^ 12 + reason * 2 ^ 31)
  if a.poi then some (1, 1 + 8 * f.sa.toNat)
  else if o.poi then some (1, 2 + 8 * f.sb.toNat)
  else if 4096 ≤ a.val.toNat then bounds 0
  else if !(isMu id) || (s.regionOf id).isNone || s.regionOf id != s.regionOf u then bounds 1
  else if off % 128 ≠ 0 then bounds 2
  else if !x.rv || decide (off < 128 * x.rowLo) || decide (128 * (x.rowHi + 1) < off + 128 * (f.mm1.toNat + 1)) then bounds 3
  else none

/-- The region of unit `u` is held by a fence: it injects no new request (R213). -/
def State.fencedRegion (s : State) (u : Nat) : Bool :=
  match s.regionOf u with
  | some r => decide (0 < (s.rgn r).fence)
  | none => false

/-- Send the requests of an rld or rst: one flit a row, a tag each; the tag's low two bits name the context (R130). -/
def State.sendRemote (s : State) (u k : Nat) (x : Ctx) (f : MoveF) (load : Bool) : State :=
  let mu := (x.sReg f.sa.toNat).val.toNat % 4096
  let off := (x.sReg f.sb.toNat).val.toNat
  let m := f.mm1.toNat + 1
  let rtag := (s.regionOf u).getD 256
  let flits := (List.range m).map fun i =>
    (⟨if load then .readReq else .writeReq, rtag, .unit u, .unit mu, off + 128 * i, if load then 0 else fullMask,
      if load then Row.zero else x.regRow f.reg.toNat i, 4 * (x.rtag + i) + k, count s.net.gens (4 * u + k), false, 1⟩ : Flit)
  let rem := (List.range m).map fun i => (⟨load, f.reg.toNat, i, 4 * (x.rtag + i) + k⟩ : Remote)
  let s := s.updCtx u k fun _ => { x with remote := x.remote ++ rem, rtag := x.rtag + m }.advance
  { s with flits := s.flits ++ flits }.addUnitCtr u 12 0 m

/-- RLD: requests rows of a scratchpad into REG; a failed check is a fault and sends nothing (R127, R130). -/
def execRld (u : Nat) (f : MoveF) (s : State) : Out :=
  issue u (.move .rld f)
    (fun c k _ => if s.fencedRegion u then .quiet else c.hazard k ⟨[], [f.reg.toNat]⟩)
    (fun k _ x s =>
      match s.remoteCheck u x f with
      | some (cause, detail) => s.cuFault u k cause detail
      | none => s.sendRemote u k x f true) s

/-- RST: sends rows of REG to a scratchpad; a failed check is a fault and sends nothing (R127, R130). -/
def execRst (u : Nat) (f : MoveF) (s : State) : Out :=
  issue u (.move .rst f)
    (fun c k _ => if s.fencedRegion u then .quiet else c.hazard k ⟨[f.reg.toNat], []⟩)
    (fun k _ x s =>
      match s.remoteCheck u x f with
      | some (cause, detail) => s.cuFault u k cause detail
      | none => s.sendRemote u k x f false) s

end Sys2Proof.Machine
end

