-- ==== Sys2Proof/Machine/Predicate.lean ====
section
/-! DEFINITION. The predicate class (R124, R134). -/

namespace Sys2Proof.Machine

/-- The registers a compare uses. -/
def Ctx.cmpUse (x : Ctx) (f : PredF) : RegUse :=
  let code := fun (c : Nat) => if c < 24 then [c] else if c = 0x20 then [fwdCode x.imem false x.pc] else []
  ⟨code f.sa.toNat ++ code f.sb.toNat, []⟩

/-- CMP_EQ: each unmasked bit of PD becomes a = b (R124). -/
def execCmpEq (u : Nat) (f : PredF) (s : State) : Out :=
  issueCtx u (.pred .eq f) (fun x => x.cmpUse f) (fun x => x.cmp .eq f) s

/-- CMP_NE: each unmasked bit of PD becomes a ≠ b (R124). -/
def execCmpNe (u : Nat) (f : PredF) (s : State) : Out :=
  issueCtx u (.pred .ne f) (fun x => x.cmpUse f) (fun x => x.cmp .ne f) s

/-- CMP_LT: each unmasked bit of PD becomes a < b (R124). -/
def execCmpLt (u : Nat) (f : PredF) (s : State) : Out :=
  issueCtx u (.pred .lt f) (fun x => x.cmpUse f) (fun x => x.cmp .lt f) s

/-- CMP_LE: each unmasked bit of PD becomes a ≤ b (R124). -/
def execCmpLe (u : Nat) (f : PredF) (s : State) : Out :=
  issueCtx u (.pred .le f) (fun x => x.cmpUse f) (fun x => x.cmp .le f) s

/-- CMP_GT: each unmasked bit of PD becomes a > b (R124). -/
def execCmpGt (u : Nat) (f : PredF) (s : State) : Out :=
  issueCtx u (.pred .gt f) (fun x => x.cmpUse f) (fun x => x.cmp .gt f) s

/-- CMP_GE: each unmasked bit of PD becomes a ≥ b (R124). -/
def execCmpGe (u : Nat) (f : PredF) (s : State) : Out :=
  issueCtx u (.pred .ge f) (fun x => x.cmpUse f) (fun x => x.cmp .ge f) s

/-- PAND: PD ← PA AND PB (R124). -/
def execPand (u : Nat) (f : PredF) (s : State) : Out :=
  issueCtx u (.pred .pand f) (fun _ => ⟨[], []⟩) (fun x => x.predOp .pand f) s

/-- POR: PD ← PA OR PB (R124). -/
def execPor (u : Nat) (f : PredF) (s : State) : Out :=
  issueCtx u (.pred .por f) (fun _ => ⟨[], []⟩) (fun x => x.predOp .por f) s

/-- PXOR: PD ← PA XOR PB (R124). -/
def execPxor (u : Nat) (f : PredF) (s : State) : Out :=
  issueCtx u (.pred .pxor f) (fun _ => ⟨[], []⟩) (fun x => x.predOp .pxor f) s

/-- PANDN: PD ← PA AND NOT PB (R124). -/
def execPandn (u : Nat) (f : PredF) (s : State) : Out :=
  issueCtx u (.pred .pandn f) (fun _ => ⟨[], []⟩) (fun x => x.predOp .pandn f) s

/-- PSET: PD ← S[SS] (R124). -/
def execPset (u : Nat) (f : PredF) (s : State) : Out :=
  issueCtx u (.pred .pset f) (fun _ => ⟨[], []⟩) (fun x => x.predOp .pset f) s

/-- PGET: S[SS] ← PA (R124). -/
def execPget (u : Nat) (f : PredF) (s : State) : Out :=
  issueCtx u (.pred .pget f) (fun _ => ⟨[], []⟩) (fun x => x.predOp .pget f) s

end Sys2Proof.Machine
end

