-- ==== Sys2Proof/Machine/Reduce.lean ====
section
/-! DEFINITION. The reduce class (R126). -/

namespace Sys2Proof.Machine

/-- The registers a reduction uses. -/
def Ctx.redUse (x : Ctx) (f : RedF) : RegUse :=
  ⟨[if f.src.toNat = 0x20 then fwdCode x.imem true x.pc else f.src.toNat], [f.dst.toNat]⟩

/-- RSUM: DST takes the sum of each row or slot of the tile (R126). -/
def execRsum (u : Nat) (f : RedF) (s : State) : Out :=
  issueCtx u (.red .sum f) (fun x => x.redUse f) (fun x => x.red .sum f) s

/-- RMAX: DST takes the maximum of each row or slot of the tile (R126). -/
def execRmax (u : Nat) (f : RedF) (s : State) : Out :=
  issueCtx u (.red .max f) (fun x => x.redUse f) (fun x => x.red .max f) s

/-- RMIN: DST takes the minimum of each row or slot of the tile (R126). -/
def execRmin (u : Nat) (f : RedF) (s : State) : Out :=
  issueCtx u (.red .min f) (fun x => x.redUse f) (fun x => x.red .min f) s

end Sys2Proof.Machine
end

