-- ==== Sys2Proof/Machine/RegWrite.lean ====
section
/-! DEFINITION. Writes of the host into register space: their form, the registers whose write has a rule of its own, and the plain ones
(R7, R15, R17, R255, R285, R338, R342, R343, R557–R568). -/

namespace Sys2Proof.Machine

/-- A register of a resource that is fused off or removed: it ignores writes (R7, R285, R335, R491). -/
def State.pfAbsent (s : State) (off : Nat) : Bool :=
  let stack := fun (q : Nat) => !(s.stackPresent q && s.dieExists q)
  if inArr off 0x800100 8 16 then stack ((off - 0x800100) / 8)
  else if inArr off 0xC00100 8 16 then stack ((off - 0xC00100) / 8)
  else if inArr off 0xA00000 0x100 16 then stack ((off - 0xA00000) / 0x100)
  else if inArr off 0x1000000 0x100000 6 && inArr (off % 0x100000) 0x1000 0x100 6 then
    s.linkFused (6 * ((off - 0x1000000) / 0x100000) + (off % 0x100000 - 0x1000) / 0x100)
  else false
/-- A write of a register without a rule of its own: RW and RWS fields take the value, a one clears a W1C bit (R15, R17). -/
def State.plainWrite (s : State) (off : Nat) (v : W64) : State :=
  s.setReg off (mergeBits (s.reg off) v (pfRw off) &&& ~~~(v &&& BitVec.ofNat 64 (pfW1c off)))
/-- PAV_EPOCH_PER takes 1 s, or a multiple of the figure of at least 1 µs (R255). -/
def State.epochPer (s : State) (v : W64) : State :=
  let p := v.bits 47 0
  if p = 16000000000 || (decide (16000 ≤ p) && p % max s.figDt 1 == 0) then s.plainWrite aPavPer v else s
/-- HUB_FWCTL: SEL and FWLEN are set, and a one in PROG starts programming (R494). -/
def State.fwCtlWrite (s : State) (v : W64) : State :=
  let s := s.plainWrite aFwCtl v
  if v.bit 3 then s.fwProg else s
/-- PLC_CTL: EN, then CLR (R286). -/
def State.plcCtlWrite (s : State) (v : W64) : State :=
  let s := s.plcEn (v.bit 0)
  if v.bit 1 then s.plcClr else s
/-- MEM_TRAIN_q: CHAN, the W1C bits, and GO (R493). -/
def State.memTrainWrite (s : State) (q : Nat) (v : W64) : State :=
  let s := s.plainWrite (aMemTrain q) v
  if v.bit 4 then s.trainGo q (v.bits 3 0) else s
/-- GL_LCTL of a link: HOLD, then RETRAIN (R422). -/
def State.lctlWrite (s : State) (l : Nat) (v : W64) : State :=
  let s := s.lctlHold l (v.bit 0)
  if v.bit 1 then s.lctlRetrain l else s

/-- A write to the hub block (R561). -/
def State.hubPut (s : State) (off : Nat) (v : W64) : State :=
  let commit := fun (f : State → State) => if v.bit 0 then f s else s
  if off = aStageGo then s.stageGo (v.bits 3 0)
  else if off = aFwCtl then s.fwCtlWrite v
  else if off = aWmTag then s.wmtagWrite v
  else if off = aPartCtl then commit State.partCommit
  else if off = aMapCtl then commit State.mapCommit
  else if off = aFnringCtl then commit State.ringCommit
  else if inArr off 0xC0000 16 4096 && within off 0xC0000 16 = 0 then s.feedSlotWrite ((off - 0xC0000) / 16) v
  else if inArr off 0xD0000 8 4096 then s.guestWrite ((off - 0xD0000) / 128) ((off - 0xD0000) % 128 / 8) v
  else s.plainWrite off v
/-- A write to the Pavane block (R563). -/
def State.pavPut (s : State) (off : Nat) (v : W64) : State :=
  if off = aPavCtl then s.pavCtlWrite v
  else if off = aPavPer then s.epochPer v
  else if off = aPavGridAt then s.armGrid v.toNat
  else if off = aPavSrc then s.pavSrcWrite v
  else if off = aAllotCtl then (if v.bit 0 then s.allotCommit else s)
  else s.plainWrite off v
/-- A write to a link die's block (R563); a group entry is one table on all six (R426). -/
def State.ldPut (s : State) (k o : Nat) (v : W64) : State :=
  if o = 0 then s.nodeWrite v
  else if o = 0x10 then s.bypClose k v
  else if inArr o 0x1000 0x100 6 && within o 0x1000 0x100 = 8 then s.lctlWrite (6 * k + (o - 0x1000) / 0x100) v
  else if inArr o 0x8000 0x40 64 then
    let n := (o - 0x8000) / 0x40
    let w := within o 0x8000 0x40 / 8
    if w = 0 then s.grpWrite n v else s.plainWrite (aCeGrp n w) v
  else s.plainWrite (aLd k + o) v

/-! ### A function's page (R342, R343, R566) -/

/-- A write of a ring's BASE: ignored with DBREF while the ring is enabled (R343). -/
def State.baseWrite (s : State) (fn off : Nat) (on : Bool) (v : W64) : State :=
  if on then s.dbref fn else s.setFnReg fn off (mergeBits (s.fnReg fn off) v (fnRw off))
/-- One 8-byte write to the page of an enabled function. -/
def State.fnPut (s : State) (fn off : Nat) (v : W64) : State :=
  if !s.fnEnabled fn then s
  else if off = fStatus then s.setFnReg fn off (s.fnReg fn off &&& ~~~(v &&& BitVec.ofNat 64 (fnW1c off)))
  else if inArr off 0x100 0x20 16 then
    let r := (off - 0x100) / 0x20
    if s.nsq fn ≤ r then s
    else if within off 0x100 0x20 = 0 then s.baseWrite fn off (s.sqOn fn r) v
    else if within off 0x100 0x20 = 8 then s.sqCfg fn r v
    else s
  else if inArr off 0x400 0x20 16 then
    let r := (off - 0x400) / 0x20
    if s.ncq fn ≤ r then s
    else if within off 0x400 0x20 = 0 then s.baseWrite fn off (s.cqOn fn r) v
    else if within off 0x400 0x20 = 8 then s.cqCfg fn r v
    else s.setFnReg fn off (mergeBits (s.fnReg fn off) v (fnRw off))
  else if inArr off 0x1000 8 16 then s.doorbell fn fun s => s.sqDoorbell fn ((off - 0x1000) / 8) v
  else if inArr off 0x1080 8 16 then s.doorbell fn fun s => s.cqDoorbell fn ((off - 0x1080) / 8) v
  else s

/-! ### The write request (R557–R559) -/

/-- One 8-byte write to the PF BAR0 (R483, R560). -/
def State.pfPut (s : State) (off : Nat) (v : W64) : State :=
  if !s.pfOpen off || s.pfAbsent off then s
  else if off < 0x100000 then s.hubPut off v
  else if off < 0x200000 then s.pavPut off v
  else if off = aPlcCtl then s.plcCtlWrite v
  else if inArr off 0x800100 8 16 then (if s.plcOn then s else s.plainWrite off v)
  else if inArr off 0x801000 16 256 && within off 0x801000 16 = 0 then s.plcWrite ((off - 0x801000) / 16) v
  else if inArr off 0x901000 16 256 && within off 0x901000 16 = 0 then s.trcWrite ((off - 0x901000) / 16) v
  else if inArr off 0xA00000 0x100 16 then
    (if within off 0xA00000 0x100 = 0x60 && v.bit 0 then s.ouSkipclr ((off - 0xA00000) / 0x100) else s)
  else if inArr off 0xC00100 8 16 then s.memTrainWrite ((off - 0xC00100) / 8) v
  else if inArr off 0x1000000 0x100000 6 then s.ldPut ((off - 0x1000000) / 0x100000) (off % 0x100000) v
  else if inArr off aFnPage 0x10000 1 then s.fnPut 0 (off - aFnPage) v
  else s.plainWrite off v
/-- A write to the SR-IOV capability: VF Enable at 0x08, NumVFs at 0x10, which is kept while VF Enable is set and is at most TotalVFs
(R337, R340; log entry 17). -/
def State.sriovPut (s : State) (off : Nat) (v : W64) : State :=
  if off = 0x08 then s.updHost fun h => { h with vfOn := v.bit 0 }
  else if off = 0x10 && !s.host.vfOn then s.updHost fun h => { h with numVfs := min (v.bits 15 0) 4095 }
  else s
/-- One 8-byte write in a window; port B's page has W1C bits only (R338, R567). -/
def State.putAt (s : State) (win : RegWindow) (off : Nat) (v : W64) : State :=
  match win with
  | .pf => s.pfPut off v
  | .fn n => s.fnPut n off v
  | .portB => if off = pbStatus then s.setPbReg off (s.pbReg off &&& ~~~(v &&& 0xe)) else s
  | .sriov => s.sriovPut off v
/-- Successive 8-byte writes in ascending address order (R558). -/
def State.putRun (s : State) (win : RegWindow) (off : Nat) : List W64 → State
  | [] => s
  | v :: l => (s.putAt win off v).putRun win (off + 8) l
/-- A doorbell of a page, the only registers that a 4-byte write to their lower half reaches (R557); or the configuration space, which is
written so. -/
def isDoorbell (win : RegWindow) (off : Nat) : Bool :=
  match win with
  | .pf => inArr off (aFnPage + 0x1000) 8 32
  | .fn _ => inArr off 0x1000 8 32
  | .portB => false
  | .sriov => true
/-- REGISTER_WRITE: a memory write request that falls into register space (R17, R557, R558). -/
def execRegisterWrite (w : RegWrite) (s : State) : Out :=
  let n := w.bytes.length
  if !s.awake || w.off % 8 ≠ 0 || decide (64 < n) then .next s
  else if n = 4 then .next (if isDoorbell w.win w.off then s.putAt w.win w.off (BitVec.ofNat 64 (leNat w.bytes)) else s)
  else if n % 8 = 0 then .next (s.putRun w.win w.off (leWords w.bytes (n / 8)))
  else .next s

end Sys2Proof.Machine
end

