-- ==== Sys2Proof/Machine/Scalar.lean ====
section
/-! DEFINITION. Loops and scalars (R131–R134). -/

namespace Sys2Proof.Machine

/-- LOOP: sets the counter and enters the body, or skips it at count 0; a poisoned count is a POISON fault (R131, R134). -/
def execLoop (u : Nat) (f : LoopF) (s : State) : Out :=
  issue u (.loop f) (fun _ _ _ => .go) (fun k c x s =>
    let n := x.sReg f.sidx.toNat
    if f.csrc = 1 && n.poi then s.cuFault u k 1 (f.sidx.toNat * 8)
    else s.setCu u (c.setCtx k (x.loop f (if f.csrc = 1 then min n.val.toNat 65535 else f.count.toNat)))) s

/-- SLI: S[SD] ← IMM32 (R133). -/
def execSli (u : Nat) (f : ScalF) (s : State) : Out :=
  issueCtx u (.scal .sli f) (fun _ => ⟨[], []⟩) (fun x => x.scal .sli f) s

/-- SADD: S[SD] ← a + b (R133). -/
def execSadd (u : Nat) (f : ScalF) (s : State) : Out :=
  issueCtx u (.scal .sadd f) (fun _ => ⟨[], []⟩) (fun x => x.scal .sadd f) s

/-- SSUB: S[SD] ← a − b (R133). -/
def execSsub (u : Nat) (f : ScalF) (s : State) : Out :=
  issueCtx u (.scal .ssub f) (fun _ => ⟨[], []⟩) (fun x => x.scal .ssub f) s

/-- SMUL: S[SD] ← the low 32 bits of a × b (R133). -/
def execSmul (u : Nat) (f : ScalF) (s : State) : Out :=
  issueCtx u (.scal .smul f) (fun _ => ⟨[], []⟩) (fun x => x.scal .smul f) s

/-- SAND: S[SD] ← a AND b (R133). -/
def execSand (u : Nat) (f : ScalF) (s : State) : Out :=
  issueCtx u (.scal .sand f) (fun _ => ⟨[], []⟩) (fun x => x.scal .sand f) s

/-- SOR: S[SD] ← a OR b (R133). -/
def execSor (u : Nat) (f : ScalF) (s : State) : Out :=
  issueCtx u (.scal .sor f) (fun _ => ⟨[], []⟩) (fun x => x.scal .sor f) s

/-- SXOR: S[SD] ← a XOR b (R133). -/
def execSxor (u : Nat) (f : ScalF) (s : State) : Out :=
  issueCtx u (.scal .sxor f) (fun _ => ⟨[], []⟩) (fun x => x.scal .sxor f) s

/-- SSHL: S[SD] ← a shifted left by b[7:0] (R133). -/
def execSshl (u : Nat) (f : ScalF) (s : State) : Out :=
  issueCtx u (.scal .sshl f) (fun _ => ⟨[], []⟩) (fun x => x.scal .sshl f) s

/-- SSHR: S[SD] ← a logically shifted right (R133). -/
def execSshr (u : Nat) (f : ScalF) (s : State) : Out :=
  issueCtx u (.scal .sshr f) (fun _ => ⟨[], []⟩) (fun x => x.scal .sshr f) s

/-- SSAR: S[SD] ← a arithmetically shifted right (R133). -/
def execSsar (u : Nat) (f : ScalF) (s : State) : Out :=
  issueCtx u (.scal .ssar f) (fun _ => ⟨[], []⟩) (fun x => x.scal .ssar f) s

/-- SMIN: S[SD] ← the signed minimum (R133). -/
def execSmin (u : Nat) (f : ScalF) (s : State) : Out :=
  issueCtx u (.scal .smin f) (fun _ => ⟨[], []⟩) (fun x => x.scal .smin f) s

/-- SMAX: S[SD] ← the signed maximum (R133). -/
def execSmax (u : Nat) (f : ScalF) (s : State) : Out :=
  issueCtx u (.scal .smax f) (fun _ => ⟨[], []⟩) (fun x => x.scal .smax f) s

end Sys2Proof.Machine
end

