-- ==== Sys2Proof/Machine/Sweep.lean ====
section
/-! DEFINITION. A step boundary: the eight phases of Pavane's sweep (R269), the watchdog (R240, R241) and shadow redirection (R303).
Rows that act at a boundary call the same functions, wherever the table gives them a row of their own. -/

namespace Sys2Proof.Machine

/-- The regions in force, in ascending order. -/
def State.regions (s : State) : List Nat := (s.cfg.part0.filter fun e => partValid e.2).map (·.1)
/-- Do something for every region in turn. -/
def State.eachRegion (s : State) (f : State → Nat → State) : State := s.regions.foldl f s

/-! ### Phase 1: what figure boundaries bring into force -/

/-- Phase 1 at a figure boundary (R252, R253, R262, R269, R274, R284, R286, R287, R341, R378, R427, R498, R531). -/
def State.figurePhase (s : State) : State :=
  let s := s.pavApply.pavSwitch
  let s := if (s.pend.gridAt.any fun t => decide (t ≤ s.time.now)) then s.applyGrid else s
  let s := s.eachRegion fun s r => s.commitSwap r
  let s := s.applyAllot.applyPart.applyMap.applyRings.applyPlc.applyGroups.applyWmtag.applyDies.heatDecay
  s.eachRegion fun s r => s.updRgn r fun g => { g with trFig := 0 }
/-- What the step boundary brings into force (R366, R388); pinned sheets that found no granule are tried again (R284, R299). -/
def State.stepPhase (s : State) : State := s.applySlots.applyGuests.retryPins

/-! ### Phase 4: the watchdog (R240, R241) -/

/-- A context of region `r` is ACTIVE and not in wait.step, or an engine is in WAIT or held at a PEER or DRAIN mark (R240). -/
def State.blocked (s : State) (r : Nat) : Bool :=
  (s.regionCus r).any (fun u => (List.range 4).any fun k => let x := (s.cu u).ctxAt k; x.st == .active && x.waitTo.isNone) ||
    (s.regionMus r).any fun m => (List.range 4).any fun e =>
      let g := s.eng m e
      g.st == .wait || (g.st == .hold && match g.desc.bind fun d => g.markAt d.2 with
        | some p => decide (2 ≤ p.2.bits 25 24)
        | none => false)
/-- WDOG of the region's image. -/
def State.wdogOf (s : State) (r : Nat) : Nat := match (s.rgn r).img with | some i => i.wdog | none => 0
/-- The contexts that start actions of this boundary name at CU `u`, in firing order: they reach it in the cycle of its watchdog
fault (R150). -/
def State.startsNow (s : State) (r u : Nat) : List Nat :=
  ((s.dueNow r).filter fun d => d.e.action == 1 && (s.rectUnits r d.e.w1).contains u && (match d.inst.bind (s.inst r) with
    | some i => condPasses d.e.cond i.fb && !s.orphan r i d.e
    | none => true)).map fun d => d.e.w1.bits 25 24
/-- The contexts and engines of one unit that a watchdog stops take their faults (R152, R186); a start action of the same boundary
is pending when the fault is detected and is cancelled with it (R150). -/
def State.wedgeUnit (s : State) (r figs u : Nat) : State :=
  if isMu u then
    (List.range 4).foldl (fun (s : State) e =>
      let g := s.eng u e
      let idx := match g.desc with | some d => agpTuple (agpCounts (g.prog d.2) d.2) g.row | none => []
      if g.st == .run || g.st == .hold || g.st == .wait then s.streamFault u e 4 (figs % 65536) idx else s) s
  else
    match (s.cu u).active with
    | some k => ((s.startsNow r u).foldl (fun s v => s.startCtx r u v) s).cuFault u k 4 (figs % 65536)
    | none => s
/-- Declare region `r` wedged: records in the order (y, x, context), WEDGED on what is in flight (R144, R152, R241). -/
def State.declareWedge (s : State) (r : Nat) : State :=
  let figs := (s.rgn r).idle
  let units := (s.regionCus r ++ s.regionMus r).foldl NatSet.ins []
  (units.foldl (fun (s : State) u => s.wedgeUnit r figs u) s).updRgn r fun g => { g with wedged := 1, idle := 0 }
/-- WEDGE_DECLARE: the idle count has reached WDOG at a figure boundary (R240, R241). -/
def execWedgeDeclare (r : Nat) (s : State) : Out :=
  let g := s.rgn r
  .next (if s.onFigure s.time.now && g.img.isSome && g.wedged = 0 && decide (0 < s.wdogOf r) && decide (s.wdogOf r ≤ g.idle) then s.declareWedge r else s)
/-- The reset of a wedged region (R241). -/
def State.wedgeReset (s : State) (r : Nat) : State :=
  if (s.rgn r).wedged = 1 then (s.emptyRegion r).updRgn r fun g => { g with wedged := 2 } else s
/-- REGION_RESET: during the figure that follows the declaration (R241). -/
def execRegionReset (r : Nat) (s : State) : Out := .next (s.wedgeReset r)
/-- The watchdog action of a figure boundary for region `r`; a wedged region counts the boundaries since its declaration. -/
def State.watch (s : State) (r : Nat) : State :=
  let g := s.rgn r
  if g.wedged ≠ 0 then (s.wedgeReset r).updRgn r fun g => { g with idle := min (g.idle + 1) 3 }
  else if g.img.isNone then s
  else
    let n := if s.blocked r && !g.progress then g.idle + 1 else 0
    let s := s.updRgn r fun g => { g with idle := n, progress := false }
    if decide (0 < s.wdogOf r) && decide (s.wdogOf r ≤ n) then s.declareWedge r else s

/-! ### Phase 5: redirection and instances (R268, R303) -/

/-- Redirection that was asked for comes into force: every instance in flight has FB set. -/
def State.startRedir (s : State) (r : Nat) : State :=
  if (s.rgn r).redirAsk then
    s.updRgn r fun g => { g with redir := true, redirAsk := false, insts := g.insts.map fun i => if i.kind < 2 then i.setFb else i }
  else s
/-- REDIRECTION_START, at a step boundary (R303). -/
def execRedirectionStart (r : Nat) (s : State) : Out := .next (if s.onStep s.time.now then s.startRedir r else s)
/-- Redirection ends at a boundary at which no run or request instance is in flight. -/
def State.endRedir (s : State) (r : Nat) : State :=
  if (s.rgn r).redir && (s.rgn r).graded.isEmpty then s.updRgn r fun g => { g with redir := false } else s
/-- Phase 5 for region `r`: a run begins at figure boundaries, requests are dispatched oldest first, complete detectors begin theirs. -/
def State.beginPhase (s : State) (fig : Bool) (r : Nat) : State :=
  let s := (s.startRedir r).endRedir r
  let s := if fig then s.beginRun r else s
  let s := (s.feed.reqs.filter fun q => q.region == r).foldl (fun (s : State) q => s.dispatch q) s
  (List.range 8).foldl (fun (s : State) d => s.completeDet r d) s

/-! ### Phases 7 and 8: requests and completion writes (R271, R355, R370) -/

/-- Answers that are ready are read, then backstops that are due fire. -/
def State.answerPhase (s : State) : State :=
  let s := s.feed.reqs.foldl (fun (s : State) q => match s.feedReq q.slot with
    | some x => if x.handle == q.handle && x.answered.isNone && s.answerIn x then s.feedAnswer x else s
    | none => s) s
  s.feed.reqs.foldl (fun (s : State) q => if !q.sent && decide (s.backstopAt q ≤ s.time.now) then s.backstop q else s) s
/-- Write the record of one command that is due: a run or request ends with it, and its region takes up the next run. -/
def State.postCmd (s : State) (c : Cmd) : State :=
  let z := if c.words.isEmpty then (s.closeReq c, c)
    else if c.opcode = 3 || c.opcode = 4 then s.closeRun c else (s, c)
  let s := (z.1.postRecord z.2).dropCmd c.handle
  if c.opcode = 3 || c.opcode = 4 then s.takeUp c.region else s
/-- Phase 8 (R31, R36, R146, R241, R269, R355): what a boundary ends becomes due, and every due record is written, in submission order;
what a fault of this very boundary ended waits for the next. -/
def State.writePhase (s : State) : State :=
  let s := s.lateColl.lateDeadlines
  let s := s.eachRegion fun s r => s.finishRun r
  let s := s.dueFences
  let s := s.putHeld
  let s := (s.host.cmds.filter fun c => c.phase == .due && decide (c.at afterStage ≤ s.time.now)).foldl (fun (s : State) c => s.postCmd c) s
  s.endResets.sampleAll

/-! ### The sweep -/

/-- The eight phases at a boundary; no schedule action fires before Ready (R269, R483). -/
def State.sweep (s : State) : State :=
  let fig := s.onFigure s.time.now || s.pend.gridAt == some s.time.now
  let s := if fig then s.figurePhase else s
  let s := s.stepPhase.showDepth
  if s.power.st ≠ .ready then s
  else
    let s := s.placeFences
    let s := s.eachRegion fun s r => ((s.freeIds r).tryDrain r).tryFence r
    let s := s.heldFences
    let s := if fig then s.eachRegion fun s r => s.watch r else s
    let s := s.eachRegion fun s r => s.beginPhase fig r
    let s := s.eachRegion fun s r => s.fireAll r
    s.answerPhase.writePhase
/-- Device time becomes `t`. -/
def State.passTo (s : State) (t : Nat) : State :=
  let dt := t - s.time.now
  ((s.updTime fun x => { x with now := t % 2 ^ 64, lostFor := x.lostFor.map (· + dt) }).sendDue).wfTime dt
/-- STEP_BOUNDARY: device time reaches its next step boundary, where the sweep runs (R250, R251, R269). -/
def execStepBoundary (s : State) : Out :=
  .next (if s.awake && s.time.running && decide (0 < s.stepDt) then (s.passTo s.nextStep).sweep else s)

end Sys2Proof.Machine
end

