-- ==== Sys2Proof/Machine/Vector.lean ====
section
/-! DEFINITION. The vector class, V-form and T-form (R121–R123): each lane's result, masked by the predicate. -/

namespace Sys2Proof.Machine

/-- ADD: each unmasked lane of DST takes a + b (R122). -/
def execAdd (u : Nat) (f : VecF) (s : State) : Out :=
  issueCtx u (.vec .add f) (fun x => x.vecUse .add f) (fun x => x.vec .add f) s

/-- SUB: each unmasked lane of DST takes a − b (R122). -/
def execSub (u : Nat) (f : VecF) (s : State) : Out :=
  issueCtx u (.vec .sub f) (fun x => x.vecUse .sub f) (fun x => x.vec .sub f) s

/-- MUL: each unmasked lane of DST takes a × b (R122). -/
def execMul (u : Nat) (f : VecF) (s : State) : Out :=
  issueCtx u (.vec .mul f) (fun x => x.vecUse .mul f) (fun x => x.vec .mul f) s

/-- FMA: each unmasked lane of DST takes a × b + c with one rounding (R122). -/
def execFma (u : Nat) (f : VecF) (s : State) : Out :=
  issueCtx u (.vec .fma f) (fun x => x.vecUse .fma f) (fun x => x.vec .fma f) s

/-- MIN: each unmasked lane of DST takes the smaller (R122). -/
def execVmin (u : Nat) (f : VecF) (s : State) : Out :=
  issueCtx u (.vec .min f) (fun x => x.vecUse .min f) (fun x => x.vec .min f) s

/-- MAX: each unmasked lane of DST takes the larger (R122). -/
def execVmax (u : Nat) (f : VecF) (s : State) : Out :=
  issueCtx u (.vec .max f) (fun x => x.vecUse .max f) (fun x => x.vec .max f) s

/-- AND: each unmasked lane of DST takes a AND b (R122). -/
def execVand (u : Nat) (f : VecF) (s : State) : Out :=
  issueCtx u (.vec .and f) (fun x => x.vecUse .and f) (fun x => x.vec .and f) s

/-- OR: each unmasked lane of DST takes a OR b (R122). -/
def execVor (u : Nat) (f : VecF) (s : State) : Out :=
  issueCtx u (.vec .or f) (fun x => x.vecUse .or f) (fun x => x.vec .or f) s

/-- XOR: each unmasked lane of DST takes a XOR b (R122). -/
def execVxor (u : Nat) (f : VecF) (s : State) : Out :=
  issueCtx u (.vec .xor f) (fun x => x.vecUse .xor f) (fun x => x.vec .xor f) s

/-- SHL: each unmasked lane of DST takes a shifted left at the TYPE width (R122). -/
def execShl (u : Nat) (f : VecF) (s : State) : Out :=
  issueCtx u (.vec .shl f) (fun x => x.vecUse .shl f) (fun x => x.vec .shl f) s

/-- SHR: each unmasked lane of DST takes a logically shifted right (R122). -/
def execShr (u : Nat) (f : VecF) (s : State) : Out :=
  issueCtx u (.vec .shr f) (fun x => x.vecUse .shr f) (fun x => x.vec .shr f) s

/-- SAR: each unmasked lane of DST takes a arithmetically shifted right (R122). -/
def execSar (u : Nat) (f : VecF) (s : State) : Out :=
  issueCtx u (.vec .sar f) (fun x => x.vecUse .sar f) (fun x => x.vec .sar f) s

/-- SEL: each unmasked lane of DST takes a or b by the predicate (R123). -/
def execSel (u : Nat) (f : VecF) (s : State) : Out :=
  issueCtx u (.vec .sel f) (fun x => x.vecUse .sel f) (fun x => x.vec .sel f) s

/-- MOV: each unmasked lane of DST takes a (R122). -/
def execMov (u : Nat) (f : VecF) (s : State) : Out :=
  issueCtx u (.vec .mov f) (fun x => x.vecUse .mov f) (fun x => x.vec .mov f) s

/-- EXP2: each unmasked lane of DST takes 2^a (R122). -/
def execExp2 (u : Nat) (f : VecF) (s : State) : Out :=
  issueCtx u (.vec .exp2 f) (fun x => x.vecUse .exp2 f) (fun x => x.vec .exp2 f) s

/-- LOG2: each unmasked lane of DST takes log2 a (R122). -/
def execLog2 (u : Nat) (f : VecF) (s : State) : Out :=
  issueCtx u (.vec .log2 f) (fun x => x.vecUse .log2 f) (fun x => x.vec .log2 f) s

/-- RSQRT: each unmasked lane of DST takes 1 ÷ √a (R122). -/
def execRsqrt (u : Nat) (f : VecF) (s : State) : Out :=
  issueCtx u (.vec .rsqrt f) (fun x => x.vecUse .rsqrt f) (fun x => x.vec .rsqrt f) s

/-- RCP: each unmasked lane of DST takes 1 ÷ a (R122). -/
def execRcp (u : Nat) (f : VecF) (s : State) : Out :=
  issueCtx u (.vec .rcp f) (fun x => x.vecUse .rcp f) (fun x => x.vec .rcp f) s

/-- CVT_FI: each unmasked lane of DST takes F32 a to integer (R122). -/
def execCvtFi (u : Nat) (f : VecF) (s : State) : Out :=
  issueCtx u (.vec .cvtFi f) (fun x => x.vecUse .cvtFi f) (fun x => x.vec .cvtFi f) s

/-- CVT_IF: each unmasked lane of DST takes integer a to F32 (R122). -/
def execCvtIf (u : Nat) (f : VecF) (s : State) : Out :=
  issueCtx u (.vec .cvtIf f) (fun x => x.vecUse .cvtIf f) (fun x => x.vec .cvtIf f) s

/-- CVT_F19: each unmasked lane of DST takes F32 a to the F19 container (R122). -/
def execCvtF19 (u : Nat) (f : VecF) (s : State) : Out :=
  issueCtx u (.vec .cvtF19 f) (fun x => x.vecUse .cvtF19 f) (fun x => x.vec .cvtF19 f) s

end Sys2Proof.Machine
end

