-- ==== Sys2Proof/Machine/Dispatch.lean ====
section
/-! DEFINITION. The meaning of each command: one call per constructor of `Instr`. -/

namespace Sys2Proof.Machine

/-- The command's effect on everything but the queue. -/
def exec (i : Instr) (s : State) : Host.Outcome State Fault Refusal :=
  match i with
  | .mma u f => Sys2Proof.Machine.execMma u f s
  | .shiftEnd u => Sys2Proof.Machine.execShiftEnd u s
  | .add u f => Sys2Proof.Machine.execAdd u f s
  | .sub u f => Sys2Proof.Machine.execSub u f s
  | .mul u f => Sys2Proof.Machine.execMul u f s
  | .fma u f => Sys2Proof.Machine.execFma u f s
  | .vmin u f => Sys2Proof.Machine.execVmin u f s
  | .vmax u f => Sys2Proof.Machine.execVmax u f s
  | .vand u f => Sys2Proof.Machine.execVand u f s
  | .vor u f => Sys2Proof.Machine.execVor u f s
  | .vxor u f => Sys2Proof.Machine.execVxor u f s
  | .shl u f => Sys2Proof.Machine.execShl u f s
  | .shr u f => Sys2Proof.Machine.execShr u f s
  | .sar u f => Sys2Proof.Machine.execSar u f s
  | .sel u f => Sys2Proof.Machine.execSel u f s
  | .mov u f => Sys2Proof.Machine.execMov u f s
  | .exp2 u f => Sys2Proof.Machine.execExp2 u f s
  | .log2 u f => Sys2Proof.Machine.execLog2 u f s
  | .rsqrt u f => Sys2Proof.Machine.execRsqrt u f s
  | .rcp u f => Sys2Proof.Machine.execRcp u f s
  | .cvtFi u f => Sys2Proof.Machine.execCvtFi u f s
  | .cvtIf u f => Sys2Proof.Machine.execCvtIf u f s
  | .cvtF19 u f => Sys2Proof.Machine.execCvtF19 u f s
  | .cmpEq u f => Sys2Proof.Machine.execCmpEq u f s
  | .cmpNe u f => Sys2Proof.Machine.execCmpNe u f s
  | .cmpLt u f => Sys2Proof.Machine.execCmpLt u f s
  | .cmpLe u f => Sys2Proof.Machine.execCmpLe u f s
  | .cmpGt u f => Sys2Proof.Machine.execCmpGt u f s
  | .cmpGe u f => Sys2Proof.Machine.execCmpGe u f s
  | .pand u f => Sys2Proof.Machine.execPand u f s
  | .por u f => Sys2Proof.Machine.execPor u f s
  | .pxor u f => Sys2Proof.Machine.execPxor u f s
  | .pandn u f => Sys2Proof.Machine.execPandn u f s
  | .pset u f => Sys2Proof.Machine.execPset u f s
  | .pget u f => Sys2Proof.Machine.execPget u f s
  | .rsum u f => Sys2Proof.Machine.execRsum u f s
  | .rmax u f => Sys2Proof.Machine.execRmax u f s
  | .rmin u f => Sys2Proof.Machine.execRmin u f s
  | .pop u f => Sys2Proof.Machine.execPop u f s
  | .push u f => Sys2Proof.Machine.execPush u f s
  | .drop u f => Sys2Proof.Machine.execDrop u f s
  | .rowget u f => Sys2Proof.Machine.execRowget u f s
  | .rowput u f => Sys2Proof.Machine.execRowput u f s
  | .lget u f => Sys2Proof.Machine.execLget u f s
  | .lput u f => Sys2Proof.Machine.execLput u f s
  | .rld u f => Sys2Proof.Machine.execRld u f s
  | .rst u f => Sys2Proof.Machine.execRst u f s
  | .loop u f => Sys2Proof.Machine.execLoop u f s
  | .sli u f => Sys2Proof.Machine.execSli u f s
  | .sadd u f => Sys2Proof.Machine.execSadd u f s
  | .ssub u f => Sys2Proof.Machine.execSsub u f s
  | .smul u f => Sys2Proof.Machine.execSmul u f s
  | .sand u f => Sys2Proof.Machine.execSand u f s
  | .sor u f => Sys2Proof.Machine.execSor u f s
  | .sxor u f => Sys2Proof.Machine.execSxor u f s
  | .sshl u f => Sys2Proof.Machine.execSshl u f s
  | .sshr u f => Sys2Proof.Machine.execSshr u f s
  | .ssar u f => Sys2Proof.Machine.execSsar u f s
  | .smin u f => Sys2Proof.Machine.execSmin u f s
  | .smax u f => Sys2Proof.Machine.execSmax u f s
  | .setmode u mask value aclr => Sys2Proof.Machine.execSetmode u mask value aclr s
  | .getstat u sd => Sys2Proof.Machine.execGetstat u sd s
  | .nop u => Sys2Proof.Machine.execNop u s
  | .endProg u => Sys2Proof.Machine.execEndProg u s
  | .yieldCtx u sv succ => Sys2Proof.Machine.execYieldCtx u sv succ s
  | .waitStep u count => Sys2Proof.Machine.execWaitStep u count s
  | .waitSb u ld st => Sys2Proof.Machine.execWaitSb u ld st s
  | .waitDrain u => Sys2Proof.Machine.execWaitDrain u s
  | .mark u tag => Sys2Proof.Machine.execMark u tag s
  | .contextSwitch u => Sys2Proof.Machine.execContextSwitch u s
  | .tokenArrive u link chan t => Sys2Proof.Machine.execTokenArrive u link chan t s
  | .creditReturn u link chan => Sys2Proof.Machine.execCreditReturn u link chan s
  | .devToSp m e => Sys2Proof.Machine.execDevToSp m e s
  | .devToLink m e => Sys2Proof.Machine.execDevToLink m e s
  | .spToLink m e => Sys2Proof.Machine.execSpToLink m e s
  | .spToDev m e => Sys2Proof.Machine.execSpToDev m e s
  | .linkToSp m e => Sys2Proof.Machine.execLinkToSp m e s
  | .linkToDev m e => Sys2Proof.Machine.execLinkToDev m e s
  | .compareAndCount m e => Sys2Proof.Machine.execCompareAndCount m e s
  | .descriptorBurstArrive m e => Sys2Proof.Machine.execDescriptorBurstArrive m e s
  | .scoreboardRetire m e => Sys2Proof.Machine.execScoreboardRetire m e s
  | .peerRelease m e => Sys2Proof.Machine.execPeerRelease m e s
  | .listEnd m e => Sys2Proof.Machine.execListEnd m e s
  | .readRequest f => Sys2Proof.Machine.execReadRequest f s
  | .writeRequest f => Sys2Proof.Machine.execWriteRequest f s
  | .controlMessage f => Sys2Proof.Machine.execControlMessage f s
  | .readReply f => Sys2Proof.Machine.execReadReply f s
  | .acknowledgement f => Sys2Proof.Machine.execAcknowledgement f s
  | .nack f => Sys2Proof.Machine.execNack f s
  | .nackResend f => Sys2Proof.Machine.execNackResend f s
  | .domainDownAnswer f => Sys2Proof.Machine.execDomainDownAnswer f s
  | .bulk f => Sys2Proof.Machine.execBulk f s
  | .missFill slice line tag => Sys2Proof.Machine.execMissFill slice line tag s
  | .stepBoundary => Sys2Proof.Machine.execStepBoundary s
  | .drainDeclare r g => Sys2Proof.Machine.execDrainDeclare r g s
  | .fenceRelease r => Sys2Proof.Machine.execFenceRelease r s
  | .wedgeDeclare r => Sys2Proof.Machine.execWedgeDeclare r s
  | .regionReset r => Sys2Proof.Machine.execRegionReset r s
  | .nopAction f => Sys2Proof.Machine.execNopAction f s
  | .ctxStart f => Sys2Proof.Machine.execCtxStart f s
  | .listStart f => Sys2Proof.Machine.execListStart f s
  | .release f => Sys2Proof.Machine.execRelease f s
  | .fenceAction f => Sys2Proof.Machine.execFenceAction f s
  | .deadline f => Sys2Proof.Machine.execDeadline f s
  | .arm f => Sys2Proof.Machine.execArm f s
  | .markAction f => Sys2Proof.Machine.execMarkAction f s
  | .slotOpen f => Sys2Proof.Machine.execSlotOpen f s
  | .slotWindowClose r link => Sys2Proof.Machine.execSlotWindowClose r link s
  | .detectorEdge r d second => Sys2Proof.Machine.execDetectorEdge r d second s
  | .detectorComplete r d => Sys2Proof.Machine.execDetectorComplete r d s
  | .schedSwapCommit r => Sys2Proof.Machine.execSchedSwapCommit r s
  | .bankCopyDone r => Sys2Proof.Machine.execBankCopyDone r s
  | .redirectionStart r => Sys2Proof.Machine.execRedirectionStart r s
  | .requestDispatch q => Sys2Proof.Machine.execRequestDispatch q s
  | .answerReady q => Sys2Proof.Machine.execAnswerReady q s
  | .backstop q => Sys2Proof.Machine.execBackstop q s
  | .responseSend q => Sys2Proof.Machine.execResponseSend q s
  | .feedFrame p bytes arrival => Sys2Proof.Machine.execFeedFrame p bytes arrival s
  | .load h => Sys2Proof.Machine.execLoad h s
  | .loadResume h => Sys2Proof.Machine.execLoadResume h s
  | .loadGuest h => Sys2Proof.Machine.execLoadGuest h s
  | .unload h => Sys2Proof.Machine.execUnload h s
  | .run h => Sys2Proof.Machine.execRun h s
  | .stepCmd h => Sys2Proof.Machine.execStepCmd h s
  | .xfer h => Sys2Proof.Machine.execXfer h s
  | .allReduce h => Sys2Proof.Machine.execAllReduce h s
  | .reduceScatter h => Sys2Proof.Machine.execReduceScatter h s
  | .allGather h => Sys2Proof.Machine.execAllGather h s
  | .broadcast h => Sys2Proof.Machine.execBroadcast h s
  | .permute h => Sys2Proof.Machine.execPermute h s
  | .fence h => Sys2Proof.Machine.execFence h s
  | .scrub h => Sys2Proof.Machine.execScrub h s
  | .schedWrite h => Sys2Proof.Machine.execSchedWrite h s
  | .schedSwap h => Sys2Proof.Machine.execSchedSwap h s
  | .countersRegion h => Sys2Proof.Machine.execCountersRegion h s
  | .countersUnit h => Sys2Proof.Machine.execCountersUnit h s
  | .countersPhase h => Sys2Proof.Machine.execCountersPhase h s
  | .countersWindows h => Sys2Proof.Machine.execCountersWindows h s
  | .countersFunction h => Sys2Proof.Machine.execCountersFunction h s
  | .countersSample h => Sys2Proof.Machine.execCountersSample h s
  | .flashWrite h => Sys2Proof.Machine.execFlashWrite h s
  | .flashWriteCommit h => Sys2Proof.Machine.execFlashWriteCommit h s
  | .quiesce h => Sys2Proof.Machine.execQuiesce h s
  | .reshardPermute h => Sys2Proof.Machine.execReshardPermute h s
  | .reshardCheckpoint h => Sys2Proof.Machine.execReshardCheckpoint h s
  | .watermark h => Sys2Proof.Machine.execWatermark h s
  | .commandFetch fn r => Sys2Proof.Machine.execCommandFetch fn r s
  | .fnSqDb fn r v => Sys2Proof.Machine.execFnSqDb fn r v s
  | .fnCqDb fn r v => Sys2Proof.Machine.execFnCqDb fn r v s
  | .fnSqCfgWrite fn r v => Sys2Proof.Machine.execFnSqCfgWrite fn r v s
  | .fnCqCfgWrite fn r v => Sys2Proof.Machine.execFnCqCfgWrite fn r v s
  | .portALinkDown => Sys2Proof.Machine.execPortALinkDown s
  | .portALinkReturn => Sys2Proof.Machine.execPortALinkReturn s
  | .portAHoldExpiry => Sys2Proof.Machine.execPortAHoldExpiry s
  | .flr fn => Sys2Proof.Machine.execFlr fn s
  | .zeroingDone fn => Sys2Proof.Machine.execZeroingDone fn s
  | .hostReadCompletion portB h ep => Sys2Proof.Machine.execHostReadCompletion portB h ep s
  | .passStart q p => Sys2Proof.Machine.execPassStart q p s
  | .ouChunk q p => Sys2Proof.Machine.execOuChunk q p s
  | .passEnd q p => Sys2Proof.Machine.execPassEnd q p s
  | .passUnboundTimeout q p => Sys2Proof.Machine.execPassUnboundTimeout q p s
  | .slowPull r k => Sys2Proof.Machine.execSlowPull r k s
  | .slowRelease r k => Sys2Proof.Machine.execSlowRelease r k s
  | .offloadEnd r k => Sys2Proof.Machine.execOffloadEnd r k s
  | .sheetFetchDone dom sheet => Sys2Proof.Machine.execSheetFetchDone dom sheet s
  | .flashLeafRead dom leaf uncorr crcBad => Sys2Proof.Machine.execFlashLeafRead dom leaf uncorr crcBad s
  | .shadowPinDone h => Sys2Proof.Machine.execShadowPinDone h s
  | .refreshRelocation fd block => Sys2Proof.Machine.execRefreshRelocation fd block s
  | .patrolWindow q => Sys2Proof.Machine.execPatrolWindow q s
  | .spPatrol m => Sys2Proof.Machine.execSpPatrol m s
  | .digestRecompute g => Sys2Proof.Machine.execDigestRecompute g s
  | .diePowerDown d => Sys2Proof.Machine.execDiePowerDown d s
  | .refuseStateEntry d => Sys2Proof.Machine.execRefuseStateEntry d s
  | .powerDownWritebackDone d => Sys2Proof.Machine.execPowerDownWritebackDone d s
  | .selfRefreshConfirmed d => Sys2Proof.Machine.execSelfRefreshConfirmed d s
  | .refuseHoldExpiry d => Sys2Proof.Machine.execRefuseHoldExpiry d s
  | .diePowerUp d => Sys2Proof.Machine.execDiePowerUp d s
  | .powerUpDone d => Sys2Proof.Machine.execPowerUpDone d s
  | .pavCtlWrite v => Sys2Proof.Machine.execPavCtlWrite v s
  | .tload => Sys2Proof.Machine.execTload s
  | .epochEdge t => Sys2Proof.Machine.execEpochEdge t s
  | .pavLock => Sys2Proof.Machine.execPavLock s
  | .referenceLoss => Sys2Proof.Machine.execReferenceLoss s
  | .holdoverExpiry => Sys2Proof.Machine.execHoldoverExpiry s
  | .referenceRequalify => Sys2Proof.Machine.execReferenceRequalify s
  | .followerStep t => Sys2Proof.Machine.execFollowerStep t s
  | .pavGridAt v => Sys2Proof.Machine.execPavGridAt v s
  | .gridChangeApply => Sys2Proof.Machine.execGridChangeApply s
  | .pavSrcWrite v => Sys2Proof.Machine.execPavSrcWrite v s
  | .pavAllotCommit => Sys2Proof.Machine.execPavAllotCommit s
  | .allotApply => Sys2Proof.Machine.execAllotApply s
  | .hubPartCommit => Sys2Proof.Machine.execHubPartCommit s
  | .partitionApply => Sys2Proof.Machine.execPartitionApply s
  | .hubMapCommit => Sys2Proof.Machine.execHubMapCommit s
  | .mapApply => Sys2Proof.Machine.execMapApply s
  | .hubFnringCommit => Sys2Proof.Machine.execHubFnringCommit s
  | .fnringApply => Sys2Proof.Machine.execFnringApply s
  | .plcCtlEn en => Sys2Proof.Machine.execPlcCtlEn en s
  | .plcCtlClr => Sys2Proof.Machine.execPlcCtlClr s
  | .plcRgnWrite n v => Sys2Proof.Machine.execPlcRgnWrite n v s
  | .feedSlotWrite n v => Sys2Proof.Machine.execFeedSlotWrite n v s
  | .hubGuestWrite n j v => Sys2Proof.Machine.execHubGuestWrite n j v s
  | .ceGrpWrite n v => Sys2Proof.Machine.execCeGrpWrite n v s
  | .glNodeWrite v => Sys2Proof.Machine.execGlNodeWrite v s
  | .glBypClose k v => Sys2Proof.Machine.execGlBypClose k v s
  | .glLctlHold l hold => Sys2Proof.Machine.execGlLctlHold l hold s
  | .glLctlRetrain l => Sys2Proof.Machine.execGlLctlRetrain l s
  | .hubStageGo v => Sys2Proof.Machine.execHubStageGo v s
  | .hubFwctlProg => Sys2Proof.Machine.execHubFwctlProg s
  | .fwProgramDone verified => Sys2Proof.Machine.execFwProgramDone verified s
  | .hubWmtagWrite v => Sys2Proof.Machine.execHubWmtagWrite v s
  | .watermarkRecompute => Sys2Proof.Machine.execWatermarkRecompute s
  | .memTrainGo q chan => Sys2Proof.Machine.execMemTrainGo q chan s
  | .retrainDone q ok => Sys2Proof.Machine.execRetrainDone q ok s
  | .driftTrack q chan => Sys2Proof.Machine.execDriftTrack q chan s
  | .ouSkipclr q => Sys2Proof.Machine.execOuSkipclr q s
  | .obsTrcWrite n v => Sys2Proof.Machine.execObsTrcWrite n v s
  | .registerWrite w => Sys2Proof.Machine.execRegisterWrite w s
  | .traceRecordArrive die => Sys2Proof.Machine.execTraceRecordArrive die s
  | .frameSend l => Sys2Proof.Machine.execFrameSend l s
  | .frameReceive l f fecBad arrival => Sys2Proof.Machine.execFrameReceive l f fecBad arrival s
  | .nakRepeat l => Sys2Proof.Machine.execNakRepeat l s
  | .ackEntry l a => Sys2Proof.Machine.execAckEntry l a s
  | .tagTimeout l tag => Sys2Proof.Machine.execTagTimeout l tag s
  | .linkDownNoframe l => Sys2Proof.Machine.execLinkDownNoframe l s
  | .linkDownLane l => Sys2Proof.Machine.execLinkDownLane l s
  | .lightDetect l => Sys2Proof.Machine.execLightDetect l s
  | .linkTrainDone l laneok => Sys2Proof.Machine.execLinkTrainDone l laneok s
  | .linkAlignDone l => Sys2Proof.Machine.execLinkAlignDone l s
  | .linkTrainTimeout l => Sys2Proof.Machine.execLinkTrainTimeout l s
  | .capabilityMessage l c => Sys2Proof.Machine.execCapabilityMessage l c s
  | .linkUp l => Sys2Proof.Machine.execLinkUp l s
  | .calibrationMessage l => Sys2Proof.Machine.execCalibrationMessage l s
  | .delayMeasure l => Sys2Proof.Machine.execDelayMeasure l s
  | .mixlongExpiry => Sys2Proof.Machine.execMixlongExpiry s
  | .switchSettled k pair => Sys2Proof.Machine.execSwitchSettled k pair s
  | .plugWithdraw => Sys2Proof.Machine.execPlugWithdraw s
  | .plugSeat => Sys2Proof.Machine.execPlugSeat s
  | .readySlot l x => Sys2Proof.Machine.execReadySlot l x s
  | .reduceSlot l x => Sys2Proof.Machine.execReduceSlot l x s
  | .placeSlot l x => Sys2Proof.Machine.execPlaceSlot l x s
  | .barrierSlot l x => Sys2Proof.Machine.execBarrierSlot l x s
  | .readyResend g k => Sys2Proof.Machine.execReadyResend g k s
  | .collStallTimeout g => Sys2Proof.Machine.execCollStallTimeout g s
  | .heartbeatSend l => Sys2Proof.Machine.execHeartbeatSend l s
  | .watermarkExchange l bytes => Sys2Proof.Machine.execWatermarkExchange l bytes s
  | .auxGood straps => Sys2Proof.Machine.execAuxGood straps s
  | .auxLoss => Sys2Proof.Machine.execAuxLoss s
  | .pwrEnAssert => Sys2Proof.Machine.execPwrEnAssert s
  | .pwrEnDeassert => Sys2Proof.Machine.execPwrEnDeassert s
  | .pgoodAssert pairTag => Sys2Proof.Machine.execPgoodAssert pairTag s
  | .powerFail => Sys2Proof.Machine.execPowerFail s
  | .resetNAssert => Sys2Proof.Machine.execResetNAssert s
  | .resetNDeassert => Sys2Proof.Machine.execResetNDeassert s
  | .firmwareBoot ok0 ok1 flevel build => Sys2Proof.Machine.execFirmwareBoot ok0 ok1 flevel build s
  | .perstNAssert => Sys2Proof.Machine.execPerstNAssert s
  | .perstNDeassert => Sys2Proof.Machine.execPerstNDeassert s
  | .wfResetN => Sys2Proof.Machine.execWfResetN s
  | .wallflowerRestartDone => Sys2Proof.Machine.execWallflowerRestartDone s
  | .bringupStage0 auxOk wfOk => Sys2Proof.Machine.execBringupStage0 auxOk wfOk s
  | .bringupStage1 fuseOk variant factory => Sys2Proof.Machine.execBringupStage1 fuseOk variant factory s
  | .bringupStage2 unlocked => Sys2Proof.Machine.execBringupStage2 unlocked s
  | .bringupStage3 found noSpare wfOk => Sys2Proof.Machine.execBringupStage3 found noSpare wfOk s
  | .bringupStage4 => Sys2Proof.Machine.execBringupStage4 s
  | .bringupStage5 badBase => Sys2Proof.Machine.execBringupStage5 badBase s
  | .bringupStage6 badTrain rows => Sys2Proof.Machine.execBringupStage6 badTrain rows s
  | .bringupStage7 badMount wfOk => Sys2Proof.Machine.execBringupStage7 badMount wfOk s
  | .bringupStage8 badPairs => Sys2Proof.Machine.execBringupStage8 badPairs s
  | .bringupStage9 => Sys2Proof.Machine.execBringupStage9 s
  | .bringupStage10 => Sys2Proof.Machine.execBringupStage10 s
  | .stageComplete us => Sys2Proof.Machine.execStageComplete us s
  | .hcpHeartbeat => Sys2Proof.Machine.execHcpHeartbeat s
  | .heartbeatLoss => Sys2Proof.Machine.execHeartbeatLoss s
  | .sensorSample n v => Sys2Proof.Machine.execSensorSample n v s
  | .sensorMissing n => Sys2Proof.Machine.execSensorMissing n s
  | .gateDie => Sys2Proof.Machine.execGateDie s
  | .ungateDie => Sys2Proof.Machine.execUngateDie s
  | .hwComparatorTrip die => Sys2Proof.Machine.execHwComparatorTrip die s
  | .resetHeldExpiry => Sys2Proof.Machine.execResetHeldExpiry s
  | .errtotRefresh => Sys2Proof.Machine.execErrtotRefresh s
  | .smbVersion => Sys2Proof.Machine.execSmbVersion s
  | .smbState => Sys2Proof.Machine.execSmbState s
  | .alertRead => Sys2Proof.Machine.execAlertRead s
  | .alertClear w pec => Sys2Proof.Machine.execAlertClear w pec s
  | .alertmaskRead => Sys2Proof.Machine.execAlertmaskRead s
  | .alertmaskWrite w pec => Sys2Proof.Machine.execAlertmaskWrite w pec s
  | .smbGated => Sys2Proof.Machine.execSmbGated s
  | .plimitRead => Sys2Proof.Machine.execPlimitRead s
  | .plimitWrite w pec => Sys2Proof.Machine.execPlimitWrite w pec s
  | .gorderRead => Sys2Proof.Machine.execGorderRead s
  | .gorderWrite bytes pec => Sys2Proof.Machine.execGorderWrite bytes pec s
  | .lastcmd => Sys2Proof.Machine.execLastcmd s
  | .resetheld => Sys2Proof.Machine.execResetheld s
  | .cmdGate w pec => Sys2Proof.Machine.execCmdGate w pec s
  | .cmdUngate w pec => Sys2Proof.Machine.execCmdUngate w pec s
  | .cmdBypassClose pec => Sys2Proof.Machine.execCmdBypassClose pec s
  | .cmdBypassRelease pec => Sys2Proof.Machine.execCmdBypassRelease pec s
  | .sensorN n => Sys2Proof.Machine.execSensorN n s
  | .errtot => Sys2Proof.Machine.execErrtot s
  | .wfLog => Sys2Proof.Machine.execWfLog s
  | .alertResponse => Sys2Proof.Machine.execAlertResponse s
  | .loadVerifyDone h => Sys2Proof.Machine.execLoadVerifyDone h s
  | .scrubPassDone h => Sys2Proof.Machine.execScrubPassDone h s
  | .feedLinkUp p => Sys2Proof.Machine.execFeedLinkUp p s
  | .feedLinkDown p => Sys2Proof.Machine.execFeedLinkDown p s
  | .portBLinkDown => Sys2Proof.Machine.execPortBLinkDown s
  | .portBLinkUp => Sys2Proof.Machine.execPortBLinkUp s
  | .hostReadTimeout portB h => Sys2Proof.Machine.execHostReadTimeout portB h s
  | .retentionTrigger fd block => Sys2Proof.Machine.execRetentionTrigger fd block s

end Sys2Proof.Machine
end

