-- ==== Sys2Proof/Machine/Tick.lean ====
section
/-! DEFINITION. What one step does on an empty queue: one core cycle of 8 dt passes (R12, R249). -/

namespace Sys2Proof.Machine

/-- One core cycle: device time advances where it runs, the sweep runs where it comes to a step boundary, and Wallflower's clock goes
on. -/
def idleTick (s : State) : State :=
  if s.awake && s.time.running then
    let t := s.passTo (s.time.now + 8)
    if s.onStep t.time.now then t.sweep else t
  else s.wfTime 8

end Sys2Proof.Machine
end

