-- ==== Sys2Proof/Machine/RegRead.lean ====
section
/-! DEFINITION. What a host's read of register space returns (R7, R15, R254, R255, R263, R342, R557, R558, R560, R564–R568). No read
has a side effect (R558) and none is a row of the table, so a read is a function of the state. -/

namespace Sys2Proof.Machine

/-- Device time as a register shows it: a multiple of 8 dt (R255). -/
def State.shownTime (s : State) : W64 := BitVec.ofNat 64 (s.time.now / 8 * 8)
/-- PAV_HOLD: the microseconds since the last REFLOST in HOLDOVER and FREERUN (R255). -/
def State.shownHold (s : State) : W64 :=
  match s.time.lostFor with
  | some t => if s.pavState = 3 || s.pavState = 4 then BitVec.ofNat 64 (min (t / 16000) (2 ^ 32 - 1)) else 0
  | none => 0
/-- A register of a resource that is fused off or removed: it reads as zero (R7, R467, R491, R533, R568). -/
def State.readAbsent (s : State) (off : Nat) : Bool :=
  let stack := fun (q : Nat) => !(s.stackPresent q && s.dieExists q)
  if inArr off 0x900100 16 16 then stack ((off - 0x900100) / 16)
  else if inArr off 0x900400 16 36 then s.linkFused ((off - 0x900400) / 16)
  else if inArr off 0x100100 8 36 then s.linkFused ((off - 0x100100) / 8)
  else if inArr off 0xC01000 0x40 16 then stack ((off - 0xC01000) / 0x40)
  else if inArr off 0xC01000 0x40 64 then !(s.dieExists ((off - 0xC01000) / 0x40 % 16))
  else s.pfAbsent off
/-- An offset that a host never sees set: a write-only register, or one that the hub block holds under another name (R15). -/
def writeOnly (off : Nat) : Bool := off = aStageGo || off = aPavGridAt || (inArr off 0xA00000 0x100 16 && within off 0xA00000 0x100 == 0x60)
/-- One word of a FN_ page (R342). -/
def State.fnRead (s : State) (fn off : Nat) : W64 :=
  if !s.fnEnabled fn then 0
  else if off = fId then BitVec.ofNat 64 (fn + s.nsq fn * 2 ^ 12 + s.ncq fn * 2 ^ 17)
  else if off = fTime then s.shownTime
  else if off = fSlots then BitVec.ofNat 64 (s.slotsHeld fn + s.slotMax fn * 2 ^ 17)
  else if inArr off 0x100 0x20 16 && decide (s.nsq fn ≤ (off - 0x100) / 0x20) then 0
  else if inArr off 0x400 0x20 16 && decide (s.ncq fn ≤ (off - 0x400) / 0x20) then 0
  else if inArr off 0x1000 8 32 then 0
  else s.fnReg fn off
/-- One word of the PF BAR0 (R560): the schedule banks as they stand (R261), a group entry alike in every link die's block (R426), the
word last written for a staged entry (R564), a log entry as it was written (R468), and redirection as it stands (R288). -/
def State.pfRead (s : State) (off : Nat) : W64 :=
  if s.readAbsent off || writeOnly off then 0
  else if off = aPavTime then s.shownTime
  else if off = aPavHold then s.shownHold
  else if inArr off 0x110000 16 4096 then
    let w := s.bankEnt 0 ((off - 0x110000) / 16)
    if within off 0x110000 16 = 0 then w.w0 else w.w1
  else if inArr off 0x120000 16 4096 then
    let w := s.bankEnt 1 ((off - 0x120000) / 16)
    if within off 0x120000 16 = 0 then w.w0 else w.w1
  else if inArr off 0x1000000 0x100000 6 && inArr (off % 0x100000) 0x8000 0x40 64 then s.reg (aLd 0 + off % 0x100000)
  else if inArr off 0xC08000 0x20 256 then (FMap.get ([] : List W64) s.log ((off - 0xC08000) / 0x20)).getD (within off 0xC08000 0x20 / 8) 0
  else if inArr off 0x802000 8 256 then
    s.reg off ||| (if (s.rgn ((off - 0x802000) / 8)).redir then 0x10000 else 0)
  else if inArr off aFnPage 0x10000 1 then s.fnRead 0 (off - aFnPage)
  else s.reg off
/-- One word of a window of register space (R566, R567); of the SR-IOV capability, its control, TotalVFs, NumVFs, First VF Offset and VF
Stride (R337). -/
def State.readAt (s : State) (win : RegWindow) (off : Nat) : W64 :=
  match win with
  | .pf => s.pfRead off
  | .fn n => s.fnRead n off
  | .portB => if off = pbTime then s.shownTime else s.pbReg off
  | .sriov =>
    if off = 0x08 then BitVec.ofNat 64 ((if s.host.vfOn then 1 else 0) + 4095 * 2 ^ 32 + 4095 * 2 ^ 48)
    else if off = 0x10 then BitVec.ofNat 64 (s.host.numVfs + 2 ^ 32 + 2 ^ 48) else 0
/-- The bytes that a read of `n` bytes at `off` returns: 4 or 8 bytes of one register, or successive registers (R557, R558). -/
def State.readRegs (s : State) (win : RegWindow) (off n : Nat) : List Byte :=
  (List.range n).map fun i =>
    BitVec.ofNat 8 ((s.readAt win ((off + i) / 8 * 8)).toNat / 256 ^ ((off + i) % 8))

end Sys2Proof.Machine
end

