-- ==== Sys2Proof/Safety.lean ====
section
/-! DEFINITION. What counts as a safe run, and the words that claims are stated in: when a unit instruction issues, what it leaves
alone, and the command of each operation of a class. -/

namespace Sys2Proof.Machine

/-- The step answers a next state. -/
def Runs (s : State) : Prop := ∃ t, step s = .next t

/-- Context `k` of unit `u`. -/
def State.cx (s : State) (u k : Nat) : Ctx := (s.cu u).ctxAt k

/-- Context `k` of unit `u` is active, stands at the legal instruction `z`, and neither a hold, a power-down nor a wait.step keeps it,
and its word needs no correction (R114, R120, R128, R140, R216, R455). -/
structure Issues (s : State) (u k : Nat) (z : Zelux) : Prop where
  legal : z.legal = true
  moving : s.stoppedAt u = false
  active : (s.cu u).active = some k
  stands : (s.cx u k).standsAt z = true
  due : (s.cx u k).waits s.time.now = false
  clean : count (s.cx u k).upset (s.cx u k).pc = 0

/-- Everything but the compute units, and a region's mark that work went on, is as before; so is every other unit. -/
structure OnlyUnit (s t : State) (u : Nat) : Prop where
  rest : t = { s with cus := t.cus, rgns := t.rgns }
  units : ∀ v, v ≠ u → t.cu v = s.cu v
  regions : ∀ r, t.rgn r = { s.rgn r with progress := (t.rgn r).progress }

/-- Besides, the unit's ports, array and other contexts are as before. -/
structure OnlyCtx (s t : State) (u k : Nat) : Prop extends OnlyUnit s t u where
  unit : t.cu u = { s.cu u with ctx := (t.cu u).ctx }
  others : ∀ j, j ≠ k → t.cx u j = s.cx u j

/-- The registers of a context, each row of them. -/
def Ctx.sameRegs (x y : Ctx) : Prop := ∀ c i, y.regRow c i = x.regRow c i

/-- An instruction ends where PC stands after it: the next one, or a loop body's first (R131). -/
def Ctx.advanced (x y : Ctx) : Prop := y.pc = x.advance.pc ∧ y.l = x.advance.l

/-- Context `k` of unit `u` has taken a fault of a cause where it stood: it is FAULTED, and its region counts the cause (R142, R525). -/
def Faulted (s t : State) (u k cause : Nat) : Prop :=
  (t.cx u k).st = .faulted ∧ (t.cu u).active = none ∧ (t.cx u k).pc = (s.cx u k).pc ∧
    ∀ r, s.regionOf u = some r → count (t.rgn r).ctr (ctrKey 21 (cause - 1)) = count (s.rgn r).ctr (ctrKey 21 (cause - 1)) + 1

end Sys2Proof.Machine

namespace Sys2Proof

/-- The command of a vector operation at unit `u`. -/
def VecOp.cmd (o : VecOp) (u : Nat) (f : VecF) : Instr :=
  match o with
  | .add => .add u f | .sub => .sub u f | .mul => .mul u f | .fma => .fma u f | .min => .vmin u f | .max => .vmax u f
  | .and => .vand u f | .or => .vor u f | .xor => .vxor u f | .shl => .shl u f | .shr => .shr u f | .sar => .sar u f
  | .sel => .sel u f | .mov => .mov u f | .exp2 => .exp2 u f | .log2 => .log2 u f | .rsqrt => .rsqrt u f | .rcp => .rcp u f
  | .cvtFi => .cvtFi u f | .cvtIf => .cvtIf u f | .cvtF19 => .cvtF19 u f

/-- The command of a predicate operation at unit `u`. -/
def PredOp.cmd (o : PredOp) (u : Nat) (f : PredF) : Instr :=
  match o with
  | .eq => .cmpEq u f | .ne => .cmpNe u f | .lt => .cmpLt u f | .le => .cmpLe u f | .gt => .cmpGt u f | .ge => .cmpGe u f
  | .pand => .pand u f | .por => .por u f | .pxor => .pxor u f | .pandn => .pandn u f | .pset => .pset u f | .pget => .pget u f

/-- The operation is a compare. -/
def PredOp.compares : PredOp → Bool
  | .eq | .ne | .lt | .le | .gt | .ge => true
  | _ => false

/-- The command of a reduction at unit `u`. -/
def RedOp.cmd (o : RedOp) (u : Nat) (f : RedF) : Instr :=
  match o with
  | .sum => .rsum u f | .max => .rmax u f | .min => .rmin u f

/-- The command of a scalar operation at unit `u`. -/
def ScalOp.cmd (o : ScalOp) (u : Nat) (f : ScalF) : Instr :=
  match o with
  | .sli => .sli u f | .sadd => .sadd u f | .ssub => .ssub u f | .smul => .smul u f | .sand => .sand u f | .sor => .sor u f
  | .sxor => .sxor u f | .sshl => .sshl u f | .sshr => .sshr u f | .ssar => .ssar u f | .smin => .smin u f | .smax => .smax u f

end Sys2Proof

namespace Sys2Proof

/-- The command of a unit instruction at unit `u`. -/
def Zelux.cmd (z : Zelux) (u : Nat) : Instr :=
  match z with
  | .mma f => .mma u f
  | .vec o f => o.cmd u f
  | .red o f => o.cmd u f
  | .pred o f => o.cmd u f
  | .scal o f => o.cmd u f
  | .loop f => .loop u f
  | .setmode mask value aclr => .setmode u mask value aclr
  | .getstat sd => .getstat u sd
  | .nop => .nop u
  | .endp => .endProg u
  | .yld sv succ => .yieldCtx u sv succ
  | .waitStep count => .waitStep u count
  | .waitSb ld st => .waitSb u ld st
  | .waitDrain => .waitDrain u
  | .mark tag => .mark u tag
  | .move o f => match o with
    | .pop => .pop u f | .push => .push u f | .drop => .drop u f | .rowget => .rowget u f | .rowput => .rowput u f
    | .lget => .lget u f | .lput => .lput u f | .rld => .rld u f | .rst => .rst u f

end Sys2Proof

namespace Sys2Proof.Machine

/-- The nearest number that `w` bits of two's complement hold (R56). -/
def clampTo (w : Nat) (v : Int) : Int := max (-(2 ^ (w - 1) : Int)) (min (2 ^ (w - 1) - 1) v)

/-- One lane of a vector instruction on the context as it stands: the lanes that its sources give it and what they make (R113, R121,
R123). -/
def Ctx.vecLaneAt (x : Ctx) (o : VecOp) (f : VecF) (r j : Nat) : Ln × Ev :=
  let src := fun (c : BitVec 6) => (x.source (fwdCode x.imem false x.pc) f.sidx.toNat c.toNat r).getD j (0, false)
  vecCell o x.rnd f.ty.toNat (x.mask f.pred f.pneg j) (x.maskPoison f.pred) ((x.regRow f.dst.toNat r).lane j, (x.regRow f.dst.toNat r).mark j)
    (src f.sa) (src f.sb) (src f.sc)

/-- Lane `j` of a source of the predicate class (R113, R124). -/
def Ctx.cmpSource (x : Ctx) (f : PredF) (c : BitVec 6) (j : Nat) : Ln :=
  (x.source (fwdCode x.imem false x.pc) f.sidx.toNat c.toNat 0).getD j (0, false)

/-- The 32 slots that one lane of a reduction takes: row `r`'s, or slot `r` of each row; a masked slot is the identity (R126). -/
def Ctx.redSlots (x : Ctx) (o : RedOp) (f : RedF) (r : Nat) : List Ln :=
  let src := if f.src.toNat = 0x20 then fwdCode x.imem true x.pc else f.src.toNat
  (List.range 32).map fun i =>
    let row := if f.axis = 0 then r else i
    let slot := if f.axis = 0 then i else r
    if x.mask f.pred f.pneg slot then ((x.regRow src row).lane slot, (x.regRow src row).mark slot) else (redIdentity o f.ty.toNat, false)

/-- The count of a loop instruction: COUNT, or the S register read as unsigned and held to 65,535 (R131). -/
def Ctx.loopCount (x : Ctx) (f : LoopF) : Nat :=
  if f.csrc = 1 then min (x.sReg f.sidx.toNat).val.toNat 65535 else f.count.toNat

/-- The command of a stream kind: 0 DEV → SP, 1 DEV → LINK, 2 SP → LINK, 3 SP → DEV, 4 LINK → SP, 5 LINK → DEV, 6 CMP (R161). -/
def streamCmd (k m e : Nat) : Instr :=
  match k with
  | 0 => .devToSp m e | 1 => .devToLink m e | 2 => .spToLink m e | 3 => .spToDev m e | 4 => .linkToSp m e | 5 => .linkToDev m e
  | _ => .compareAndCount m e

/-- Nothing of the engine's earlier work is left. -/
def Eng.clear (g : Eng) : Prop := g.jobs = [] ∧ g.outbuf = [] ∧ g.wq = [] ∧ g.quant = [] ∧ g.scales = []

/-- The engine has in hand descriptor `d`, of one row, which no hold mark stops, and nothing else. -/
def Eng.atOnlyRow (g : Eng) (a : Nat) (d : Desc) : Prop :=
  g.desc = some (a, d) ∧ g.st = .run ∧ g.row = 0 ∧ g.rows d = 1 ∧ g.markAt d = none ∧ g.clear

/-- A request of MU `m` for line `l` under tag `tg`, whose generation moves on as it is taken (R181, R198). -/
def State.muRequest (s : State) (m l tg : Nat) (mask : BitVec 16) (row : Row) : Flit :=
  let rtag := (s.regionOf m).getD 256
  ⟨if mask == 0 then .readReq else .writeReq, rtag, .unit m, .slice (s.requestSlice rtag l), l, mask, row, tg,
    (count (s.mu m).gens tg + 1) % 16, false, 1⟩

/-- A flit of one kind is the next of its path to arrive, and the check of R196 lets it pass. -/
def State.Comes (s : State) (k : FlitKind) (f : Flit) : Prop := f.kind = k ∧ s.inOrder f = true ∧ s.tagOk f = true

/-- Slice `i` has no request in hand, keeps no one waiting, and its tags need no correction. -/
def State.SliceIdle (s : State) (i : Nat) : Prop :=
  (s.slice i).order = [] ∧ (s.slice i).park = [] ∧ (s.slice i).nacked = [] ∧ (s.slice i).tags = []

/-- Every slice holds at most one line in each way of a set, and its tags need no correction (R205, R456). -/
def State.WaysHeld (s : State) : Prop :=
  ∀ i, ((s.slice i).lines.map fun l => (setOf l.addr, l.way)).Nodup ∧ (s.slice i).tags = []

/-- Every memory has its canonical form: addresses strictly rising, and no byte listed that an unlisted address reads as. -/
def State.Canonical (s : State) : Prop :=
  Mem.wf s.mem.dram = true ∧ Mem.wf s.mem.spad = true ∧ Mem.wf s.mem.flash = true ∧ Mem.wf s.host.mem = true

/-- The copies that line `l`'s home slice holds agree, and where none of them is dirty the half-stack agrees with them (R206, R211). -/
structure State.Agrees (s : State) (l : Nat) : Prop where
  copies : ∀ x ∈ (s.slice (s.homeSlice l)).lines, x.addr = l → x.row = s.lineRow l
  clean : (∀ x ∈ (s.slice (s.homeSlice l)).lines, x.addr = l → x.dirty = false) → s.mem.dramRow l = s.lineRow l

/-- Two exact values are the same: both NaN, the same infinity, or the same number with the same sign (R47). -/
def Fp.same : Fp → Fp → Prop
  | .nan, .nan => True
  | .inf a, .inf b => a = b
  | .fin a m e, .fin b n f => a = b ∧ m * 2 ^ (e - min e f).toNat = n * 2 ^ (f - min e f).toNat
  | _, _ => False

/-- The answer of one kind to a request, one packet: from its destination to its source, under its tag and generation (R198). -/
def answerOf (f : Flit) (kind : FlitKind) (row : Row) (down : Bool) : Flit :=
  ⟨kind, f.rtag, f.dst, f.src, f.addr, 0, row, f.tag, f.gen, down, 1⟩

end Sys2Proof.Machine
end

