-- ==== Sys2Proof/Certificates/Slice0/Obligations.lean ====
section
/-! DEFINITION. What is to be proved of the model. Each statement's docstring names the rule it formalises. -/

open Sys2Proof Sys2Proof.Machine

/-! ### The queue, reset, and the encoding of unit instructions -/

/-- A step takes the command at the front of the queue and runs it with the queue's rest. -/
def Obligations.StepTakesFront : Prop :=
  ∀ (c : Instr) (rest : List Instr) (s : State), s.pending = c :: rest → step s = exec c { s with pending := rest }

/-- On an empty queue one core cycle passes: device time moves on by 8 dt while it runs, with the sweep of a step boundary where one
falls, and while it stands the memories, the compute units and the host side stand too (R12, R249; log entry 14). -/
def Obligations.IdleStepPassesOneCycle : Prop :=
  ∀ s : State, s.pending = [] →
    (s.awake = true → s.time.running = true → s.onStep ((s.time.now + 8) % 2 ^ 64) = false →
      ∃ t, step s = .next t ∧ t.time = { s.time with now := (s.time.now + 8) % 2 ^ 64, lostFor := s.time.lostFor.map (· + 8) } ∧ t.mem = s.mem ∧ t.cus = s.cus ∧
        t.mus = s.mus ∧ t.host = s.host ∧ t.pending = []) ∧
    (s.awake = true → s.time.running = true → s.onStep ((s.time.now + 8) % 2 ^ 64) = true →
      ∃ t, step s = .next t ∧ t = (s.passTo (s.time.now + 8)).sweep) ∧
    (s.time.running = false → ∃ t, step s = .next t ∧ t.time = s.time ∧ t.mem = s.mem ∧ t.cus = s.cus ∧ t.host = s.host)

/-- Reset leaves the module Off, every register at its Reset value, its queue, contexts and engines empty, every memory in its canonical
form and DRAM zero, and device time at 0 (R16, R40; the values the spec does not give are the model's: log entries 3, 4 and 5). -/
def Obligations.ResetValues : Prop :=
  State.reset.power.st = .off ∧ State.reset.pending = [] ∧ State.reset.time.now = 0 ∧ State.reset.time.running = false ∧
  (∀ off, State.reset.reg off = pfReset off) ∧ (∀ fn off, State.reset.fnReg fn off = fnReset off) ∧
  (∀ off, State.reset.pbReg off = 0) ∧ (∀ a, Mem.byte State.reset.mem.dram a = 0) ∧
  (∀ u k, State.reset.cx u k = Ctx.empty) ∧ (∀ m e, State.reset.eng m e = Eng.empty) ∧
  State.reset.reg aHubId = 15 ∧ (State.reset.reg aPavStatus).bits 21 16 = 63 ∧ State.reset.reg aPavPer = 16000000000 ∧
  (State.reset.reg aPavGrid).bits 15 0 = 128 ∧ State.reset.reg aWfPlimit = 21000 ∧ State.reset.wf.mask = 0x7fff ∧ State.reset.Canonical

/-- Decoding the word of any unit instruction gives it back: no operand is lost (R110, R111). -/
def Obligations.DecodeOfEncode : Prop := ∀ z : Zelux, decodeZelux (encodeZelux z) = some z

/-- A word that decodes is the word of what it decodes to: no bit of a legal word is ignored (R111, R112). -/
def Obligations.EncodeOfDecode : Prop := ∀ (w : W64) (z : Zelux), decodeZelux w = some z → encodeZelux z = w

/-- Words written out from the encoding tables decode to the instructions they stand for; the reserved CLASSes decode to none, as do
reserved OPs and set reserved bits of classes 0 to 4 (R111, R112, R116, R120, R121, R131, R133, R138). -/
def Obligations.WordsDecode : Prop :=
  decodeZelux 0x100111FFFE488000#64 =
    some (.mma ⟨2, 1, 0, 1, 31, 31, 31, 1, 1, 0, 0, 0, 1⟩) ∧
  decodeZelux (0b0010#4 ++ 0b000000#6 ++ 0b001#3 ++ 0b1#1 ++ 0b000101#6 ++ 0b000011#6 ++ 0b100001#6 ++ 0b000000#6 ++ 0b00111#5 ++ 0b001#3 ++ 0#18) =
    some (.vec .add ⟨false, 1, 1, 5, 3, 0x21, 0, 7, 1⟩) ∧
  decodeZelux (0b0011#4 ++ 0b000011#6 ++ 0b000#3 ++ 0b0#1 ++ 0b010001#6 ++ 0b010010#6 ++ 0b000011#6 ++ 0b100000#6 ++ 0b00000#5 ++ 0b000#3 ++ 0#18) =
    some (.vec .fma ⟨true, 0, 0, 0x11, 0x12, 3, 0x20, 0, 0⟩) ∧
  decodeZelux (0b0100#4 ++ 0b000001#6 ++ 0b010#3 ++ 0b0#1 ++ 0b000100#6 ++ 0b010011#6 ++ 0b1#1 ++ 0b010#3 ++ 0#34) =
    some (.red .max ⟨2, 0, 4, 0x13, 1, 2⟩) ∧
  decodeZelux (0b0111#4 ++ 0b000000#6 ++ 0#4 ++ 0b10#2 ++ 0b0#1 ++ 0b0000000000001001#16 ++ 0b00000#5 ++ 0b00000000111#11 ++ 0#15) =
    some (.loop ⟨2, 0, 9, 0, 7⟩) ∧
  decodeZelux (0b0111#4 ++ 0b010001#6 ++ 0#4 ++ 0b00101#5 ++ 0b00110#5 ++ 0b00000#5 ++ 0b1#1 ++ 0#2 ++ 0xFFFFFFFF#32) =
    some (.scal .sadd ⟨5, 6, 0, 1, 0xFFFFFFFF⟩) ∧
  decodeZelux (0b0000#4 ++ 0b000010#6 ++ 0#4 ++ 0b1#1 ++ 0b11#2 ++ 0#47) = some (.yld true 3) ∧
  decodeZelux 0#64 = some .nop ∧
  (∀ w : W64, 9 ≤ w.bits 63 60 → decodeZelux w = none) ∧
  (∀ w : W64, w.bits 63 60 = 0 → 7 ≤ w.bits 59 54 → decodeZelux w = none) ∧
  (∀ w : W64, w.bits 63 60 = 2 ∨ w.bits 63 60 = 3 → (w.bits 59 54 = 6 ∨ 0x23 ≤ w.bits 59 54 ∨ w.bits 17 0 ≠ 0) → decodeZelux w = none) ∧
  (∀ w : W64, w.bits 63 60 = 1 → w.bits 59 50 ≠ 0 ∨ w.bits 14 0 ≠ 0 → decodeZelux w = none) ∧
  (∀ w : W64, w.bits 63 60 = 4 → 3 ≤ w.bits 59 54 ∨ w.bits 33 0 ≠ 0 → decodeZelux w = none)

/-- An instruction that no active context stands at does not issue and changes nothing (log entry 9); a context in wait.step does not
issue, and the cycle is counted as a wait cycle (R140); one that holds issue and finds a port it takes from empty counts an empty-Q stall
(R107); an uncorrectable instruction word stops its context, is counted once and logged (R455, R468). -/
def Obligations.InstructionsHeld : Prop :=
  (∀ (z : Zelux) (u : Nat) (s : State), z.legal = true →
      (s.stoppedAt u = true ∨ (s.cu u).active = none ∨ ∃ k, (s.cu u).active = some k ∧ (s.cx u k).standsAt z = false ∧
        ((s.cx u k).hold = none ∨ (s.cu u).heldEmpty z = false) ∧ count (s.cx u k).upset (s.cx u k).pc ≠ 3) →
      exec (z.cmd u) s = .next s) ∧
  (∀ (z : Zelux) (u k : Nat) (s : State), z.legal = true → s.stoppedAt u = false → (s.cu u).active = some k →
      ((s.cx u k).standsAt z = true → (s.cx u k).waits s.time.now = true →
        ∃ t, exec (z.cmd u) s = .next t ∧ OnlyCtx s t u k ∧
          t.cx u k = { s.cx u k with stalls := bump (s.cx u k).stalls 6 1 } ∧ t.rgns = s.rgns) ∧
      ((s.cx u k).st = .active → (s.cx u k).hold.isSome = true → (s.cx u k).imem[(s.cx u k).pc]? = some (encodeZelux z) →
        (s.cu u).heldEmpty z = true →
        ∃ t, exec (z.cmd u) s = .next t ∧ OnlyCtx s t u k ∧
          t.cx u k = { s.cx u k with stalls := bump (s.cx u k).stalls 0 1 } ∧ t.rgns = s.rgns) ∧
      ((s.cx u k).st = .active → (s.cx u k).hold = none → count (s.cx u k).upset (s.cx u k).pc = 3 →
        ∃ t, exec (z.cmd u) s = .next t ∧ t = { s with cus := t.cus, regs := t.regs, log := t.log } ∧ (∀ v, v ≠ u → t.cu v = s.cu v) ∧
          t.cx u k = { s.cx u k with upset := FMap.set 0 (s.cx u k).upset (s.cx u k).pc 4 } ∧ t.log ≠ [] ∧
          (unitDie u < 16 → t.reg (aMemCnt (48 + unitDie u) 2) = s.reg (aMemCnt (48 + unitDie u) 2) + 1)))

/-! ### Number formats and digests -/

/-- Every F16 value converts to F19 as it is, an infinity to an infinity and a NaN to the canonical NaN (R48); an element of a block with
scale X reads as 2^(X − 127) times its own value, a NaN as NaN and an infinity as infinity, and every element of a block with scale 0xFF
as the canonical NaN (R51, R52): on its way to an F32, where a value of 2^128 or more is infinity, and as a matrix operand. -/
def Obligations.FormatConversions : Prop :=
  (∀ (h : Nat) (md : Rnd), h < 65536 → md = .rne ∨ md = .rtz →
    let w := (f32ToF19 md (f16ToF32 h).1).1
    w.toNat % 2 ^ 13 = 0 ∧ (f32 w).same (fmtF16.decode h) ∧ (fmtF16.decode h = .nan → w = canonNan)) ∧
  (∀ fmt X code : Nat, 1 ≤ fmt → fmt ≤ 5 →
    (blockToF32 fmt 255 code).1 = canonNan ∧
    (X < 255 → match (blockFmt fmt).decode code with
      | .nan => (blockToF32 fmt X code).1 = canonNan
      | .inf n => f32 (blockToF32 fmt X code).1 = .inf n
      | .fin n m e =>
        (m = 0 ∨ e + X - 127 + bitLen m ≤ 128 → (f32 (blockToF32 fmt X code).1).same (.fin n m (e + X - 127))) ∧
        (m ≠ 0 → 128 < e + X - 127 + bitLen m → f32 (blockToF32 fmt X code).1 = .inf n))) ∧
  (∀ (fmt : Nat) (rne : Bool) (w : W32), 1 ≤ fmt → fmt ≤ 5 →
    let X := w.toNat / 256 % 256
    (X = 255 → mmaOperand fmt rne w = .nan) ∧
    (X < 255 → match (blockFmt fmt).decode (w.toNat % 2 ^ (blockFmt fmt).width) with
      | .fin n m e => ∃ M E, mmaOperand fmt rne w = .fin n M E ∧ (Fp.fin n M (E - 10)).same (.fin n m (e + X - 127))
      | v => mmaOperand fmt rne w = v))

/-- A digest is the first 16 bytes of SHA-256 over its block, output byte i at its bits 8i + 7 down to 8i (R497); FIPS 180-4's own
example, the block "abc", has the digest the standard gives. -/
def Obligations.DigestBytes : Prop :=
  (∀ (l : List Byte) (i : Nat), i < 16 → (sha256 l).length = 32 ∧ (digestOf l).extractLsb' (8 * i) 8 = (sha256 l).getD i 0) ∧
  (∀ l : List Byte, (digestOf l).toNat % 2 ^ 32 = leNat ((sha256 l).take 4)) ∧
  digestOf [0x61, 0x62, 0x63] = 0x2322ae5dde404141eacf018fbf1678ba#128

/-! ### Unit instructions: registers -/

/-- A vector instruction writes each lane of each of its rows with what the operation makes of the source lanes, a masked lane keeping its
value, and the events are on their way to ASTAT; every other register, and everything outside the context, is as before (R113, R121, R122,
R123, R137). -/
def Obligations.VectorLanes : Prop :=
  ∀ (o : VecOp) (u k : Nat) (f : VecF) (s : State),
    Issues s u k (.vec o f) → (s.cu u).hazard k ((s.cx u k).vecUse o f) = .go →
    ∃ t, exec (o.cmd u f) s = .next t ∧ OnlyCtx s t u k ∧
      (∀ r ∈ f.rows, ∀ j, j < 32 →
        ((t.cx u k).regRow f.dst.toNat r).lane j = ((s.cx u k).vecLaneAt o f r j).1.1 ∧
        ((t.cx u k).regRow f.dst.toNat r).mark j =
          (((s.cx u k).vecLaneAt o f r (2 * (j / 2))).1.2 || ((s.cx u k).vecLaneAt o f r (2 * (j / 2) + 1)).1.2)) ∧
      (∀ c i, c ≠ f.dst.toNat → i < 32 → (t.cx u k).regRow c i = (s.cx u k).regRow c i) ∧
      (t.cx u k).late = f.rows.foldl (fun e r =>
        (List.range 32).foldl (fun e j => e ||| ((s.cx u k).vecLaneAt o f r j).2) e) (s.cx u k).late ∧
      (s.cx u k).advanced (t.cx u k) ∧
      t.cx u k = { s.cx u k with v := (t.cx u k).v, t := (t.cx u k).t, late := (t.cx u k).late, pc := (t.cx u k).pc,
                                 l := (t.cx u k).l, waitTo := none }

/-- Integer add, subtract, multiply, minimum and maximum saturate at the TYPE width, and a result that does sets ISAT (R56, R64, R122);
shifts take their count from b[7:0], a count at or above the width gives 0 or the sign fill, and and, or and xor act on all 32 bits
(R122); a NaN makes every ordered compare false and "not equal" true, minimum and maximum return the canonical NaN and set NANIN, and −0
equals +0 but orders below it (R66, R68, R124). -/
def Obligations.LaneResults : Prop :=
  (∀ (ty : Nat) (m : Rnd) (a b c : W32), 1 ≤ ty → ty ≤ 3 →
      let w := typeWidth ty
      (w = if ty = 1 then 32 else if ty = 2 then 16 else 8) ∧
      (∀ (o : VecOp) (v : Int), (o, v) ∈ [(VecOp.add, a.toInt + b.toInt), (.sub, a.toInt - b.toInt), (.mul, a.toInt * b.toInt),
          (.min, min a.toInt b.toInt), (.max, max a.toInt b.toInt)] →
        (vecLane o m ty a b c).1.toInt = clampTo w v ∧
        (vecLane o m ty a b c).2 = if clampTo w v = v then 0 else evIsat)) ∧
  (∀ (ty : Nat) (m : Rnd) (a b c : W32), 1 ≤ ty → ty ≤ 3 →
      let w := typeWidth ty
      let n := b.toNat % 256
      let low : Int := (BitVec.ofNat w a.toNat).toInt
      (vecLane .shl m ty a b c).1.toInt = (if w ≤ n then 0 else (BitVec.ofNat w (a.toNat * 2 ^ n)).toInt) ∧
      (vecLane .shr m ty a b c).1.toInt = (if w ≤ n then 0 else (BitVec.ofNat w (a.toNat % 2 ^ w / 2 ^ n)).toInt) ∧
      (vecLane .sar m ty a b c).1.toInt = (if w ≤ n then (if low < 0 then -1 else 0) else low / 2 ^ n) ∧
      (vecLane .and m 1 a b c).1 = a &&& b ∧ (vecLane .or m 1 a b c).1 = a ||| b ∧ (vecLane .xor m 1 a b c).1 = a ^^^ b ∧
      (∀ o : VecOp, o ∈ [VecOp.shl, .shr, .sar, .and, .or, .xor, .mov] → (vecLane o m ty a b c).2 = 0)) ∧
  (∀ (a b : W32),
      (f32IsNan a = true ∨ f32IsNan b = true →
        (∀ o : PredOp, o ∈ [PredOp.eq, .lt, .le, .gt, .ge] → cmpLane o 0 a b = (false, evNanin)) ∧ cmpLane .ne 0 a b = (true, evNanin)) ∧
      (f32IsNan a = false → f32IsNan b = false → ∀ o : PredOp, (cmpLane o 0 a b).2 = 0) ∧
      (cmpLane .eq 0 0x80000000 0 = (true, 0)) ∧
      (f32IsNan a = true ∨ f32IsNan b = true → ∀ (o : VecOp) (m : Rnd) (c : W32), o = .min ∨ o = .max →
        vecLane o m 0 a b c = (canonNan, evNanin)) ∧
      (∀ (m : Rnd) (c : W32), vecLane .min m 0 0x80000000 0 c = (0x80000000, 0) ∧ vecLane .max m 0 0x80000000 0 c = (0, 0)) ∧
      (∀ ty, 1 ≤ ty → (cmpLane .lt ty a b).1 = decide (a.toInt < b.toInt) ∧ (cmpLane .eq ty a b).1 = decide (a.toInt = b.toInt)))

/-- A compare sets each unmasked bit of PD from its lanes and leaves a masked one, and PD is poisoned by a consumed mark, a poisoned
predicate, or a poisoned bit that it keeps; P0 stays all ones; its events are on their way to ASTAT, and nothing else changes (R77, R124,
R134, R137). -/
def Obligations.CompareBits : Prop :=
  ∀ (o : PredOp) (u k : Nat) (f : PredF) (s : State), o.compares = true →
    Issues s u k (.pred o f) → (s.cu u).hazard k ((s.cx u k).cmpUse f) = .go →
    ∃ t, exec (o.cmd u f) s = .next t ∧ OnlyCtx s t u k ∧
      (f.pd ≠ 0 → ∀ j, j < 32 → ((t.cx u k).pReg f.pd.toNat).val.getLsbD j =
        if (s.cx u k).mask f.pred f.pneg j
        then (cmpLane o f.ty.toNat ((s.cx u k).cmpSource f f.sa j).1 ((s.cx u k).cmpSource f f.sb j).1).1
        else ((s.cx u k).pReg f.pd.toNat).val.getLsbD j) ∧
      (f.pd ≠ 0 → (((t.cx u k).pReg f.pd.toNat).poi = true ↔
        (∃ j, j < 32 ∧ (s.cx u k).mask f.pred f.pneg j = true ∧
          (((s.cx u k).cmpSource f f.sa j).2 = true ∨ ((s.cx u k).cmpSource f f.sb j).2 = true)) ∨
        (s.cx u k).maskPoison f.pred = true ∨
        ((∃ j, j < 32 ∧ (s.cx u k).mask f.pred f.pneg j = false) ∧ ((s.cx u k).pReg f.pd.toNat).poi = true))) ∧
      (t.cx u k).pReg 0 = ⟨0xffffffff, false⟩ ∧
      (∀ q, q ≠ f.pd.toNat → (t.cx u k).pReg q = (s.cx u k).pReg q) ∧
      (t.cx u k).late = (List.range 32).foldl (fun e j => if (s.cx u k).mask f.pred f.pneg j
        then e ||| (cmpLane o f.ty.toNat ((s.cx u k).cmpSource f f.sa j).1 ((s.cx u k).cmpSource f f.sb j).1).2 else e) (s.cx u k).late ∧
      (s.cx u k).advanced (t.cx u k) ∧
      t.cx u k = { s.cx u k with p := (t.cx u k).p, late := (t.cx u k).late, pc := (t.cx u k).pc, l := (t.cx u k).l, waitTo := none }

/-- The predicate operations write PD, or S[SS], and carry poison from what they read; a write to P0 is ignored (R77, R124, R134). -/
def Obligations.PredicateOperations : Prop :=
  ∀ (o : PredOp) (u k : Nat) (f : PredF) (s : State), o.compares = false → Issues s u k (.pred o f) →
    ∃ t, exec (o.cmd u f) s = .next t ∧ OnlyCtx s t u k ∧ (s.cx u k).advanced (t.cx u k) ∧
      (let a := (s.cx u k).pReg f.pa.toNat
       let b := (s.cx u k).pReg f.pb.toNat
       (o ≠ .pget → f.pd ≠ 0 → (t.cx u k).pReg f.pd.toNat =
         if o = .pset then (s.cx u k).sReg f.ss.toNat
         else ⟨if o = .pand then a.val &&& b.val else if o = .por then a.val ||| b.val else if o = .pxor then a.val ^^^ b.val
               else a.val &&& ~~~b.val, a.poi || b.poi⟩) ∧
       (o = .pget → (t.cx u k).sReg f.ss.toNat = a)) ∧
      (∀ q, (q ≠ f.pd.toNat ∨ q = 0 ∨ o = .pget) → (t.cx u k).pReg q = (s.cx u k).pReg q) ∧
      (∀ q, (q ≠ f.ss.toNat ∨ o ≠ .pget) → (t.cx u k).sReg q = (s.cx u k).sReg q) ∧
      t.cx u k = { s.cx u k with p := (t.cx u k).p, sr := (t.cx u k).sr, pc := (t.cx u k).pc, l := (t.cx u k).l, waitTo := none }

/-- A reduction writes lane r of DST with the tree over row r's slots, or over slot r of each row; a masked slot enters as the identity; a
consumed mark marks the lane's word; every other register is as before, and the events are on their way to ASTAT (R67, R95, R126, R137).
-/
def Obligations.ReductionLanes : Prop :=
  ∀ (o : RedOp) (u k : Nat) (f : RedF) (s : State), Issues s u k (.red o f) → (s.cu u).hazard k ((s.cx u k).redUse f) = .go →
    ∃ t, exec (o.cmd u f) s = .next t ∧ OnlyCtx s t u k ∧ (s.cx u k).advanced (t.cx u k) ∧
      (∀ r, r < 32 → ((t.cx u k).vReg f.dst.toNat).lane r =
        (redTree o (s.cx u k).rnd f.ty.toNat (((s.cx u k).redSlots o f r).map (·.1))).1) ∧
      (∀ r, r < 32 → ((t.cx u k).vReg f.dst.toNat).mark r = (((s.cx u k).redSlots o f (2 * (r / 2))).any (·.2) ||
        ((s.cx u k).redSlots o f (2 * (r / 2) + 1)).any (·.2) || (s.cx u k).maskPoison f.pred)) ∧
      (t.cx u k).late = (s.cx u k).late ||| (List.range 32).foldl (fun e r =>
        e ||| (redTree o (s.cx u k).rnd f.ty.toNat (((s.cx u k).redSlots o f r).map (·.1))).2) 0 ∧
      (∀ c i, c ≠ f.dst.toNat → i < 32 → (t.cx u k).regRow c i = (s.cx u k).regRow c i) ∧
      t.cx u k = { s.cx u k with v := (t.cx u k).v, late := (t.cx u k).late, pc := (t.cx u k).pc, l := (t.cx u k).l, waitTo := none }

/-- The scalar operations wrap at 32 bits; shifts take their count from b[7:0], and 32 or more gives 0 or the sign fill; the result is
poisoned by a poisoned operand (R133, R134). -/
def Obligations.ScalarOperations : Prop :=
  ∀ (o : ScalOp) (u k : Nat) (f : ScalF) (s : State), Issues s u k (.scal o f) →
    ∃ t, exec (o.cmd u f) s = .next t ∧ OnlyCtx s t u k ∧ (s.cx u k).advanced (t.cx u k) ∧
      (let a := (s.cx u k).sReg f.sa.toNat
       let b : Scal := if o = .sli ∨ f.bimm = 1 then ⟨f.imm, false⟩ else (s.cx u k).sReg f.sb.toNat
       let n := b.val.toNat % 256
       let v := ((t.cx u k).sReg f.sd.toNat).val
       ((t.cx u k).sReg f.sd.toNat).poi = ((decide (o ≠ .sli) && a.poi) || b.poi) ∧
       (match o with
        | .sli => v = f.imm
        | .sadd => v.toNat = (a.val.toNat + b.val.toNat) % 2 ^ 32
        | .ssub => v.toNat = (a.val.toNat + 2 ^ 32 - b.val.toNat) % 2 ^ 32
        | .smul => v.toNat = a.val.toNat * b.val.toNat % 2 ^ 32
        | .sand => v = a.val &&& b.val
        | .sor => v = a.val ||| b.val
        | .sxor => v = a.val ^^^ b.val
        | .sshl => v.toNat = if 32 ≤ n then 0 else a.val.toNat * 2 ^ n % 2 ^ 32
        | .sshr => v.toNat = if 32 ≤ n then 0 else a.val.toNat / 2 ^ n
        | .ssar => v.toInt = if 32 ≤ n then (if a.val.toInt < 0 then -1 else 0) else a.val.toInt / 2 ^ n
        | .smin => v.toInt = min a.val.toInt b.val.toInt
        | .smax => v.toInt = max a.val.toInt b.val.toInt)) ∧
      (∀ q, q ≠ f.sd.toNat → (t.cx u k).sReg q = (s.cx u k).sReg q) ∧
      t.cx u k = { s.cx u k with sr := (t.cx u k).sr, pc := (t.cx u k).pc, l := (t.cx u k).l, waitTo := none }

/-! ### Unit instructions: control, modes, moves -/

/-- loop sets its counter and enters the body, or at count 0 leaves it; a poisoned count is a POISON fault; the end of an instruction that
closes one loop counts it down and goes back to its first instruction, or leaves it with the counter 0 (R131, R134). -/
def Obligations.LoopIssues : Prop :=
  (∀ (u k : Nat) (f : LoopF) (s : State), Issues s u k (.loop f) →
      (¬(f.csrc = 1 ∧ ((s.cx u k).sReg f.sidx.toNat).poi = true) →
        ∃ t, exec (.loop u f) s = .next t ∧ OnlyCtx s t u k ∧
          t.cx u k = { s.cx u k with l := (t.cx u k).l, pc := (t.cx u k).pc, waitTo := none } ∧
          (0 < (s.cx u k).loopCount f →
            (t.cx u k).pc = (s.cx u k).pc + 1 ∧ (t.cx u k).lReg f.l.toNat = BitVec.ofNat 16 ((s.cx u k).loopCount f) ∧
            ∀ q, q ≠ f.l.toNat → (t.cx u k).lReg q = (s.cx u k).lReg q) ∧
          ((s.cx u k).loopCount f = 0 → loopsAt (s.cx u k).imem f.endpc.toNat = [(f.l.toNat, (s.cx u k).pc + 1)] →
            (t.cx u k).pc = f.endpc.toNat + 1 ∧ (t.cx u k).lReg f.l.toNat = 0 ∧
            ∀ q, q ≠ f.l.toNat → (t.cx u k).lReg q = (s.cx u k).lReg q)) ∧
      (f.csrc = 1 → ((s.cx u k).sReg f.sidx.toNat).poi = true →
        ∃ t, exec (.loop u f) s = .next t ∧ Faulted s t u k 1)) ∧
  (∀ (x : Ctx) (c first : Nat), loopsAt x.imem x.pc = [(c, first)] →
      (1 < (x.lReg c).toNat → x.advance.pc = first ∧ (x.advance.lReg c).toNat = (x.lReg c).toNat - 1) ∧
      ((x.lReg c).toNat ≤ 1 → x.advance.pc = x.pc + 1 ∧ x.advance.lReg c = 0) ∧
      (∀ q, q ≠ c → x.advance.lReg q = x.lReg q) ∧ x.advance = { x with pc := x.advance.pc, l := x.advance.l })

/-- setmode changes the masked MODE bits and clears the named ASTAT bits; getstat reads both; which events of earlier instructions have
occurred by then is open, and with none on its way nothing is; nop does nothing but end (R136–R138; log entry 72). -/
def Obligations.ModeClass : Prop :=
  (∀ (u k : Nat) (mask value aclr : BitVec 8) (s : State), Issues s u k (.setmode mask value aclr) →
    ∃ (t : State) (w : BitVec 8), exec (.setmode u mask value aclr) s = .next t ∧ OnlyCtx { s with free := t.free } t u k ∧
      (s.cx u k).advanced (t.cx u k) ∧ ((s.cx u k).late = 0 → t.free = s.free ∧ (t.cx u k).late = 0) ∧
      (∀ i, (t.cx u k).mode.getLsbD i = if mask.getLsbD i then value.getLsbD i else (s.cx u k).mode.getLsbD i) ∧
      (∀ i, i < 8 → (t.cx u k).astat.getLsbD i =
        (((s.cx u k).astat.getLsbD i || ((s.cx u k).late.getLsbD i && w.getLsbD i)) && !aclr.getLsbD i)) ∧
      (∀ i, (t.cx u k).late.getLsbD i = true → (s.cx u k).late.getLsbD i = true) ∧
      t.cx u k = { s.cx u k with mode := (t.cx u k).mode, astat := (t.cx u k).astat, late := (t.cx u k).late, pc := (t.cx u k).pc,
                                 l := (t.cx u k).l, waitTo := none }) ∧
  (∀ (u k : Nat) (sd : BitVec 5) (s : State), Issues s u k (.getstat sd) →
    ∃ (t : State) (w : BitVec 8), exec (.getstat u sd) s = .next t ∧ OnlyCtx { s with free := t.free } t u k ∧
      (s.cx u k).advanced (t.cx u k) ∧ ((s.cx u k).late = 0 → t.free = s.free ∧ (t.cx u k).late = 0) ∧
      (t.cx u k).astat = (s.cx u k).astat ||| ((s.cx u k).late &&& w) ∧
      ((t.cx u k).sReg sd.toNat).val = 0#16 ++ (s.cx u k).mode ++ (t.cx u k).astat ∧ ((t.cx u k).sReg sd.toNat).poi = false ∧
      (∀ q, q ≠ sd.toNat → (t.cx u k).sReg q = (s.cx u k).sReg q) ∧
      t.cx u k = { s.cx u k with sr := (t.cx u k).sr, astat := (t.cx u k).astat, late := (t.cx u k).late, pc := (t.cx u k).pc,
                                 l := (t.cx u k).l, waitTo := none }) ∧
  (∀ (u k : Nat) (s : State), Issues s u k .nop →
    ∃ t, exec (.nop u) s = .next t ∧ OnlyCtx s t u k ∧ (s.cx u k).advanced (t.cx u k) ∧
      t.cx u k = { s.cx u k with pc := (t.cx u k).pc, l := (t.cx u k).l, waitTo := none })

/-- lget and lput move one lane with its mark; rowget reads a tile's row into a V register as soon as that row is there; rowput writes the
unmasked lanes of a tile's row; a poisoned row index is a POISON fault and writes no register (R115, R127, R134). -/
def Obligations.RowAndLaneMoves : Prop :=
  ((∀ (u k : Nat) (f : MoveF) (s : State), Issues s u k (.move .lget f) → (s.cu u).hazard k ⟨[f.reg.toNat], []⟩ = .go →
      ∃ t, exec (.lget u f) s = .next t ∧ OnlyCtx s t u k ∧ (s.cx u k).advanced (t.cx u k) ∧
        (t.cx u k).sReg f.sa.toNat = ⟨((s.cx u k).vReg f.reg.toNat).lane f.imm.toNat, ((s.cx u k).vReg f.reg.toNat).mark f.imm.toNat⟩ ∧
        (∀ q, q ≠ f.sa.toNat → (t.cx u k).sReg q = (s.cx u k).sReg q) ∧
        t.cx u k = { s.cx u k with sr := (t.cx u k).sr, pc := (t.cx u k).pc, l := (t.cx u k).l, waitTo := none }) ∧
    (∀ (u k : Nat) (f : MoveF) (s : State), Issues s u k (.move .lput f) → (s.cu u).hazard k ⟨[], [f.reg.toNat]⟩ = .go →
      ∃ t, exec (.lput u f) s = .next t ∧ OnlyCtx s t u k ∧ (s.cx u k).advanced (t.cx u k) ∧
        ((t.cx u k).vReg f.reg.toNat).lane f.imm.toNat = ((s.cx u k).sReg f.sa.toNat).val ∧
        (∀ j, j < 32 → j ≠ f.imm.toNat → ((t.cx u k).vReg f.reg.toNat).lane j = ((s.cx u k).vReg f.reg.toNat).lane j) ∧
        (((s.cx u k).sReg f.sa.toNat).poi = true → ((t.cx u k).vReg f.reg.toNat).mark f.imm.toNat = true) ∧
        (∀ c i, c ≠ f.reg.toNat → i < 32 → (t.cx u k).regRow c i = (s.cx u k).regRow c i) ∧
        t.cx u k = { s.cx u k with v := (t.cx u k).v, pc := (t.cx u k).pc, l := (t.cx u k).l, waitTo := none })) ∧
  ((∀ (u k : Nat) (f : MoveF) (s : State), Issues s u k (.move .rowget f) →
      (s.cu u).hazardRows k ⟨[f.reg.toNat], [f.pmask.toNat]⟩ (· == (s.cx u k).rowIndex f) = .go → (s.cx u k).rowIndexPoison f = false →
      ∃ t, exec (.rowget u f) s = .next t ∧ OnlyCtx s t u k ∧ (s.cx u k).advanced (t.cx u k) ∧
        (t.cx u k).vReg f.pmask.toNat =
          (s.cx u k).regRow f.reg.toNat (if f.rsel = 1 then ((s.cx u k).sReg f.sa.toNat).val.toNat % 32 else f.imm.toNat) ∧
        (∀ c i, c ≠ f.pmask.toNat → i < 32 → (t.cx u k).regRow c i = (s.cx u k).regRow c i) ∧
        t.cx u k = { s.cx u k with v := (t.cx u k).v, pc := (t.cx u k).pc, l := (t.cx u k).l, waitTo := none }) ∧
    (∀ (u k : Nat) (f : MoveF) (s : State), Issues s u k (.move .rowput f) →
      (s.cu u).hazard k ⟨[f.pmask.toNat], [f.reg.toNat]⟩ = .go → (s.cx u k).rowIndexPoison f = false →
      ∃ t, exec (.rowput u f) s = .next t ∧ OnlyCtx s t u k ∧ (s.cx u k).advanced (t.cx u k) ∧
        (let i := if f.rsel = 1 then ((s.cx u k).sReg f.sa.toNat).val.toNat % 32 else f.imm.toNat
         (∀ j, j < 32 → ((t.cx u k).regRow f.reg.toNat i).lane j =
           if (s.cx u k).mask f.pred f.pneg j then ((s.cx u k).vReg f.pmask.toNat).lane j else ((s.cx u k).regRow f.reg.toNat i).lane j) ∧
         (∀ c r, (c ≠ f.reg.toNat ∨ r ≠ i) → r < 32 → (t.cx u k).regRow c r = (s.cx u k).regRow c r)) ∧
        t.cx u k = { s.cx u k with t := (t.cx u k).t, pc := (t.cx u k).pc, l := (t.cx u k).l, waitTo := none }) ∧
    (∀ (o : MoveOp) (u k : Nat) (f : MoveF) (s : State), o = .rowget ∨ o = .rowput → Issues s u k (.move o f) →
      (o = .rowget → (s.cu u).hazardRows k ⟨[f.reg.toNat], [f.pmask.toNat]⟩ (· == (s.cx u k).rowIndex f) = .go) →
      (o = .rowput → (s.cu u).hazard k ⟨[f.pmask.toNat], [f.reg.toNat]⟩ = .go) →
      (s.cx u k).rowIndexPoison f = true →
      ∃ t, exec ((Zelux.move o f).cmd u) s = .next t ∧ Faulted s t u k 1 ∧ (t.cx u k).v = (s.cx u k).v))

/-- pop fills a register from each named port, in rising order, once every port has given m tokens with END on the last; drop discards
them; the tokens behind stay (R102, R127, R128). -/
def Obligations.PopAndDrop : Prop :=
  (∀ (u k p : Nat) (f : MoveF) (s : State) (h : Token) (rest : List Token), Issues s u k (.move .pop f) → isVreg f.reg = true →
    maskPorts f.pmask = [p] → (s.cu u).hazard k ⟨[], [f.reg.toNat]⟩ = .go → (s.cu u).qTokens p = h :: rest →
    ∃ t, exec (.pop u f) s = .next t ∧ OnlyUnit s t u ∧ (s.cx u k).advanced (t.cx u k) ∧ (t.cu u).qTokens p = rest ∧
      (t.cx u k).vReg f.reg.toNat = h.row ∧ (∀ q, q ≠ p → (t.cu u).qTokens q = (s.cu u).qTokens q) ∧
      (∀ c i, c ≠ f.reg.toNat → i < 32 → (t.cx u k).regRow c i = (s.cx u k).regRow c i) ∧ (∀ j, j ≠ k → t.cx u j = s.cx u j)) ∧
  (∀ (o : MoveOp) (u k : Nat) (f : MoveF) (s : State) (got rest : Nat → List Token), o = .pop ∨ o = .drop →
    Issues s u k (.move o f) → (o = .pop → isTreg f.reg = true ∧ (s.cu u).hazard k ⟨[], popTargets f⟩ = .go) →
    (∀ p ∈ maskPorts f.pmask, (s.cu u).qTokens p = got p ++ rest p ∧ (got p).length = f.mm1.toNat + 1 ∧
      ∀ i, i < (got p).length → ((got p).getD i ⟨Row.zero, false⟩).fin = decide (i = f.mm1.toNat)) →
    ∃ t, exec ((Zelux.move o f).cmd u) s = .next t ∧ OnlyUnit s t u ∧ (s.cx u k).advanced (t.cx u k) ∧ (t.cx u k).hold = none ∧
      (∀ p ∈ maskPorts f.pmask, (t.cu u).qTokens p = rest p) ∧
      (∀ p, p ∉ maskPorts f.pmask → (t.cu u).qTokens p = (s.cu u).qTokens p) ∧
      (∀ n p i, (maskPorts f.pmask)[n]? = some p → i ≤ f.mm1.toNat → o = .pop →
        (t.cx u k).regRow (f.reg.toNat + n) i = ((got p).getD i ⟨Row.zero, false⟩).row) ∧
      (∀ c i, i < 32 → (o = .drop ∨ c ∉ popTargets f ∨ f.mm1.toNat < i) → (t.cx u k).regRow c i = (s.cx u k).regRow c i) ∧
      (∀ j, j ≠ k → t.cx u j = s.cx u j))

/-- push leaves its context's registers alone and goes on; a push of one row into a port with a free place and no credit puts that row
there as a token with END (R127, R128). -/
def Obligations.PushSendsRows : Prop :=
  ∀ (u k p : Nat) (f : MoveF) (s : State), Issues s u k (.move .push f) → maskPorts f.pmask = [p] →
    (s.cu u).hazardRows k ⟨[f.reg.toNat], []⟩ (fun _ => false) = .go → ((s.cu u).oTokens p).length < 2 → (s.cu u).waitingPush p = none →
    (∃ t, exec (.push u f) s = .next t ∧ t = { s with cus := t.cus, rgns := t.rgns, fab := t.fab, wires := t.wires } ∧
      (∀ v, v ≠ u → t.cu v = s.cu v) ∧ (s.cx u k).advanced (t.cx u k) ∧ (s.cx u k).sameRegs (t.cx u k) ∧
      (t.cx u k).sr = (s.cx u k).sr ∧ (t.cx u k).p = (s.cx u k).p ∧ (t.cu u).qbuf = (s.cu u).qbuf) ∧
    (k < 4 → (FMap.get PortBind.free (s.cu u).obind p).wire = none → f.mm1 = 0 → (s.cu u).hazard k ⟨[f.reg.toNat], []⟩ = .go →
      ∃ t, exec (.push u f) s = .next t ∧ t.fab = s.fab ∧ t.wires = s.wires ∧
        (t.cu u).oTokens p = (s.cu u).oTokens p ++ [⟨(s.cx u k).regRow f.reg.toNat 0, true⟩] ∧ (t.cu u).waitingPush p = none)

/-- rld and rst send one request a row to the named MU, each with a tag of its own, after the checks of R130: a poisoned operand is a
POISON fault; a unit id beyond 12 bits, a unit that is no MU of the region, an offset that is no multiple of 128, and rows outside the
context's base and bound are BOUNDS faults; a check that fails sends nothing (R127, R130, R134, R141, R145). -/
def Obligations.RemoteAccess : Prop :=
  (∀ (o : MoveOp) (u k : Nat) (f : MoveF) (s : State), o = .rld ∨ o = .rst → Issues s u k (.move o f) → s.fencedRegion u = false →
      (s.cu u).hazard k (if o = .rld then ⟨[], [f.reg.toNat]⟩ else ⟨[f.reg.toNat], []⟩) = .go →
      (s.remoteCheck u (s.cx u k) f = none →
        ∃ t, exec ((Zelux.move o f).cmd u) s = .next t ∧ t = { s with cus := t.cus, rgns := t.rgns, flits := t.flits } ∧
          (s.cx u k).advanced (t.cx u k) ∧ (s.cx u k).sameRegs (t.cx u k) ∧
          t.flits.length = s.flits.length + (f.mm1.toNat + 1) ∧ t.flits.take s.flits.length = s.flits ∧
          (∀ i, i ≤ f.mm1.toNat → ∃ x, t.flits[s.flits.length + i]? = some x ∧ x.src = .unit u ∧
            x.dst = .unit (((s.cx u k).sReg f.sa.toNat).val.toNat % 4096) ∧
            x.addr = ((s.cx u k).sReg f.sb.toNat).val.toNat + 128 * i ∧ x.tag = 4 * ((s.cx u k).rtag + i) + k ∧
            x.row = (if o = .rld then Row.zero else (s.cx u k).regRow f.reg.toNat i)) ∧
          (t.cx u k).remote.length = (s.cx u k).remote.length + (f.mm1.toNat + 1) ∧
          (t.cx u k).rtag = (s.cx u k).rtag + (f.mm1.toNat + 1)) ∧
      (∀ c d, s.remoteCheck u (s.cx u k) f = some (c, d) →
        ∃ t, exec ((Zelux.move o f).cmd u) s = .next t ∧ Faulted s t u k c ∧ t.flits = s.flits ∧ (s.cx u k).remote = (t.cx u k).remote)) ∧
  (∀ (u : Nat) (x : Ctx) (f : MoveF) (s : State),
      (s.remoteCheck u x f = none ↔
        (x.sReg f.sa.toNat).poi = false ∧ (x.sReg f.sb.toNat).poi = false ∧ (x.sReg f.sa.toNat).val.toNat < 4096 ∧
        isMu (x.sReg f.sa.toNat).val.toNat = true ∧ (s.regionOf (x.sReg f.sa.toNat).val.toNat).isSome = true ∧
        s.regionOf (x.sReg f.sa.toNat).val.toNat = s.regionOf u ∧ (x.sReg f.sb.toNat).val.toNat % 128 = 0 ∧ x.rv = true ∧
        128 * x.rowLo ≤ (x.sReg f.sb.toNat).val.toNat ∧
        (x.sReg f.sb.toNat).val.toNat + 128 * (f.mm1.toNat + 1) ≤ 128 * (x.rowHi + 1)) ∧
      (∀ c d, s.remoteCheck u x f = some (c, d) →
        c = if (x.sReg f.sa.toNat).poi = true ∨ (x.sReg f.sb.toNat).poi = true then 1 else 2))

/-- end makes the context DONE; yield leaves it READY and asks for its successor; mark and the waits whose condition holds go on;
wait.step sets the boundary it waits for; once wait.drain has passed, ASTAT holds every event; with work still out, wait.sb and wait.drain
stand and count a wait cycle (R138–R140). -/
def Obligations.SyncClass : Prop :=
  ((∀ (u k : Nat) (s : State), Issues s u k .endp →
      ∃ t, exec (.endProg u) s = .next t ∧ OnlyUnit s t u ∧ (t.cu u).active = none ∧ (t.cx u k).st = .done ∧
        (s.cx u k).sameRegs (t.cx u k) ∧ (t.cx u k).pc = (s.cx u k).pc ∧
        ∀ j, j ≠ k → t.cx u j = { s.cx u j with rem := (t.cx u j).rem, que := (t.cx u j).que }) ∧
    (∀ (u k : Nat) (sv : Bool) (succ : BitVec 2) (s : State), Issues s u k (.yld sv succ) →
      ∃ t, exec (.yieldCtx u sv succ) s = .next t ∧ OnlyUnit s t u ∧ (t.cu u).active = none ∧ (t.cx u k).st = .ready ∧
        (s.cx u k).advanced (t.cx u k) ∧ (s.cx u k).sameRegs (t.cx u k) ∧ (∀ j, j ≠ k → t.cx u j = s.cx u j) ∧
        (sv = false → (t.cu u).pendSw = (s.cu u).pendSw ∧ (t.cu u).noops = (s.cu u).noops) ∧
        (sv = true → (s.cu u).pendSw = none → succ.toNat ≠ k →
          ((s.cx u succ.toNat).st = .ready ∨ (s.cx u succ.toNat).st = .done → (t.cu u).pendSw = some succ.toNat) ∧
          ((s.cx u succ.toNat).st = .empty ∨ (s.cx u succ.toNat).st = .faulted →
            (t.cu u).pendSw = none ∧ (t.cu u).noops = (s.cu u).noops + 1))) ∧
    (∀ (u k : Nat) (count : BitVec 16) (s : State), Issues s u k (.waitStep count) →
      ∃ t, exec (.waitStep u count) s = .next t ∧ OnlyCtx s t u k ∧ (s.cx u k).advanced (t.cx u k) ∧
        (t.cx u k).waitTo = some ((s.time.now / s.stepDt + count.toNat) * s.stepDt) ∧ (s.cx u k).sameRegs (t.cx u k)) ∧
    (∀ (u k : Nat) (ld st : Bool) (s : State), Issues s u k (.waitSb ld st) →
      (ld = true → (s.cx u k).remote.all (fun r => !r.load) = true) → (st = true → (s.cx u k).remote.all (·.load) = true) →
      ∃ t, exec (.waitSb u ld st) s = .next t ∧ OnlyCtx s t u k ∧ (s.cx u k).advanced (t.cx u k) ∧ (s.cx u k).sameRegs (t.cx u k)) ∧
    (∀ (u k : Nat) (s : State), Issues s u k .waitDrain → (s.cu u).runsOf k = [] → (s.cx u k).pushes = [] → (s.cx u k).remote = [] →
      ∃ t, exec (.waitDrain u) s = .next t ∧ OnlyCtx s t u k ∧ (s.cx u k).advanced (t.cx u k) ∧ (s.cx u k).sameRegs (t.cx u k) ∧
        (t.cx u k).astat = (s.cx u k).astat ||| (s.cx u k).late ∧ (t.cx u k).late = 0) ∧
    (∀ (u k : Nat) (tag : BitVec 16) (s : State), Issues s u k (.mark tag) → (s.cx u k).mode.getLsbD 2 = false →
      ∃ t, exec (.mark u tag) s = .next t ∧ OnlyCtx s t u k ∧ (s.cx u k).advanced (t.cx u k) ∧ (s.cx u k).sameRegs (t.cx u k))) ∧
  ((∀ (u k : Nat) (ld st : Bool) (s : State), Issues s u k (.waitSb ld st) →
      ((ld && (s.cx u k).remote.any (·.load)) || (st && (s.cx u k).remote.any fun r => !r.load)) = true →
      ∃ t, exec (.waitSb u ld st) s = .next t ∧ OnlyCtx s t u k ∧ t.rgns = s.rgns ∧
        t.cx u k = { s.cx u k with waitTo := none, stalls := bump (s.cx u k).stalls 6 1 }) ∧
    (∀ (u k : Nat) (s : State), Issues s u k .waitDrain →
      (s.cu u).runsOf k ≠ [] ∨ (s.cx u k).pushes ≠ [] ∨ (s.cx u k).remote ≠ [] →
      ∃ t, exec (.waitDrain u) s = .next t ∧ OnlyCtx s t u k ∧ t.rgns = s.rgns ∧
        t.cx u k = { s.cx u k with waitTo := none, stalls := bump (s.cx u k).stalls 6 1 }))

/-! ### The matrix array, the switch of contexts, and the neighbour links -/

/-- An mma whose registers are ready enters a free array, or queues behind the one in it; one flagged for a pair awaits its partner, and
its context's next one joins it; one that takes A from an empty port holds its context's issue (R85, R88, R90, R116–R120). -/
def Obligations.MmaEntersArray : Prop :=
  (∀ (u k : Nat) (f : MmaF) (s : State), Issues s u k (.mma f) → mmaWait f (s.cu u) k (s.cx u k) = .go → f.asrc = 0 →
      (f.pair = 0 → (s.cx u k).flag = none → (s.cu u).arr = none →
        ∃ t, exec (.mma u f) s = .next t ∧ OnlyUnit s t u ∧ (s.cx u k).advanced (t.cx u k) ∧ (s.cx u k).sameRegs (t.cx u k) ∧
          (t.cu u).arr = some ⟨k, f, none, 0, [], none⟩ ∧ (t.cu u).que = (s.cu u).que ∧ (t.cx u k).flag = none ∧
          ∀ j, j ≠ k → t.cx u j = s.cx u j) ∧
      (f.pair = 0 → (s.cx u k).flag = none → (s.cu u).arr.isSome = true →
        ∃ t, exec (.mma u f) s = .next t ∧ OnlyUnit s t u ∧ (s.cx u k).advanced (t.cx u k) ∧ (s.cx u k).sameRegs (t.cx u k) ∧
          (t.cu u).arr = (s.cu u).arr ∧ (t.cu u).que = some ⟨k, f, none, 0, [], none⟩) ∧
      (f.pair = 1 → (s.cx u k).flag = none →
        ∃ t, exec (.mma u f) s = .next t ∧ OnlyUnit s t u ∧ (s.cx u k).advanced (t.cx u k) ∧ (s.cx u k).sameRegs (t.cx u k) ∧
          (t.cx u k).flag = some ⟨k, f, none, 0, [], none⟩ ∧ (t.cu u).arr = (s.cu u).arr ∧ (t.cu u).que = (s.cu u).que) ∧
      (∀ r, (s.cx u k).flag = some r →
        ∃ t, exec (.mma u f) s = .next t ∧ OnlyUnit s t u ∧ (s.cx u k).advanced (t.cx u k) ∧ (t.cx u k).flag = none ∧
          ((s.cu u).arr = none → (t.cu u).arr = some { r with partner := some f }) ∧
          ((s.cu u).arr.isSome = true → (t.cu u).arr = (s.cu u).arr ∧ (t.cu u).que = some { r with partner := some f }))) ∧
  (∀ (u k : Nat) (f : MmaF) (s : State), Issues s u k (.mma f) → mmaWait f (s.cu u) k (s.cx u k) = .go → f.asrc = 1 →
      (s.cx u k).flag = none → f.pair = 0 → (s.cu u).arr = none → (s.cu u).qTokens (f.a.toNat % 4) = [] →
      ∃ t, exec (.mma u f) s = .next t ∧ OnlyUnit s t u ∧ (t.cx u k).pc = (s.cx u k).pc ∧ (t.cx u k).hold = some ⟨[]⟩ ∧
        (t.cu u).arr = some ⟨k, f, none, 0, [], none⟩ ∧ (s.cx u k).sameRegs (t.cx u k))

/-- The end of an mma's one shift writes the accumulator's rows below m in its columns below n, group after group, from 0 where ZC is set,
and leaves the other rows, columns and registers as they were; the array is free (R59–R61, R83, R84, R91, R118). -/
def Obligations.ShiftWritesAccumulator : Prop :=
  ∀ (u k : Nat) (f : MmaF) (s : State), (s.cu u).arr = some ⟨k, f, none, 0, [], none⟩ → f.asrc = 0 → f.shifts = 1 →
    f.b ≠ f.c → f.a ≠ f.c → (s.cu u).que = none → (s.cu u).active = some k → (s.cx u k).st = .active → (s.cx u k).rem = none → (s.cx u k).que = none →
    (s.cu u).endedWaiting = false →
    ∃ t, exec (.shiftEnd u) s = .next t ∧ t = { s with cus := t.cus } ∧ (∀ v, v ≠ u → t.cu v = s.cu v) ∧ (t.cu u).arr = none ∧
      (let a := fun i => operandRow f.afmt.toNat (f.aconv == 1) ((s.cx u k).tRow f.a.toNat i)
       let b := (List.range 32).map fun kk => operandRow f.bfmt.toNat (f.bconv == 1) ((s.cx u k).tRow f.b.toNat kk)
       let old := fun i j => if f.zc = 1 then ((0 : W32), false) else
         (((s.cx u k).tRow f.c.toNat i).lane j, ((s.cx u k).tRow f.c.toNat i).mark j)
       (∀ i j, i < f.m → j < f.n →
         ((t.cx u k).tRow f.c.toNat i).lane j = (mmaCell (a i) b j f.k (f.groups 0) (old i j)).1.1) ∧
       (∀ i j, i < 32 → j < 32 → (f.m ≤ i ∨ f.n ≤ j) →
         ((t.cx u k).tRow f.c.toNat i).lane j = ((s.cx u k).tRow f.c.toNat i).lane j)) ∧
      (∀ c i, c ≠ 16 + f.c.toNat → i < 32 → (t.cx u k).regRow c i = (s.cx u k).regRow c i) ∧
      t.cx u k = { s.cx u k with t := (t.cx u k).t, astat := (t.cx u k).astat }

/-- The switch cycle saves the outgoing context's work in the array with it and makes the incoming one active: a READY one where it
stopped, a DONE one at its entry point; a flagged mma stays with its context; a switch to an EMPTY or FAULTED context is a no-op that is
counted (R81, R82, R85, R103–R106). -/
def Obligations.ContextSwitches : Prop :=
  (∀ (u k v : Nat) (s : State), (s.cu u).midShift = false → (s.cu u).active = some k → (s.cu u).pendSw = some v → v ≠ k →
      (s.cx u v).st = .ready ∨ (s.cx u v).st = .done → (s.cx u v).rem = none → (s.cx u v).que = none →
      (∀ r ∈ (s.cu u).pendingRuns, r.ctx = k) → (s.cu u).endedWaiting = false → (∀ j, j < 4 → (s.cx u j).hold = none) →
      ∃ t, exec (.contextSwitch u) s = .next t ∧ t = { s with cus := t.cus } ∧ (∀ w, w ≠ u → t.cu w = s.cu w) ∧
        (t.cu u).active = some v ∧ (t.cu u).pendSw = none ∧ (t.cx u v).st = .active ∧ (t.cx u k).st = .ready ∧
        (t.cx u v).pc = (if (s.cx u v).st = .done then (s.cx u v).entry else (s.cx u v).pc) ∧ (t.cx u k).pc = (s.cx u k).pc ∧
        (t.cu u).arr = none ∧ (t.cu u).que = none ∧ (t.cx u k).flag = (s.cx u k).flag ∧
        ((s.cu u).arr.isSome = true → (t.cx u k).rem = (s.cu u).arr ∧
          ((s.cu u).que.isSome = true → (t.cx u k).que = (s.cu u).que)) ∧
        (∀ j, (s.cx u j).sameRegs (t.cx u j)) ∧ (t.cu u).qbuf = (s.cu u).qbuf ∧ (t.cu u).obuf = (s.cu u).obuf) ∧
  (∀ (u k v : Nat) (s : State), (s.cu u).midShift = false → (s.cu u).active = some k → (s.cu u).pendSw = some v → v ≠ k →
      (s.cx u v).st = .empty ∨ (s.cx u v).st = .faulted → (s.cu u).arr = none → (∀ j, j < 4 → (s.cx u j).hold = none) →
      ∃ t, exec (.contextSwitch u) s = .next t ∧ t = { s with cus := t.cus } ∧ (t.cu u).active = none ∧ (t.cu u).pendSw = none ∧
        (t.cu u).noops = (s.cu u).noops + 1 ∧ (t.cx u k).st = .ready)

/-- The oldest token on a link's channel is delivered to the CU's port or the MU's engine that the route names, enters the pass-through
register it names, or is discarded and counted on an unused entry; a place that the receiver has freed is known to the transmitter again,
and an O port that waited for it sends its oldest token (R97–R100, R174, R195). -/
def Obligations.NeighbourLinks : Prop :=
  (∀ (u v link chan : Nat) (x : Token) (rest : List Token) (s : State), neighbour u link = some v → s.fenced u link = false →
      FMap.get ([] : List Token) s.wires (wireKey v (oppositeLink link) chan) = x :: rest →
      (isMu u = false → routeKind ((s.fabric u).entry link chan) = 1 →
        ((s.cu u).qTokens (routeTarget ((s.fabric u).entry link chan))).length < 8 → (s.cu u).arr = none →
        (∀ k, k < 4 → (s.cx u k).hold = none) →
        ∃ t, exec (.tokenArrive u link chan x) s = .next t ∧ t = { s with cus := t.cus, wires := t.wires, rgns := t.rgns } ∧
          (t.cu u).qTokens (routeTarget ((s.fabric u).entry link chan)) =
            (s.cu u).qTokens (routeTarget ((s.fabric u).entry link chan)) ++ [x] ∧
          FMap.get ([] : List Token) t.wires (wireKey v (oppositeLink link) chan) = rest ∧ (∀ k, t.cx u k = s.cx u k)) ∧
      (isMu u = true → routeKind ((s.fabric u).entry link chan) = 1 →
        (s.eng u (routeTarget ((s.fabric u).entry link chan))).inbuf.length < 8 →
        (s.eng u (routeTarget ((s.fabric u).entry link chan))).desc = none →
        (s.eng u (routeTarget ((s.fabric u).entry link chan))).clear →
        ∃ t, exec (.tokenArrive u link chan x) s = .next t ∧ t = { s with mus := t.mus, wires := t.wires, rgns := t.rgns } ∧
          (t.eng u (routeTarget ((s.fabric u).entry link chan))).inbuf =
            (s.eng u (routeTarget ((s.fabric u).entry link chan))).inbuf ++ [x] ∧
          FMap.get ([] : List Token) t.wires (wireKey v (oppositeLink link) chan) = rest) ∧
      (routeKind ((s.fabric u).entry link chan) = 2 →
        (FMap.get ([] : List Token) (s.fabric u).pass (4 * routeOlink ((s.fabric u).entry link chan) +
          routeTarget ((s.fabric u).entry link chan))).length < 2 →
        ∃ t, exec (.tokenArrive u link chan x) s = .next t ∧ t = { s with fab := t.fab, wires := t.wires, rgns := t.rgns } ∧
          (s.credit u (routeOlink ((s.fabric u).entry link chan)) (routeTarget ((s.fabric u).entry link chan)) = false →
            FMap.get ([] : List Token) (t.fabric u).pass (4 * routeOlink ((s.fabric u).entry link chan) +
              routeTarget ((s.fabric u).entry link chan)) =
            FMap.get ([] : List Token) (s.fabric u).pass (4 * routeOlink ((s.fabric u).entry link chan) +
              routeTarget ((s.fabric u).entry link chan)) ++ [x])) ∧
      (routeKind ((s.fabric u).entry link chan) ≠ 1 → routeKind ((s.fabric u).entry link chan) ≠ 2 →
        ∃ t, exec (.tokenArrive u link chan x) s = .next t ∧ t = { s with fab := t.fab, wires := t.wires } ∧
          (t.fabric u).disc = (s.fabric u).disc + 1 ∧
          FMap.get ([] : List Token) t.wires (wireKey v (oppositeLink link) chan) = rest)) ∧
  (∀ (u link chan p : Nat) (s : State), isMu u = false → (s.cu u).oPort link chan = some p → (s.cu u).oTokens p = [] →
      (s.cu u).waitingPush p = none → FMap.get ([] : List Token) (s.fabric u).pass (4 * link + chan) = [] →
      (s.outstanding u link chan < count (s.fabric u).used (4 * link + chan) →
        ∃ t, exec (.creditReturn u link chan) s = .next t ∧ t.wires = s.wires ∧
          count (t.fabric u).used (4 * link + chan) = count (s.fabric u).used (4 * link + chan) - 1) ∧
      (count (s.fabric u).used (4 * link + chan) ≤ s.outstanding u link chan → exec (.creditReturn u link chan) s = .next s)) ∧
  (∀ (u link chan p : Nat) (x : Token) (s : State), isMu u = false → (s.cu u).oPort link chan = some p →
      (s.cu u).oTokens p = [x] → (s.cu u).waitingPush p = none →
      FMap.get ([] : List Token) (s.fabric u).pass (4 * link + chan) = [] →
      count (s.fabric u).used (4 * link + chan) = s.capacity u link chan → s.outstanding u link chan < s.capacity u link chan →
      ∃ t, exec (.creditReturn u link chan) s = .next t ∧ t = { s with cus := t.cus, fab := t.fab, wires := t.wires, rgns := t.rgns } ∧
        (t.cu u).oTokens p = [] ∧ count (t.fabric u).used (4 * link + chan) = s.capacity u link chan ∧
        FMap.get ([] : List Token) t.wires (wireKey u link chan) = FMap.get ([] : List Token) s.wires (wireKey u link chan) ++ [x])

/-! ### Stream engines -/

/-- Each kind's command begins the engine's next descriptor of that kind: it leaves the queue, enters the scoreboard where it has a
scratchpad write range, clears the status where SCLR says so, and stands at a first hold mark that is not open; one whose rows meet an
older range waits, and the wait is counted; a poisoned descriptor word is a POISON fault (R163, R164, R173, R176, R179, R184, R186). -/
def Obligations.StreamBegins : Prop :=
  (∀ (k m e a : Nat) (d : Desc) (rest : List (Nat × List W64 × BitVec 8)) (s : State), k < 7 → dKind d = k →
      (s.eng m e).desc = none → (s.eng m e).started = true → (s.eng m e).st = .run ∨ (s.eng m e).st = .wait ∨ (s.eng m e).st = .hold →
      (s.eng m e).queue = (a, d, 0) :: rest → (s.eng m e).clear → (s.eng m e).agpLost d = false → 0 < (s.eng m e).rows d →
      (k = 6 → (s.mu m).cmpOwner = none ∧ ∀ i, i < e → s.atCmp m i = false) → sbBlocks (s.eng m e).win d (s.mu m).sb = false →
      (dHold d 0).bits 25 24 = 1 → (dHold d 0).bits 23 0 = 0 → NatSet.mem (s.eng m e).latches ((dHold d 0).bits 39 32) = false →
      ∃ t, exec (streamCmd k m e) s = .next t ∧ t = { s with mus := t.mus, rgns := t.rgns } ∧ (∀ n, n ≠ m → t.mu n = s.mu n) ∧
        (t.eng m e).desc = some (a, d) ∧ (t.eng m e).row = 0 ∧ (t.eng m e).queue = rest ∧ (t.eng m e).st = .hold ∧
        (t.eng m e).sstat = (if dSclr d then 0 else (s.eng m e).sstat) ∧
        (k = 6 → (t.mu m).cmpOwner = some e) ∧
        (t.mu m).sb = (if dWritesSp d && dRv d then
          (s.mu m).sb ++ [⟨e, (s.eng m e).nth + 1, winLo (s.eng m e).win + dRlo d, winLo (s.eng m e).win + dRhi d, dGroup d, false⟩] else (s.mu m).sb) ∧
        (∀ j, j ≠ e → t.eng m j = s.eng m j)) ∧
  (∀ (k m e a : Nat) (d : Desc) (marks : BitVec 8) (rest : List (Nat × List W64 × BitVec 8)) (s : State), k < 7 → dKind d = k →
      (s.eng m e).desc = none → (s.eng m e).started = true → (s.eng m e).st = .run → (s.eng m e).queue = (a, d, marks) :: rest →
      (marks = 0 → (s.eng m e).agpLost d = false → (k = 6 → (s.mu m).cmpOwner = none ∧ ∀ i, i < e → s.atCmp m i = false) →
        sbBlocks (s.eng m e).win d (s.mu m).sb = true →
        ∃ t, exec (streamCmd k m e) s = .next t ∧ t = { s with mus := t.mus } ∧ (t.mu m).sb = (s.mu m).sb ∧
          t.eng m e = { s.eng m e with st := .wait, cnt := bump (s.eng m e).cnt 0 1 }) ∧
      (marks ≠ 0 → ∃ t, exec (streamCmd k m e) s = .next t ∧ (t.eng m e).st = .faulted ∧ (t.eng m e).queue = (s.eng m e).queue ∧
        (∀ r, s.regionOf m = some r → count (t.rgn r).ctr (ctrKey 22 0) = count (s.rgn r).ctr (ctrKey 22 0) + 1) ∧
        t.mem.spad = s.mem.spad ∧ t.flits = s.flits))

/-- A row from a device window: DEV → SP and DEV → LINK send a read of its line under a free tag, and the row waits for it (R161, R169,
R175, R181). -/
def Obligations.DeviceRowsRequested : Prop :=
  ∀ (k m e a l tg : Nat) (d : Desc) (x : RowAddr) (s : State), k < 2 → dKind d = k → dBlock d = false → (s.eng m e).atOnlyRow a d →
    s.muFenced m = false → s.formRow m (s.eng m e) d 0 = .row x → 0 < x.lanes → (s.mu m).freeTag e = some tg →
    linesOf (winBase (s.eng m e).win (dDw d) + x.a.toNat) (dElemBytes d x.lanes) = [l] →
    ∃ t, exec (streamCmd k m e) s = .next t ∧ t = { s with mus := t.mus, flits := t.flits, rgns := t.rgns } ∧
      t.flits = s.flits ++ [s.muRequest m l tg 0 Row.zero] ∧ (t.eng m e).desc = none ∧
      (t.eng m e).jobs.map (·.reqs) = [[⟨l, tg, none, false⟩]] ∧ FMap.get false (t.mu m).busy tg = true ∧
      (t.eng m e).rc = (s.eng m e).rc

/-- A row from the scratchpad to a link becomes a token; a row to a device window leaves as a write of its line under a free tag, with
only its words named; a token stored to the scratchpad stands at the row's address, every other byte of every scratchpad being as before
(R154, R161, R169, R171, R174, R175, R181). -/
def Obligations.StreamRowsStored : Prop :=
  (∀ (m e a : Nat) (d : Desc) (x : RowAddr) (s : State), dKind d = 2 → dBlock d = false → (s.eng m e).atOnlyRow a d →
      s.formRow m (s.eng m e) d 0 = .row x → 0 < x.lanes → s.credit m (dLink d) (dChan d) = false →
      ∃ t, exec (.spToLink m e) s = .next t ∧ t.mem = s.mem ∧ t.flits = s.flits ∧ t.wires = s.wires ∧ t.cus = s.cus ∧
        (t.eng m e).outbuf = [⟨(loadRow d (s.spadBytes m (128 * winLo (s.eng m e).win + x.a.toNat) (dElemBytes d x.lanes)) [] x.lanes).1,
          decide (dTile d = 1)⟩] ∧
        (t.eng m e).desc = none ∧ (t.eng m e).rc = ((s.eng m e).rc + 1) % 2 ^ 32) ∧
  (∀ (m e a l tg : Nat) (d : Desc) (x : RowAddr) (s : State), dBlock d = false → (s.eng m e).atOnlyRow a d → s.muFenced m = false →
      s.formRow m (s.eng m e) d 0 = .row x → 0 < x.lanes → (s.mu m).freeTag e = some tg →
      (dKind d = 3 →
        (let bs := (storePlain d (s.spadRow m (128 * (winLo (s.eng m e).win + dRlo d))) x.lanes).1
         linesOf (winBase (s.eng m e).win (dDw d) + x.a.toNat) bs.length = [l] →
         ∃ t, exec (.spToDev m e) s = .next t ∧ t.mem = s.mem ∧ (t.eng m e).desc = none ∧
           (let c := lineChunk (winBase (s.eng m e).win (dDw d) + x.a.toNat) l bs
            t.flits = s.flits ++ [s.muRequest m l tg c.mask c.row]))) ∧
      (∀ y : Token, dKind d = 5 → (s.eng m e).inbuf = [y] → y.fin = decide (dTile d = 1) →
        (let bs := (storePlain d y.row x.lanes).1
         linesOf (winBase (s.eng m e).win (dDw d) + x.a.toNat) bs.length = [l] →
         ∃ t, exec (.linkToDev m e) s = .next t ∧ t.mem = s.mem ∧ (t.eng m e).desc = none ∧ (t.eng m e).inbuf = [] ∧
           (let c := lineChunk (winBase (s.eng m e).win (dDw d) + x.a.toNat) l bs
            t.flits = s.flits ++ [s.muRequest m l tg c.mask c.row])))) ∧
  (∀ (m e a : Nat) (d : Desc) (x : RowAddr) (y : Token) (s : State), dKind d = 4 → dBlock d = false → (s.eng m e).atOnlyRow a d →
      s.formRow m (s.eng m e) d 0 = .row x → 0 < x.lanes → x.a.toNat % 8 = 0 → dWidth d * x.lanes % 64 = 0 →
      (s.eng m e).inbuf = [y] → y.fin = decide (dTile d = 1) →
      ∃ t, exec (.linkToSp m e) s = .next t ∧ t.mem.dram = s.mem.dram ∧ t.flits = s.flits ∧ (t.eng m e).inbuf = [] ∧
        (t.eng m e).desc = none ∧ (t.eng m e).rc = ((s.eng m e).rc + 1) % 2 ^ 32 ∧
        (let o := 128 * winLo (s.eng m e).win + x.a.toNat
         let bs := (storePlain d y.row x.lanes).1
         (∀ i, i < bs.length → Mem.byte t.mem.spad (spadKey m (o + i)) = (bs.getD i (0, false)).1) ∧
         (∀ b, (b < spadKey m o ∨ spadKey m o + bs.length ≤ b) → Mem.byte t.mem.spad b = Mem.byte s.mem.spad b)))

/-- A compare-and-count's last row delivers its result: to its scratchpad row, or as a token with END; its counts are the elements that
satisfy CMPOP, the NaNs, and all elements of a row; a NaN satisfies only "not equal" (R66, R184, R185). -/
def Obligations.CompareDelivers : Prop :=
  (∀ (m e a : Nat) (d : Desc) (x : RowAddr) (c : CmpAcc) (s : State), dKind d = 6 → dBlock d = false → (s.eng m e).atOnlyRow a d →
      (s.eng m e).cmp = some c → s.formRow m (s.eng m e) d 0 = .row x → 0 < x.lanes →
      (let z := loadRow d (s.spadBytes m (128 * winLo (s.eng m e).win + x.a.toNat) (dElemBytes d x.lanes)) [] x.lanes
       let r := (c.row d (z.1.lanes.take x.lanes)).result
       (dRdst d = false → resBeyond (s.eng m e).win d = false → ∃ t, exec (.compareAndCount m e) s = .next t ∧ (t.mu m).cmpOwner = none ∧ (t.eng m e).desc = none ∧
         t.mem = (s.writeSpadRow m (winLo (s.eng m e).win + dResrow d) r).mem) ∧
       (dRdst d = true → s.credit m (dLink d) (dChan d) = false → ∃ t, exec (.compareAndCount m e) s = .next t ∧ t.mem = s.mem ∧
         (t.mu m).cmpOwner = none ∧ (t.eng m e).outbuf = [⟨r, true⟩]))) ∧
  (∀ (c : CmpAcc) (d : Desc) (l : List Ln),
      (c.row d l).seen = c.seen + l.length ∧
      (c.row d l).count = c.count + (l.filter fun w => cmpHit (dRfmt d == 2) (dCmpop d) w.1 (dThresh d)).length ∧
      (dRfmt d ≠ 2 → (c.row d l).nan = c.nan + (l.filter fun w => f32IsNan w.1).length) ∧
      (∀ w t, f32IsNan w = true → ∀ op, op < 7 → (cmpHit false op w t = true ↔ op = 5)))

/-- A descriptor burst's 32 descriptors enter the queue in order, or come poisoned from a die that is down; an engine at its list's end
returns to IDLE with the successor staged and its burst sent for; a PEER mark passes once the watched count is reached; the oldest entry
of an engine whose last write is granted retires, and a parked rld that waited for it alone is answered with its row (R157, R163, R164,
R176, R179, R217, R218). -/
def Obligations.StreamEvents : Prop :=
  ((∀ (m e a : Nat) (s : State), (s.eng m e).burst = some a →
      (s.dieRefuses (s.homeDie a) = false →
        ∃ t, exec (.descriptorBurstArrive m e) s = .next t ∧ (t.eng m e).burst = none ∧ (∀ j, j ≠ e → t.eng m j = s.eng m j) ∧
          (let q := match s.regionOf m with | some r => s.muRead r a 2048 | none => s
           (t.eng m e).queue = (s.eng m e).queue ++ (List.range 32).map fun i => q.descAt (a + 64 * i)) ∧
          t.eng m e = { s.eng m e with burst := none, queue := (t.eng m e).queue }) ∧
      (s.dieRefuses (s.homeDie a) = true →
        ∃ t, exec (.descriptorBurstArrive m e) s = .next t ∧ t = { s with mus := t.mus, rgns := t.rgns } ∧
          (t.eng m e).queue = (s.eng m e).queue ++
            (List.range 32).map (fun i => (a + 64 * i, List.replicate 8 (0 : W64), BitVec.ofNat 8 255)) ∧
          ∀ r, s.regionOf m = some r → (t.rgn r).fstat = some (6, s.time.now))) ∧
    (∀ (m e : Nat) (s : State), (s.eng m e).st = .run ∨ (s.eng m e).st = .wait ∨ (s.eng m e).st = .hold → (s.eng m e).atEnd = true →
      ∃ t, exec (.listEnd m e) s = .next t ∧ t = { s with mus := t.mus } ∧ (t.eng m e).st = .idle ∧
        (t.eng m e).staged = ((s.eng m e).lists.getD (s.eng m e).list (0, 0)).2 ∧ (t.eng m e).queue = [] ∧
        (t.eng m e).sstat = (s.eng m e).sstat ∧ ∀ j, j ≠ e → t.eng m j = s.eng m j) ∧
    (∀ (m e a : Nat) (d : Desc) (w : W64) (s : State), (s.eng m e).desc = some (a, d) → (s.eng m e).st = .hold → (s.eng m e).clear →
      (s.eng m e).row < (s.eng m e).rows d →
      (s.eng m e).markAt d = some (0, w) → w.bits 25 24 = 2 → s.markOpen m (s.eng m e) w = true →
      (dHold d 1).bits 25 24 = 1 → (dHold d 1).bits 23 0 = (s.eng m e).row → (s.eng m e).passed1 = false →
      NatSet.mem (s.eng m e).latches ((dHold d 1).bits 39 32) = false →
      ∃ t, exec (.peerRelease m e) s = .next t ∧ t = { s with mus := t.mus } ∧ (t.eng m e).passed0 = true ∧ (t.eng m e).passed1 = false ∧
        (t.eng m e).st = .hold ∧ (t.eng m e).row = (s.eng m e).row)) ∧
  (∀ (m e : Nat) (x : SbEntry) (rest : List SbEntry) (s : State), (s.mu m).sb = x :: rest → x.eng = e → x.done = true →
      ((s.mu m).park = [] → ∃ t, exec (.scoreboardRetire m e) s = .next t ∧ t = { s with mus := t.mus } ∧ (t.mu m).sb = rest ∧
        ∀ n, n ≠ m → t.mu n = s.mu n) ∧
      (∀ f, (s.mu m).park = [f] → rest = [] → ∃ t, exec (.scoreboardRetire m e) s = .next t ∧ (t.mu m).sb = [] ∧ (t.mu m).park = [] ∧
        t.flits = s.flits ++ [answerOf f .readReply (s.spadRow m f.addr) false] ∧ t.mem = s.mem))

/-! ### The package network -/

/-- At a memory unit's remote port an rld is answered with its row, parked behind a pending fill, or NACKed where all 32 places are taken
or an older NACKed one waits for a place; a write puts the words it names into the row and is acknowledged, every other byte of every
scratchpad being as before; a control message is acknowledged (R157, R198, R199; log entry 11). -/
def Obligations.MemoryUnitRequests : Prop :=
  (∀ (m : Nat) (f : Flit) (s : State), f.dst = .unit m → isMu m = true → s.Comes .readReq f → s.refuses f = false →
    (s.rowPending m f.addr = false →
      ∃ t, exec (.readRequest f) s = .next t ∧ t.flits = s.flits.erase f ++ [answerOf f .readReply (s.spadRow m f.addr) false] ∧
        t.mem = s.mem ∧ t.cus = s.cus ∧ ∀ n, n ≠ m → t.mu n = s.mu n) ∧
    (s.rowPending m f.addr = true → (s.mu m).park.length < 32 → oldestNacked (s.mu m).nacked f = true →
      ∃ t, exec (.readRequest f) s = .next t ∧ t = { s with mus := t.mus, flits := s.flits.erase f } ∧
        (t.mu m).park = (s.mu m).park ++ [f] ∧ (t.mu m).rwait = (s.mu m).rwait + 1 ∧ ∀ n, n ≠ m → t.mu n = s.mu n) ∧
    (s.rowPending m f.addr = true → 32 ≤ (s.mu m).park.length ∨ oldestNacked (s.mu m).nacked f = false →
      ∃ t, exec (.readRequest f) s = .next t ∧ t.flits = s.flits.erase f ++ [answerOf f .nack Row.zero false] ∧ t.mem = s.mem ∧
        (t.mu m).park = (s.mu m).park ∧ f ∈ (t.mu m).nacked)) ∧
  (∀ (m : Nat) (c : Instr) (k : FlitKind) (f : Flit) (s : State),
    (c = .writeRequest f ∧ k = .writeReq) ∨ (c = .bulk f ∧ k = .bulk ∧ f.mask ≠ 0) → f.dst = .unit m → isMu m = true →
    s.Comes k f → s.refuses f = false →
    ∃ t, exec c s = .next t ∧ t.flits = s.flits.erase f ++ [answerOf f .ack Row.zero false] ∧ t.mem.dram = s.mem.dram ∧
      t.mem.flash = s.mem.flash ∧ t.cus = s.cus ∧ t.mus = s.mus ∧
      ∀ b, Mem.byte t.mem.spad b =
        if spadKey m (lineOf f.addr) ≤ b ∧ b < spadKey m (lineOf f.addr) + 128 ∧
          f.mask.getLsbD ((b - spadKey m (lineOf f.addr)) / 8) = true
        then f.row.data.extractLsb' (8 * (b - spadKey m (lineOf f.addr))) 8 else Mem.byte s.mem.spad b) ∧
  (∀ (f : Flit) (s : State), s.Comes .control f → s.refuses f = false →
    ∃ t, exec (.controlMessage f) s = .next t ∧ t = { s with flits := s.flits.erase f ++ [answerOf f .ack Row.zero false] })

/-- At its home slice, where nothing else waits, a read that finds its line is answered with it, and one that does not enters a miss
entry; the line's arrival answers it with what the half-stack holds; after a write of a whole line every observer sees it; an address that
is absent stops the machine (R27, R206, R208, R209, R211). -/
def Obligations.SliceRequests : Prop :=
  (∀ (i : Nat) (f : Flit) (s : State), f.dst = .slice i → s.Comes .readReq f → s.refuses f = false → s.isDram f.addr 1 = true →
    s.SliceIdle i → (∀ y ∈ (s.slice i).miss, y.filled = false ∧ f ∉ y.reqs ∧ (y.line ≠ lineOf f.addr ∨ y.rtag ≠ f.rtag)) →
    (∀ x, (s.slice i).find (s.classOf i f) (lineOf f.addr) = some x → x.upset = [] → x.row.poison = 0 →
      ∃ t, exec (.readRequest f) s = .next t ∧ t.flits = s.flits.erase f ++ [answerOf f .readReply x.row false] ∧ t.mem = s.mem ∧
        (t.slice i).miss = (s.slice i).miss ∧ ∀ j, j ≠ i → t.slice j = s.slice j) ∧
    ((s.slice i).find (s.classOf i f) (lineOf f.addr) = none →
      ((s.slice i).miss.filter fun y => y.part == s.classOf i f).length < s.missRoom i (s.classOf i f) →
      ∃ t, exec (.readRequest f) s = .next t ∧ t.flits = s.flits.erase f ∧ t.mem = s.mem ∧
        (t.slice i).miss = (s.slice i).miss ++ [⟨lineOf f.addr, f.rtag, s.classOf i f, [f], false⟩] ∧
        (t.slice i).lines = (s.slice i).lines)) ∧
  (∀ (i : Nat) (f : Flit) (s : State), f.dst = .slice i → s.Comes .writeReq f → s.refuses f = false → s.isDram f.addr 1 = true →
    f.mask = fullMask → i = s.homeSlice (lineOf f.addr) → s.SliceIdle i → (s.slice i).miss = [] → (s.slice i).disabled = [] →
    (s.waysAt (s.classOf i f) i (lineOf f.addr)) ≠ [] →
    ∃ t, exec (.writeRequest f) s = .next t ∧ t.flits = s.flits.erase f ++ [answerOf f .ack Row.zero false] ∧ t.lineRow f.addr = f.row ∧
      t.mem.spad = s.mem.spad) ∧
  (∀ (i : Nat) (m : Miss) (f : Flit) (s : State), (s.slice i).miss = [m] → m.reqs = [f] → m.filled = false → f.kind = .readReq →
    (s.slice i).park = [] → (s.slice i).order = [f] → isFlash m.line 1 = false → (∀ x ∈ (s.slice i).lines, x.addr ≠ m.line) →
    ∃ t, exec (.missFill i m.line m.rtag) s = .next t ∧ t.flits = s.flits ++ [answerOf f .readReply (s.mem.dramRow m.line) false] ∧
      (t.slice i).miss = [] ∧ t.mem.spad = s.mem.spad) ∧
  (∀ (i : Nat) (f : Flit) (s : State), f.dst = .slice i → s.refuses f = false → s.absent f.addr = true →
    (s.Comes .readReq f → exec (.readRequest f) s = .fault (.absentAddress f.addr)) ∧
    (s.Comes .writeReq f → exec (.writeRequest f) s = .fault (.absentAddress f.addr)) ∧
    (s.Comes .bulk f → f.mask ≠ 0 → exec (.bulk f) s = .fault (.absentAddress f.addr)))

/-- The row of an rld reaches its register, an acknowledgement ends its rst, and a DOMAIN_DOWN answer brings zeros with every word
poisoned; an answer that nothing awaits is counted; a NACKed request goes again; a router refuses what is addressed into a die that is
down, counts the replies it drops, and discards and counts what would enter another region (R130, R181, R196, R198, R199, R217, R218,
R220). -/
def Obligations.AnswersArrive : Prop :=
  (∀ (u : Nat) (f : Flit) (s : State), f.dst = .unit u → isMu u = false → s.refuses f = false →
    count s.net.gens (4 * u + f.tag % 4) = f.gen → (∀ p, p < 4 → (s.cu u).waitingPush p = none ∧ (s.cu u).oTokens p = []) →
    (∀ r, (s.cx u (f.tag % 4)).remote.find? (fun r => r.load && r.tag == f.tag) = some r →
      (s.Comes .readReply f →
        ∃ t, exec (.readReply f) s = .next t ∧ t = { s with cus := t.cus, rgns := t.rgns, flits := s.flits.erase f } ∧
          t.cx u (f.tag % 4) =
            { (s.cx u (f.tag % 4)).setRegRow r.reg r.row f.row with remote := (s.cx u (f.tag % 4)).remote.erase r } ∧
          (∀ k, k ≠ f.tag % 4 → t.cx u k = s.cx u k) ∧ ∀ v, v ≠ u → t.cu v = s.cu v) ∧
      (s.Comes .down f →
        ∃ t, exec (.domainDownAnswer f) s = .next t ∧ t = { s with cus := t.cus, rgns := t.rgns, flits := s.flits.erase f } ∧
          t.cx u (f.tag % 4) =
            { (s.cx u (f.tag % 4)).setRegRow r.reg r.row ⟨0, 0xffff⟩ with remote := (s.cx u (f.tag % 4)).remote.erase r } ∧
          ∀ g, s.regionOf u = some g → (t.rgn g).fstat = some (6, s.time.now))) ∧
    (∀ r, (s.cx u (f.tag % 4)).remote.find? (fun r => !r.load && r.tag == f.tag) = some r → f.down = false → s.Comes .ack f →
      ∃ t, exec (.acknowledgement f) s = .next t ∧ t = { s with cus := t.cus, rgns := t.rgns, flits := s.flits.erase f } ∧
        t.cx u (f.tag % 4) = { s.cx u (f.tag % 4) with remote := (s.cx u (f.tag % 4)).remote.erase r } ∧
        (∀ k, k ≠ f.tag % 4 → t.cx u k = s.cx u k)) ∧
    ((∀ r ∈ (s.cx u (f.tag % 4)).remote, r.tag ≠ f.tag) → s.Comes .readReply f →
      ∃ t, exec (.readReply f) s = .next t ∧ t = { s with regs := t.regs, flits := s.flits.erase f } ∧
        t.reg aObsStale = s.reg aObsStale + 1)) ∧
  (∀ (f g : Flit) (s : State), s.Comes .nack f → s.refuses f = false → s.current f = true →
    s.nackHeld f.src (· == g) = true → g.src = f.dst → g.tag = f.tag → g.gen = f.gen →
    ∃ t, exec (.nack f) s = .next t ∧ t = { s with flits := s.flits.erase f }) ∧
  (∀ (f : Flit) (s : State), s.nackHeld f.dst (· == f) = true → f ∉ s.flits → answerOf f .nack Row.zero false ∉ s.flits →
    s.current { f with dst := f.src } = true →
    ∃ t, exec (.nackResend f) s = .next t ∧ t = { s with flits := s.flits ++ [f], rgns := t.rgns, mus := t.mus, net := t.net }) ∧
  (∀ (f : Flit) (s : State), s.refuses f = true → isFlash f.addr 1 = false →
    (s.Comes .readReq f →
      ∃ t, exec (.readRequest f) s = .next t ∧ t = { s with flits := s.flits.erase f ++ [answerOf f .down ⟨0, 0xffff⟩ true] }) ∧
    (s.Comes .writeReq f →
      ∃ t, exec (.writeRequest f) s = .next t ∧ t = { s with flits := s.flits.erase f ++ [answerOf f .ack Row.zero true] }) ∧
    (s.Comes .readReply f →
      ∃ t, exec (.readReply f) s = .next t ∧ t = { s with flits := s.flits.erase f, net := t.net } ∧
        count t.net.dropped (routerTo f.dst f.src) = count s.net.dropped (routerTo f.dst f.src) + 1)) ∧
  (∀ (f : Flit) (c : Instr) (k : FlitKind) (s : State),
    (c, k) ∈ [(Instr.writeRequest f, FlitKind.writeReq), (.bulk f, .bulk), (.controlMessage f, .control), (.readReply f, .readReply),
      (.acknowledgement f, .ack), (.nack f, .nack), (.domainDownAnswer f, .down)] →
    f.kind = k → s.inOrder f = true → s.tagOk f = false →
    ∃ t, exec c s = .next t ∧ t = { s with flits := s.flits.erase f, regs := t.regs } ∧
      t.reg (aObsRtr (routerTo f.src f.dst)) = s.reg (aObsRtr (routerTo f.src f.dst)) + 1)

/-! ### Boundaries, the schedule, and requests on the feed -/

/-- STEP_BOUNDARY takes device time to the next step boundary, the first one after the present, and runs the eight phases there; a fence
that holds releases its region; a drain that is due is declared for every instance that began before; a region idle for WDOG figures is
declared wedged, with every ACTIVE context FAULTED, and then reset; redirection asked for sets FB in what is in flight (R213, R240, R241,
R245, R250, R269, R303). -/
def Obligations.BoundaryEvents : Prop :=
  (∀ s : State, s.awake = true → s.time.running = true → 0 < s.stepDt →
    (∃ t, exec .stepBoundary s = .next t ∧ t = (s.passTo s.nextStep).sweep) ∧ (s.passTo s.nextStep).time.now = s.nextStep % 2 ^ 64 ∧
    s.time.now < s.nextStep ∧ s.onStep s.nextStep = true ∧ ∀ b, s.time.now < b → s.onStep b = true → s.nextStep ≤ b) ∧
  (∀ (r : Nat) (s : State), (s.onStep s.time.now = true → 0 < (s.rgn r).fence → s.rgnStopped r = false → s.fenceHolds r = true → s.regionMus r = [] →
      ∃ t, exec (.fenceRelease r) s = .next t ∧ t = { s with rgns := t.rgns } ∧ t.rgn r = { s.rgn r with fence := 0 } ∧
        ∀ q, q ≠ r → t.rgn q = s.rgn q) ∧
    (s.onStep s.time.now = false ∨ s.fenceHolds r = false ∨ s.rgnStopped r = true → exec (.fenceRelease r) s = .next s)) ∧
  (∀ (r g : Nat) (s : State), (s.rgn r).group = g →
    (s.onStep s.time.now = true → s.drainDue r = true → s.regionMus r = [] → (s.rgn r).run = none → s.host.cmds = [] → s.passes = [] →
      ∃ t, exec (.drainDeclare r g) s = .next t ∧ (t.rgn r).group = g + 1 ∧ NatSet.mem (t.rgn r).declared g = true ∧
        count (t.rgn r).absDrain (2 * g) = s.time.now + 1 ∧
        (t.rgn r).insts = (s.rgn r).insts.map (fun i => if i.t0 < s.time.now then { i with drains := NatSet.ins i.drains g } else i) ∧
        t.cus = s.cus ∧ t.flits = s.flits) ∧
    (s.onStep s.time.now = false ∨ s.drainDue r = false → exec (.drainDeclare r g) s = .next s)) ∧
  (∀ (r : Nat) (s : State), s.onFigure s.time.now = true → s.dueNow r = [] → (s.rgn r).img.isSome = true → (s.rgn r).wedged = 0 →
    0 < s.wdogOf r → s.wdogOf r ≤ (s.rgn r).idle →
    ∃ t, exec (.wedgeDeclare r) s = .next t ∧ (t.rgn r).wedged = 1 ∧ (t.rgn r).idle = 0 ∧ t.flits = s.flits ∧
      ∀ u k, u ∈ s.regionCus r → isMu u = false → (s.cu u).active = some k → (t.cx u k).st = .faulted ∧ (t.cu u).active = none) ∧
  (∀ (r : Nat) (s : State), ((s.rgn r).wedged = 1 → ∃ t, exec (.regionReset r) s = .next t ∧ (t.rgn r).wedged = 2 ∧
      (t.rgn r).slots = [] ∧ (t.rgn r).dets = [] ∧ (t.rgn r).fence = 0 ∧ t.mem.dram = s.mem.dram ∧
      ∀ u k, u ∈ s.regionCus r → t.cx u k = Ctx.empty) ∧ ((s.rgn r).wedged ≠ 1 → exec (.regionReset r) s = .next s)) ∧
  (∀ (r : Nat) (s : State), (s.onStep s.time.now = true → (s.rgn r).redirAsk = true →
    ∃ t, exec (.redirectionStart r) s = .next t ∧ t = { s with rgns := t.rgns } ∧ (t.rgn r).redir = true ∧ (t.rgn r).redirAsk = false ∧
      (t.rgn r).insts = (s.rgn r).insts.map fun i => if i.kind < 2 then { i with fb := true } else i) ∧
    (s.onStep s.time.now = false → exec (.redirectionStart r) s = .next s))

/-- A CTXSTART makes its context ACTIVE on a free unit, at its entry point where it was DONE, requests a switch on a busy one, and is a
counted no-op on an EMPTY or FAULTED one; a LISTSTART starts the staged list of an IDLE engine, or sends for another's first burst, which
a fence holds back, and continues a faulted list; a RELEASE latches its id at the engines that do not wait for it; a FENCE is placed; NOP
does nothing (R81, R103, R104, R163, R179, R189, R213, R266). -/
def Obligations.StartActions : Prop :=
  (∀ (f : Fire) (s : State), exec (.nopAction f) s = .next s) ∧
  (∀ (f : Fire) (u : Nat) (s : State), (s.rectUnits f.region f.op).filter (fun u => !(isMu u)) = [u] →
    (let k := f.op.bits 25 24
     let st := (s.cx u k).st
     (st = .ready ∨ st = .done → (s.cu u).active = none → (s.cu u).pendSw = none → (s.cu u).arr = none → (s.cu u).que = none →
       (s.cx u k).rem = none → (s.cx u k).que = none → (s.cu u).endedWaiting = false → (∀ j, j < 4 → (s.cx u j).hold = none) →
       (s.cu u).faultAt ≠ some s.time.now →
       ∃ t, exec (.ctxStart f) s = .next t ∧ t = { s with cus := t.cus } ∧ (t.cu u).active = some k ∧ (t.cx u k).st = .active ∧
         (t.cx u k).pc = (if st = .done then (s.cx u k).entry else (s.cx u k).pc) ∧ (s.cx u k).sameRegs (t.cx u k) ∧
         (∀ v, v ≠ u → t.cu v = s.cu v)) ∧
     (∀ j, st = .ready ∨ st = .done → (s.cu u).active = some j → j ≠ k → (s.cu u).pendSw = none → (s.cu u).faultAt ≠ some s.time.now →
       (∀ m, (s.cu u).startMark = some m → m.time ≠ s.time.now) →
       ∃ t, exec (.ctxStart f) s = .next t ∧ t = { s with cus := t.cus } ∧ t.cu u = { s.cu u with pendSw := some k, swByAction := true } ∧
         ∀ v, v ≠ u → t.cu v = s.cu v) ∧
     (st = .empty ∨ st = .faulted → (s.cu u).faultAt ≠ some s.time.now →
       ∃ t, exec (.ctxStart f) s = .next t ∧ t = { s with rgns := t.rgns } ∧
         count (t.rgn f.region).ctr (ctrKey 25 0) = count (s.rgn f.region).ctr (ctrKey 25 0) + 1))) ∧
  (∀ (f : Fire) (m : Nat) (s : State), (s.rectUnits f.region f.op).filter isMu = [m] →
    (let e := f.op.bits 25 24
     let l := f.op.bits 29 26
     let b := s.bankFor f.region f.inst
     let g := s.eng m e
     (g.st = .idle → g.resume = false → l < g.lists.length → FMap.get ([] : List W64) g.banks b ≠ [] →
       ∃ t, exec (.listStart f) s = .next t ∧ t = { s with mus := t.mus } ∧ (∀ j, j ≠ e → t.eng m j = s.eng m j) ∧
         (l = g.staged → t.eng m e = { g with st := .run, started := true, list := l, bank := b }) ∧
         (l ≠ g.staged → (t.eng m e).st = .wait ∧ (t.eng m e).list = l ∧ (t.eng m e).bank = b ∧
           (s.muFenced m = false → (t.eng m e).burst = some (s.listStart m g l)) ∧
           (s.muFenced m = true → (t.eng m e).burst = none ∧ (t.eng m e).burstAsk = some (s.listStart m g l)))) ∧
     (g.st = .idle → g.resume = true → ∃ t, exec (.listStart f) s = .next t ∧ t = { s with mus := t.mus } ∧
       (∀ j, j ≠ e → t.eng m j = s.eng m j) ∧ t.eng m e = { g with st := .run, started := true, resume := false }) ∧
     (g.st ≠ .idle → ∃ t, exec (.listStart f) s = .next t ∧ t = { s with rgns := t.rgns } ∧
       count (t.rgn f.region).ctr (ctrKey 25 0) = count (s.rgn f.region).ctr (ctrKey 25 0) + 1))) ∧
  (∀ (f : Fire) (m : Nat) (s : State), (s.rectUnits f.region f.op).filter isMu = [m] → (∀ e, e < 4 → (s.eng m e).st ≠ .hold) →
    ∃ t, exec (.release f) s = .next t ∧ t = { s with mus := t.mus, rgns := t.rgns } ∧
      ∀ e, e < 4 → t.eng m e = { s.eng m e with latches := (t.eng m e).latches } ∧
        ((s.eng m e).st = .empty → t.eng m e = s.eng m e) ∧
        ((s.eng m e).st ≠ .empty → ∀ i, NatSet.mem (t.eng m e).latches i = true ↔
          i = f.op.bits 31 24 ∨ NatSet.mem (s.eng m e).latches i = true)) ∧
  (∀ (f : Fire) (s : State), ∃ t, exec (.fenceAction f) s = .next t ∧ t = { s with rgns := t.rgns } ∧
    t.rgn f.region = { s.rgn f.region with fence := max (s.rgn f.region).fence 1 } ∧ ∀ q, q ≠ f.region → t.rgn q = s.rgn q)

/-- A DEADLINE of a request checks its device time: met, it changes nothing; missed, it marks the instance LATE, or sets its FB where it
names a fallback; an ARM arms an IDLE detector, whose edges are latched in order, where the buffer level that it names stands so, and
whose second one begins an instance at a step boundary; MARK stamps the earliest begin and the latest end; SLOT opens a window of DUR
steps; a swap makes the shadow bank active, and then copies it (R263, R266, R268, R270, R274). -/
def Obligations.TimedActions : Prop :=
  (∀ (f : Fire) (id d : Nat) (i : Inst) (s : State), f.inst = some id → f.base = 2 → s.inst f.region id = some i → i.deadline = some d →
    f.op.bits 1 0 = 0 →
    (s.time.now + f.op.bits 31 16 * s.cfg.stepdt + 8 * f.op.bits 47 32 ≤ d → exec (.deadline f) s = .next s) ∧
    (d < s.time.now + f.op.bits 31 16 * s.cfg.stepdt + 8 * f.op.bits 47 32 →
      ∃ t, exec (.deadline f) s = .next t ∧ t = { s with rgns := t.rgns, traces := t.traces } ∧
        t.inst f.region id = some (if f.op.bits 3 2 = 0 then { i with late := true } else { i with fb := true }) ∧
        ((t.rgn f.region).redirAsk = true ↔ f.op.bits 3 2 % 2 = 1 ∨ (s.rgn f.region).redirAsk = true))) ∧
  (∀ (f : Fire) (s : State), let k := (s.bankEnt (s.bankOf f.region) f.index).det
    ((FMap.get Det.idle (s.rgn f.region).dets k).st = 0 → ∃ t, exec (.arm f) s = .next t ∧ t = { s with rgns := t.rgns } ∧
      FMap.get Det.idle (t.rgn f.region).dets k = ⟨1, f.op⟩) ∧
    ((FMap.get Det.idle (s.rgn f.region).dets k).st ≠ 0 → ∃ t, exec (.arm f) s = .next t ∧ (t.rgn f.region).dets = (s.rgn f.region).dets)) ∧
  (∀ (r d : Nat) (second : Bool) (s : State), let x := FMap.get Det.idle (s.rgn r).dets d
    let n := (s.eng (x.op.bits 7 2 + 64 * x.op.bits 13 8) (x.op.bits 15 14)).inbuf.length
    let stands := x.op.bits 1 0 ≠ 1 ∨ (if second then n < x.op.bits 19 16 else x.op.bits 19 16 ≤ n)
    (x.st = (if second then 2 else 1) → stands → ∃ t, exec (.detectorEdge r d second) s = .next t ∧ t = { s with rgns := t.rgns } ∧
      FMap.get Det.idle (t.rgn r).dets d = { x with st := x.st + 1 }) ∧
    (x.st ≠ (if second then 2 else 1) ∨ ¬stands → exec (.detectorEdge r d second) s = .next s)) ∧
  (∀ (r d : Nat) (s : State), s.onStep s.time.now = true → (FMap.get Det.idle (s.rgn r).dets d).st = 3 →
    ∃ t i, exec (.detectorComplete r d) s = .next t ∧ t = { s with rgns := t.rgns, traces := t.traces, regs := t.regs, log := t.log } ∧
      FMap.get Det.idle (t.rgn r).dets d = Det.idle ∧ (t.rgn r).insts = (s.rgn r).insts ++ [i] ∧ i.kind = 2 ∧ i.t0 = s.time.now) ∧
  (∀ (f : Fire) (id : Nat) (i : Inst) (s : State), f.inst = some id → s.inst f.region id = some i →
    ∃ t, exec (.markAction f) s = .next t ∧ t = { s with rgns := t.rgns, traces := t.traces } ∧
      t.inst f.region id = some (if f.op.bit 3 = true then { i with ends := FMap.set 0 i.ends (f.op.bits 2 0) (s.time.now + 1) }
        else if count i.begins (f.op.bits 2 0) = 0 then { i with begins := FMap.set 0 i.begins (f.op.bits 2 0) (s.time.now + 1) }
        else i)) ∧
  (∀ (f : Fire) (s : State), ∃ t, exec (.slotOpen f) s = .next t ∧ t = { s with rgns := t.rgns } ∧
    (f.op.bits 5 0, s.time.now + f.op.bits 23 8 * s.cfg.stepdt) ∈ (t.rgn f.region).slots ∧
    ∀ x : Nat × Nat, x.1 ≠ f.op.bits 5 0 → (x ∈ (t.rgn f.region).slots ↔ x ∈ (s.rgn f.region).slots)) ∧
  (∀ (r link : Nat) (s : State), ∃ t, exec (.slotWindowClose r link) s = .next t ∧ t = { s with rgns := t.rgns } ∧
    ∀ x : Nat × Nat, x ∈ (t.rgn r).slots ↔ x ∈ (s.rgn r).slots ∧ (x.1 = link → s.time.now < x.2)) ∧
  (∀ (r : Nat) (h : W64) (s : State), s.onFigure s.time.now = true → (s.rgn r).swap = some h →
    (∀ c, s.cmd h = some c → c.at swapStage ≤ s.time.now) →
    ∃ t, exec (.schedSwapCommit r) s = .next t ∧ t.bankOf r = 1 - s.bankOf r ∧ (t.rgn r).swap = none ∧ (t.rgn r).copying = true ∧
      ((t.reg (aBanksel (r / 64))).bit (r % 64) = true ↔ t.bankOf r = 1) ∧ t.banks = s.banks ∧
      (∀ c, s.cmd h = some c → t.cmd h = some { c with phase := .due, status := 0, detail := 0 })) ∧
  (∀ (r : Nat) (s : State), (s.rgn r).copying = true → FMap.wf (0, 0) s.banks = true → (s.allotOf r).1 + (s.allotOf r).2 ≤ 4096 →
    ∃ t, exec (.bankCopyDone r) s = .next t ∧ t = { s with rgns := t.rgns, banks := t.banks, mem := { s.mem with ecc := t.mem.ecc } } ∧ (t.rgn r).copying = false ∧
      (∀ i, (s.allotOf r).1 ≤ i → i < (s.allotOf r).1 + (s.allotOf r).2 →
        t.bankEnt (1 - s.bankOf r) i = s.bankEnt (s.bankOf r) i ∧ t.bankEnt (s.bankOf r) i = s.bankEnt (s.bankOf r) i) ∧
      ∀ b i, b < 2 → i < 4096 → i < (s.allotOf r).1 ∨ (s.allotOf r).1 + (s.allotOf r).2 ≤ i → t.bankEnt b i = s.bankEnt b i)

/-- A frame that fails a check is discarded and counted under its reason; one that passes is accepted with a handle and its deadline; a
delivered request is dispatched as an instance; its answer is read from its output rows and graded, or withheld where a word is poisoned;
the backstop of an unanswered request makes it LATE; a graded response leaves and its completion is due with the same status (R271, R346,
R362, R367–R370, R458). -/
def Obligations.FeedRequests : Prop :=
  (∀ (p arrival : Nat) (bytes : List Byte) (s : State), s.power.st = .ready → NatSet.mem s.feed.link p = true →
    (∀ k, s.feedReason p bytes arrival = some k →
      ∃ t, exec (.feedFrame p bytes arrival) s = .next t ∧ t = { s with regs := t.regs, host := t.host, rgns := t.rgns } ∧
        t.reg (aFeedDisc p k) = s.reg (aFeedDisc p k) + 1 ∧ t.host.cmds = s.host.cmds) ∧
    (s.feedReason p bytes arrival = none →
      let h := reqHead bytes (s.feedHead p)
      let w0 := s.feedWord h.mslot 0
      ∃ t c q, exec (.feedFrame p bytes arrival) s = .next t ∧ t.host.cmds = s.host.cmds ++ [c] ∧ q ∈ t.feed.reqs ∧
        t.feed.reqs.length = s.feed.reqs.length + 1 ∧ c.handle = q.handle ∧ c.fn = w0.bits 11 0 ∧ c.words = [] ∧ c.ntfy = true ∧
        q.port = p ∧ q.reqid = h.reqid ∧ q.arrival = arrival ∧ q.deadline = arrival + 16 * w0.bits 35 20 ∧ q.sent = false ∧
        t.reg (aObsFeed p) = s.reg (aObsFeed p) + 1)) ∧
  (∀ (i : Nat) (q : FeedReq) (s : State), s.feedReq i = some q → q.written = true → q.inst = none → q.answered = none →
    q.sent = false → s.onStep s.time.now = true → s.loaded q.region = true → (s.rgn q.region).graded.length < 4 →
    ∃ t x, exec (.requestDispatch i) s = .next t ∧
      t = { s with rgns := t.rgns, feed := t.feed, traces := t.traces, regs := t.regs, log := t.log } ∧
      (t.rgn q.region).insts = (s.rgn q.region).insts ++ [x] ∧ x.kind = 1 ∧ x.handle = q.handle ∧ x.deadline = some q.deadline ∧
      x.t0 = s.time.now) ∧
  (∀ (i : Nat) (q : FeedReq) (s : State), s.feedReq i = some q → q.answered = none → s.answerIn q = true →
    let m := q.w1.bits 35 24
    let n := q.w1.bits 61 51
    ((∀ e ∈ q.outRows, (s.spadRow m (128 * e)).poison = 0) →
      ∃ t y bs, exec (.answerReady i) s = .next t ∧ t.mem = s.mem ∧ y ∈ t.feed.reqs ∧ y.handle = q.handle ∧
        y.answered = some (s.reqGrade q, bs) ∧
        (s.reqGrade q < 2 → bs.length = n ∧ ∀ j, j < n →
          bs.getD j 0 = Mem.byte s.mem.spad (spadKey m (128 * (q.w1.bits 47 36 + 8 * q.k.getD 0) + j))) ∧
        (2 ≤ s.reqGrade q → bs = [])) ∧
    (∀ w, w < 16 → 8 * w < n → (s.spadRow m (128 * (q.w1.bits 47 36 + 8 * q.k.getD 0))).poison.getLsbD w = true →
      ∃ t y, exec (.answerReady i) s = .next t ∧ t.mem = s.mem ∧ y ∈ t.feed.reqs ∧ y.handle = q.handle ∧ y.answered = some (9, []))) ∧
  (∀ (i : Nat) (q : FeedReq) (s : State), s.feedReq i = some q → q.answered = none → s.answerIn q = false →
    s.backstopAt q ≤ s.time.now →
    ∃ t y, exec (.backstop i) s = .next t ∧ t = { s with rgns := t.rgns, feed := t.feed } ∧ y ∈ t.feed.reqs ∧ y.handle = q.handle ∧
      y.answered = some (9, [])) ∧
  (∀ (i : Nat) (q : FeedReq) (a : Nat × List Byte) (c : Cmd) (s : State), s.feedReq i = some q → s.mayLeave q = true →
    q.answered = some a → s.cmd q.handle = some c → c.phase = .running →
    ∃ t, exec (.responseSend i) s = .next t ∧ t = { s with feed := t.feed, host := t.host } ∧
      t.feed.out = s.feed.out ++ [(q.port, s.response q (frameStatus a.1) a.2)] ∧
      t.cmd q.handle = some { c with phase := .due, status := a.1 } ∧ (∀ y ∈ t.feed.reqs, y.handle = q.handle → y.sent = true)) ∧
  (∀ (p : Nat) (s : State),
    (s.awake = true → ∃ t, exec (.feedLinkUp p) s = .next t ∧ t = { s with feed := t.feed, regs := t.regs } ∧
      NatSet.mem t.feed.link p = true ∧ (t.reg (aFeedStat p)).bit 0 = true ∧ t.feed.reqs = s.feed.reqs) ∧
    (∃ t, exec (.feedLinkDown p) s = .next t ∧ t = { s with feed := t.feed, regs := t.regs } ∧
      NatSet.mem t.feed.link p = false ∧ (t.reg (aFeedStat p)).bit 0 = false ∧ t.feed.reqs = s.feed.reqs))

/-! ### The host interface -/

/-- COMMAND_FETCH takes the entry at HEAD, writes its handle into word 7 and moves HEAD on, and a ring read that fails sets SQERR; a
doorbell moves a tail, or frees records; one that a ring does not take sets DBREF and changes nothing else; a CFG write of a disabled ring
sets its fields (R342–R346). -/
def Obligations.HostRings : Prop :=
  (∀ (fn r : Nat) (s : State), fn < 4096 → s.power.st = .ready → s.host.portA = true → s.fnEnabled fn = true → s.isResetting fn = false →
    r < s.nsq fn → (s.fnReg fn (fSqCfg r)).bit 9 = true → (s.fnReg fn (fSqCfg r)).bits 4 0 ≤ 16 →
    s.cqRoom fn ((s.fnReg fn (fSqCfg r)).bits 8 5) = true →
    (let head := (s.fnReg fn (fSqHead r)).bits 15 0
     let a := (s.fnReg fn (fSqBase r)).toNat + 64 * head
     head ≠ count s.host.sqTail (ringKey fn r) →
     (s.hostMute a = true → ∃ t, exec (.commandFetch fn r) s = .next t ∧ t = { s with fnRegs := t.fnRegs } ∧
       (t.fnReg fn fStatus).bit 2 = true) ∧
     (s.hostMute a = false → ∃ t c, exec (.commandFetch fn r) s = .next t ∧ t.host.cmds = s.host.cmds ++ [c] ∧ c.fn = fn ∧ c.sq = r ∧
       c.cq = (s.fnReg fn (fSqCfg r)).bits 8 5 ∧ c.words.length = 8 ∧
       (∀ i, i < 8 → c.words[i]? = some (BitVec.ofNat 64 (Mem.readNat s.host.mem (a + 8 * i) 8))) ∧
       handleFn c.handle = fn ∧ c.seq = count s.host.subSeq fn ∧ count t.host.subSeq fn = (count s.host.subSeq fn + 1) % 2 ^ 20 ∧
       (t.fnReg fn (fSqHead r)).toNat = (head + 1) % 2 ^ (s.fnReg fn (fSqCfg r)).bits 4 0 ∧
       BitVec.ofNat 64 (Mem.readNat t.host.mem (a + 56) 8) = c.handle ∧
       (s.mayTakeSlot fn = false → c.phase = .due ∧ c.status = 0x0D) ∧
       t.mem = s.mem ∧ t.rgns = s.rgns))) ∧
  (∀ (fn r : Nat) (v : W64) (s : State), s.power.st = .ready → s.fnEnabled fn = true → r < s.nsq fn →
    (s.isResetting fn = false → s.sqOn fn r = true → v.bits 15 0 < ringSize (s.fnReg fn (fSqCfg r)) →
      ∃ t, exec (.fnSqDb fn r v) s = .next t ∧ t = { s with host := { s.host with sqTail := t.host.sqTail } } ∧
        count t.host.sqTail (ringKey fn r) = v.bits 15 0 ∧
        ∀ k, k ≠ ringKey fn r → count t.host.sqTail k = count s.host.sqTail k) ∧
    (s.sqOn fn r = false ∨ ringSize (s.fnReg fn (fSqCfg r)) ≤ v.bits 15 0 →
      ∃ t, exec (.fnSqDb fn r v) s = .next t ∧ t = { s with fnRegs := t.fnRegs } ∧ (t.fnReg fn fStatus).bit 4 = true)) ∧
  (∀ (fn r : Nat) (v : W64) (s : State), s.power.st = .ready → s.fnEnabled fn = true → r < s.ncq fn → s.isResetting fn = false →
    s.cqOn fn r = true → v.bits 15 0 < ringSize (s.fnReg fn (fCqCfg r)) →
    ∃ t, exec (.fnCqDb fn r v) s = .next t ∧
      t = { s with host := { s.host with cqHead := t.host.cqHead, cqResv := t.host.cqResv } } ∧
      count t.host.cqHead (ringKey fn r) = v.bits 15 0 ∧
      (count s.host.cqHead (ringKey fn r) ≤ v.bits 15 0 → count t.host.cqResv (ringKey fn r) =
        count s.host.cqResv (ringKey fn r) - (v.bits 15 0 - count s.host.cqHead (ringKey fn r)))) ∧
  (∀ (fn r : Nat) (v : W64) (s : State), s.power.st = .ready → s.fnEnabled fn = true → r < s.ncq fn →
    s.cqOn fn r = false ∨ ringSize (s.fnReg fn (fCqCfg r)) ≤ v.bits 15 0 →
    ∃ t, exec (.fnCqDb fn r v) s = .next t ∧ t = { s with fnRegs := t.fnRegs } ∧ (t.fnReg fn fStatus).bit 4 = true) ∧
  (∀ (fn r : Nat) (v : W64) (s : State), s.awake = true → s.fnEnabled fn = true → 6 ≤ v.bits 4 0 → v.bits 4 0 ≤ 16 →
    (r < s.nsq fn → (s.fnReg fn (fSqCfg r)).bit 9 = false →
      ∃ t, exec (.fnSqCfgWrite fn r v) s = .next t ∧ t = { s with fnRegs := t.fnRegs, host := t.host } ∧
        (t.fnReg fn (fSqCfg r)).bits 9 0 = v.bits 9 0 ∧ (v.bit 9 = true → count t.host.sqTail (ringKey fn r) = 0)) ∧
    (r < s.ncq fn → (s.fnReg fn (fCqCfg r)).bit 5 = false →
      ∃ t, exec (.fnCqCfgWrite fn r v) s = .next t ∧ t = { s with fnRegs := t.fnRegs, host := t.host } ∧
        (t.fnReg fn (fCqCfg r)).bits 5 0 = v.bits 5 0 ∧
        (v.bit 5 = true → count t.host.cqHead (ringKey fn r) = 0 ∧ count t.host.cqResv (ringKey fn r) = 0)))

/-- Port A goes down at once, and both ports come back where PERST_N allows; at the end of port A's hold time the held records are
discarded, CQERR is set and their slots are free; port B's loss is recorded where it was busy; a host read that ends with an error makes
its XFER POISONED, or on port B is recorded and falls on the STEP; a function's reset shows in FN_STATUS, and its DRAM reads as zeros when
zeroing is done; QUIESCE of a function that is not enabled completes at once (R330, R358–R361, R395, R458, R567). -/
def Obligations.PortEvents : Prop :=
  (∀ s : State, exec .portALinkDown s = .next { s with host := { s.host with portA := false } } ∧
    (s.power.perstN = true → s.awake = true →
      exec .portALinkReturn s = .next { s with host := { s.host with portA := true } } ∧
      exec .portBLinkUp s = .next { s with host := { s.host with portB := true } }) ∧
    (s.power.perstN = false → exec .portALinkReturn s = .next s ∧ exec .portBLinkUp s = .next s)) ∧
  (∀ s : State, (s.host.portA = false → ∃ t, exec .portAHoldExpiry s = .next t ∧ t = { s with host := t.host, fnRegs := t.fnRegs } ∧
      t.host.held = [] ∧ t.host.mem = s.host.mem ∧ t.host.cmds = s.host.cmds ∧
      (∀ w ∈ s.host.held, (t.fnReg w.fn fStatus).bit 3 = true ∧ (handleGen w.handle ≠ 0 → (t.hslot (handleSlot w.handle)).fn = none))) ∧
    (s.host.portA = true → exec .portAHoldExpiry s = .next s)) ∧
  (∀ s : State, ∃ t, exec .portBLinkDown s = .next t ∧ t = { s with host := t.host, pbRegs := t.pbRegs } ∧ t.host.portB = false ∧
    (s.host.portBBusy = true → (t.pbReg pbStatus).bit 3 = true) ∧ (s.host.portBBusy = false → t.pbRegs = s.pbRegs)) ∧
  (∀ (h : W64) (ep : Bool) (c : Cmd) (s : State), s.cmd h = some c → c.phase = .running → c.at readStage = 1 → c.opcode = 5 →
    isHostWin (c.word 1).toNat 1 = true → (c.word 2).toNat + (c.word 3).toNat ≤ 16 * halfStack →
    ∃ t d, exec (.hostReadCompletion false h ep) s = .next t ∧ t.cmd h = some d ∧ d.phase = .due ∧
      (ep = true → 0 < (c.word 3).toNat → d.status = 3) ∧ d.detail = BitVec.ofNat 64 ((c.word 3).toNat % 2 ^ 63) ∧
      exec (.hostReadTimeout false h) s = exec (.hostReadCompletion false h true) s) ∧
  (∀ (h : W64) (c : Cmd) (s : State), s.cmd h = some c → c.opcode = 4 →
    ∃ t, exec (.hostReadTimeout true h) s = .next t ∧ (t.pbReg pbStatus).bit 2 = true ∧ t.mem = s.mem ∧
      (∀ d, t.cmd h = some d → d.at pbErrAt = 1)) ∧
  (∀ (fn : Nat) (s : State), s.awake = true → s.fnEnabled fn = true → s.fnRegions fn = [] → (∀ c ∈ s.host.cmds, c.fn ≠ fn) →
    (∀ q ∈ s.feed.reqs, q.w0.bits 11 0 ≠ fn) → (∀ g, s.gOwner g ≠ fn ∨ (s.group g).run = none) →
    ∃ t, exec (.flr fn) s = .next t ∧ t.isResetting fn = true ∧ NatSet.mem t.host.zeroing fn = true ∧ (t.fnReg fn fStatus).bits 1 0 = 3 ∧
      t.mem = s.mem ∧ t.host.cmds = s.host.cmds) ∧
  (∀ (h : W64) (c : Cmd) (s : State), s.openCmd h 0x0D = some c → s.isResetting ((c.word 1).bits 11 0) = false →
    (s.fnEnabled ((c.word 1).bits 11 0) = false →
      ∃ t, exec (.quiesce h) s = .next t ∧ t = { s with host := t.host } ∧ t.cmd h = some { c with phase := .due, status := 0, detail := 0 }) ∧
    (s.fnEnabled ((c.word 1).bits 11 0) = true → s.fnRegions ((c.word 1).bits 11 0) = [] → s.host.cmds = [c] → s.feed.reqs = [] →
      (∀ g, (s.group g).run = none) →
      ∃ t, exec (.quiesce h) s = .next t ∧ t.isResetting ((c.word 1).bits 11 0) = true ∧ t.cmd h = some { c with phase := .running } ∧
        t.mem = s.mem)) ∧
  (∀ (fn : Nat) (s : State), NatSet.mem s.host.zeroing fn = true →
    ∃ t, exec (.zeroingDone fn) s = .next t ∧ NatSet.mem t.host.zeroing fn = false ∧ (t.fnReg fn fStatus).bit 1 = false ∧
      t.cfg = s.cfg ∧ t.mem.spad = s.mem.spad ∧
      ∀ e ∈ s.cfg.map, e.kind = 0 → e.owner = fn → ∀ a, e.base ≤ a → a < e.base + e.len → Mem.byte t.mem.dram a = 0)

/-! ### Commands -/

/-- A RUN, and a STEP whose lists stand, is taken up by a free region; a list that fails a check is refused with its word; a FENCE waits
for its boundary; SCHED_WRITE writes its entries into the shadow bank and SCHED_SWAP waits for a figure boundary; a COUNTERS command is
accepted, or refused with its word, and its sample is due; WATERMARK writes the digest (R146, R273, R274, R317, R349, R351, R523, R524).
-/
def Obligations.RunsAndCounters : Prop :=
  (∀ (h : W64) (c : Cmd) (o : Nat) (i : Instr) (s : State), (o, i) ∈ [(3, Instr.run h), (4, .stepCmd h)] → s.openCmd h o = some c →
    (∀ x ∈ s.host.cmds, x.handle = h → x = c) →
    (s.rgnStopped c.region = true →
      ∃ t, exec i s = .next t ∧ t = { s with host := t.host } ∧ t.cmd h = some { c with phase := .due, status := 6, detail := 0 }) ∧
    (s.rgnStopped c.region = false → (o = 4 → s.stepFault c = none) → (s.rgn c.region).run = none → (s.rgn c.region).held = none →
      (s.rgn c.region).img.isSome = true → (s.rgn c.region).wedged = 0 →
      (∀ x ∈ s.host.cmds, x.opcode = 3 ∨ x.opcode = 4 → x.region = c.region → x.phase ≠ .running) →
      ∃ t x, exec i s = .next t ∧ t = { s with host := t.host, rgns := t.rgns } ∧ t.cmd h = some { c with phase := .running } ∧
        (t.rgn c.region).run = some x ∧ x.handle = h ∧ x.isStep = decide (o = 4) ∧ x.begun = false ∧ x.since = s.time.now) ∧
    (∀ w, o = 4 → s.rgnStopped c.region = false → (s.rgn c.region).held = none → s.stepFault c = some w →
      ∃ t, exec i s = .next t ∧ t = { s with host := t.host } ∧
        t.cmd h = some { c with phase := .due, status := 8, detail := BitVec.ofNat 64 (w % 2 ^ 63) })) ∧
  (∀ (h : W64) (c : Cmd) (s : State), s.openCmd h 7 = some c →
    ∃ t d, exec (.fence h) s = .next t ∧ t = { s with host := t.host } ∧ t.cmd h = some d ∧ d.phase = .running ∧ d.at fenceStage = 1) ∧
  (∀ (h : W64) (c : Cmd) (s : State), s.openCmd h 9 = some c → s.schedFree c = true →
    let first := (c.word 2).bits 11 0
    let n := (c.word 2).bits 24 12
    (n = 0 ∨ 4096 < n ∨ (s.allotOf c.region).2 < first + n →
      ∃ t, exec (.schedWrite h) s = .next t ∧ t = { s with host := t.host } ∧ t.cmd h = some { c with phase := .due, status := 8, detail := 2 }) ∧
    (0 < n → first + n ≤ (s.allotOf c.region).2 → (s.allotOf c.region).1 + (s.allotOf c.region).2 ≤ 4096 → n ≤ 4096 →
      isHostWin (c.word 1).toNat 1 = false → s.fnMarks c.fn (c.word 1).toNat (2 * n) = false →
      s.badSched (partOwner (s.part0 c.region)) c.region (schedEnts (s.fnWords c.fn (c.word 1).toNat (2 * n))) = [] →
      ∃ t, exec (.schedWrite h) s = .next t ∧ t.cmd h = some { c with phase := .due, status := 0, detail := 0 } ∧ t.mem.spad = s.mem.spad ∧
        (∀ i, i < n → (t.bankEnt (1 - s.bankOf c.region) ((s.allotOf c.region).1 + first + i)).w0 = s.fnWord c.fn ((c.word 1).toNat + 16 * i) ∧
          (t.bankEnt (1 - s.bankOf c.region) ((s.allotOf c.region).1 + first + i)).w1 = s.fnWord c.fn ((c.word 1).toNat + 16 * i + 8)) ∧
        ∀ i, i < 4096 → t.bankEnt (s.bankOf c.region) i = s.bankEnt (s.bankOf c.region) i)) ∧
  (∀ (h : W64) (c : Cmd) (s : State), s.openCmd h 0x0A = some c → s.schedFree c = true →
    ∃ t d, exec (.schedSwap h) s = .next t ∧ t = { s with host := t.host, rgns := t.rgns } ∧ (t.rgn c.region).swap = some h ∧
      t.cmd h = some d ∧ d.phase = .running ∧ d.at swapStage = s.time.now + 1) ∧
  (∀ (h : W64) (c : Cmd) (k : Nat) (i : Instr) (s : State), (k, i) ∈ [(0, Instr.countersRegion h), (1, .countersUnit h),
      (2, .countersPhase h), (4, .countersWindows h), (15, .countersFunction h)] → s.openCmd h 0x0B = some c → c.kind = k →
    (s.countersFault c = none → ∃ t, exec i s = .next t ∧ t = { s with host := t.host } ∧ t.cmd h = some { c with phase := .running }) ∧
    (∀ w, s.countersFault c = some w → (w = 2 ∨ w = 3) ∧
      ∃ t, exec i s = .next t ∧ t.cmd h = some { c with phase := .due, status := 8, detail := BitVec.ofNat 64 w })) ∧
  (∀ (h : W64) (c : Cmd) (s : State), s.cmd h = some c → c.opcode = 0x0B → c.phase = .running → s.onStep s.time.now = true →
    c.kind = 0 → (c.word 1).toNat % 8 = 0 → (c.word 1).toNat + 224 ≤ 16 * halfStack → (c.word 3).toNat = 32 →
    ∃ t, exec (.countersSample h) s = .next t ∧ t.cmd h = some { c with phase := .due, status := 0, detail := 0 } ∧
      t.devWord (c.word 1).toNat = 224 ∧ t.devWord ((c.word 1).toNat + 8) = BitVec.ofNat 64 s.time.now ∧ t.mem.spad = s.mem.spad) ∧
  (∀ (h : W64) (c : Cmd) (s : State), s.openCmd h 0x0F = some c → (c.word 1).toNat % 8 = 0 → (c.word 1).toNat + 32 ≤ 16 * halfStack →
    s.stackDown (c.word 1).toNat 32 = false →
    ∃ t, exec (.watermark h) s = .next t ∧ (t.cmd h).map (·.phase) = some .due ∧ (t.cmd h).map (·.status) = some 0 ∧
      t.devWord (c.word 1).toNat = s.wmDigest.extractLsb' 0 64 ∧ t.devWord ((c.word 1).toNat + 8) = s.wmDigest.extractLsb' 64 64 ∧
      t.devWord ((c.word 1).toNat + 16) = s.reg aWmTime ∧ t.devWord ((c.word 1).toNat + 24) = 0)

/-- XFER moves the source, as it stood, to its destination in DRAM; a SCRUB is accepted, and its pass leaves every word of the range with
no correctable error; FLASH_WRITE is refused with its word, or reads its source, and its commit gives the range its bytes and leaves every
other byte of the flash window, the blocks that failed to program being retired (R306, R310, R311, R349, R451, R463). -/
def Obligations.Transfers : Prop :=
  (∀ (h : W64) (c : Cmd) (s : State), s.openCmd h 5 = some c → (c.word 3).toNat % 64 = 0 →
    s.stepUses (c.word 1).toNat (c.word 3).toNat = false → s.stepUses (c.word 2).toNat (c.word 3).toNat = false →
    s.stackDown (c.word 1).toNat (c.word 3).toNat = false → s.stackDown (c.word 2).toNat (c.word 3).toNat = false →
    (c.word 1).toNat % 8 = 0 → (c.word 2).toNat % 8 = 0 → (c.word 1).toNat + (c.word 3).toNat ≤ 16 * halfStack →
    (c.word 2).toNat + (c.word 3).toNat ≤ 16 * halfStack → s.WaysHeld →
    ∃ t, exec (.xfer h) s = .next t ∧ t.cmd h = some { c with phase := .due, status := 0, detail := BitVec.ofNat 64 (c.word 3).toNat } ∧
      t.mem.spad = s.mem.spad ∧ t.mem.flash = s.mem.flash ∧
      (∀ i, 8 * i < (c.word 3).toNat → t.devWord ((c.word 2).toNat + 8 * i) = s.devWord ((c.word 1).toNat + 8 * i)) ∧
      ∀ a, a % 8 = 0 → a < 16 * halfStack → a < (c.word 2).toNat ∨ (c.word 2).toNat + (c.word 3).toNat ≤ a →
        s.Agrees (lineOf a) → t.devWord a = s.devWord a) ∧
  (∀ (h : W64) (c : Cmd) (s : State), s.openCmd h 8 = some c →
    (∀ x ∈ s.host.cmds, x.opcode = 8 → x.handle = h) →
    ((c.word 2).toNat % 128 = 0 → s.stackDown (c.word 1).toNat (c.word 2).toNat = false →
      ∃ t d, exec (.scrub h) s = .next t ∧ t = { s with host := t.host } ∧ t.cmd h = some d ∧ d.phase = .running) ∧
    ((c.word 2).toNat % 128 ≠ 0 →
      ∃ t, exec (.scrub h) s = .next t ∧ t.cmd h = some { c with phase := .due, status := 8, detail := 2 })) ∧
  (∀ (h : W64) (c : Cmd) (s : State), s.cmd h = some c → c.opcode = 8 → c.phase = .running →
    (c.word 2).toNat % 128 = 0 → (∀ k, count s.mem.upset k ≤ 3) →
    ∃ t, exec (.scrubPassDone h) s = .next t ∧ (t.cmd h).map (·.phase) = some .due ∧ (t.cmd h).map (·.status) = some 0 ∧
      ∀ l ∈ linesOf (c.word 1).toNat (c.word 2).toNat, ∀ w, w < 16 → count t.mem.upset (upsetDram (l + 8 * w)) = 0) ∧
  (∀ (h : W64) (c : Cmd) (s : State), s.openCmd h 0x0C = some c → s.loadAhead h = false →
    s.stepUses (c.word 2).toNat c.flashSource = false →
    (∀ w, s.flashFault c = some w →
      ∃ t, exec (.flashWrite h) s = .next t ∧ t = { s with host := t.host } ∧
        t.cmd h = some { c with phase := .due, status := 8, detail := BitVec.ofNat 64 w }) ∧
    (s.flashFault c = none → s.wrstop = true →
      ∃ t, exec (.flashWrite h) s = .next t ∧ t = { s with host := t.host } ∧
        t.cmd h = some { c with phase := .due, status := 0x0D, detail := 1 }) ∧
    (s.flashFault c = none → s.wrstop = false → isHostWin (c.word 2).toNat 1 = true →
      ∃ t d, exec (.flashWrite h) s = .next t ∧ t = { s with host := t.host, mem := t.mem } ∧ t.cmd h = some d ∧ d.phase = .running ∧
        d.at readStage = 1 ∧ t.mem.writing = s.mem.writing ++ [(h, c.flashRange)] ∧ t.mem.flash = s.mem.flash)) ∧
  (∀ (h : W64) (c : Cmd) (bad0 bad1 : Nat) (s : State), s.cmd h = some c → c.opcode = 0x0C → c.phase = .running → c.at readStage = 2 →
    (∃ w ∈ s.mem.writing, w.1 = h) → c.flashRange.cls < 2 → s.flashRead c.flashRange.base c.flashRange.len = false →
    ∃ t, exec (.flashWriteCommit ⟨h, bad0, bad1⟩) s = .next t ∧
      t.cmd h = some { c with phase := .due, status := 0, detail := BitVec.ofNat 64 c.flashRange.len } ∧
      t.mem.dram = s.mem.dram ∧ t.mem.spad = s.mem.spad ∧ t.journal 0 2 = s.journal 0 2 + bad0 ∧ t.journal 1 2 = s.journal 1 2 + bad1 ∧
      ∀ a, Mem.byte t.mem.flash a =
        if c.flashRange.base ≤ a ∧ a < c.flashRange.base + c.flashRange.len then
          BitVec.ofNat 8 (c.at (wordSlot + (a - c.flashRange.base) / 8) / 256 ^ ((a - c.flashRange.base) % 8))
        else Mem.byte s.mem.flash a)

/-- A LOAD of each form reads its image and waits for its verdict; a verdict that refuses it is delivered as it stands, and an accepted
image is written; a LOAD that waits for its shadow sheets completes with the last of them; UNLOAD leaves every context of the region EMPTY
and the region without an image (R81, R235, R237, R302, R349). -/
def Obligations.LoadsAndUnload : Prop :=
  (∀ (h : W64) (c : Cmd) (i : Instr) (s : State),
    i = (if (c.word 0).bit 18 then .loadGuest h else if (c.word 0).bit 17 then .loadResume h else .load h) → s.openCmd h 1 = some c →
    s.loadTurn c = true → s.loadReady c.region = true →
    ∃ t d, exec i s = .next t ∧
      t = { s with host := t.host, regs := t.regs, log := t.log, rgns := t.rgns, mem := t.mem, slices := t.slices } ∧
      t.mem.spad = s.mem.spad ∧ t.mem.flash = s.mem.flash ∧ t.cmd h = some d ∧ d.phase = .running ∧ d.at readStage = (if isHostWin (c.word 1).toNat 1 then 1 else 2)) ∧
  (∀ (h : W64) (c : Cmd) (s : State), s.cmd h = some c → c.opcode = 1 → c.phase = .running → c.at readStage = 2 → c.at pinStage = 0 →
    (c.status ≠ 0 → c.detail.toNat < 2 ^ 63 →
      ∃ t, exec (.loadVerifyDone h) s = .next t ∧ t = { s with host := t.host } ∧ t.cmd h = some { c with phase := .due }) ∧
    (c.status = 0 → (c.word 0).bit 17 = false → (c.word 0).bit 18 = false → (s.rgn c.region).copying = false →
      firstBad (s.badTarget c.fn c.region (imageOf (c.kept (c.imageLen / 8)) c.imageLen) false) = none →
      ∃ t d, exec (.loadVerifyDone h) s = .next t ∧ (t.rgn c.region).img.isSome = true ∧ t.cmd h = some d ∧
        (d.phase = .due ∧ d.status = 0 ∨ d.at pinStage = 1))) ∧
  (∀ (h : W64) (c : Cmd) (s : State), s.cmd h = some c → c.opcode = 1 → c.phase = .running → c.at pinStage = 1 →
    (s.shadowsWait c.region = false → ∃ t, exec (.shadowPinDone h) s = .next t ∧ t = { s with host := t.host } ∧
      t.cmd h = some { c with phase := .due, status := 0, detail := 0 }) ∧
    (s.shadowsWait c.region = true → exec (.shadowPinDone h) s = .next s)) ∧
  (∀ (h : W64) (c : Cmd) (s : State), s.openCmd h 2 = some c →
    ∃ t, exec (.unload h) s = .next t ∧ (t.rgn c.region).img = none ∧ t.cmd h = some { c with phase := .due, status := 0, detail := 0 } ∧
      t.mem.dram = s.mem.dram ∧ t.mem.spad = s.mem.spad ∧ ∀ u k, u ∈ s.regionCus c.region → t.cx u k = Ctx.empty)

/-! ### The optimiser, the slow tier, and the memories' upkeep -/

/-- A pass that is due takes a place with its step count one on, serves its next parameters, skipping a poisoned one without a write, and
ends with DONE and STEPCNT written; one that stays unbound is skipped; a pull copies the slot of its sequence number into WORK or counts
the lag; a transfer out leaves its rows in the host's memory; a failed one makes its STEP POISONED (R318, R320–R324, R326, R329, R330,
R332, R335). -/
def Obligations.PassesAndTransfers : Prop :=
  (∀ (q p : Nat) (x : Pass) (s : State), s.pass q p = some x → x.ph = 2 → s.ouPlace q x.region = true →
    s.placeTurn x = true → uF32 (s.updDesc x.addr) 11 false = 0 →
    ∃ t y, exec (.passStart q p) s = .next t ∧ t.mem.spad = s.mem.spad ∧ t.cus = s.cus ∧ t.pass q p = some y ∧
      y.ph = 3 ∧ y.next = 0 ∧ y.t = (uWord (s.updDesc x.addr) 13).bits 31 0 + 1 ∧ y.addr = x.addr ∧ (t.reg (aOuStat q)).bit 0 = true) ∧
  (∀ (q p : Nat) (x : Pass) (s : State), s.pass q p = some x → s.ouTurnOf q = some x →
    uN (s.updDesc x.addr) = x.next + 1 → uBlock (s.updDesc x.addr) = false →
    (∀ b, s.ouRead (s.updDesc x.addr) x x.next = .skip b →
      ∃ t y, exec (.ouChunk q p) s = .next t ∧ t.pass q p = some y ∧ y.next = x.next + 1 ∧ y.gen = x.gen ∧ t.mem.spad = s.mem.spad ∧
        (s.slices = [] → t.mem = s.mem ∧ t.slices = [])) ∧
    (∀ w m v, q < 16 → s.ouRead (s.updDesc x.addr) x x.next = .upd w m v →
      ∃ t y, exec (.ouChunk q p) s = .next t ∧ t.pass q p = some y ∧ y.next = x.next + 1 ∧
        t.reg (aOuParams q) = s.reg (aOuParams q) + 1 ∧ t.mem.spad = s.mem.spad ∧
        (let at_ := fun k => uBase (s.updDesc x.addr) k + (if k = 3 ∧ uWfmt (s.updDesc x.addr) = 0 then 2 else 4) * x.next
         s.slices = [] → (∀ k, k < 3 → at_ k % 4 = 0) → (∀ k, k < 4 → at_ k + 4 ≤ 16 * halfStack) →
         [at_ 0, at_ 1, at_ 2, at_ 3].Pairwise (fun a b => a + 4 ≤ b ∨ b + 4 ≤ a) →
         (t.dev32 (at_ 0)).1 = w ∧ (t.dev32 (at_ 1)).1 = m ∧ (t.dev32 (at_ 2)).1 = v))) ∧
  (∀ (q p : Nat) (x : Pass) (s : State), s.pass q p = some x → x.addr % 8 = 0 → x.addr + 128 ≤ 16 * halfStack →
    (x.ph = 3 → uN (s.updDesc x.addr) ≤ x.next →
      ∃ t, exec (.passEnd q p) s = .next t ∧ t.pass q p = none ∧
        t.devWord (x.addr + 104) = BitVec.ofNat 64 (x.t % 2 ^ 32 + uN (s.updDesc x.addr) % 2 ^ 32 * 2 ^ 32)) ∧
    (x.ph = 3 → x.next < uN (s.updDesc x.addr) → exec (.passEnd q p) s = .next s) ∧
    (x.ph = 1 → x.bound = none → s.time.now < x.at_ + unboundWait → exec (.passUnboundTimeout q p) s = .next s) ∧
    (x.ph = 1 → x.bound = none → x.at_ + unboundWait ≤ s.time.now →
      ∃ t, exec (.passUnboundTimeout q p) s = .next t ∧ t.pass q p = none ∧
        (t.devWord (x.addr + 104)).bits 63 32 = 0 ∧ (t.devWord (x.addr + 104)).bits 31 0 = (s.devWord (x.addr + 104)).bits 31 0)) ∧
  (∀ (q : Nat) (s : State), s.pfOpen (aOuSkipclr q) = true → s.die q = .powered →
    ∃ t, exec (.ouSkipclr q) s = .next t ∧ t = { s with regs := t.regs } ∧ ∀ k, k < 8 → t.reg (aOuSkiplog q k) = 0) ∧
  (∀ (r i : Nat) (x : RunState) (c : Cmd) (d : List W64) (s : State), s.slowSet r i = some (x, c, d) →
    (count x.slow (2 * i) = 0 → s.pbTurn r false i = true → (s.fnWord c.fn (sHost d + sWant d % 16 * sSlot d + 8)).toNat ≠ sWant d →
      ∃ t y, exec (.slowPull r i) s = .next t ∧ t.mem = s.mem ∧ (t.rgn r).run = some y ∧ count y.slow (2 * i) = 1 ∧
        y.stale = max x.stale (min ((sSseq d : Int) - 1 - (sVseq d : Int)).toNat 15) ∧
        (s.host.portB = false → y.status = if x.status = 0 then 3 else x.status)) ∧
    (let slot := sHost d + sWant d % 16 * sSlot d
     count x.slow (2 * i) = 0 → s.pbTurn r false i = true → s.host.portB = true → (s.fnWord c.fn (slot + 8)).toNat = sWant d →
      s.fnMark c.fn (slot + 8) = false → s.WaysHeld → sWork d % 8 = 0 → c.slowAt i % 8 = 0 → sWork d + sVlen d ≤ 16 * halfStack →
      c.slowAt i + 40 ≤ 16 * halfStack → c.slowAt i + 40 ≤ sWork d ∨ sWork d + sVlen d ≤ c.slowAt i + 32 →
      ∃ t y, exec (.slowPull r i) s = .next t ∧ t.mem.spad = s.mem.spad ∧ (t.rgn r).run = some y ∧ count y.slow (2 * i) = 1 ∧
        y.stale = max x.stale (min ((sSseq d : Int) - 1 - ((sWant d % 2 ^ 32 : Nat) : Int)).toNat 15) ∧
        ∀ k, k < sVlen d / 8 → t.devWord (sWork d + 8 * k) = s.fnWord c.fn (slot + 4096 + page4k (4 * sN d) + 8 * k)) ∧
    (count x.slow (2 * i) = 1 → s.onStep s.time.now = true → s.regionMus r = [] →
      ∃ t y, exec (.slowRelease r i) s = .next t ∧ t = { s with rgns := t.rgns } ∧ (t.rgn r).run = some y ∧ count y.slow (2 * i) = 2)) ∧
  (∀ (r i : Nat) (x : RunState) (c : Cmd) (d : List W64) (s : State), s.offSet r i = some (x, c, d) → count x.off i = 1 →
    s.pbTurn r true i = true → oBack d = false → s.host.portB = false →
    ∃ t y, exec (.offloadEnd r i) s = .next t ∧ t.mem.spad = s.mem.spad ∧ (oDram d = false → t.mem = s.mem) ∧ t.host.mem = s.host.mem ∧
      (t.rgn r).run = some y ∧ count y.off i = 2 ∧ y.status = if x.status = 0 then 3 else x.status) ∧
  (∀ (r i a : Nat) (x : RunState) (c : Cmd) (d : List W64) (s : State), s.offSet r i = some (x, c, d) → count x.off i = 1 →
    s.pbTurn r true i = true → oBack d = false → oDram d = false → s.host.portB = true → Mem.wf s.host.mem = true →
    (∀ n, n < oLen d → s.hostAddr c.fn (oHaddr d + n) = a + n) →
    ∃ t y, exec (.offloadEnd r i) s = .next t ∧ t.mem.spad = s.mem.spad ∧ t.mem.dram = s.mem.dram ∧ (t.rgn r).run = some y ∧ count y.off i = 2 ∧
      (s.pbBad x.handle = false → (∀ k, k < oLen d / 128 → (s.offRow r d k).poison = 0) → y.status = x.status) ∧
      ∀ k w, k < oLen d / 128 → w < 16 →
        Mem.readNat t.host.mem (a + 128 * k + 8 * w) 8 = (Row.word (s.offRow r d k) w).toNat)

/-! ### Flash, patrol, digests, and the power of a die -/

/-- A fetched sheet has its T2 copy, and none where placement is off; a leaf that nothing awaits changes nothing, and one that a miss
awaits answers it; data past its retention joins the refresh list, and relocation leaves it in a fresh block; in its own part of the
refresh period a patrol window moves its place on by 152 lines, clearing what it corrects; a digest is formed from its block; a retrain is
begun or refused, and ends; drift tracking changes nothing that software sees (R260, R282, R286, R298, R299, R306, R446, R460, R461, R493,
R495, R496, R498). -/
def Obligations.MemoryUpkeep : Prop :=
  (∀ (dom sheet : Nat) (weak : List Nat) (s : State), (s.copyOf dom sheet).fetch.isSome = true →
    (s.plcOn = true → (∀ e ∈ s.slices, e.2.miss = []) →
      ∃ t, exec (.sheetFetchDone dom ⟨sheet, [], weak⟩) s = .next t ∧ (t.copyOf dom sheet).t2 = true ∧ (t.copyOf dom sheet).fetch = none ∧
        t.mem.flash = s.mem.flash ∧ t.mem.spad = s.mem.spad) ∧
    (s.plcOn = false →
      ∃ t, exec (.sheetFetchDone dom ⟨sheet, [], weak⟩) s = .next t ∧ t = { s with mem := t.mem } ∧
        t.copyOf dom sheet = { s.copyOf dom sheet with fetch := none, win := false })) ∧
  (∀ (dom leaf : Nat) (b : LeafEcc) (c : Bool) (s : State), s.leafWanted dom leaf = false → exec (.flashLeafRead dom leaf b c) s = .next s) ∧
  (∀ (i dom leaf : Nat) (c : Slice) (m : Miss) (f : Flit) (s : State), s.slices = [(i, c)] → c.miss = [m] → c.lines = [] → c.park = [] →
    c.order = [f] → m.reqs = [f] → m.filled = false → f.kind = .readReq → m.line / 4096 = flashBase / 4096 + leaf →
    isFlash m.line 1 = true → s.domainOf m.rtag = dom → s.plcOn = false → s.leafBad leaf = false →
    ∃ t, exec (.flashLeafRead dom leaf ⟨false, false⟩ false) s = .next t ∧
      t.flits = s.flits ++ [answerOf f .readReply (s.flashRow m.line) false] ∧ (t.slice i).miss = [] ∧ t.mem.flash = s.mem.flash) ∧
  (∀ (fd block : Nat) (s : State), let k := 2 ^ 20 * fd + block
    (∃ t, exec (.retentionTrigger fd block) s = .next t ∧ (FMap.get NandBlock.fresh t.mem.blocks k).old = true ∧
      NatSet.mem t.mem.refresh k = true ∧ t.mem.flash = s.mem.flash) ∧
    ∀ (n : Nat) (fails : Bool), (s.inWindow 0 983 = false → exec (.refreshRelocation fd ⟨block, n, fails⟩) s = .next s) ∧
      (NatSet.mem s.mem.refresh k = true → s.inWindow 0 983 = true →
        ∃ t, exec (.refreshRelocation fd ⟨block, n, fails⟩) s = .next t ∧ NatSet.mem t.mem.refresh k = false ∧ t.mem.flash = s.mem.flash ∧
          FMap.get NandBlock.fresh t.mem.blocks k = NandBlock.fresh ∧
          t.journal fd 2 = s.journal fd 2 + (n + if (FMap.get NandBlock.fresh s.mem.blocks k).hard || fails then 1 else 0))) ∧
  (∀ (q : Nat) (s : State),
    ((s.reg aMemCtl).bit 0 = false ∨ s.inWindow 0 255 = false → exec (.patrolWindow q) s = .next s) ∧
    ((s.reg aMemCtl).bit 0 = true → s.inWindow 0 255 = true → s.power.st = .ready → s.dieExists q = true → s.die q = .powered → s.stackPresent q = true → (∀ k, count s.mem.upset k ≤ 3) →
      ∃ t, exec (.patrolWindow q) s = .next t ∧ count t.mem.patrol q = (count s.mem.patrol q + 152) % stackLines ∧
        t.mem.dram = s.mem.dram ∧ t.cus = s.cus ∧
        ∀ i w, i < 152 → w < 16 →
          count t.mem.upset (upsetDram (halfStack * q + 128 * ((count s.mem.patrol q + i) % stackLines) + 8 * w)) = 0)) ∧
  (∀ (m : Nat) (s : State),
    ((s.reg aMemCtl).bit 1 = false → exec (.spPatrol m) s = .next s) ∧
    ((s.reg aMemCtl).bit 1 = true → s.power.st = .ready → s.die (unitDie m) = .powered → s.dieExists (unitDie m) = true →
      ∃ t, exec (.spPatrol m) s = .next t ∧ t.mem.spad = s.mem.spad ∧ t.cus = s.cus ∧
        count t.mem.patrol (64 + m) = if count s.mem.patrol (64 + m) + 1 = 4096 then 0 else count s.mem.patrol (64 + m) + 1)) ∧
  (∀ s : State,
    (∃ t, exec .watermarkRecompute s = .next t ∧ t.wmDigest = digestOf s.wmBlock ∧
      t = { s with wmDigest := t.wmDigest, digestBad := t.digestBad, regs := t.regs }) ∧
    (∃ t, exec (.digestRecompute 64) s = .next t ∧ t.wmDigest = digestOf s.wmBlock) ∧
    ∀ g, g < 64 → s.gValid g = true → (s.group g).run = none → s.host.cmds = [] →
      ∃ t, exec (.digestRecompute g) s = .next t ∧ t.grpDigest g = digestOf (s.grpBlock g) ∧
        t = { s with digestBad := t.digestBad, regs := t.regs }) ∧
  (∀ (q chan : Nat) (s : State), s.pfOpen (aMemTrain q) = true →
    ((s.reg (aMemTrain q)).bit 5 = true ∨ s.die q ≠ .powered ∨ s.stackPresent q = false →
      ∃ t, exec (.memTrainGo q chan) s = .next t ∧ t = { s with regs := t.regs } ∧ (t.reg (aMemTrain q)).bit 6 = true) ∧
    ((s.reg (aMemTrain q)).bit 5 = false → s.die q = .powered → s.stackPresent q = true → s.cfg.part0 = [] →
      ∃ t, exec (.memTrainGo q chan) s = .next t ∧ (t.reg (aMemTrain q)).bit 5 = true ∧ (t.reg (aMemTrain q)).bits 3 0 = chan % 16 ∧
        count t.power.retrain q = chan % 16 + 1 ∧ t.mem = s.mem)) ∧
  (∀ (q : Nat) (ok : Bool) (s : State),
    (count s.power.retrain q = 0 → exec (.retrainDone q ok) s = .next s) ∧
    (count s.power.retrain q ≠ 0 → ∃ t, exec (.retrainDone q ok) s = .next t ∧ (t.reg (aMemTrain q)).bit 5 = false ∧
      count t.power.retrain q = 0 ∧ (ok = true → NatSet.mem t.power.ifSettings q = true) ∧
      (ok = false → (t.reg (aMemTrain q)).bit 7 = true ∧ t.power.ifSettings = s.power.ifSettings))) ∧
  (∀ (q chan : Nat) (s : State), exec (.driftTrack q chan) s = .next s)

/-- A powered die that is to go down is fenced with its regions; once their fences hold its routers refuse; once its slices have no miss
and no parked request left its lines and its half-stack's are written back and dropped; self-refresh is confirmed; then its power is
removed and its regions hold no image. A gated die powers up with its scratchpads zero, one that is going down afterwards (R216, R218,
R219). -/
def Obligations.DiePower : Prop :=
  (∀ (d : Nat) (s : State),
    (s.die d ≠ .powered → exec (.diePowerDown d) s = .next s) ∧
    (d < 16 → s.die d = .powered →
      ∃ t, exec (.diePowerDown d) s = .next t ∧ t.die d = .fencing ∧ NatSet.mem t.pend.die d = true ∧ (∀ e, e ≠ d → t.die e = s.die e) ∧
        t.mem.dram = s.mem.dram ∧ t.mem.spad = s.mem.spad ∧ ∀ r ∈ s.rgnsOn d, 0 < (t.rgn r).fence)) ∧
  (∀ (d : Nat) (s : State),
    (s.die d = .fencing → (∀ r ∈ s.rgnsOn d, s.fenceHolds r = true) →
      ∃ t, exec (.refuseStateEntry d) s = .next t ∧ t.die d = .refusing ∧
        ∀ r ∈ s.rgnsOn d, ∀ c ∈ t.host.cmds, c.region = r → c.opcode ∈ [1, 3, 4, 7, 9, 0x0A] → c.phase ≠ .running) ∧
    ((s.die d ≠ .fencing ∨ ∃ r ∈ s.rgnsOn d, s.fenceHolds r = false) → exec (.refuseStateEntry d) s = .next s)) ∧
  (∀ (d : Nat) (s : State),
    (s.die d = .refusing → (∀ k, k < 16 → (s.slice (16 * d + k)).miss = [] ∧ (s.slice (16 * d + k)).park = []) →
      ∃ t, exec (.powerDownWritebackDone d) s = .next t ∧ t.die d = .selfRefresh ∧
        ∀ i x, x ∈ (t.slice i).lines → t.heldFor d i x = false) ∧
    ((s.die d ≠ .refusing ∨ ∃ k, k < 16 ∧ (s.slice (16 * d + k)).miss ≠ []) → exec (.powerDownWritebackDone d) s = .next s)) ∧
  (∀ (d : Nat) (s : State),
    (s.die d = .selfRefresh → count s.power.retrain d = 0 →
      ∃ t, exec (.selfRefreshConfirmed d) s = .next t ∧ t = { s with power := t.power } ∧ t.die d = .holding) ∧
    (s.die d ≠ .selfRefresh ∨ count s.power.retrain d ≠ 0 → exec (.selfRefreshConfirmed d) s = .next s)) ∧
  (∀ (d : Nat) (s : State),
    (s.die d ≠ .holding → exec (.refuseHoldExpiry d) s = .next s) ∧
    (s.die d = .holding → ∃ t, exec (.refuseHoldExpiry d) s = .next t ∧
      t.die d = (if NatSet.mem s.power.upAsk d then .poweringUp else .gated) ∧ ∀ r ∈ s.rgnsOn d, (t.rgn r).img = none)) ∧
  (∀ (d : Nat) (s : State),
    (s.die d = .gated → ∃ t, exec (.diePowerUp d) s = .next t ∧ t = { s with power := t.power, mem := t.mem } ∧ t.die d = .poweringUp ∧
      t.mem.dram = s.mem.dram ∧
      ∀ b, Mem.byte t.mem.spad b = if unitDie (b / 2 ^ 19) = d then 0 else Mem.byte s.mem.spad b) ∧
    (s.die d ∈ [.fencing, .refusing, .selfRefresh, .holding] →
      ∃ t, exec (.diePowerUp d) s = .next t ∧ t = { s with power := t.power } ∧ NatSet.mem t.power.upAsk d = true ∧ t.die d = s.die d) ∧
    (s.die d = .powered → exec (.diePowerUp d) s = .next s)) ∧
  (∀ (d : Nat) (s : State),
    (s.die d = .poweringUp → s.onFigure s.time.now = true → ∃ t, exec (.powerUpDone d) s = .next t ∧ t = { s with power := t.power } ∧ t.die d = .powered) ∧
    (s.die d ≠ .poweringUp ∨ s.onFigure s.time.now = false → exec (.powerUpDone d) s = .next s))

/-! ### Pavane -/

/-- A write of PAV_CTL leaves what is in force until the next figure boundary, and MODE 3 leaves MODE; a time load is refused, pending, or
sets device time to its value cut to 8 dt; an edge reports its error, and the third one that misses loses the reference; LOCKED, HOLDOVER,
SLEW and FREERUN are entered as R254 to R258 say; a bad PAV_SRC write is refused as a whole (R253–R258, R277). -/
def Obligations.PavaneClock : Prop :=
  (∀ (v : W64) (s : State), s.pfOpen aPavCtl = true → v.bit 4 = false →
    ∃ t, exec (.pavCtlWrite v) s = .next t ∧ t = { s with regs := t.regs, pend := t.pend } ∧ t.pavCtl = s.pavCtl ∧
      (t.reg aPavCtl).bits 3 2 = v.bits 3 2 ∧ (t.reg aPavCtl).bits 1 0 = if v.bits 1 0 = 3 then (s.reg aPavCtl).bits 1 0 else v.bits 1 0) ∧
  (∀ s : State, s.pfOpen aPavCtl = true →
    (s.allEmpty = false ∨ s.pavMode = 1 →
      ∃ t, exec .tload s = .next t ∧ t = { s with regs := t.regs, pend := { s.pend with gridAt := none } } ∧
        (t.reg aPavStatus).bit 8 = true) ∧
    (s.allEmpty = true → s.pavMode ≠ 1 → s.pavEpoch = false →
      ∃ t, exec .tload s = .next t ∧ t.time = { s.time with now := (s.reg aPavTlval).toNat / 8 * 8 } ∧ (t.reg aPavStatus).bit 7 = true ∧
        t.pend = { s.pend with gridAt := none } ∧ t.mem = s.mem ∧ t.cus = s.cus) ∧
    (s.allEmpty = true → s.pavMode = 0 → s.pavEpoch = true → (s.reg aPavTlval).toNat % max (s.regBits aPavPer 47 0) 1 = 0 →
      ∃ t, exec .tload s = .next t ∧ t.time = s.time ∧ t.pend.tload = true)) ∧
  (∀ (x : Nat) (s : State), let per := max (s.regBits aPavPer 47 0) 1
    let err : Int := if 2 * (x % per) ≤ per then (x % per : Nat) else (x % per : Nat) - (per : Int)
    (s.pavEpoch = false → exec (.epochEdge x) s = .next s) ∧ (s.pavMode ≠ 0 → exec (.epochEdge x) s = .next s.epochRise) ∧
    (s.pavMode = 0 → s.pavEpoch = true → s.pend.tload = true → s.allEmpty = true →
      ∃ t, exec (.epochEdge x) s = .next t ∧ t.time = { s.time with now := (s.reg aPavTlval).toNat / 8 * 8 } ∧ t.pend.tload = false) ∧
    (s.pavMode = 0 → s.pavEpoch = true → s.pend.tload = false →
      (err.natAbs ≤ 32 → ∃ t, exec (.epochEdge x) s = .next t ∧ t = { s.epochRise with
          regs := t.regs, time := { s.time with epochMiss := 0, epochGood := min (s.time.epochGood + 1) 16 } } ∧
        t.reg aPavOffset = BitVec.ofInt 64 err) ∧
      (32 < err.natAbs → s.time.epochMiss < 2 → ∃ t, exec (.epochEdge x) s = .next t ∧ (t.reg aPavStatus).bit 4 = true ∧
        t = { s.epochRise with regs := t.regs, time := { s.time with epochMiss := s.time.epochMiss + 1, epochGood := 0 } }) ∧
      (32 < err.natAbs → 2 ≤ s.time.epochMiss → s.pavState = 1 ∨ s.pavState = 2 → ∃ t, exec (.epochEdge x) s = .next t ∧
        t.pavState = 3 ∧ (t.reg aPavStatus).bit 3 = true ∧ t.time.now = s.time.now))) ∧
  (∀ s : State,
    (s.pavMode = 0 ∧ s.pavState = 0 ∧ (s.pavEpoch = true → 16 ≤ s.time.epochGood) ∨
      s.pavMode = 0 ∧ s.pavState = 2 ∧ (s.pavEpoch = true → (s.reg aPavOffset).toInt.natAbs ≤ 2) ∨
      s.pavMode = 1 ∧ (s.pavState = 0 ∨ s.pavState = 2) ∧ s.sourceUp = true ∧ (s.reg aPavOffset).toInt.natAbs ≤ 2 →
      ∃ t, exec .pavLock s = .next t ∧ t = { s with regs := t.regs } ∧ t.pavState = 1) ∧
    (s.pavMode = 0 → s.pavState = 0 → s.pavEpoch = true → s.time.epochGood < 16 → exec .pavLock s = .next s) ∧
    (s.pavState ≠ 0 → s.pavState ≠ 2 → exec .pavLock s = .next s)) ∧
  (∀ s : State,
    (s.pavMode = 2 ∨ s.pavState = 0 ∨ 3 ≤ s.pavState → exec .referenceLoss s = .next s) ∧
    (s.pavMode ≠ 2 → s.pavState = 1 ∨ s.pavState = 2 →
      (s.pavMode = 1 → s.bakFit = true → exec .referenceLoss s = .next { s with time := { s.time with toBak := true } }) ∧
      (s.pavMode ≠ 1 ∨ s.bakFit = false → ∃ t, exec .referenceLoss s = .next t ∧ t.pavState = 3 ∧ (t.reg aPavStatus).bit 3 = true ∧
        t = { s with regs := t.regs, time := { s.time with lostFor := some 0 } }))) ∧
  (∀ s : State,
    (s.pavState = 3 → ∃ t, exec .holdoverExpiry s = .next t ∧ t = { s with regs := t.regs } ∧ t.pavState = 4) ∧
    (s.pavState ≠ 3 → exec .holdoverExpiry s = .next s) ∧
    (s.pavMode ≠ 2 → s.lossHolds = false → s.pavState = 3 ∨ s.pavState = 4 →
      ∃ t, exec .referenceRequalify s = .next t ∧ t = { s with regs := t.regs } ∧ t.pavState = 2) ∧
    (s.pavMode = 2 ∨ s.lossHolds = true → exec .referenceRequalify s = .next s)) ∧
  (∀ (x : Nat) (s : State),
    (s.pavMode = 1 → s.pavState = 0 → s.sourceUp = true → s.allEmpty = true →
      ∃ t, exec (.followerStep x) s = .next t ∧ t.time = { s.time with now := x % 2 ^ 64 / 8 * 8 } ∧ (t.reg aPavStatus).bit 7 = true) ∧
    (s.allEmpty = false ∨ s.pavMode ≠ 1 → exec (.followerStep x) s = .next s)) ∧
  (∀ (v : W64) (s : State), s.pfOpen aPavSrc = true →
    (v.bit 6 = true → s.linkFused (v.bits 5 0) = true ∨ v.bit 13 = true ∧ v.bits 5 0 = v.bits 12 7 →
      ∃ t, exec (.pavSrcWrite v) s = .next t ∧ t = { s with regs := t.regs } ∧ t.reg aPavSrc = s.reg aPavSrc ∧
        (t.reg aPavStatus).bit 11 = true) ∧
    (s.linkFused (v.bits 5 0) = false → s.linkFused (v.bits 12 7) = false → v.bits 5 0 ≠ v.bits 12 7 →
      ∃ t, exec (.pavSrcWrite v) s = .next t ∧ t = { s with regs := t.regs } ∧ (t.reg aPavSrc).bits 13 0 = v.bits 13 0 ∧
        (t.reg aPavSrc).bit 14 = (v.bit 13 && (s.reg aPavSrc).bit 14)))

/-! ### Staged configuration and registers -/

/-- A commit of a busy table is ignored; one with an entry at fault shows its RESULT and BADIDX and applies nothing; an accepted one is
busy until it comes into force, whole, at its boundary, where what changes its owner reads as zero and a moved range has bank A active. A
grid change is armed or refused, and comes into force where everything is EMPTY (R194, R251, R252, R262, R263, R341, R378, R393, R394,
R565, R570). -/
def Obligations.StagedTables : Prop :=
  (∀ s : State, ∀ e ∈ [
      (Instr.hubPartCommit, aPartCtl,
        (if (firstFault (List.range 256) (s.partCheck s.stagedPart)).1 = 0 then shareFault s.stagedPart
          else firstFault (List.range 256) (s.partCheck s.stagedPart)), { s.pend with part := some s.stagedPart }),
      (.pavAllotCommit, aAllotCtl, firstFault (List.range 256) (s.allotCheck (s.regTable 0x101000 8 256 0)),
        { s.pend with allot := some (s.regTable 0x101000 8 256 0) }),
      (.hubMapCommit, aMapCtl,
        firstFault ((s.mapTable.map (·.idx) ++ s.cfg.map.map (·.idx)).foldl NatSet.ins []) (s.mapCheck s.mapTable),
        { s.pend with map := some s.mapTable }),
      (.hubFnringCommit, aFnringCtl, firstFault (List.range 4096) (s.ringCheck (s.regTable 0xA0000 8 4096 0)),
        { s.pend with fnring := some (s.regTable 0xA0000 8 4096 0) })],
    s.pfOpen e.2.1 = true →
    (s.ctlBusy e.2.1 = true → exec e.1 s = .next s) ∧
    (s.ctlBusy e.2.1 = false →
      (e.2.2.1.1 ≠ 0 → ∃ t, exec e.1 s = .next t ∧ t = { s with regs := t.regs } ∧
        t.reg e.2.1 = BitVec.ofNat 64 (16 * e.2.2.1.1 + 256 * e.2.2.1.2)) ∧
      (e.2.2.1.1 = 0 → ∃ t, exec e.1 s = .next t ∧ t = { s with regs := t.regs, pend := e.2.2.2 } ∧
        t.ctlBusy e.2.1 = true ∧ (t.reg e.2.1).bits 7 4 = 0))) ∧
  (∀ (p : PartTables) (s : State), s.pend.part = some p → s.onFigure s.time.now = true →
    ∃ t, exec .partitionApply s = .next t ∧ t.pend = { s.pend with part := none } ∧ t.ctlBusy aPartCtl = false ∧
      t.cfg.part0 = p.part0 ∧ t.cfg.part1 = p.part1 ∧ t.cfg.tdiv0 = p.tdiv0 ∧ t.cfg.tdiv1 = p.tdiv1 ∧ t.cfg.map = s.cfg.map ∧
      ∀ b r, s.regionOf (b / 2 ^ 19) = some r →
        ((t.regionOf (b / 2 ^ 19)).map fun q => partOwner (t.part0 q)) ≠ some (partOwner (s.part0 r)) → Mem.byte t.mem.spad b = 0) ∧
  (∀ (a : FMap W64) (s : State), s.pend.allot = some a → s.onFigure s.time.now = true →
    ∃ t, exec .allotApply s = .next t ∧ t.pend = { s.pend with allot := none } ∧ t.ctlBusy aAllotCtl = false ∧ t.mem = s.mem ∧
      ∀ r, r < 256 → t.allotOf r = allotRange a r ∧ t.bankOf r = if allotRange a r = s.allotOf r then s.bankOf r else 0) ∧
  (∀ (m : List MapEnt) (s : State), s.pend.map = some m → s.onFigure s.time.now = true →
    ∃ t, exec .mapApply s = .next t ∧ t.pend = { s.pend with map := none } ∧ t.ctlBusy aMapCtl = false ∧ t.cfg = { s.cfg with map := m } ∧
      t.mem.spad = s.mem.spad ∧
      ∀ e ∈ s.cfg.map, e.kind = 0 → ∀ a, e.base ≤ a → a < e.base + e.len →
        (∀ x ∈ m, x.kind = 0 → x.owner = e.owner → a < x.base ∨ x.base + x.len ≤ a) → Mem.byte t.mem.dram a = 0) ∧
  (∀ (m : FMap W64) (s : State), s.pend.fnring = some m → s.onFigure s.time.now = true →
    ∃ t, exec .fnringApply s = .next t ∧ t.ctlBusy aFnringCtl = false ∧
      t = { s with cfg := { s.cfg with fnring := m }, pend := { s.pend with fnring := none }, regs := t.regs }) ∧
  (∀ s : State, (s.pend.part = none ∨ s.onFigure s.time.now = false → exec .partitionApply s = .next s) ∧
    (s.pend.allot = none ∨ s.onFigure s.time.now = false → exec .allotApply s = .next s) ∧
    (s.pend.map = none ∨ s.onFigure s.time.now = false → exec .mapApply s = .next s) ∧
    (s.pend.fnring = none ∨ s.onFigure s.time.now = false → exec .fnringApply s = .next s) ∧
    (s.pend.gridAt ≠ some s.time.now → exec .gridChangeApply s = .next s)) ∧
  (∀ (v : W64) (s : State), s.pfOpen aPavGridAt = true → let g := s.gridNext
    (gridLegal g = true → v.toNat % max s.figDt 1 = 0 → v.toNat % max (g.1 * g.2.1) 1 = 0 → s.time.now + s.figDt ≤ v.toNat →
      exec (.pavGridAt v) s = .next { s with pend := { s.pend with gridAt := some v.toNat } }) ∧
    (gridLegal g = false ∨ v.toNat < s.time.now + s.figDt →
      ∃ t, exec (.pavGridAt v) s = .next t ∧ t = { s with regs := t.regs } ∧ (t.reg aPavStatus).bit 10 = true)) ∧
  (∀ s : State, s.pend.gridAt = some s.time.now → let g := s.gridNext
    (s.allEmpty = true → gridLegal g = true → s.time.now % (g.1 * g.2.1) = 0 →
      ∃ t, exec .gridChangeApply s = .next t ∧ t.cfg = { s.cfg with stepdt := g.1, steps := g.2.1, cycle := g.2.2 } ∧
        t.pend = { s.pend with gridAt := none } ∧ (t.reg aPavStatus).bit 9 = true ∧ t.mem = s.mem) ∧
    (s.allEmpty = false → ∃ t, exec .gridChangeApply s = .next t ∧ t.cfg = s.cfg ∧ t.pend = { s.pend with gridAt := none } ∧
      (t.reg aPavStatus).bit 10 = true))

/-- The write of word 0 of an entry takes it, with the other words last written, for its next boundary, or refuses it with its flag; entry
0 of a region's guests ignores writes; an accepted trace ring is in force at once and begins at SEQ 1; a trace record reaches its ring
where the ring is enabled (R286, R287, R366, R388, R427, R531, R532, R565). -/
def Obligations.EntryWrites : Prop :=
  (∀ (en : Bool) (s : State), s.pfOpen aPlcCtl = true →
    (s.plcOn = en → exec (.plcCtlEn en) s = .next s) ∧
    (s.plcOn ≠ en → s.allEmpty = false → ∃ t, exec (.plcCtlEn en) s = .next t ∧ t = { s with regs := t.regs } ∧ t.plcOn = s.plcOn ∧
      (t.reg aPlcStatus).bit 1 = true) ∧
    (s.plcOn ≠ en → s.allEmpty = true → (en = true → s.poolBad = false) →
      ∃ t, exec (.plcCtlEn en) s = .next t ∧ t = { s with regs := t.regs } ∧ t.plcOn = en ∧ (t.reg aPlcStatus).bit 0 = en) ∧
    (s.plcOn = true → exec .plcCtlClr s = .next s) ∧
    (s.plcOn = false → ∃ t, exec .plcCtlClr s = .next t ∧ t = { s with mem := t.mem } ∧ t.mem = { s.mem with copies := t.mem.copies } ∧
      ∀ dom sheet, (t.copyOf dom sheet).t2 = false ∧ (t.copyOf dom sheet).heat = 0 ∧ (t.copyOf dom sheet).fetch = none)) ∧
  (∀ (n : Nat) (v : W64) (s : State), s.pfOpen (aPlcRgn n 0) = true →
    let w0 := mergeBits 0 v (pfRw (aPlcRgn n 0))
    let w1 := s.reg (aPlcRgn n 1)
    (s.plcBad n w0 w1 = true → ∃ t, exec (.plcRgnWrite n v) s = .next t ∧ t = { s with regs := t.regs } ∧ (t.reg aPlcStatus).bit 3 = true) ∧
    (s.plcBad n w0 w1 = false → ∃ t, exec (.plcRgnWrite n v) s = .next t ∧
      t = { s with regs := t.regs, pend := { s.pend with plc := t.pend.plc } } ∧ FMap.get none t.pend.plc n = some (w0, w1))) ∧
  (∀ (n : Nat) (v : W64) (s : State), s.pfOpen (aFeedSlot n 0) = true →
    let w0 := mergeBits 0 v (pfRw (aFeedSlot n 0))
    let w1 := s.reg (aFeedSlot n 1)
    (s.feedSlotBad w0 w1 = true →
      ∃ t, exec (.feedSlotWrite n v) s = .next t ∧ t = { s with regs := t.regs } ∧ (t.reg aFeedSlotStat).bit 0 = true) ∧
    (s.feedSlotBad w0 w1 = false → ∃ t, exec (.feedSlotWrite n v) s = .next t ∧
      t = { s with regs := t.regs, pend := { s.pend with feed := t.pend.feed } } ∧ FMap.get none t.pend.feed n = some (w0, w1))) ∧
  (∀ (n j : Nat) (v : W64) (s : State), s.pfOpen (aGuest n j) = true →
    (j = 0 → exec (.hubGuestWrite n j v) s = .next s) ∧
    (j ≠ 0 → v.bit 12 = true → s.fnEnabled (v.bits 11 0) = false →
      ∃ t, exec (.hubGuestWrite n j v) s = .next t ∧ t = { s with regs := t.regs } ∧ (t.reg aGuestStat).bit 0 = true) ∧
    (j ≠ 0 → v.bit 12 = false → (s.guestWord n j).bit 12 = false →
      ∃ t, exec (.hubGuestWrite n j v) s = .next t ∧ t = { s with regs := t.regs, pend := { s.pend with guest := t.pend.guest } } ∧
        FMap.get none t.pend.guest (16 * n + j) = some (mergeBits 0 v (maskBits 12 0)))) ∧
  (∀ (n : Nat) (v : W64) (s : State), s.pfOpen (aCeGrp n 0) = true →
    let w0 := mergeBits 0 v (pfRw (aCeGrp n 0))
    let w1 := s.reg (aCeGrp n 1)
    (s.grpBad n w0 w1 = true → ∃ t, exec (.ceGrpWrite n v) s = .next t ∧ t = { s with regs := t.regs } ∧
      ∀ k, k < 6 → (t.reg (aCeGstat k)).bit 0 = true) ∧
    (s.grpBad n w0 w1 = false → ∃ t, exec (.ceGrpWrite n v) s = .next t ∧
      t = { s with regs := t.regs, pend := { s.pend with grp := t.pend.grp } } ∧
      FMap.get none t.pend.grp n = some [w0, w1, s.reg (aCeGrp n 2)])) ∧
  (∀ (n : Nat) (v : W64) (s : State), s.pfOpen (aObsTrc n 0) = true →
    let w0 := mergeBits 0 v (pfRw (aObsTrc n 0))
    let w1 := s.reg (aObsTrc n 1)
    (s.trcBad n w0 w1 = true → ∃ t, exec (.obsTrcWrite n v) s = .next t ∧ t = { s with regs := t.regs } ∧ (t.reg aObsTrcStat).bit 0 = true) ∧
    (s.trcBad n w0 w1 = false → ∃ t, exec (.obsTrcWrite n v) s = .next t ∧ t.trcWord n 0 = w0 ∧ t.trcWord n 1 = w1 ∧ t.mem = s.mem ∧
      (w0.bit 57 = true → (t.rgn n).trSeq = 1))) ∧
  (∀ (die : Nat) (s : State),
    (FMap.get [] s.traces die = [] → exec (.traceRecordArrive die) s = .next s) ∧
    ∀ x l, FMap.get [] s.traces die = x :: l →
      ((s.trcWord x.region 0).bit 57 = false →
        ∃ t, exec (.traceRecordArrive die) s = .next t ∧ t = { s with traces := t.traces } ∧ FMap.get [] t.traces die = l) ∧
      (let w := s.trcWord x.region 0
       let a := w.bits 51 0 + 32 * (((s.rgn x.region).trSeq - 1) % 2 ^ w.bits 56 52)
       w.bit 57 = true → (s.rgn x.region).trFig < (s.trcWord x.region 1).bits 20 8 →
       s.mapped (partOwner (s.part0 x.region)) a 32 (entDram false true) = true → a % 8 = 0 → a + 32 ≤ 16 * halfStack →
       ∃ t, exec (.traceRecordArrive die) s = .next t ∧ FMap.get [] t.traces die = l ∧ t.devWord a = BitVec.ofNat 64 x.time ∧
         t.devWord (a + 24) = x.handle ∧ (t.rgn x.region).trSeq = (s.rgn x.region).trSeq + 1))

/-- A register write outside the module's awake states, unaligned, or past 64 bytes does nothing, and 4 bytes reach a doorbell alone;
PAV_TLVAL takes what is written, and a one written to a W1C bit of PLC_STATUS clears it. GL_NODE is taken while every link is OFF or in
BYPASS; HUB_STAGE_GO begins the next stage only; PROG is refused with PRES 3 or under way, and ends; the watermark tag waits for its
boundary (R15, R17, R397, R479, R494, R498, R557, R558). -/
def Obligations.RegisterWrites : Prop :=
  (∀ (w : RegWrite) (s : State),
    (s.awake = false ∨ w.off % 8 ≠ 0 ∨ 64 < w.bytes.length ∨ (w.bytes.length % 8 ≠ 0 ∧ w.bytes.length ≠ 4) →
      exec (.registerWrite w) s = .next s) ∧
    (w.bytes.length = 4 → isDoorbell w.win w.off = false → exec (.registerWrite w) s = .next s) ∧
    (w.win = .pf → w.off = aPavTlval → s.pfOpen aPavTlval = true → w.bytes.length = 8 →
      ∃ t, exec (.registerWrite w) s = .next t ∧ t = { s with regs := t.regs } ∧
        t.reg aPavTlval = BitVec.ofNat 64 (leNat w.bytes) ∧ ∀ o, o ≠ aPavTlval → t.reg o = s.reg o) ∧
    (w.win = .pf → w.off = aPlcStatus → s.pfOpen aPlcStatus = true → w.bytes.length = 8 →
      ∃ t, exec (.registerWrite w) s = .next t ∧ t = { s with regs := t.regs } ∧
        t.reg aPlcStatus = s.reg aPlcStatus &&& ~~~(BitVec.ofNat 64 (leNat w.bytes) &&& 0xe) ∧ ∀ o, o ≠ aPlcStatus → t.reg o = s.reg o)) ∧
  (∀ (v : W64) (s : State), s.pfOpen (aGlNode 0) = true →
    ((∀ l, l < 36 → (s.link l).st = .off ∨ (s.link l).st = .bypass) → s.power.variant ≠ 2 →
      v.bits 24 18 * v.bits 31 25 * v.bits 38 32 ≤ 16384 → v.bits 5 0 < v.bits 24 18 → v.bits 11 6 < v.bits 31 25 →
      v.bits 17 12 < v.bits 38 32 → v.bits 24 18 ≤ 64 → v.bits 31 25 ≤ 64 → v.bits 38 32 ≤ 64 →
      ∃ t, exec (.glNodeWrite v) s = .next t ∧ t = { s with regs := t.regs } ∧ ∀ k, k < 6 → (t.reg (aGlNode k)).bits 38 0 = v.bits 38 0) ∧
    (∀ l, l < 36 → (s.link l).st = .up →
      ∃ t, exec (.glNodeWrite v) s = .next t ∧ t = { s with regs := t.regs } ∧
        ∀ k, k < 6 → (t.reg (aGlNode k)).bit 63 = true ∧ (t.reg (aGlNode k)).bits 62 0 = (s.reg (aGlNode k)).bits 62 0)) ∧
  (∀ (v : W64) (s : State), s.pfOpen aStageGo = true → let w := s.reg aHubStage
    (v.bits 3 0 ≤ 10 → v.bits 3 0 = (w.bits 3 0 + 1) % 16 → w.bits 7 4 = 15 → w.bit 11 = false →
      ∃ t, exec (.hubStageGo v) s = .next t ∧ (t.reg aHubStage).bits 7 4 = v.bits 3 0 ∧ (t.reg aHubStage).bits 3 0 = w.bits 3 0 ∧
        (t.reg aHubStage).bit 8 = false ∧ (t.reg aHubStage).bits 31 16 = 0 ∧
        t = { s with regs := t.regs, power := { s.power with stageOk := none } }) ∧
    (10 < v.bits 3 0 ∨ v.bits 3 0 ≠ (w.bits 3 0 + 1) % 16 ∨ w.bits 7 4 ≠ 15 ∨ w.bit 11 = true →
      ∃ t, exec (.hubStageGo v) s = .next t ∧ t = { s with regs := t.regs } ∧ (t.reg aHubStage).bit 9 = true)) ∧
  (∀ s : State, s.pfOpen aFwCtl = true →
    ((s.reg aFwCtl).bit 4 = true ∨ s.stageDone 7 = false ∨ s.regBits aFwCtl 63 32 = 0 →
      ∃ t, exec .hubFwctlProg s = .next t ∧ t = { s with regs := t.regs } ∧ (t.reg aFwCtl).bits 6 5 = 3) ∧
    ((s.reg aFwCtl).bit 4 = false → s.stageDone 7 = true → 0 < s.regBits aFwCtl 63 32 → s.regBits aFwCtl 63 32 ≤ 2 ^ 25 →
      s.mapped 0 (s.regBits aFwSrc 51 0) (s.regBits aFwCtl 63 32) (entDram true false) = true →
      ∃ t, exec .hubFwctlProg s = .next t ∧ t = { s with regs := t.regs } ∧ (t.reg aFwCtl).bit 4 = true ∧ (t.reg aFwCtl).bits 6 5 = 0)) ∧
  (∀ (b : Bool) (s : State),
    ((s.reg aFwCtl).bit 4 = false → exec (.fwProgramDone b) s = .next s) ∧
    ((s.reg aFwCtl).bit 4 = true → ∃ t, exec (.fwProgramDone b) s = .next t ∧ (t.reg aFwCtl).bit 4 = false ∧
      (t.reg aFwCtl).bits 6 5 = (if b then 1 else 2) ∧ t = { s with regs := t.regs, power := { s.power with fwSlots := t.power.fwSlots } })) ∧
  (∀ (v : W64) (s : State), s.pfOpen aWmTag = true →
    ∃ t, exec (.hubWmtagWrite v) s = .next t ∧ t = { s with regs := t.regs, pend := { s.pend with wmtag := some v } } ∧ t.reg aWmTag = v)

/-! ### Collectives and Glogal -/

/-- A COLL or RESHARD that fails a check is refused with its word, one on memory that is down ends DOMAIN_DOWN, one with TRIG waits for
its declaration, one behind another waits for its turn; else it starts: it is the group's running collective, or has ended and moved SEQ
on. A reduction adds with saturation in I32 and in F32 by round to nearest even, and a mark in either term marks the sum (R429, R430,
R432, R433, R438, R440, R442, R443). -/
def Obligations.CollectiveCommands : Prop :=
  (∀ (h : W64) (c : Cmd) (s : State), ∀ e ∈ [(Instr.allReduce h, 6, 0), (.reduceScatter h, 6, 1), (.allGather h, 6, 2), (.broadcast h, 6, 3),
      (.permute h, 6, 4), (.reshardPermute h, 0x0E, 0), (.reshardCheckpoint h, 0x0E, 1)],
    s.openCmd h e.2.1 = some c → (if e.2.1 = 6 then (c.word 1).bits 2 0 else (c.word 1).bits 0 0) = e.2.2 →
    let g := (s.gFind ((c.word 1).bits 31 16)).getD 0
    let r := c.collRun
    let q := [0, 1, 2].foldl (fun n d => n * boxLen (s.grpWord g 1) d) 1
    let fault := if e.2.1 = 6 then s.collFault c else s.reshardFault c
    let down := if e.2.1 = 6 then s.stackDown r.src (r.spans q).1 || s.stackDown r.dst (r.spans q).2
      else (s.planEnts r).any fun x => s.stackDown x.addr x.len
    (∀ w, fault = some w → ∃ t, exec e.1 s = .next t ∧ t = { s with host := t.host } ∧
      t.cmd h = some { c with phase := .due, status := 8, detail := BitVec.ofNat 64 (w % 2 ^ 63) }) ∧
    (fault = none → down = true → ∃ t, exec e.1 s = .next t ∧ t = { s with host := t.host } ∧
      t.cmd h = some { c with phase := .due, status := 6, detail := 0 }) ∧
    (fault = none → down = false → e.2.1 = 6 → (c.word 0).bit 17 = true →
      ∃ t d, exec e.1 s = .next t ∧ t = { s with host := t.host, passes := t.passes } ∧ t.cmd h = some d ∧ d.phase = .running ∧
        d.at groupStage = g + 1 ∧ d.at trigStage ≠ 0) ∧
    (fault = none → down = false → (e.2.1 = 6 → (c.word 0).bit 17 = false) →
      (∀ x, (s.group g).run = some x → x.fail = 0 → s.collDone g x = false →
        ∃ t d, exec e.1 s = .next t ∧ t = { s with host := t.host } ∧ t.cmd h = some d ∧ d.phase = .running ∧ d.at groupStage = g + 1) ∧
      ((s.group g).run = none → c.at trigStage = 0 → NatSet.mem s.digestBad g = false → s.startStatus g r = 0 →
        (∀ x ∈ s.host.cmds, x.at groupStage = g + 1 → x.phase ≠ .running) → (∀ p ∈ s.passes, p.bound ≠ some h) →
        ∃ t, exec e.1 s = .next t ∧
          ((∃ x, (t.group g).run = some x ∧ x.handle = h) ∨
            (t.cmd h).map (·.phase) = some .due ∧ t.gSeq g = (s.gSeq g + 1) % 2 ^ 40)))) ∧
  (∀ (r : CollRun) (a b : W32 × Bool),
    (r.dfmt = 10 → (r.addOne a b).1.1.toInt = clampTo 32 (a.1.toInt + b.1.toInt)) ∧
    (r.dfmt ≠ 10 → (r.addOne a b).1.1 = (f32Add .rne a.1 b.1).1) ∧ (r.addOne a b).1.2 = (a.2 || b.2))

/-- A slot of another kind or for an unknown group changes nothing of a collective; READY is held for the command to come or opens what
waits for it; a slot that its phase accepts is counted, and one of a plan is stored at its offset; each is acknowledged on its way back to
its sender. A refused READY goes again, and 10 ms without a slot ends the collective with status 0x7 (R412, R413, R432, R433, R438, R440,
R441, R443, R449). -/
def Obligations.CollectiveSlots : Prop :=
  (∀ (k st d : Nat) (x : Slot) (s : State), s.routeDir x.src.toNat = some d → s.linkReaches (6 * k + d) x.src.toNat = true →
    s.sendAck k x st = { s with links := (s.sendAck k x st).links } ∧
    ((s.sendAck k x st).link (6 * k + d)).ackq = (s.link (6 * k + d)).ackq ++
      [(ackDvc (ackWord x.src.toNat x.slink.toNat x.tag.toNat x.gen.toNat st) (s.dateline (6 * k + d) none), none)]) ∧
  (∀ (l : Nat) (x : Slot) (s : State), ∀ e ∈ [(Instr.readySlot l x, (1 : BitVec 4)), (.reduceSlot l x, 2), (.placeSlot l x, 3), (.barrierSlot l x, 4)],
    (x.op ≠ e.2 → exec e.1 s = .next s) ∧
    (x.op = e.2 → s.gFind x.job.toNat = none → exec e.1 s = .next (s.sendAck (l / 6) x 1)) ∧
    (∀ g, x.op = e.2 → s.gFind x.job.toNat = some g → x.wm.toNat ≠ s.gWm g → (s.group g).run = none → s.host.cmds = [] →
      ∃ t, exec e.1 s = .next t ∧ t.links = (s.sendAck (l / 6) x 3).links ∧ t.mem = s.mem)) ∧
  (∀ (l g : Nat) (x : Slot) (s : State), x.op = 1 → s.gFind x.job.toNat = some g → x.wm.toNat = s.gWm g → readyWm x = (s.grpDigest g).toNat →
    ((s.group g).run = none → s.host.cmds = [] → s.gSeq g ≤ x.offset.toNat →
      (∀ y ∈ FMap.get [] (s.group g).readyHeld (l / 6), y.src ≠ x.src) →
      ∃ t, exec (.readySlot l x) s = .next t ∧ t.links = (s.sendAck (l / 6) x 0).links ∧
        FMap.get [] (t.group g).readyHeld (l / 6) = FMap.get [] (s.group g).readyHeld (l / 6) ++ [x]) ∧
    (∀ r key, (s.group g).run = some r → r.fail = 0 → r.outst ≠ 0 → x.offset.toNat = s.gSeq g →
      x.data.toNat % 2 ^ 144 = s.readyData g r % 2 ^ 144 → s.readyKey g (l / 6) r x.src.toNat = some key →
      FMap.get [] r.holdq key = [] →
      ∃ t y, exec (.readySlot l x) s = .next t ∧ (t.group g).run = some y ∧ y.handle = r.handle ∧ NatSet.mem y.ready key = true)) ∧
  (∀ (l g : Nat) (r : CollRun) (x : Slot) (s : State), let k := l / 6
    ∀ e ∈ [(Instr.reduceSlot l x, (2 : BitVec 4), (s.takeReduce g k r x).2), (.placeSlot l x, 3, (s.takePlace g k r x).2),
      (.barrierSlot l x, 4, (s.takeBarrier g k r x).2)],
    s.gFind x.job.toNat = some g → x.wm.toNat = s.gWm g → (s.group g).run = some r → r.fail = 0 → x.op = e.2.1 → e.2.2 = 0 →
    (x.op = 3 → r.cop ≠ 4) → k ∈ (s.geo g r).lanes → NatSet.mem r.ready (phaseKey k (count r.phase k)) = false →
    (∀ p, (r.phases (s.geo g r))[count r.phase k]? = some p →
      count r.got (phaseKey k (count r.phase k)) + 1 ≠ s.expected g r (s.geo g r) p) →
    ∃ t y, exec e.1 s = .next t ∧ (t.group g).run = some y ∧ y.handle = r.handle ∧ count y.phase k = count r.phase k ∧
      count y.got (phaseKey k (count r.phase k)) = count r.got (phaseKey k (count r.phase k)) + 1) ∧
  (∀ (l g n : Nat) (r : CollRun) (p : PlanEnt) (x : Slot) (s : State), let k := l / 6
    s.gFind x.job.toNat = some g → x.wm.toNat = s.gWm g → x.op = 3 →
    (s.group g).run = some r → r.fail = 0 → r.outst ≠ 0 → r.cop = 4 → r.via = 0 → x.poison = 0 →
    (s.planEnts r)[n]? = some p → p.recv = true → p.peer = x.src.toNat →
    count r.rgot (planKey n k) < s.planShare g k p.len → x.offset.toNat + 256 ≤ p.len →
    (∀ m q, m < n → (s.planEnts r)[m]? = some q → q.recv = false ∨ q.peer ≠ x.src.toNat ∨ s.planShare g k q.len ≤ count r.rgot (planKey m k)) →
    (p.addr + x.offset.toNat) % 8 = 0 → p.addr + x.offset.toNat + 256 ≤ 16 * halfStack →
    ∃ t y, exec (.placeSlot l x) s = .next t ∧ (t.group g).run = some y ∧ 
      count y.rgot (planKey n k) = count r.rgot (planKey n k) + 256 ∧
      ∀ i, i < 32 → t.devWord (p.addr + x.offset.toNat + 8 * i) = x.data.extractLsb' (64 * i) 64) ∧
  (∀ (g k d tg : Nat) (r : CollRun) (x : Slot) (s : State), (s.group g).run = some r → r.fail = 0 →
    FMap.get [] (s.group g).refused k = [x] → s.routeDir x.dst.toNat = some d → s.linkReaches (6 * slotLane x + d) x.dst.toNat = true →
    (s.link (6 * slotLane x + d)).freeTag = some tg →
    ∃ t y, exec (.readyResend g k) s = .next t ∧
      (t.link (6 * slotLane x + d)).dataq = (s.link (6 * slotLane x + d)).dataq ++ [(y, none)] ∧ y.op = x.op ∧ y.dst = x.dst ∧ y.data = x.data) ∧
  (∀ (g : Nat) (r : CollRun) (c : Cmd) (s : State), (s.group g).run = some r → r.fail = 0 → s.cmd r.handle = some c →
    (∀ y ∈ s.host.cmds, y.at groupStage = g + 1 → y.handle = r.handle) → (∀ p ∈ s.passes, p.bound ≠ some r.handle) →
    ∃ t, exec (.collStallTimeout g) s = .next t ∧ (t.group g).run = none ∧ t.gSeq g = (s.gSeq g + 1) % 2 ^ 40 ∧
      (t.cmd r.handle).map (·.phase) = some .due ∧ (t.cmd r.handle).map (·.status) = some 7)

/-- A link that is UP sends its next frame under the next SEQ, with its CRC, and keeps it; a frame to be sent again goes with RPL set and
the next SEQ stays. A frame that fails its FEC or CRC, or is not the one expected, is dropped whole, and NAK goes until the expected one
comes; an accepted one moves the expected SEQ on and frees what it acknowledges. An acknowledgement frees its tag, a stale one is counted,
an unanswered tag is freed under a new generation; in a figure whose number 1,024 divides a heartbeat carries the digests, which the far
end compares (R406, R408, R414, R416, R447). -/
def Obligations.GlogalFrames : Prop :=
  (∀ (l : Nat) (s : State),
    ((s.link l).st ∈ [.off, .bypass, .train, .align] → exec (.frameSend l) s = .next s) ∧
    (s.linkUp l = true → (s.link l).resend = [] →
      ∃ t f, exec (.frameSend l) s = .next t ∧ t = { s with links := t.links, regs := t.regs } ∧ (t.link l).out = [f] ∧
        f.seq = BitVec.ofNat 12 (s.link l).next ∧ f.crc = frameCrc f ∧ f.rpl = false ∧ f.nak = (s.link l).nak ∧ f ∈ (t.link l).retry ∧
        (t.link l).next = ((s.link l).next + 1) % 4096) ∧
    (∀ f rest, s.linkUp l = true → (s.link l).resend = f :: rest →
      ∃ t g, exec (.frameSend l) s = .next t ∧ t = { s with links := t.links, regs := t.regs } ∧ (t.link l).out = [g] ∧ g.seq = f.seq ∧
        g.slots = f.slots ∧ g.acks = f.acks ∧ g.rpl = true ∧ g.crc = frameCrc g ∧ (t.link l).resend = rest ∧ (t.link l).next = (s.link l).next) ∧
    ((s.link l).st = .negotiate → ∃ t g, exec (.frameSend l) s = .next t ∧ (t.link l).out = [g] ∧ g.crc = frameCrc g)) ∧
  (∀ (l x : Nat) (f : Frame) (b : Bool) (s : State),
    ((s.link l).st ≠ .up → (s.link l).st ≠ .negotiate → exec (.frameReceive l f b x) s = .next s) ∧
    (s.linkUp l = true → (s.link l).missing = false → b = true ∨ f.crc ≠ frameCrc f →
      ∃ t, exec (.frameReceive l f b x) s = .next t ∧ t = { s with links := t.links, regs := t.regs, free := t.free } ∧
        t.reg (aGlCrcerr l) = s.reg (aGlCrcerr l) + 1 ∧ t.link l = { s.link l with missing := true, nak := true }) ∧
    (s.linkUp l = true → (s.link l).missing = false → b = false → f.crc = frameCrc f → f.seq.toNat ≠ (s.link l).expect →
      ∃ t, exec (.frameReceive l f b x) s = .next t ∧ t = { s with links := t.links, regs := t.regs, free := t.free } ∧
        t.link l = { s.link l with missing := true, nak := true }) ∧
    (s.linkUp l = true → b = false → f.crc = frameCrc f → f.seq.toNat = (s.link l).expect → f.nak = false → s.pavMode ≠ 1 →
      (∀ y ∈ f.slots, y.sk ≠ 1 ∧ y.sk ≠ 2) → (∀ a ∈ f.acks, a.bit 41 = false) →
      ∃ t, exec (.frameReceive l f b x) s = .next t ∧ t = { s with links := t.links, regs := t.regs, free := t.free } ∧
        (t.link l).expect = ((s.link l).expect + 1) % 4096 ∧ (t.link l).missing = false ∧ (t.link l).lastRx = some (f.seq.toNat, x) ∧
        ∀ y, y ∈ (t.link l).retry ↔ y ∈ (s.link l).retry ∧ 2048 ≤ (f.lack - y.seq).toNat)) ∧
  (∀ (l : Nat) (s : State),
    (s.linkUp l = true → (s.link l).missing = true →
      ∃ t, exec (.nakRepeat l) s = .next t ∧ t = { s with links := t.links } ∧ t.link l = { s.link l with nak := true }) ∧
    (s.linkUp l = false ∨ (s.link l).missing = false → exec (.nakRepeat l) s = .next s)) ∧
  (∀ (l : Nat) (a : W64) (s : State), let m := a.bits 21 16
    let tg := a.bits 32 22
    (s.linkUp l = false ∨ a.bit 41 = false → exec (.ackEntry l a) s = .next s) ∧
    (s.linkUp l = true → a.bit 41 = true → a.bits 15 0 = s.ownNode →
      (a.bits 36 33 ≠ count (s.link m).tagGen tg ∨ (s.link m).tag tg = none →
        ∃ t, exec (.ackEntry l a) s = .next t ∧ t = { s with links := t.links, regs := t.regs } ∧ t.reg aObsStale = s.reg aObsStale + 1) ∧
      (∀ u, a.bits 36 33 = count (s.link m).tagGen tg → (s.link m).tag tg = some u →
        ((s.group u.grp).run = none →
          ∃ t, exec (.ackEntry l a) s = .next t ∧ t = { s with links := t.links, regs := t.regs } ∧ (t.link m).tag tg = none ∧
            (t.link m).tagGen = (s.link m).tagGen) ∧
        (∀ r, (s.group u.grp).run = some r → r.handle = u.handle → a.bits 40 38 = 0 → r.fail = 0 → r.txq = [] → 1 < r.outst →
          ∃ t y, exec (.ackEntry l a) s = .next t ∧ (t.link m).tag tg = none ∧ (t.group u.grp).run = some y ∧ y.outst = r.outst - 1)))) ∧
  (∀ (l tg : Nat) (s : State),
    ((s.link l).tag tg = none → exec (.tagTimeout l tg) s = .next s) ∧
    (∀ u, (s.link l).tag tg = some u → (s.group u.grp).run = none →
      ∃ t, exec (.tagTimeout l tg) s = .next t ∧ t = { s with links := t.links, regs := t.regs } ∧ (t.link l).tag tg = none ∧
        count (t.link l).tagGen tg = (count (s.link l).tagGen tg + 1) % 16)) ∧
  (∀ (l : Nat) (s : State),
    (s.linkUp l = false ∨ s.time.now / s.figDt % 1024 ≠ 0 → exec (.heartbeatSend l) s = .next s) ∧
    (s.linkUp l = true → s.time.now / s.figDt % 1024 = 0 → ∃ t x, exec (.heartbeatSend l) s = .next t ∧ t = { s with links := t.links } ∧
      (t.link l).ctlq = (s.link l).ctlq ++ [x] ∧ x.sk = 2 ∧ x.op = 3 ∧ x.data.extractLsb' 0 128 = s.wmDigest)) ∧
  (∀ (l : Nat) (bytes : List Byte) (s : State),
    (s.linkUp l = false → exec (.watermarkExchange l bytes) s = .next s) ∧
    (s.linkUp l = true → leNat ((bytes.drop 16).take 1) = 0 →
      (leNat (bytes.take 16) = s.wmDigest.toNat → exec (.watermarkExchange l bytes) s = .next s) ∧
      (leNat (bytes.take 16) ≠ s.wmDigest.toNat → ∃ t, exec (.watermarkExchange l bytes) s = .next t ∧ t = { s with regs := t.regs } ∧
        (t.reg (aCeGstat (l / 6))).bit 7 = true)) ∧
    (∀ g, s.linkUp l = true → leNat (bytes.take 16) = s.wmDigest.toNat → leNat ((bytes.drop 16).take 1) = 1 →
      s.gFind (leNat ((bytes.drop 18).take 2)) = some g → leNat ((bytes.drop 20).take 16) ≠ (s.grpDigest g).toNat →
      ∃ t, exec (.watermarkExchange l bytes) s = .next t ∧ t = { s with regs := t.regs } ∧ (t.reg (aCeGrp g 3)).bit 41 = true))

/-- Light, training, alignment and a capability message take a link from TRAIN to UP, each only from the state before; a loss of frames or
lanes takes an UP link back to TRAIN with its reason, and RETRAIN any link that trains; a message that does not fit holds it with DOWNWHY.
A measured delay is the mean of 1,024 echoes; a settled pair puts its links into BYPASS or training; CLOSE drives pairs to cross; HOLD
keeps a link OFF; recalibration changes nothing (R401–R405, R408, R416, R418–R424, R552). -/
def Obligations.GlogalLinks : Prop :=
  (∀ (l : Nat) (s : State),
    (s.linkUp l = true →
      (∃ t, exec (.linkDownNoframe l) s = .next t ∧ (t.link l).st = .train ∧ (t.reg (aGlLstat l)).bits 6 3 = 7) ∧
      (∃ t, exec (.linkDownLane l) s = .next t ∧ (t.link l).st = .train ∧ (t.reg (aGlLstat l)).bits 6 3 = 2)) ∧
    (s.linkUp l = false → exec (.linkDownNoframe l) s = .next s ∧ exec (.linkDownLane l) s = .next s) ∧
    exec (.calibrationMessage l) s = .next s) ∧
  (∀ (l : Nat) (s : State),
    ((s.link l).st = .train → s.power.seated = true →
      ∃ t, exec (.lightDetect l) s = .next t ∧ t = { s with links := t.links } ∧ t.link l = { s.link l with light := true }) ∧
    ((s.link l).st ≠ .train ∨ s.power.seated = false → exec (.lightDetect l) s = .next s)) ∧
  (∀ (l : Nat) (b : Byte) (s : State),
    ((s.link l).st = .train → (s.link l).light = true →
      ∃ t, exec (.linkTrainDone l b) s = .next t ∧ t = { s with links := t.links, regs := t.regs } ∧
        (t.reg (aGlLstat l)).bits 23 16 = b.toNat ∧ (t.link l).st = (if b = 0xff then .align else .train) ∧
        (b ≠ 0xff → (t.reg (aGlLstat l)).bits 6 3 = 2)) ∧
    ((s.link l).st = .bypass →
      ∃ t, exec (.linkTrainDone l b) s = .next t ∧ t = { s with regs := t.regs } ∧ (t.reg (aGlLstat l)).bits 23 16 = b.toNat) ∧
    ((s.link l).st = .train ∧ (s.link l).light = false ∨ (s.link l).st ∈ [.off, .align, .negotiate, .up] →
      exec (.linkTrainDone l b) s = .next s)) ∧
  (∀ (l : Nat) (s : State),
    ((s.link l).st = .align → ∃ t, exec (.linkAlignDone l) s = .next t ∧ t = { s with links := t.links, regs := t.regs } ∧
      (t.link l).st = .negotiate ∧ (t.reg (aGlLstat l)).bits 2 0 = 4) ∧
    ((s.link l).st ≠ .align → exec (.linkAlignDone l) s = .next s)) ∧
  (∀ (l : Nat) (s : State),
    ((s.link l).st ∈ [.train, .align, .negotiate] →
      ∃ t, exec (.linkTrainTimeout l) s = .next t ∧ t = { s with links := t.links, regs := t.regs } ∧ (t.link l).st = .train ∧
        t.reg (aGlRetrain l) = s.reg (aGlRetrain l) + 1 ∧
        (t.reg (aGlLstat l)).bits 6 3 = (if (s.link l).st = .train then (if (s.link l).light then 2 else 1)
          else if (s.link l).st = .align then 3 else (s.reg (aGlLstat l)).bits 6 3)) ∧
    ((s.link l).st ∈ [.off, .bypass, .up] → exec (.linkTrainTimeout l) s = .next s)) ∧
  (∀ (l : Nat) (c : Capability) (s : State),
    ((s.link l).st ≠ .negotiate → exec (.capabilityMessage l c) s = .next s) ∧
    ((s.link l).st = .negotiate → ∃ t, exec (.capabilityMessage l c) s = .next t ∧ t = { s with links := t.links, regs := t.regs } ∧
      t.link l = { s.link l with peer := some c, passed := decide (s.capCheck l c = 0) } ∧
      (s.capCheck l c ≠ 0 → (t.reg (aGlLstat l)).bits 6 3 = s.capCheck l c))) ∧
  (∀ (l : Nat) (s : State),
    (∀ c, (s.link l).peer = some c → (s.link l).st = .negotiate → (s.link l).passed = true →
      ∃ t, exec (.linkUp l) s = .next t ∧ t = { s with links := t.links, regs := t.regs, free := t.free } ∧ (t.link l).st = .up ∧ (t.link l).next = 0 ∧
        (t.link l).expect = 0 ∧ (t.reg (aGlLstat l)).bits 39 24 = min s.flevel c.flevel.toNat) ∧
    ((s.link l).peer = none ∨ (s.link l).st ≠ .negotiate ∨ (s.link l).passed = false → exec (.linkUp l) s = .next s)) ∧
  (∀ (l : Nat) (s : State),
    (s.linkUp l = true → 1024 ≤ (s.link l).echoes → (s.link l).echoSum % 2048 = 0 →
      ∃ t, exec (.delayMeasure l) s = .next t ∧ t = { s with links := t.links, regs := t.regs } ∧ (t.reg (aPavLdly l)).bit 32 = true ∧
        (t.reg (aPavLdly l)).bits 31 0 = ((s.link l).echoSum / 2048 % 2 ^ 32).toNat ∧ (t.link l).echoes = 0) ∧
    (s.linkUp l = false ∨ (s.link l).echoes < 1024 → exec (.delayMeasure l) s = .next s)) ∧
  (∀ s : State,
    ((∃ l, l < 36 ∧ (s.reg (aGlLstat l)).bit 7 = true) →
      ∃ t, exec .mixlongExpiry s = .next t ∧ t = { s with regs := t.regs } ∧ ∀ l, l < 36 → (t.reg (aGlLstat l)).bit 8 = true) ∧
    ((∀ l, l < 36 → (s.reg (aGlLstat l)).bit 7 = false) → exec .mixlongExpiry s = .next s)) ∧
  (∀ (k j : Nat) (c : Bool) (s : State),
    ((s.pair (3 * k + j)).target = none → exec (.switchSettled k j) s = .next s) ∧
    ((s.pair (3 * k + j)).target = some c → (∀ l ∈ pairLinks (3 * k + j), (s.link l).st ≠ .up) →
      ∃ t, exec (.switchSettled k j) s = .next t ∧ t.pair (3 * k + j) = { s.pair (3 * k + j) with cross := c, target := none } ∧
        ∀ l ∈ pairLinks (3 * k + j), (t.link l).st = if (s.link l).st = .off then .off
          else if c then .bypass else if (s.link l).st = .bypass then .train else (s.link l).st)) ∧
  (∀ s : State, exec .plugWithdraw s = .next { s with power := { s.power with seated := false } } ∧
    exec .plugSeat s = .next { s with power := { s.power with seated := true } }) ∧
  (∀ (k : Nat) (v : W64) (s : State), k < 6 → s.pfOpen (aGlByp k) = true → s.power.variant ≠ 2 →
    (v.bits 2 0 = 7 → ∃ t, exec (.glBypClose k v) s = .next t ∧ t = { s with regs := t.regs, pairs := t.pairs } ∧
      (t.reg (aGlByp k)).bits 2 0 = 7 ∧
      ∀ j, j < 3 → (t.pair (3 * k + j)).target = some true ∨ ((t.pair (3 * k + j)).cross = true ∧ (t.pair (3 * k + j)).target = none)) ∧
    (v.bits 2 0 = 0 → (s.reg (aGlByp k)).bits 2 0 ≠ 0 → (∀ j, j < 3 → (s.pair (3 * k + j)).stuck = false) →
      (s.reg (aGlByp k)).bit 9 = true ∨ s.stageReached 8 = false → exec (.glBypClose k v) s = .next s)) ∧
  (∀ (l : Nat) (s : State), s.pfOpen (aGlLctl l) = true → s.linkFused l = false →
    ((s.link l).st ≠ .up → ∃ t, exec (.glLctlHold l true) s = .next t ∧ (t.link l).st = .off ∧ (t.reg (aGlLctl l)).bit 0 = true) ∧
    ((s.link l).st = .off → (s.pair (pairOf l)).cross = true → (s.pair (pairOf l)).stuck = false →
      ∃ t, exec (.glLctlHold l false) s = .next t ∧ (t.link l).st = .bypass ∧ (t.reg (aGlLctl l)).bit 0 = false) ∧
    ((s.link l).st ∈ [.train, .align, .negotiate, .up] →
      ∃ t, exec (.glLctlRetrain l) s = .next t ∧ (t.link l).st = .train ∧ (t.reg (aGlLstat l)).bits 6 3 = 8) ∧
    ((s.link l).st = .off ∨ (s.link l).st = .bypass → exec (.glLctlRetrain l) s = .next s))

/-! ### Power, pins and bring-up -/

/-- Aux power starts Wallflower from its ROM values; its loss, and the end of main power, end all work at once and leave flash and the
host's memory; PGOOD puts the module in Reset, or with RESET_N high in bring-up, where device time is 0 and no stage is done; RESET_N low
ends all work; firmware boots from a slot that verifies; PERST_N low takes both ports down; Wallflower's own restart keeps its trips and
rebuilds the gated set (R361, R471–R476, R481, R505, R512, R521; log entries 6 and 13). -/
def Obligations.SuppliesAndPins : Prop :=
  (∀ (b : BitVec 2) (s : State),
    (s.power.aux = true → exec (.auxGood b) s = .next s) ∧
    (s.power.aux = false → ∃ t, exec (.auxGood b) s = .next t ∧ t.power = { s.power with aux := true, st := .standby } ∧
      t.wf = { WfSt.reset with running := true, taking := true, straps := b, defects := s.wf.defects, log := s.wf.log,
                               lastHold := s.wf.lastHold })) ∧
  (∀ s : State,
    (s.power.aux = false → exec .auxLoss s = .next s) ∧
    (s.power.aux = true → ∃ t, exec .auxLoss s = .next t ∧ t.power.st = .off ∧ t.power.aux = false ∧ t.power.cold = true ∧
      t.power.pgood = false ∧ t.wf.running = false ∧ t.mem.flash = s.mem.flash ∧ t.host.mem = s.host.mem)) ∧
  (∀ s : State,
    exec .pwrEnAssert s = .next { s with power := { s.power with pwrEn := true, v48 := true } } ∧
    exec .perstNDeassert s = .next { s with power := { s.power with perstN := true } } ∧
    (s.power.pgood = false → exec .pwrEnDeassert s = .next { s with power := { s.power with pwrEn := false } } ∧
      exec .powerFail s = .next { s with power := { s.power with v48 := false } }) ∧
    (∀ i ∈ [Instr.pwrEnDeassert, .powerFail], s.power.pgood = true →
      ∃ t, exec i s = .next t ∧ t.power.pgood = false ∧ t.power.st = (if s.power.aux then .standby else .off) ∧ t.cus = [] ∧ t.mus = [] ∧
        t.host.cmds = [] ∧ t.host.mem = s.host.mem ∧ t.mem.flash = s.mem.flash ∧ t.cfg = InForce.reset)) ∧
  (∀ (w : W64) (s : State),
    (s.power.aux = false ∨ s.power.pwrEn = false ∨ s.power.v48 = false ∨ s.thermTrip = true ∨ s.power.pgood = true →
      exec (.pgoodAssert w) s = .next s) ∧
    (s.power.aux = true → s.power.pwrEn = true → s.power.v48 = true → s.thermTrip = false → s.power.pgood = false →
      ∃ t, exec (.pgoodAssert w) s = .next t ∧ t.power.pgood = true ∧ t.power.st = (if s.power.resetN then .bringup else .reset) ∧
        (s.power.cold = true → t.reg aPairTag = w))) ∧
  (∀ s : State,
    (s.awake = false → exec .resetNAssert s = .next { s with power := { s.power with resetN := false } }) ∧
    (s.awake = true → ∃ t, exec .resetNAssert s = .next t ∧ t.power.st = .reset ∧ t.power.resetN = false ∧ t.cus = [] ∧ t.host.cmds = [] ∧
      t.time.running = false ∧ t.mem.flash = s.mem.flash) ∧
    (s.power.st ≠ .reset → exec .resetNDeassert s = .next { s with power := { s.power with resetN := true } }) ∧
    (s.power.st = .reset → ∃ t, exec .resetNDeassert s = .next t ∧ t.power.st = .bringup ∧ t.power.resetN = true ∧ t.time = TimeSt.reset ∧
      (t.reg aHubStage).bits 7 0 = 0xff)) ∧
  (∀ (a b : Bool) (v : BitVec 16) (w : BitVec 32) (s : State),
    (s.power.st ≠ .bringup ∨ s.regBits aHubStage 7 0 ≠ 0xff ∨ s.power.keepFw = true → exec (.firmwareBoot a b v w) s = .next s) ∧
    (s.power.st = .bringup → s.regBits aHubStage 7 0 = 0xff → s.power.keepFw = false →
      (a = true → b = true → s.power.fwSlots = 0 → ∃ t, exec (.firmwareBoot a b v w) s = .next t ∧ t.power.fwImage = true ∧
        t.flevel = v.toNat ∧ (t.reg aHubId).bits 31 16 = v.toNat ∧ (t.reg aHubId).bits 63 32 = w.toNat ∧
        (t.reg aFwCtl).bits 2 1 = (if (s.reg aFwCtl).bit 0 then 1 else 0) ∧ (t.reg aHubStage).bit 11 = false) ∧
      (a = false → b = false → ∃ t, exec (.firmwareBoot a b v w) s = .next t ∧ t = { s with regs := t.regs } ∧
        (t.reg aHubStage).bit 11 = true))) ∧
  (∀ s : State,
    (s.awake = false → exec .perstNAssert s = .next { s with power := { s.power with perstN := false } }) ∧
    (s.awake = true → s.vfs = 0 → s.fnRegions 0 = [] → (∀ g, (s.group g).run = none) → s.host.cmds = [] → s.feed.reqs = [] →
      ∃ t, exec .perstNAssert s = .next t ∧ t.power.perstN = false ∧ t.host.portA = false ∧ t.host.portB = false ∧ t.mem = s.mem)) ∧
  (∀ s : State,
    (s.power.aux = false → exec .wfResetN s = .next s) ∧
    (s.power.aux = true → ∃ t, exec .wfResetN s = .next t ∧ t.power = s.power ∧ t.wf.running = false ∧ t.wf.trip = s.wf.trip ∧
      t.wf.hwtrip = s.wf.hwtrip ∧ t.wf.plimit = s.wf.plimit ∧ t.wf.gorder = s.wf.gorder ∧ t.wf.wfhold = s.wf.wfhold) ∧
    (s.power.aux = false ∨ s.wf.running = true → exec .wallflowerRestartDone s = .next s) ∧
    (s.power.aux = true → s.wf.running = false → s.wf.hwtrip = false → s.awake = true →
      ∃ t, exec .wallflowerRestartDone s = .next t ∧ t.power = s.power ∧ t.wf.running = true ∧
        ∀ d, d ∈ t.wf.order ↔ s.dieExists d = true ∧ s.die d ≠ .powered ∧ s.die d ≠ .poweringUp))

/-- A stage acts only while it runs, and ends with its failure code and object or with its own effect: the defect list from Wallflower's
store, the variant, device time started at 0, the self-test's entries, dies removed, memories zero, the flash dies mounted, the pairs
opened, the watermark formed. STAGE_COMPLETE reports how the stage ended, and the last one makes the module Ready (R478–R480, R484–R492,
R498). -/
def Obligations.BringupStages : Prop :=
  (∀ (a b : Bool) (v : BitVec 4) (l m : List Defect) (o p q u : Option Nat) (w : BitVec 18) (s : State),
    ∀ e ∈ [(0, Instr.bringupStage0 a b), (1, .bringupStage1 a v l), (2, .bringupStage2 o), (3, .bringupStage3 m p a), (4, .bringupStage4),
      (5, .bringupStage5 q), (6, .bringupStage6 u l), (7, .bringupStage7 o b), (8, .bringupStage8 w), (9, .bringupStage9),
      (10, .bringupStage10)], s.stageRuns e.1 = false → exec e.2 s = .next s) ∧
  (∀ (b : Bool) (s : State), s.stageRuns 0 = true →
    (∃ t, exec (.bringupStage0 false b) s = .next t ∧ t.power = { s.power with stageOk := some (1, 0) }) ∧
    (∃ t, exec (.bringupStage0 true false) s = .next t ∧ t.power = { s.power with stageOk := some (2, 0) }) ∧
    (∃ t, exec (.bringupStage0 true true) s = .next t ∧ t.power = { s.power with defects := s.wf.defects, stageOk := some (0, 0) })) ∧
  (∀ (v : BitVec 4) (l : List Defect) (s : State), s.stageRuns 1 = true →
    (∃ t, exec (.bringupStage1 false v l) s = .next t ∧ t.power = { s.power with stageOk := some (0x10, 0) }) ∧
    (v.toNat ≤ 3 → ∃ t, exec (.bringupStage1 true v l) s = .next t ∧ t.power.variant = v ∧ t.power.stageOk = some (0, 0) ∧
      t.power.factory = l ∧ (v = 3 → ∀ d ∈ [12, 13, 14, 15], t.die d = .fusedOff))) ∧
  (∀ (d : Nat) (s : State), s.stageRuns 2 = true →
    (∃ t, exec (.bringupStage2 (some d)) s = .next t ∧ t.power.stageOk = some (0x20, d) ∧ t.time = s.time) ∧
    (∃ t, exec (.bringupStage2 none) s = .next t ∧ t.power.stageOk = some (0, 0) ∧ t.time = { TimeSt.reset with running := true } ∧
      t.pend.pavCtl = none)) ∧
  (∀ (x : Defect) (d : Nat) (s : State), s.stageRuns 3 = true → (s.reg aDefCtl).bit 0 = false → s.power.defects.length < 512 →
    (∃ t, exec (.bringupStage3 [] none true) s = .next t ∧ t.power = { s.power with stageOk := some (0, 0) }) ∧
    (∃ t, exec (.bringupStage3 [] (some d) true) s = .next t ∧ t.power.stageOk = some (0x31, d)) ∧
    ((∀ y ∈ s.power.defects, Machine.Defect.samePart y x = false) →
      (∃ t, exec (.bringupStage3 [x] none true) s = .next t ∧ t.power.stageOk = some (0, 0) ∧
        t.power.defects = s.power.defects ++ [{ x with origin := if (s.reg aHubStage).bit 10 then 2 else 1 }]) ∧
      (∃ t, exec (.bringupStage3 [x] none false) s = .next t ∧ t.power.stageOk = some (0x32, 0) ∧ t.power.defects = s.power.defects))) ∧
  (∀ (d : Nat) (s : State), s.stageRuns 4 = true →
    (s.power.defects = [] → s.regBits aDefCtl 17 2 = 0 →
      ∃ t, exec .bringupStage4 s = .next t ∧ t.power = { s.power with rowMap := [], stageOk := some (0, 0) }) ∧
    (d < 16 → s.die d ≠ .fusedOff → (s.regBits aDefCtl 17 2).testBit d = true →
      ∃ t, exec .bringupStage4 s = .next t ∧ t.die d = .removed)) ∧
  (∀ (q : Nat) (s : State), s.stageRuns 5 = true →
    (∃ t, exec (.bringupStage5 none) s = .next t ∧ t.power.stageOk = some (0, 0) ∧ t.mem.dram = [] ∧ t.mem.spad = [] ∧
      t.mem.flash = s.mem.flash ∧ ((∀ d ∈ s.power.defects, d.kind ≠ 5) → t.mem.dramPoison = [])) ∧
    (s.stackPresent q = true → s.dieExists q = true → NatSet.mem s.power.ifSettings q = false →
      ∃ t, exec (.bringupStage5 (some q)) s = .next t ∧ t = { s with power := { s.power with stageOk := some (0x50, q) } })) ∧
  (∀ (q : Nat) (l : List Defect) (s : State), s.stageRuns 6 = true →
    (∃ t, exec (.bringupStage6 none []) s = .next t ∧ t.power = { s.power with stageOk := some (0, 0) }) ∧
    (s.stackPresent q = true → s.dieExists q = true →
      exec (.bringupStage6 (some q) l) s = .next { s with power := { s.power with stageOk := some (0x60, q) } })) ∧
  (∀ (n : Nat) (b : Bool) (s : State), s.stageRuns 7 = true →
    (∃ t, exec (.bringupStage7 none true) s = .next t ∧ t.power.stageOk = some (0, 0) ∧ (t.reg (aFlStatus 0)).bit 0 = true ∧
      (t.reg (aFlStatus 1)).bit 0 = true ∧ t.mem.copies = []) ∧
    (∃ t, exec (.bringupStage7 none false) s = .next t ∧ t.power.stageOk = some (0x71, 0)) ∧
    (∃ t, exec (.bringupStage7 (some n) b) s = .next t ∧ t.power.stageOk = some (0x70, n))) ∧
  (∀ s : State, s.stageRuns 8 = true → s.power.defects = [] → s.power.variant ≠ 2 → s.wf.wfhold = false →
    (∀ l, l < 36 → (s.reg (aGlLctl l)).bit 0 = false) →
    ∃ t, exec (.bringupStage8 0) s = .next t ∧ t.power.stageOk = some (0, 0) ∧
      ∀ k, k < 6 → (t.reg (aGlByp k)).bits 2 0 = 0 ∧ (t.reg (aGlByp k)).bit 10 = true) ∧
  (∀ s : State,
    (s.stageRuns 9 = true → ∃ t, exec .bringupStage9 s = .next t ∧ t.wmDigest = digestOf s.wmBlock ∧ t.power.stageOk = some (0, 0)) ∧
    (s.stageRuns 10 = true → exec .bringupStage10 s = .next { s with power := { s.power with stageOk := some (0, 0) } })) ∧
  (∀ (v : BitVec 32) (s : State),
    (s.power.stageOk = none → exec (.stageComplete v) s = .next s) ∧
    ∀ code whr, s.power.stageOk = some (code, whr) → s.power.st = .bringup → s.regBits aHubStage 7 4 ≠ 15 →
      (∀ e ∈ s.pairs, e.2.target = none) → let n := s.regBits aHubStage 7 4
      (code = 0 → ∃ t, exec (.stageComplete v) s = .next t ∧ (t.reg aHubStage).bits 3 0 = n ∧ (t.reg aHubStage).bits 7 4 = 15 ∧
        t.reg (aStime n) = BitVec.ofNat 64 v.toNat ∧ t.power.st = (if n = 10 then .ready else .bringup) ∧
        (n = 1 → (t.reg aHubId).bits 3 0 = s.power.variant.toNat)) ∧
      (0 < code → code < 256 → ∃ t, exec (.stageComplete v) s = .next t ∧ (t.reg aHubStage).bit 8 = true ∧
        (t.reg aHubStage).bits 23 16 = code ∧ (t.reg aHubStage).bits 31 24 = whr % 256 ∧
        (t.reg aHubStage).bits 3 0 = (s.reg aHubStage).bits 3 0 ∧ t.power.st = .bringup))

/-! ### Wallflower -/

/-- A heartbeat ends its absence and its loss closes the pairs; a sample joins the last F readings of its sensor, a missing one forgets
them; a waiting gating fences its die and an ungating powers it again; the comparator trips; a hold of 1 s raises its alert; the totals
are those of the registers (R500, R501, R503, R504, R506–R508, R511, R517, R519). -/
def Obligations.WallflowerDecisions : Prop :=
  (∀ s : State, exec .hcpHeartbeat s = .next { s with wf := { s.wf with hbAbsent := false } }) ∧
  (∀ s : State,
    (s.power.st ≠ .ready ∨ s.wf.running = false ∨ s.wf.hbAbsent = true → exec .heartbeatLoss s = .next s) ∧
    (s.power.st = .ready → s.wf.running = true → s.wf.hbAbsent = false →
      ∃ t, exec .heartbeatLoss s = .next t ∧ t.wf.hbAbsent = true ∧ t.wf.alert.getLsbD 5 = true ∧
        (s.wf.taking = true → t.wf.wfhold = true ∧ (s.wf.wfhold = false →
          ∀ p, p < 18 → (t.pair p).target = some true ∨ ((t.pair p).cross = true ∧ (t.pair p).target = none))) ∧ t.mem = s.mem ∧ t.cus = s.cus)) ∧
  (∀ (n : Nat) (v : Int) (s : State),
    (s.wf.running = false ∨ s.sensorOn n = false → exec (.sensorSample n v) s = .next s) ∧
    (s.wf.running = true → s.sensorOn n = true →
      ∃ t, exec (.sensorSample n v) s = .next t ∧ NatSet.mem t.wf.missing n = false ∧
        t.samplesOf n = (s.samplesOf n ++ [v]).drop ((s.samplesOf n).length + 1 - sensorF n))) ∧
  (∀ (n : Nat) (s : State),
    (s.wf.running = false ∨ s.sensorOn n = false ∨ NatSet.mem s.wf.missing n = true → exec (.sensorMissing n) s = .next s) ∧
    (s.wf.running = true → s.sensorOn n = true → NatSet.mem s.wf.missing n = false →
      ∃ t, exec (.sensorMissing n) s = .next t ∧ NatSet.mem t.wf.missing n = true ∧ t.samplesOf n = [] ∧ t.wf.alert.getLsbD 6 = true ∧
        (s.wf.taking = true → s.awake = true → n < 16 → s.mayGate n = true → (n, 6) ∈ t.wf.pend) ∧
        (s.wf.taking = true → s.awake = true → 16 ≤ n → n ≤ 21 → t.wf.wfhold = true))) ∧
  (∀ (d : Nat) (l : List (Nat × Nat)) (s : State),
    (s.power.st ≠ .ready ∨ s.wf.running = false ∨ s.wf.taking = false ∨ s.wf.trip = true ∨ s.gatingRuns = true →
      exec .gateDie s = .next s) ∧
    (s.power.st = .ready → s.wf.running = true → s.wf.taking = true → s.wf.trip = false → s.gatingRuns = false →
      s.wf.pend = (d, 0) :: l → s.mayGate d = true →
      ∃ t, exec .gateDie s = .next t ∧ t.die d = .fencing ∧ count t.wf.gatedBy d = 1 ∧ t.wf.pend = l ∧ t.wf.alert.getLsbD 2 = true)) ∧
  (∀ (d : Nat) (s : State),
    (s.awake = false ∨ s.wf.running = false ∨ s.wf.taking = false ∨ s.thermTrip = true → exec .ungateDie s = .next s) ∧
    (s.awake = true → s.wf.running = true → s.wf.taking = true → s.thermTrip = false → s.wf.order = [d] →
      NatSet.mem s.wf.hostReq d = false → s.released d = true → s.die d = .gated →
      ∃ t, exec .ungateDie s = .next t ∧ t.die d = .poweringUp ∧ count t.wf.gatedBy d = 0 ∧ t.wf.order = [] ∧
        t.wf.alert.getLsbD 3 = true)) ∧
  (∀ (d : Nat) (s : State),
    (25 ≤ d → exec (.hwComparatorTrip d) s = .next s) ∧
    (d < 25 → s.awake = true → ∃ t, exec (.hwComparatorTrip d) s = .next t ∧ t.wf.hwtrip = true ∧ t.wf.alert.getLsbD 1 = true ∧
      (s.wf.running = true → t.wf.trip = true) ∧ t.thermTrip = true)) ∧
  (∀ s : State,
    (s.wf.running = true → s.power.st = .reset → s.power.resetN = false → s.wf.heldSet = false →
      ∃ t, exec .resetHeldExpiry s = .next t ∧ t.wf.heldSet = true ∧ t.wf.alert.getLsbD 14 = true ∧ t.power = s.power) ∧
    (s.wf.heldSet = true ∨ s.power.st ≠ .reset → exec .resetHeldExpiry s = .next s)) ∧
  (∀ s : State,
    (s.power.pgood = true → s.wf.running = true →
      ∃ t, exec .errtotRefresh s = .next t ∧ t = { s with wf := { s.wf with errtot := t.wf.errtot } } ∧ t.wf.errtot.length = 6 ∧
        t.wf.errtot.getD 2 0 = sat32 (s.reg aMemChkinc).toNat ∧
        t.wf.errtot.getD 3 0 = sat32 ((s.reg (aFlUncorr 0)).toNat + (s.reg (aFlUncorr 1)).toNat)) ∧
    (s.power.pgood = false ∨ s.wf.running = false → exec .errtotRefresh s = .next s))

/-- A read command answers its bytes and changes nothing else; a write with a wrong PEC, or without one that it needs, is discarded with
LASTCMD 1 and PECERR; a valid one is done with LASTCMD 0, out of range refused with 2, and where R515 refuses it, with 3 (R505–R507, R511,
R513–R518). -/
def Obligations.SmbusCommands : Prop :=
  (∀ (n : Nat) (s : State), n < 42 →
    ∀ e ∈ [(Instr.smbVersion, leBytes Config.romVersion.toNat 2), (.smbState, leBytes s.wfState 1), (.alertRead, leBytes s.wf.alert.toNat 2),
      (.alertmaskRead, leBytes s.wf.mask.toNat 2), (.smbGated, leBytes s.gatedWord 2), (.plimitRead, leBytes s.wf.plimit 2),
      (.gorderRead, s.wf.gorder.map (BitVec.ofNat 8)), (.lastcmd, leBytes s.wf.lastcmd 1),
      (.resetheld, leBytes s.wf.curHold 4 ++ leBytes s.wf.lastHold 4), (.sensorN n, leBytes (s.regBits (aWfSens n) 15 0) 2),
      (.errtot, s.wf.errtot.flatMap fun n => leBytes n 4), (.wfLog, s.wfLogBytes)],
    exec e.1 s = .next { s with wf := { s.wf with out := if s.wf.running then e.2 else [] } }) ∧
  (∀ s : State,
    (s.wf.running = true → s.smbAlert = true → exec .alertResponse s =
      .next { s with wf := { s.wf with out := [BitVec.ofNat 8 (2 * (0x60 + s.wf.straps.toNat))], answered := true } }) ∧
    (s.smbAlert = false → exec .alertResponse s = .next { s with wf := { s.wf with out := [] } })) ∧
  (∀ (v : BitVec 16) (l : List Byte) (p : Option Byte) (s : State),
    ∀ e ∈ [(Instr.alertClear v p, 0x02, leBytes v.toNat 2, false), (.alertmaskWrite v p, 0x03, leBytes v.toNat 2, false),
      (.plimitWrite v p, 0x05, leBytes v.toNat 2, true), (.gorderWrite l p, 0x06, BitVec.ofNat 8 l.length :: l, true),
      (.cmdGate v p, 0x10, leBytes v.toNat 2, true), (.cmdUngate v p, 0x11, leBytes v.toNat 2, true),
      (.cmdBypassClose p, 0x12, [1], true), (.cmdBypassRelease p, 0x12, [0], true)],
    (s.wf.running = false → exec e.1 s = .next s) ∧
    (s.wf.running = true → (p = none ∧ e.2.2.2 = true) ∨ (∃ b, p = some b ∧ b ≠ s.pecFor e.2.1 e.2.2.1) →
      ∃ t, exec e.1 s = .next t ∧ t.wf.lastcmd = 1 ∧ t.wf.alert.getLsbD 15 = true ∧ t.power = s.power ∧ t.wf.plimit = s.wf.plimit ∧
        t.wf.gorder = s.wf.gorder ∧ t.wf.mask = s.wf.mask ∧ t.wf.hostReq = s.wf.hostReq ∧ t.wf.wfhold = s.wf.wfhold)) ∧
  (∀ (v : BitVec 16) (s : State), s.wf.running = true →
    let pec := fun (code : Nat) => some (s.pecFor code (leBytes v.toNat 2))
    (∀ p, p = none ∨ p = pec 0x02 → ∃ t, exec (.alertClear v p) s = .next t ∧ t.wf.lastcmd = 0 ∧
      t.wf.alert = (s.wf.alert &&& ~~~v) ∧ t.wf.mask = s.wf.mask) ∧
    (∀ p, p = none ∨ p = pec 0x03 → ∃ t, exec (.alertmaskWrite v p) s = .next t ∧ t.wf.lastcmd = 0 ∧ t.wf.mask = v ∧
      t.wf.alert = s.wf.alert) ∧
    (8000 ≤ v.toNat → v.toNat ≤ 21000 → ∃ t, exec (.plimitWrite v (pec 0x05)) s = .next t ∧ t.wf.plimit = v.toNat ∧ t.wf.lastcmd = 0) ∧
    (v.toNat < 8000 ∨ 21000 < v.toNat →
      exec (.plimitWrite v (pec 0x05)) s = .next { s with wf := { s.wf with lastcmd := 2 } }) ∧
    (s.power.st ≠ .ready → exec (.cmdGate v (pec 0x10)) s = .next { s with wf := { s.wf with lastcmd := 3 } } ∧
      exec (.cmdUngate v (pec 0x11)) s = .next { s with wf := { s.wf with lastcmd := 3 } }) ∧
    (s.power.st = .ready →
      (∃ t, exec (.cmdGate v (pec 0x10)) s = .next t ∧ t = { s with wf := t.wf } ∧ t.wf.lastcmd = 0 ∧
        ∀ d, v.getLsbD d = true → s.dieExists d = true →
          NatSet.mem t.wf.hostReq d = true ∧ (s.mayGate d = true → (d, 0) ∈ t.wf.pend)) ∧
      (∃ t, exec (.cmdUngate v (pec 0x11)) s = .next t ∧ t = { s with wf := t.wf } ∧
        ∀ d, v.getLsbD d = true → s.dieExists d = true → NatSet.mem t.wf.hostReq d = false))) ∧
  (∀ (l : List Byte) (s : State), s.wf.running = true → let p := some (s.pecFor 0x06 (BitVec.ofNat 8 l.length :: l))
    (l.length = 16 → (∀ d, d < 16 → d ∈ l.map (·.toNat)) →
      exec (.gorderWrite l p) s = .next { s with wf := { s.wf with gorder := l.map (·.toNat), lastcmd := 0 } }) ∧
    (l.length ≠ 16 → exec (.gorderWrite l p) s = .next { s with wf := { s.wf with lastcmd := 2 } })) ∧
  (∀ s : State, s.wf.running = true →
    (s.awake = true → ∃ t, exec (.cmdBypassClose (some (s.pecFor 0x12 [1]))) s = .next t ∧ t.wf.wfhold = true ∧ t.wf.lastcmd = 0) ∧
    (s.holdCause = true ∨ s.thermTrip = true →
      exec (.cmdBypassRelease (some (s.pecFor 0x12 [0]))) s = .next { s with wf := { s.wf with lastcmd := 3 } }) ∧
    (s.holdCause = false → s.thermTrip = false →
      ∃ t, exec (.cmdBypassRelease (some (s.pecFor 0x12 [0]))) s = .next t ∧ t.wf.wfhold = false ∧ t.wf.lastcmd = 0))

/-! ### The whole machine -/

/-- Every step keeps the memories in their canonical form: addresses strictly rising, and no byte listed that an unlisted address reads
as, so that equal memories are equal data. -/
def Obligations.MemoryStaysCanonical : Prop := ∀ s t : State, s.Canonical → step s = .next t → t.Canonical

/-- Every command answers a next state but two kinds: an instruction that LOAD refuses, for which no run-time behaviour exists, is
refused, and a request to an address that does not exist stops with a fault (R27, R112). -/
def Obligations.OnlyStops : Prop :=
  (∀ (z : Zelux) (u : Nat) (s : State), z.legal = false → exec (z.cmd u) s = .refused .illegalEncoding) ∧
  ∀ (c : Instr) (s : State), (∃ t, exec c s = .next t) ∨
    (exec c s = .refused .illegalEncoding ∧ ∃ z u, c = Zelux.cmd z u ∧ z.legal = false) ∨
    ∃ f, c ∈ [Instr.readRequest f, .writeRequest f, .bulk f] ∧ exec c s = .fault (.absentAddress f.addr)
end

