-- ==== Sys2Proof/Laws/FMap.lean ====
section
/-! SUPPORT. What the operations of a finite map and of a memory do: a read after a write, the keys a write leaves alone, and that each
operation keeps the canonical form. -/

namespace Sys2Proof.Laws

open Sys2Proof.Machine

variable {α : Type} [DecidableEq α] (d : α)

omit [DecidableEq α] in
@[simp] theorem get_nil (k : Nat) : FMap.get d ([] : FMap α) k = d := rfl

omit [DecidableEq α] in
theorem get_cons (e : Nat × α) (m : FMap α) (k : Nat) :
    FMap.get d (e :: m) k = if e.1 = k then e.2 else FMap.get d m k := rfl

omit [DecidableEq α] in
theorem get_filter (m : FMap α) (p : Nat → Bool) (k : Nat) :
    FMap.get d (m.filter fun e => p e.1) k = if p k then FMap.get d m k else d := by
  induction m with
  | nil => simp
  | cons e m ih =>
    by_cases h : e.1 = k
    · subst h
      by_cases hp : p e.1 <;> simp [hp, get_cons] at ih ⊢
      exact ih
    · by_cases hp : p e.1 <;> simp [hp, get_cons, h, ih]

omit [DecidableEq α] in
theorem get_ins (m : FMap α) (k : Nat) (v : α) (j : Nat) :
    FMap.get d (FMap.ins m k v) j = if j = k then v else FMap.get d m j := by
  induction m with
  | nil => simp [FMap.ins, get_cons, eq_comm]
  | cons e m ih =>
    obtain ⟨k', v'⟩ := e
    simp only [FMap.ins]
    by_cases h : k = k'
    · subst h
      by_cases hj : j = k
      · simp [hj, get_cons]
      · simp [hj, get_cons, Ne.symm hj]
    · by_cases hlt : k < k'
      · by_cases hj : j = k
        · simp [h, hlt, hj, get_cons]
        · simp [h, hlt, hj, get_cons, Ne.symm hj]
      · simp only [h, hlt, if_false, get_cons, ih]
        by_cases hj : j = k
        · subst hj; simp [Ne.symm h]
        · simp [hj]

theorem get_set (m : FMap α) (k : Nat) (v : α) (j : Nat) :
    FMap.get d (FMap.set d m k v) j = if j = k then v else FMap.get d m j := by
  unfold FMap.set
  split
  · rename_i h
    rw [get_filter d m (fun x => x != k)]
    by_cases hj : j = k <;> simp [hj, h]
  · exact get_ins d m k v j

/-- Another key reads as before, whatever an unlisted key reads as. -/
theorem get_set_at (d' : α) (m : FMap α) (k : Nat) (v : α) {j : Nat} (h : j ≠ k) :
    FMap.get d' (FMap.set d m k v) j = FMap.get d' m j := by
  unfold FMap.set
  split
  · rw [get_filter d' m (fun x => x != k)]
    simp [h]
  · simp [get_ins, h]

@[simp] theorem get_set_same (m : FMap α) (k : Nat) (v : α) : FMap.get d (FMap.set d m k v) k = v := by
  simp [get_set]

theorem get_set_ne (m : FMap α) {k j : Nat} (v : α) (h : j ≠ k) :
    FMap.get d (FMap.set d m k v) j = FMap.get d m j := by simp [get_set, h]

theorem get_upd (m : FMap α) (k : Nat) (f : α → α) (j : Nat) :
    FMap.get d (FMap.upd d m k f) j = if j = k then f (FMap.get d m k) else FMap.get d m j := by
  simp [FMap.upd, get_set]

/-! ### The canonical form -/

/-- The canonical form, said of all pairs of entries. -/
theorem wf_iff (m : FMap α) :
    FMap.wf d m = true ↔ (m.Pairwise fun a b => a.1 < b.1) ∧ ∀ e ∈ m, e.2 ≠ d := by
  induction m with
  | nil => simp [FMap.wf]
  | cons e m ih =>
    obtain ⟨k, v⟩ := e
    cases m with
    | nil => simp [FMap.wf]
    | cons e' m =>
      obtain ⟨k', v'⟩ := e'
      simp only [FMap.wf, Bool.and_eq_true, decide_eq_true_eq, ih, List.pairwise_cons, List.mem_cons]
      constructor
      · rintro ⟨⟨hv, hk⟩, ⟨h1, h2⟩, h3⟩
        refine ⟨⟨?_, h1, h2⟩, ?_⟩
        · rintro a (rfl | ha)
          · exact hk
          · exact Nat.lt_trans hk (h1 a ha)
        · rintro a (rfl | ha)
          · exact hv
          · exact h3 a ha
      · rintro ⟨⟨h0, h1, h2⟩, h3⟩
        exact ⟨⟨h3 _ (Or.inl rfl), h0 _ (Or.inl rfl)⟩, ⟨h1, h2⟩, fun a ha => h3 a (Or.inr ha)⟩

theorem wf_filter (m : FMap α) (p : Nat × α → Bool) (h : FMap.wf d m = true) : FMap.wf d (m.filter p) = true := by
  rw [wf_iff] at h ⊢
  exact ⟨h.1.filter p, fun e he => h.2 e (List.mem_of_mem_filter he)⟩

omit [DecidableEq α] in
theorem mem_ins (m : FMap α) (k : Nat) (v : α) (e : Nat × α) (h : e ∈ FMap.ins m k v) : e = (k, v) ∨ e ∈ m := by
  induction m with
  | nil => simpa [FMap.ins] using h
  | cons a m ih =>
    obtain ⟨k', v'⟩ := a
    simp only [FMap.ins] at h
    split at h
    · rcases List.mem_cons.1 h with rfl | h
      · exact Or.inl rfl
      · exact Or.inr (List.mem_cons_of_mem _ h)
    · split at h
      · rcases List.mem_cons.1 h with rfl | h
        · exact Or.inl rfl
        · exact Or.inr h
      · rcases List.mem_cons.1 h with rfl | h
        · exact Or.inr List.mem_cons_self
        · rcases ih h with h | h
          · exact Or.inl h
          · exact Or.inr (List.mem_cons_of_mem _ h)

theorem wf_ins (m : FMap α) (k : Nat) (v : α) (hv : v ≠ d) (h : FMap.wf d m = true) :
    FMap.wf d (FMap.ins m k v) = true := by
  induction m with
  | nil => simp [FMap.ins, FMap.wf, hv]
  | cons a m ih =>
    obtain ⟨k', v'⟩ := a
    have hw := (wf_iff d _).1 h
    have hp := List.pairwise_cons.1 hw.1
    have hm : FMap.wf d m = true := (wf_iff d m).2 ⟨hp.2, fun e he => hw.2 e (List.mem_cons_of_mem _ he)⟩
    simp only [FMap.ins]
    split
    · rename_i hk
      subst hk
      refine (wf_iff d _).2 ⟨List.pairwise_cons.2 ⟨fun e he => hp.1 e he, hp.2⟩, ?_⟩
      intro e he
      rcases List.mem_cons.1 he with rfl | he
      · exact hv
      · exact hw.2 e (List.mem_cons_of_mem _ he)
    · split
      · rename_i hk hlt
        refine (wf_iff d _).2 ⟨List.pairwise_cons.2 ⟨?_, hw.1⟩, ?_⟩
        · intro e he
          rcases List.mem_cons.1 he with rfl | he
          · exact hlt
          · exact Nat.lt_trans hlt (hp.1 e he)
        · intro e he
          rcases List.mem_cons.1 he with rfl | he
          · exact hv
          · exact hw.2 e he
      · rename_i hk hlt
        have hi := (wf_iff d _).1 (ih hm)
        refine (wf_iff d _).2 ⟨List.pairwise_cons.2 ⟨?_, hi.1⟩, ?_⟩
        · intro e he
          rcases mem_ins m k v e he with rfl | he
          · exact lt_of_le_of_ne (Nat.le_of_not_lt hlt) (Ne.symm hk)
          · exact hp.1 e he
        · intro e he
          rcases List.mem_cons.1 he with rfl | he
          · exact hw.2 _ List.mem_cons_self
          · exact hi.2 e he

theorem wf_set (m : FMap α) (k : Nat) (v : α) (h : FMap.wf d m = true) : FMap.wf d (FMap.set d m k v) = true := by
  unfold FMap.set
  split
  · exact wf_filter d m _ h
  · rename_i hv
    exact wf_ins d m k v hv h

theorem wf_upd (m : FMap α) (k : Nat) (f : α → α) (h : FMap.wf d m = true) : FMap.wf d (FMap.upd d m k f) = true :=
  wf_set d m k _ h

/-! ### Memories -/

@[simp] theorem byte_nil (a : Nat) : Mem.byte [] a = 0 := rfl

theorem byte_put (m : Mem) (a : Nat) (b : Byte) (x : Nat) :
    Mem.byte (Mem.put m a b) x = if x = a then b else Mem.byte m x := get_set _ m a b x

theorem byte_clear (m : Mem) (a n x : Nat) :
    Mem.byte (Mem.clear m a n) x = if x < a ∨ a + n ≤ x then Mem.byte m x else 0 := by
  have := get_filter (0 : Byte) m (fun k => decide (k < a) || decide (a + n ≤ k)) x
  simpa [Mem.byte, Mem.clear] using this

theorem byte_writeNat (m : Mem) (a v n x : Nat) :
    Mem.byte (Mem.writeNat m a v n) x =
      if a ≤ x ∧ x < a + n then BitVec.ofNat 8 (v / 256 ^ (x - a)) else Mem.byte m x := by
  induction n generalizing m a v with
  | zero =>
    rw [if_neg (by omega)]
    rfl
  | succ n ih =>
    rw [Mem.writeNat, ih]
    by_cases h1 : a + 1 ≤ x ∧ x < a + 1 + n
    · have h2 : a ≤ x ∧ x < a + (n + 1) := by omega
      rw [if_pos h1, if_pos h2, Nat.div_div_eq_div_mul]
      congr 2
      have : x - a = (x - (a + 1)) + 1 := by omega
      rw [this, pow_succ]
      ring
    · rw [if_neg h1, byte_put]
      by_cases hx : x = a
      · subst hx; simp
      · have h2 : ¬(a ≤ x ∧ x < a + (n + 1)) := by omega
        simp [hx, h2]

theorem byte_writeBytes (m : Mem) (a : Nat) (l : List Byte) (x : Nat) :
    Mem.byte (Mem.writeBytes m a l) x = if a ≤ x then l.getD (x - a) (Mem.byte m x) else Mem.byte m x := by
  induction l generalizing m a with
  | nil => simp [Mem.writeBytes]
  | cons b l ih =>
    rw [Mem.writeBytes, ih]
    by_cases h1 : a + 1 ≤ x
    · have h2 : a ≤ x := by omega
      rw [if_pos h1, if_pos h2, byte_put, if_neg (by omega)]
      have : x - a = (x - (a + 1)) + 1 := by omega
      rw [this, List.getD_cons_succ]
    · rw [if_neg h1, byte_put]
      by_cases hx : x = a
      · subst hx; simp
      · rw [if_neg hx, if_neg (by omega)]

theorem wf_put (m : Mem) (a : Nat) (b : Byte) (h : Mem.wf m = true) : Mem.wf (Mem.put m a b) = true := wf_set _ m a b h

theorem wf_clear (m : Mem) (a n : Nat) (h : Mem.wf m = true) : Mem.wf (Mem.clear m a n) = true := wf_filter _ m _ h

theorem wf_writeNat (m : Mem) (a v n : Nat) (h : Mem.wf m = true) : Mem.wf (Mem.writeNat m a v n) = true := by
  induction n generalizing m a v with
  | zero => exact h
  | succ n ih => exact ih _ _ _ (wf_put m a _ h)

theorem wf_writeBytes (m : Mem) (a : Nat) (l : List Byte) (h : Mem.wf m = true) :
    Mem.wf (Mem.writeBytes m a l) = true := by
  induction l generalizing m a with
  | nil => exact h
  | cons b l ih => exact ih _ _ (wf_put m a b h)

end Sys2Proof.Laws
end

