-- ==== Sys2Proof/Laws/State.lean ====
section
/-! SUPPORT. One lemma per field of the state and per named update: what the update leaves alone; and what a read gives after each
write. No proof need unfold a record update. -/

namespace Sys2Proof.Laws

open Sys2Proof.Machine

variable (s : State)

/-! ### `setCu` changes `cus` alone -/

@[simp] theorem setCu_power (u : Nat) (c : Cu) : (s.setCu u c).power = s.power := rfl
@[simp] theorem setCu_time (u : Nat) (c : Cu) : (s.setCu u c).time = s.time := rfl
@[simp] theorem setCu_regs (u : Nat) (c : Cu) : (s.setCu u c).regs = s.regs := rfl
@[simp] theorem setCu_fnRegs (u : Nat) (c : Cu) : (s.setCu u c).fnRegs = s.fnRegs := rfl
@[simp] theorem setCu_pbRegs (u : Nat) (c : Cu) : (s.setCu u c).pbRegs = s.pbRegs := rfl
@[simp] theorem setCu_cfg (u : Nat) (c : Cu) : (s.setCu u c).cfg = s.cfg := rfl
@[simp] theorem setCu_pend (u : Nat) (c : Cu) : (s.setCu u c).pend = s.pend := rfl
@[simp] theorem setCu_mus (u : Nat) (c : Cu) : (s.setCu u c).mus = s.mus := rfl
@[simp] theorem setCu_fab (u : Nat) (c : Cu) : (s.setCu u c).fab = s.fab := rfl
@[simp] theorem setCu_flits (u : Nat) (c : Cu) : (s.setCu u c).flits = s.flits := rfl
@[simp] theorem setCu_wires (u : Nat) (c : Cu) : (s.setCu u c).wires = s.wires := rfl
@[simp] theorem setCu_slices (u : Nat) (c : Cu) : (s.setCu u c).slices = s.slices := rfl
@[simp] theorem setCu_rgns (u : Nat) (c : Cu) : (s.setCu u c).rgns = s.rgns := rfl
@[simp] theorem setCu_banks (u : Nat) (c : Cu) : (s.setCu u c).banks = s.banks := rfl
@[simp] theorem setCu_host (u : Nat) (c : Cu) : (s.setCu u c).host = s.host := rfl
@[simp] theorem setCu_feed (u : Nat) (c : Cu) : (s.setCu u c).feed = s.feed := rfl
@[simp] theorem setCu_mem (u : Nat) (c : Cu) : (s.setCu u c).mem = s.mem := rfl
@[simp] theorem setCu_passes (u : Nat) (c : Cu) : (s.setCu u c).passes = s.passes := rfl
@[simp] theorem setCu_links (u : Nat) (c : Cu) : (s.setCu u c).links = s.links := rfl
@[simp] theorem setCu_pairs (u : Nat) (c : Cu) : (s.setCu u c).pairs = s.pairs := rfl
@[simp] theorem setCu_groups (u : Nat) (c : Cu) : (s.setCu u c).groups = s.groups := rfl
@[simp] theorem setCu_traces (u : Nat) (c : Cu) : (s.setCu u c).traces = s.traces := rfl
@[simp] theorem setCu_log (u : Nat) (c : Cu) : (s.setCu u c).log = s.log := rfl
@[simp] theorem setCu_wf (u : Nat) (c : Cu) : (s.setCu u c).wf = s.wf := rfl
@[simp] theorem setCu_wmDigest (u : Nat) (c : Cu) : (s.setCu u c).wmDigest = s.wmDigest := rfl
@[simp] theorem setCu_digestBad (u : Nat) (c : Cu) : (s.setCu u c).digestBad = s.digestBad := rfl
@[simp] theorem setCu_net (u : Nat) (c : Cu) : (s.setCu u c).net = s.net := rfl
@[simp] theorem setCu_ouLast (u : Nat) (c : Cu) : (s.setCu u c).ouLast = s.ouLast := rfl
@[simp] theorem setCu_free (u : Nat) (c : Cu) : (s.setCu u c).free = s.free := rfl
@[simp] theorem setCu_pending (u : Nat) (c : Cu) : (s.setCu u c).pending = s.pending := rfl

/-! ### `setMu` changes `mus` alone -/

@[simp] theorem setMu_power (m : Nat) (x : Mu) : (s.setMu m x).power = s.power := rfl
@[simp] theorem setMu_time (m : Nat) (x : Mu) : (s.setMu m x).time = s.time := rfl
@[simp] theorem setMu_regs (m : Nat) (x : Mu) : (s.setMu m x).regs = s.regs := rfl
@[simp] theorem setMu_fnRegs (m : Nat) (x : Mu) : (s.setMu m x).fnRegs = s.fnRegs := rfl
@[simp] theorem setMu_pbRegs (m : Nat) (x : Mu) : (s.setMu m x).pbRegs = s.pbRegs := rfl
@[simp] theorem setMu_cfg (m : Nat) (x : Mu) : (s.setMu m x).cfg = s.cfg := rfl
@[simp] theorem setMu_pend (m : Nat) (x : Mu) : (s.setMu m x).pend = s.pend := rfl
@[simp] theorem setMu_cus (m : Nat) (x : Mu) : (s.setMu m x).cus = s.cus := rfl
@[simp] theorem setMu_fab (m : Nat) (x : Mu) : (s.setMu m x).fab = s.fab := rfl
@[simp] theorem setMu_flits (m : Nat) (x : Mu) : (s.setMu m x).flits = s.flits := rfl
@[simp] theorem setMu_wires (m : Nat) (x : Mu) : (s.setMu m x).wires = s.wires := rfl
@[simp] theorem setMu_slices (m : Nat) (x : Mu) : (s.setMu m x).slices = s.slices := rfl
@[simp] theorem setMu_rgns (m : Nat) (x : Mu) : (s.setMu m x).rgns = s.rgns := rfl
@[simp] theorem setMu_banks (m : Nat) (x : Mu) : (s.setMu m x).banks = s.banks := rfl
@[simp] theorem setMu_host (m : Nat) (x : Mu) : (s.setMu m x).host = s.host := rfl
@[simp] theorem setMu_feed (m : Nat) (x : Mu) : (s.setMu m x).feed = s.feed := rfl
@[simp] theorem setMu_mem (m : Nat) (x : Mu) : (s.setMu m x).mem = s.mem := rfl
@[simp] theorem setMu_passes (m : Nat) (x : Mu) : (s.setMu m x).passes = s.passes := rfl
@[simp] theorem setMu_links (m : Nat) (x : Mu) : (s.setMu m x).links = s.links := rfl
@[simp] theorem setMu_pairs (m : Nat) (x : Mu) : (s.setMu m x).pairs = s.pairs := rfl
@[simp] theorem setMu_groups (m : Nat) (x : Mu) : (s.setMu m x).groups = s.groups := rfl
@[simp] theorem setMu_traces (m : Nat) (x : Mu) : (s.setMu m x).traces = s.traces := rfl
@[simp] theorem setMu_log (m : Nat) (x : Mu) : (s.setMu m x).log = s.log := rfl
@[simp] theorem setMu_wf (m : Nat) (x : Mu) : (s.setMu m x).wf = s.wf := rfl
@[simp] theorem setMu_wmDigest (m : Nat) (x : Mu) : (s.setMu m x).wmDigest = s.wmDigest := rfl
@[simp] theorem setMu_digestBad (m : Nat) (x : Mu) : (s.setMu m x).digestBad = s.digestBad := rfl
@[simp] theorem setMu_net (m : Nat) (x : Mu) : (s.setMu m x).net = s.net := rfl
@[simp] theorem setMu_ouLast (m : Nat) (x : Mu) : (s.setMu m x).ouLast = s.ouLast := rfl
@[simp] theorem setMu_free (m : Nat) (x : Mu) : (s.setMu m x).free = s.free := rfl
@[simp] theorem setMu_pending (m : Nat) (x : Mu) : (s.setMu m x).pending = s.pending := rfl

/-! ### `updFab` changes `fab` alone -/

@[simp] theorem updFab_power (u : Nat) (f : Fabric → Fabric) : (s.updFab u f).power = s.power := rfl
@[simp] theorem updFab_time (u : Nat) (f : Fabric → Fabric) : (s.updFab u f).time = s.time := rfl
@[simp] theorem updFab_regs (u : Nat) (f : Fabric → Fabric) : (s.updFab u f).regs = s.regs := rfl
@[simp] theorem updFab_fnRegs (u : Nat) (f : Fabric → Fabric) : (s.updFab u f).fnRegs = s.fnRegs := rfl
@[simp] theorem updFab_pbRegs (u : Nat) (f : Fabric → Fabric) : (s.updFab u f).pbRegs = s.pbRegs := rfl
@[simp] theorem updFab_cfg (u : Nat) (f : Fabric → Fabric) : (s.updFab u f).cfg = s.cfg := rfl
@[simp] theorem updFab_pend (u : Nat) (f : Fabric → Fabric) : (s.updFab u f).pend = s.pend := rfl
@[simp] theorem updFab_cus (u : Nat) (f : Fabric → Fabric) : (s.updFab u f).cus = s.cus := rfl
@[simp] theorem updFab_mus (u : Nat) (f : Fabric → Fabric) : (s.updFab u f).mus = s.mus := rfl
@[simp] theorem updFab_flits (u : Nat) (f : Fabric → Fabric) : (s.updFab u f).flits = s.flits := rfl
@[simp] theorem updFab_wires (u : Nat) (f : Fabric → Fabric) : (s.updFab u f).wires = s.wires := rfl
@[simp] theorem updFab_slices (u : Nat) (f : Fabric → Fabric) : (s.updFab u f).slices = s.slices := rfl
@[simp] theorem updFab_rgns (u : Nat) (f : Fabric → Fabric) : (s.updFab u f).rgns = s.rgns := rfl
@[simp] theorem updFab_banks (u : Nat) (f : Fabric → Fabric) : (s.updFab u f).banks = s.banks := rfl
@[simp] theorem updFab_host (u : Nat) (f : Fabric → Fabric) : (s.updFab u f).host = s.host := rfl
@[simp] theorem updFab_feed (u : Nat) (f : Fabric → Fabric) : (s.updFab u f).feed = s.feed := rfl
@[simp] theorem updFab_mem (u : Nat) (f : Fabric → Fabric) : (s.updFab u f).mem = s.mem := rfl
@[simp] theorem updFab_passes (u : Nat) (f : Fabric → Fabric) : (s.updFab u f).passes = s.passes := rfl
@[simp] theorem updFab_links (u : Nat) (f : Fabric → Fabric) : (s.updFab u f).links = s.links := rfl
@[simp] theorem updFab_pairs (u : Nat) (f : Fabric → Fabric) : (s.updFab u f).pairs = s.pairs := rfl
@[simp] theorem updFab_groups (u : Nat) (f : Fabric → Fabric) : (s.updFab u f).groups = s.groups := rfl
@[simp] theorem updFab_traces (u : Nat) (f : Fabric → Fabric) : (s.updFab u f).traces = s.traces := rfl
@[simp] theorem updFab_log (u : Nat) (f : Fabric → Fabric) : (s.updFab u f).log = s.log := rfl
@[simp] theorem updFab_wf (u : Nat) (f : Fabric → Fabric) : (s.updFab u f).wf = s.wf := rfl
@[simp] theorem updFab_wmDigest (u : Nat) (f : Fabric → Fabric) : (s.updFab u f).wmDigest = s.wmDigest := rfl
@[simp] theorem updFab_digestBad (u : Nat) (f : Fabric → Fabric) : (s.updFab u f).digestBad = s.digestBad := rfl
@[simp] theorem updFab_net (u : Nat) (f : Fabric → Fabric) : (s.updFab u f).net = s.net := rfl
@[simp] theorem updFab_ouLast (u : Nat) (f : Fabric → Fabric) : (s.updFab u f).ouLast = s.ouLast := rfl
@[simp] theorem updFab_free (u : Nat) (f : Fabric → Fabric) : (s.updFab u f).free = s.free := rfl
@[simp] theorem updFab_pending (u : Nat) (f : Fabric → Fabric) : (s.updFab u f).pending = s.pending := rfl

/-! ### `updSlice` changes `slices` alone -/

@[simp] theorem updSlice_power (i : Nat) (f : Slice → Slice) : (s.updSlice i f).power = s.power := rfl
@[simp] theorem updSlice_time (i : Nat) (f : Slice → Slice) : (s.updSlice i f).time = s.time := rfl
@[simp] theorem updSlice_regs (i : Nat) (f : Slice → Slice) : (s.updSlice i f).regs = s.regs := rfl
@[simp] theorem updSlice_fnRegs (i : Nat) (f : Slice → Slice) : (s.updSlice i f).fnRegs = s.fnRegs := rfl
@[simp] theorem updSlice_pbRegs (i : Nat) (f : Slice → Slice) : (s.updSlice i f).pbRegs = s.pbRegs := rfl
@[simp] theorem updSlice_cfg (i : Nat) (f : Slice → Slice) : (s.updSlice i f).cfg = s.cfg := rfl
@[simp] theorem updSlice_pend (i : Nat) (f : Slice → Slice) : (s.updSlice i f).pend = s.pend := rfl
@[simp] theorem updSlice_cus (i : Nat) (f : Slice → Slice) : (s.updSlice i f).cus = s.cus := rfl
@[simp] theorem updSlice_mus (i : Nat) (f : Slice → Slice) : (s.updSlice i f).mus = s.mus := rfl
@[simp] theorem updSlice_fab (i : Nat) (f : Slice → Slice) : (s.updSlice i f).fab = s.fab := rfl
@[simp] theorem updSlice_flits (i : Nat) (f : Slice → Slice) : (s.updSlice i f).flits = s.flits := rfl
@[simp] theorem updSlice_wires (i : Nat) (f : Slice → Slice) : (s.updSlice i f).wires = s.wires := rfl
@[simp] theorem updSlice_rgns (i : Nat) (f : Slice → Slice) : (s.updSlice i f).rgns = s.rgns := rfl
@[simp] theorem updSlice_banks (i : Nat) (f : Slice → Slice) : (s.updSlice i f).banks = s.banks := rfl
@[simp] theorem updSlice_host (i : Nat) (f : Slice → Slice) : (s.updSlice i f).host = s.host := rfl
@[simp] theorem updSlice_feed (i : Nat) (f : Slice → Slice) : (s.updSlice i f).feed = s.feed := rfl
@[simp] theorem updSlice_mem (i : Nat) (f : Slice → Slice) : (s.updSlice i f).mem = s.mem := rfl
@[simp] theorem updSlice_passes (i : Nat) (f : Slice → Slice) : (s.updSlice i f).passes = s.passes := rfl
@[simp] theorem updSlice_links (i : Nat) (f : Slice → Slice) : (s.updSlice i f).links = s.links := rfl
@[simp] theorem updSlice_pairs (i : Nat) (f : Slice → Slice) : (s.updSlice i f).pairs = s.pairs := rfl
@[simp] theorem updSlice_groups (i : Nat) (f : Slice → Slice) : (s.updSlice i f).groups = s.groups := rfl
@[simp] theorem updSlice_traces (i : Nat) (f : Slice → Slice) : (s.updSlice i f).traces = s.traces := rfl
@[simp] theorem updSlice_log (i : Nat) (f : Slice → Slice) : (s.updSlice i f).log = s.log := rfl
@[simp] theorem updSlice_wf (i : Nat) (f : Slice → Slice) : (s.updSlice i f).wf = s.wf := rfl
@[simp] theorem updSlice_wmDigest (i : Nat) (f : Slice → Slice) : (s.updSlice i f).wmDigest = s.wmDigest := rfl
@[simp] theorem updSlice_digestBad (i : Nat) (f : Slice → Slice) : (s.updSlice i f).digestBad = s.digestBad := rfl
@[simp] theorem updSlice_net (i : Nat) (f : Slice → Slice) : (s.updSlice i f).net = s.net := rfl
@[simp] theorem updSlice_ouLast (i : Nat) (f : Slice → Slice) : (s.updSlice i f).ouLast = s.ouLast := rfl
@[simp] theorem updSlice_free (i : Nat) (f : Slice → Slice) : (s.updSlice i f).free = s.free := rfl
@[simp] theorem updSlice_pending (i : Nat) (f : Slice → Slice) : (s.updSlice i f).pending = s.pending := rfl

/-! ### `updRgn` changes `rgns` alone -/

@[simp] theorem updRgn_power (r : Nat) (f : Region → Region) : (s.updRgn r f).power = s.power := rfl
@[simp] theorem updRgn_time (r : Nat) (f : Region → Region) : (s.updRgn r f).time = s.time := rfl
@[simp] theorem updRgn_regs (r : Nat) (f : Region → Region) : (s.updRgn r f).regs = s.regs := rfl
@[simp] theorem updRgn_fnRegs (r : Nat) (f : Region → Region) : (s.updRgn r f).fnRegs = s.fnRegs := rfl
@[simp] theorem updRgn_pbRegs (r : Nat) (f : Region → Region) : (s.updRgn r f).pbRegs = s.pbRegs := rfl
@[simp] theorem updRgn_cfg (r : Nat) (f : Region → Region) : (s.updRgn r f).cfg = s.cfg := rfl
@[simp] theorem updRgn_pend (r : Nat) (f : Region → Region) : (s.updRgn r f).pend = s.pend := rfl
@[simp] theorem updRgn_cus (r : Nat) (f : Region → Region) : (s.updRgn r f).cus = s.cus := rfl
@[simp] theorem updRgn_mus (r : Nat) (f : Region → Region) : (s.updRgn r f).mus = s.mus := rfl
@[simp] theorem updRgn_fab (r : Nat) (f : Region → Region) : (s.updRgn r f).fab = s.fab := rfl
@[simp] theorem updRgn_flits (r : Nat) (f : Region → Region) : (s.updRgn r f).flits = s.flits := rfl
@[simp] theorem updRgn_wires (r : Nat) (f : Region → Region) : (s.updRgn r f).wires = s.wires := rfl
@[simp] theorem updRgn_slices (r : Nat) (f : Region → Region) : (s.updRgn r f).slices = s.slices := rfl
@[simp] theorem updRgn_banks (r : Nat) (f : Region → Region) : (s.updRgn r f).banks = s.banks := rfl
@[simp] theorem updRgn_host (r : Nat) (f : Region → Region) : (s.updRgn r f).host = s.host := rfl
@[simp] theorem updRgn_feed (r : Nat) (f : Region → Region) : (s.updRgn r f).feed = s.feed := rfl
@[simp] theorem updRgn_mem (r : Nat) (f : Region → Region) : (s.updRgn r f).mem = s.mem := rfl
@[simp] theorem updRgn_passes (r : Nat) (f : Region → Region) : (s.updRgn r f).passes = s.passes := rfl
@[simp] theorem updRgn_links (r : Nat) (f : Region → Region) : (s.updRgn r f).links = s.links := rfl
@[simp] theorem updRgn_pairs (r : Nat) (f : Region → Region) : (s.updRgn r f).pairs = s.pairs := rfl
@[simp] theorem updRgn_groups (r : Nat) (f : Region → Region) : (s.updRgn r f).groups = s.groups := rfl
@[simp] theorem updRgn_traces (r : Nat) (f : Region → Region) : (s.updRgn r f).traces = s.traces := rfl
@[simp] theorem updRgn_log (r : Nat) (f : Region → Region) : (s.updRgn r f).log = s.log := rfl
@[simp] theorem updRgn_wf (r : Nat) (f : Region → Region) : (s.updRgn r f).wf = s.wf := rfl
@[simp] theorem updRgn_wmDigest (r : Nat) (f : Region → Region) : (s.updRgn r f).wmDigest = s.wmDigest := rfl
@[simp] theorem updRgn_digestBad (r : Nat) (f : Region → Region) : (s.updRgn r f).digestBad = s.digestBad := rfl
@[simp] theorem updRgn_net (r : Nat) (f : Region → Region) : (s.updRgn r f).net = s.net := rfl
@[simp] theorem updRgn_ouLast (r : Nat) (f : Region → Region) : (s.updRgn r f).ouLast = s.ouLast := rfl
@[simp] theorem updRgn_free (r : Nat) (f : Region → Region) : (s.updRgn r f).free = s.free := rfl
@[simp] theorem updRgn_pending (r : Nat) (f : Region → Region) : (s.updRgn r f).pending = s.pending := rfl

/-! ### `updLink` changes `links` alone -/

@[simp] theorem updLink_power (l : Nat) (f : Link → Link) : (s.updLink l f).power = s.power := rfl
@[simp] theorem updLink_time (l : Nat) (f : Link → Link) : (s.updLink l f).time = s.time := rfl
@[simp] theorem updLink_regs (l : Nat) (f : Link → Link) : (s.updLink l f).regs = s.regs := rfl
@[simp] theorem updLink_fnRegs (l : Nat) (f : Link → Link) : (s.updLink l f).fnRegs = s.fnRegs := rfl
@[simp] theorem updLink_pbRegs (l : Nat) (f : Link → Link) : (s.updLink l f).pbRegs = s.pbRegs := rfl
@[simp] theorem updLink_cfg (l : Nat) (f : Link → Link) : (s.updLink l f).cfg = s.cfg := rfl
@[simp] theorem updLink_pend (l : Nat) (f : Link → Link) : (s.updLink l f).pend = s.pend := rfl
@[simp] theorem updLink_cus (l : Nat) (f : Link → Link) : (s.updLink l f).cus = s.cus := rfl
@[simp] theorem updLink_mus (l : Nat) (f : Link → Link) : (s.updLink l f).mus = s.mus := rfl
@[simp] theorem updLink_fab (l : Nat) (f : Link → Link) : (s.updLink l f).fab = s.fab := rfl
@[simp] theorem updLink_flits (l : Nat) (f : Link → Link) : (s.updLink l f).flits = s.flits := rfl
@[simp] theorem updLink_wires (l : Nat) (f : Link → Link) : (s.updLink l f).wires = s.wires := rfl
@[simp] theorem updLink_slices (l : Nat) (f : Link → Link) : (s.updLink l f).slices = s.slices := rfl
@[simp] theorem updLink_rgns (l : Nat) (f : Link → Link) : (s.updLink l f).rgns = s.rgns := rfl
@[simp] theorem updLink_banks (l : Nat) (f : Link → Link) : (s.updLink l f).banks = s.banks := rfl
@[simp] theorem updLink_host (l : Nat) (f : Link → Link) : (s.updLink l f).host = s.host := rfl
@[simp] theorem updLink_feed (l : Nat) (f : Link → Link) : (s.updLink l f).feed = s.feed := rfl
@[simp] theorem updLink_mem (l : Nat) (f : Link → Link) : (s.updLink l f).mem = s.mem := rfl
@[simp] theorem updLink_passes (l : Nat) (f : Link → Link) : (s.updLink l f).passes = s.passes := rfl
@[simp] theorem updLink_pairs (l : Nat) (f : Link → Link) : (s.updLink l f).pairs = s.pairs := rfl
@[simp] theorem updLink_groups (l : Nat) (f : Link → Link) : (s.updLink l f).groups = s.groups := rfl
@[simp] theorem updLink_traces (l : Nat) (f : Link → Link) : (s.updLink l f).traces = s.traces := rfl
@[simp] theorem updLink_log (l : Nat) (f : Link → Link) : (s.updLink l f).log = s.log := rfl
@[simp] theorem updLink_wf (l : Nat) (f : Link → Link) : (s.updLink l f).wf = s.wf := rfl
@[simp] theorem updLink_wmDigest (l : Nat) (f : Link → Link) : (s.updLink l f).wmDigest = s.wmDigest := rfl
@[simp] theorem updLink_digestBad (l : Nat) (f : Link → Link) : (s.updLink l f).digestBad = s.digestBad := rfl
@[simp] theorem updLink_net (l : Nat) (f : Link → Link) : (s.updLink l f).net = s.net := rfl
@[simp] theorem updLink_ouLast (l : Nat) (f : Link → Link) : (s.updLink l f).ouLast = s.ouLast := rfl
@[simp] theorem updLink_free (l : Nat) (f : Link → Link) : (s.updLink l f).free = s.free := rfl
@[simp] theorem updLink_pending (l : Nat) (f : Link → Link) : (s.updLink l f).pending = s.pending := rfl

/-! ### `updPair` changes `pairs` alone -/

@[simp] theorem updPair_power (p : Nat) (f : Pair → Pair) : (s.updPair p f).power = s.power := rfl
@[simp] theorem updPair_time (p : Nat) (f : Pair → Pair) : (s.updPair p f).time = s.time := rfl
@[simp] theorem updPair_regs (p : Nat) (f : Pair → Pair) : (s.updPair p f).regs = s.regs := rfl
@[simp] theorem updPair_fnRegs (p : Nat) (f : Pair → Pair) : (s.updPair p f).fnRegs = s.fnRegs := rfl
@[simp] theorem updPair_pbRegs (p : Nat) (f : Pair → Pair) : (s.updPair p f).pbRegs = s.pbRegs := rfl
@[simp] theorem updPair_cfg (p : Nat) (f : Pair → Pair) : (s.updPair p f).cfg = s.cfg := rfl
@[simp] theorem updPair_pend (p : Nat) (f : Pair → Pair) : (s.updPair p f).pend = s.pend := rfl
@[simp] theorem updPair_cus (p : Nat) (f : Pair → Pair) : (s.updPair p f).cus = s.cus := rfl
@[simp] theorem updPair_mus (p : Nat) (f : Pair → Pair) : (s.updPair p f).mus = s.mus := rfl
@[simp] theorem updPair_fab (p : Nat) (f : Pair → Pair) : (s.updPair p f).fab = s.fab := rfl
@[simp] theorem updPair_flits (p : Nat) (f : Pair → Pair) : (s.updPair p f).flits = s.flits := rfl
@[simp] theorem updPair_wires (p : Nat) (f : Pair → Pair) : (s.updPair p f).wires = s.wires := rfl
@[simp] theorem updPair_slices (p : Nat) (f : Pair → Pair) : (s.updPair p f).slices = s.slices := rfl
@[simp] theorem updPair_rgns (p : Nat) (f : Pair → Pair) : (s.updPair p f).rgns = s.rgns := rfl
@[simp] theorem updPair_banks (p : Nat) (f : Pair → Pair) : (s.updPair p f).banks = s.banks := rfl
@[simp] theorem updPair_host (p : Nat) (f : Pair → Pair) : (s.updPair p f).host = s.host := rfl
@[simp] theorem updPair_feed (p : Nat) (f : Pair → Pair) : (s.updPair p f).feed = s.feed := rfl
@[simp] theorem updPair_mem (p : Nat) (f : Pair → Pair) : (s.updPair p f).mem = s.mem := rfl
@[simp] theorem updPair_passes (p : Nat) (f : Pair → Pair) : (s.updPair p f).passes = s.passes := rfl
@[simp] theorem updPair_links (p : Nat) (f : Pair → Pair) : (s.updPair p f).links = s.links := rfl
@[simp] theorem updPair_groups (p : Nat) (f : Pair → Pair) : (s.updPair p f).groups = s.groups := rfl
@[simp] theorem updPair_traces (p : Nat) (f : Pair → Pair) : (s.updPair p f).traces = s.traces := rfl
@[simp] theorem updPair_log (p : Nat) (f : Pair → Pair) : (s.updPair p f).log = s.log := rfl
@[simp] theorem updPair_wf (p : Nat) (f : Pair → Pair) : (s.updPair p f).wf = s.wf := rfl
@[simp] theorem updPair_wmDigest (p : Nat) (f : Pair → Pair) : (s.updPair p f).wmDigest = s.wmDigest := rfl
@[simp] theorem updPair_digestBad (p : Nat) (f : Pair → Pair) : (s.updPair p f).digestBad = s.digestBad := rfl
@[simp] theorem updPair_net (p : Nat) (f : Pair → Pair) : (s.updPair p f).net = s.net := rfl
@[simp] theorem updPair_ouLast (p : Nat) (f : Pair → Pair) : (s.updPair p f).ouLast = s.ouLast := rfl
@[simp] theorem updPair_free (p : Nat) (f : Pair → Pair) : (s.updPair p f).free = s.free := rfl
@[simp] theorem updPair_pending (p : Nat) (f : Pair → Pair) : (s.updPair p f).pending = s.pending := rfl

/-! ### `updGroup` changes `groups` alone -/

@[simp] theorem updGroup_power (g : Nat) (f : Group → Group) : (s.updGroup g f).power = s.power := rfl
@[simp] theorem updGroup_time (g : Nat) (f : Group → Group) : (s.updGroup g f).time = s.time := rfl
@[simp] theorem updGroup_regs (g : Nat) (f : Group → Group) : (s.updGroup g f).regs = s.regs := rfl
@[simp] theorem updGroup_fnRegs (g : Nat) (f : Group → Group) : (s.updGroup g f).fnRegs = s.fnRegs := rfl
@[simp] theorem updGroup_pbRegs (g : Nat) (f : Group → Group) : (s.updGroup g f).pbRegs = s.pbRegs := rfl
@[simp] theorem updGroup_cfg (g : Nat) (f : Group → Group) : (s.updGroup g f).cfg = s.cfg := rfl
@[simp] theorem updGroup_pend (g : Nat) (f : Group → Group) : (s.updGroup g f).pend = s.pend := rfl
@[simp] theorem updGroup_cus (g : Nat) (f : Group → Group) : (s.updGroup g f).cus = s.cus := rfl
@[simp] theorem updGroup_mus (g : Nat) (f : Group → Group) : (s.updGroup g f).mus = s.mus := rfl
@[simp] theorem updGroup_fab (g : Nat) (f : Group → Group) : (s.updGroup g f).fab = s.fab := rfl
@[simp] theorem updGroup_flits (g : Nat) (f : Group → Group) : (s.updGroup g f).flits = s.flits := rfl
@[simp] theorem updGroup_wires (g : Nat) (f : Group → Group) : (s.updGroup g f).wires = s.wires := rfl
@[simp] theorem updGroup_slices (g : Nat) (f : Group → Group) : (s.updGroup g f).slices = s.slices := rfl
@[simp] theorem updGroup_rgns (g : Nat) (f : Group → Group) : (s.updGroup g f).rgns = s.rgns := rfl
@[simp] theorem updGroup_banks (g : Nat) (f : Group → Group) : (s.updGroup g f).banks = s.banks := rfl
@[simp] theorem updGroup_host (g : Nat) (f : Group → Group) : (s.updGroup g f).host = s.host := rfl
@[simp] theorem updGroup_feed (g : Nat) (f : Group → Group) : (s.updGroup g f).feed = s.feed := rfl
@[simp] theorem updGroup_mem (g : Nat) (f : Group → Group) : (s.updGroup g f).mem = s.mem := rfl
@[simp] theorem updGroup_passes (g : Nat) (f : Group → Group) : (s.updGroup g f).passes = s.passes := rfl
@[simp] theorem updGroup_links (g : Nat) (f : Group → Group) : (s.updGroup g f).links = s.links := rfl
@[simp] theorem updGroup_pairs (g : Nat) (f : Group → Group) : (s.updGroup g f).pairs = s.pairs := rfl
@[simp] theorem updGroup_traces (g : Nat) (f : Group → Group) : (s.updGroup g f).traces = s.traces := rfl
@[simp] theorem updGroup_log (g : Nat) (f : Group → Group) : (s.updGroup g f).log = s.log := rfl
@[simp] theorem updGroup_wf (g : Nat) (f : Group → Group) : (s.updGroup g f).wf = s.wf := rfl
@[simp] theorem updGroup_wmDigest (g : Nat) (f : Group → Group) : (s.updGroup g f).wmDigest = s.wmDigest := rfl
@[simp] theorem updGroup_digestBad (g : Nat) (f : Group → Group) : (s.updGroup g f).digestBad = s.digestBad := rfl
@[simp] theorem updGroup_net (g : Nat) (f : Group → Group) : (s.updGroup g f).net = s.net := rfl
@[simp] theorem updGroup_ouLast (g : Nat) (f : Group → Group) : (s.updGroup g f).ouLast = s.ouLast := rfl
@[simp] theorem updGroup_free (g : Nat) (f : Group → Group) : (s.updGroup g f).free = s.free := rfl
@[simp] theorem updGroup_pending (g : Nat) (f : Group → Group) : (s.updGroup g f).pending = s.pending := rfl

/-! ### `updMem` changes `mem` alone -/

@[simp] theorem updMem_power (f : MemSt → MemSt) : (s.updMem f).power = s.power := rfl
@[simp] theorem updMem_time (f : MemSt → MemSt) : (s.updMem f).time = s.time := rfl
@[simp] theorem updMem_regs (f : MemSt → MemSt) : (s.updMem f).regs = s.regs := rfl
@[simp] theorem updMem_fnRegs (f : MemSt → MemSt) : (s.updMem f).fnRegs = s.fnRegs := rfl
@[simp] theorem updMem_pbRegs (f : MemSt → MemSt) : (s.updMem f).pbRegs = s.pbRegs := rfl
@[simp] theorem updMem_cfg (f : MemSt → MemSt) : (s.updMem f).cfg = s.cfg := rfl
@[simp] theorem updMem_pend (f : MemSt → MemSt) : (s.updMem f).pend = s.pend := rfl
@[simp] theorem updMem_cus (f : MemSt → MemSt) : (s.updMem f).cus = s.cus := rfl
@[simp] theorem updMem_mus (f : MemSt → MemSt) : (s.updMem f).mus = s.mus := rfl
@[simp] theorem updMem_fab (f : MemSt → MemSt) : (s.updMem f).fab = s.fab := rfl
@[simp] theorem updMem_flits (f : MemSt → MemSt) : (s.updMem f).flits = s.flits := rfl
@[simp] theorem updMem_wires (f : MemSt → MemSt) : (s.updMem f).wires = s.wires := rfl
@[simp] theorem updMem_slices (f : MemSt → MemSt) : (s.updMem f).slices = s.slices := rfl
@[simp] theorem updMem_rgns (f : MemSt → MemSt) : (s.updMem f).rgns = s.rgns := rfl
@[simp] theorem updMem_banks (f : MemSt → MemSt) : (s.updMem f).banks = s.banks := rfl
@[simp] theorem updMem_host (f : MemSt → MemSt) : (s.updMem f).host = s.host := rfl
@[simp] theorem updMem_feed (f : MemSt → MemSt) : (s.updMem f).feed = s.feed := rfl
@[simp] theorem updMem_passes (f : MemSt → MemSt) : (s.updMem f).passes = s.passes := rfl
@[simp] theorem updMem_links (f : MemSt → MemSt) : (s.updMem f).links = s.links := rfl
@[simp] theorem updMem_pairs (f : MemSt → MemSt) : (s.updMem f).pairs = s.pairs := rfl
@[simp] theorem updMem_groups (f : MemSt → MemSt) : (s.updMem f).groups = s.groups := rfl
@[simp] theorem updMem_traces (f : MemSt → MemSt) : (s.updMem f).traces = s.traces := rfl
@[simp] theorem updMem_log (f : MemSt → MemSt) : (s.updMem f).log = s.log := rfl
@[simp] theorem updMem_wf (f : MemSt → MemSt) : (s.updMem f).wf = s.wf := rfl
@[simp] theorem updMem_wmDigest (f : MemSt → MemSt) : (s.updMem f).wmDigest = s.wmDigest := rfl
@[simp] theorem updMem_digestBad (f : MemSt → MemSt) : (s.updMem f).digestBad = s.digestBad := rfl
@[simp] theorem updMem_net (f : MemSt → MemSt) : (s.updMem f).net = s.net := rfl
@[simp] theorem updMem_ouLast (f : MemSt → MemSt) : (s.updMem f).ouLast = s.ouLast := rfl
@[simp] theorem updMem_free (f : MemSt → MemSt) : (s.updMem f).free = s.free := rfl
@[simp] theorem updMem_pending (f : MemSt → MemSt) : (s.updMem f).pending = s.pending := rfl

/-! ### `updHost` changes `host` alone -/

@[simp] theorem updHost_power (f : HostSt → HostSt) : (s.updHost f).power = s.power := rfl
@[simp] theorem updHost_time (f : HostSt → HostSt) : (s.updHost f).time = s.time := rfl
@[simp] theorem updHost_regs (f : HostSt → HostSt) : (s.updHost f).regs = s.regs := rfl
@[simp] theorem updHost_fnRegs (f : HostSt → HostSt) : (s.updHost f).fnRegs = s.fnRegs := rfl
@[simp] theorem updHost_pbRegs (f : HostSt → HostSt) : (s.updHost f).pbRegs = s.pbRegs := rfl
@[simp] theorem updHost_cfg (f : HostSt → HostSt) : (s.updHost f).cfg = s.cfg := rfl
@[simp] theorem updHost_pend (f : HostSt → HostSt) : (s.updHost f).pend = s.pend := rfl
@[simp] theorem updHost_cus (f : HostSt → HostSt) : (s.updHost f).cus = s.cus := rfl
@[simp] theorem updHost_mus (f : HostSt → HostSt) : (s.updHost f).mus = s.mus := rfl
@[simp] theorem updHost_fab (f : HostSt → HostSt) : (s.updHost f).fab = s.fab := rfl
@[simp] theorem updHost_flits (f : HostSt → HostSt) : (s.updHost f).flits = s.flits := rfl
@[simp] theorem updHost_wires (f : HostSt → HostSt) : (s.updHost f).wires = s.wires := rfl
@[simp] theorem updHost_slices (f : HostSt → HostSt) : (s.updHost f).slices = s.slices := rfl
@[simp] theorem updHost_rgns (f : HostSt → HostSt) : (s.updHost f).rgns = s.rgns := rfl
@[simp] theorem updHost_banks (f : HostSt → HostSt) : (s.updHost f).banks = s.banks := rfl
@[simp] theorem updHost_feed (f : HostSt → HostSt) : (s.updHost f).feed = s.feed := rfl
@[simp] theorem updHost_mem (f : HostSt → HostSt) : (s.updHost f).mem = s.mem := rfl
@[simp] theorem updHost_passes (f : HostSt → HostSt) : (s.updHost f).passes = s.passes := rfl
@[simp] theorem updHost_links (f : HostSt → HostSt) : (s.updHost f).links = s.links := rfl
@[simp] theorem updHost_pairs (f : HostSt → HostSt) : (s.updHost f).pairs = s.pairs := rfl
@[simp] theorem updHost_groups (f : HostSt → HostSt) : (s.updHost f).groups = s.groups := rfl
@[simp] theorem updHost_traces (f : HostSt → HostSt) : (s.updHost f).traces = s.traces := rfl
@[simp] theorem updHost_log (f : HostSt → HostSt) : (s.updHost f).log = s.log := rfl
@[simp] theorem updHost_wf (f : HostSt → HostSt) : (s.updHost f).wf = s.wf := rfl
@[simp] theorem updHost_wmDigest (f : HostSt → HostSt) : (s.updHost f).wmDigest = s.wmDigest := rfl
@[simp] theorem updHost_digestBad (f : HostSt → HostSt) : (s.updHost f).digestBad = s.digestBad := rfl
@[simp] theorem updHost_net (f : HostSt → HostSt) : (s.updHost f).net = s.net := rfl
@[simp] theorem updHost_ouLast (f : HostSt → HostSt) : (s.updHost f).ouLast = s.ouLast := rfl
@[simp] theorem updHost_free (f : HostSt → HostSt) : (s.updHost f).free = s.free := rfl
@[simp] theorem updHost_pending (f : HostSt → HostSt) : (s.updHost f).pending = s.pending := rfl

/-! ### `updWf` changes `wf` alone -/

@[simp] theorem updWf_power (f : WfSt → WfSt) : (s.updWf f).power = s.power := rfl
@[simp] theorem updWf_time (f : WfSt → WfSt) : (s.updWf f).time = s.time := rfl
@[simp] theorem updWf_regs (f : WfSt → WfSt) : (s.updWf f).regs = s.regs := rfl
@[simp] theorem updWf_fnRegs (f : WfSt → WfSt) : (s.updWf f).fnRegs = s.fnRegs := rfl
@[simp] theorem updWf_pbRegs (f : WfSt → WfSt) : (s.updWf f).pbRegs = s.pbRegs := rfl
@[simp] theorem updWf_cfg (f : WfSt → WfSt) : (s.updWf f).cfg = s.cfg := rfl
@[simp] theorem updWf_pend (f : WfSt → WfSt) : (s.updWf f).pend = s.pend := rfl
@[simp] theorem updWf_cus (f : WfSt → WfSt) : (s.updWf f).cus = s.cus := rfl
@[simp] theorem updWf_mus (f : WfSt → WfSt) : (s.updWf f).mus = s.mus := rfl
@[simp] theorem updWf_fab (f : WfSt → WfSt) : (s.updWf f).fab = s.fab := rfl
@[simp] theorem updWf_flits (f : WfSt → WfSt) : (s.updWf f).flits = s.flits := rfl
@[simp] theorem updWf_wires (f : WfSt → WfSt) : (s.updWf f).wires = s.wires := rfl
@[simp] theorem updWf_slices (f : WfSt → WfSt) : (s.updWf f).slices = s.slices := rfl
@[simp] theorem updWf_rgns (f : WfSt → WfSt) : (s.updWf f).rgns = s.rgns := rfl
@[simp] theorem updWf_banks (f : WfSt → WfSt) : (s.updWf f).banks = s.banks := rfl
@[simp] theorem updWf_host (f : WfSt → WfSt) : (s.updWf f).host = s.host := rfl
@[simp] theorem updWf_feed (f : WfSt → WfSt) : (s.updWf f).feed = s.feed := rfl
@[simp] theorem updWf_mem (f : WfSt → WfSt) : (s.updWf f).mem = s.mem := rfl
@[simp] theorem updWf_passes (f : WfSt → WfSt) : (s.updWf f).passes = s.passes := rfl
@[simp] theorem updWf_links (f : WfSt → WfSt) : (s.updWf f).links = s.links := rfl
@[simp] theorem updWf_pairs (f : WfSt → WfSt) : (s.updWf f).pairs = s.pairs := rfl
@[simp] theorem updWf_groups (f : WfSt → WfSt) : (s.updWf f).groups = s.groups := rfl
@[simp] theorem updWf_traces (f : WfSt → WfSt) : (s.updWf f).traces = s.traces := rfl
@[simp] theorem updWf_log (f : WfSt → WfSt) : (s.updWf f).log = s.log := rfl
@[simp] theorem updWf_wmDigest (f : WfSt → WfSt) : (s.updWf f).wmDigest = s.wmDigest := rfl
@[simp] theorem updWf_digestBad (f : WfSt → WfSt) : (s.updWf f).digestBad = s.digestBad := rfl
@[simp] theorem updWf_net (f : WfSt → WfSt) : (s.updWf f).net = s.net := rfl
@[simp] theorem updWf_ouLast (f : WfSt → WfSt) : (s.updWf f).ouLast = s.ouLast := rfl
@[simp] theorem updWf_free (f : WfSt → WfSt) : (s.updWf f).free = s.free := rfl
@[simp] theorem updWf_pending (f : WfSt → WfSt) : (s.updWf f).pending = s.pending := rfl

/-! ### `updPower` changes `power` alone -/

@[simp] theorem updPower_time (f : PowerSt → PowerSt) : (s.updPower f).time = s.time := rfl
@[simp] theorem updPower_regs (f : PowerSt → PowerSt) : (s.updPower f).regs = s.regs := rfl
@[simp] theorem updPower_fnRegs (f : PowerSt → PowerSt) : (s.updPower f).fnRegs = s.fnRegs := rfl
@[simp] theorem updPower_pbRegs (f : PowerSt → PowerSt) : (s.updPower f).pbRegs = s.pbRegs := rfl
@[simp] theorem updPower_cfg (f : PowerSt → PowerSt) : (s.updPower f).cfg = s.cfg := rfl
@[simp] theorem updPower_pend (f : PowerSt → PowerSt) : (s.updPower f).pend = s.pend := rfl
@[simp] theorem updPower_cus (f : PowerSt → PowerSt) : (s.updPower f).cus = s.cus := rfl
@[simp] theorem updPower_mus (f : PowerSt → PowerSt) : (s.updPower f).mus = s.mus := rfl
@[simp] theorem updPower_fab (f : PowerSt → PowerSt) : (s.updPower f).fab = s.fab := rfl
@[simp] theorem updPower_flits (f : PowerSt → PowerSt) : (s.updPower f).flits = s.flits := rfl
@[simp] theorem updPower_wires (f : PowerSt → PowerSt) : (s.updPower f).wires = s.wires := rfl
@[simp] theorem updPower_slices (f : PowerSt → PowerSt) : (s.updPower f).slices = s.slices := rfl
@[simp] theorem updPower_rgns (f : PowerSt → PowerSt) : (s.updPower f).rgns = s.rgns := rfl
@[simp] theorem updPower_banks (f : PowerSt → PowerSt) : (s.updPower f).banks = s.banks := rfl
@[simp] theorem updPower_host (f : PowerSt → PowerSt) : (s.updPower f).host = s.host := rfl
@[simp] theorem updPower_feed (f : PowerSt → PowerSt) : (s.updPower f).feed = s.feed := rfl
@[simp] theorem updPower_mem (f : PowerSt → PowerSt) : (s.updPower f).mem = s.mem := rfl
@[simp] theorem updPower_passes (f : PowerSt → PowerSt) : (s.updPower f).passes = s.passes := rfl
@[simp] theorem updPower_links (f : PowerSt → PowerSt) : (s.updPower f).links = s.links := rfl
@[simp] theorem updPower_pairs (f : PowerSt → PowerSt) : (s.updPower f).pairs = s.pairs := rfl
@[simp] theorem updPower_groups (f : PowerSt → PowerSt) : (s.updPower f).groups = s.groups := rfl
@[simp] theorem updPower_traces (f : PowerSt → PowerSt) : (s.updPower f).traces = s.traces := rfl
@[simp] theorem updPower_log (f : PowerSt → PowerSt) : (s.updPower f).log = s.log := rfl
@[simp] theorem updPower_wf (f : PowerSt → PowerSt) : (s.updPower f).wf = s.wf := rfl
@[simp] theorem updPower_wmDigest (f : PowerSt → PowerSt) : (s.updPower f).wmDigest = s.wmDigest := rfl
@[simp] theorem updPower_digestBad (f : PowerSt → PowerSt) : (s.updPower f).digestBad = s.digestBad := rfl
@[simp] theorem updPower_net (f : PowerSt → PowerSt) : (s.updPower f).net = s.net := rfl
@[simp] theorem updPower_ouLast (f : PowerSt → PowerSt) : (s.updPower f).ouLast = s.ouLast := rfl
@[simp] theorem updPower_free (f : PowerSt → PowerSt) : (s.updPower f).free = s.free := rfl
@[simp] theorem updPower_pending (f : PowerSt → PowerSt) : (s.updPower f).pending = s.pending := rfl

/-! ### `updTime` changes `time` alone -/

@[simp] theorem updTime_power (f : TimeSt → TimeSt) : (s.updTime f).power = s.power := rfl
@[simp] theorem updTime_regs (f : TimeSt → TimeSt) : (s.updTime f).regs = s.regs := rfl
@[simp] theorem updTime_fnRegs (f : TimeSt → TimeSt) : (s.updTime f).fnRegs = s.fnRegs := rfl
@[simp] theorem updTime_pbRegs (f : TimeSt → TimeSt) : (s.updTime f).pbRegs = s.pbRegs := rfl
@[simp] theorem updTime_cfg (f : TimeSt → TimeSt) : (s.updTime f).cfg = s.cfg := rfl
@[simp] theorem updTime_pend (f : TimeSt → TimeSt) : (s.updTime f).pend = s.pend := rfl
@[simp] theorem updTime_cus (f : TimeSt → TimeSt) : (s.updTime f).cus = s.cus := rfl
@[simp] theorem updTime_mus (f : TimeSt → TimeSt) : (s.updTime f).mus = s.mus := rfl
@[simp] theorem updTime_fab (f : TimeSt → TimeSt) : (s.updTime f).fab = s.fab := rfl
@[simp] theorem updTime_flits (f : TimeSt → TimeSt) : (s.updTime f).flits = s.flits := rfl
@[simp] theorem updTime_wires (f : TimeSt → TimeSt) : (s.updTime f).wires = s.wires := rfl
@[simp] theorem updTime_slices (f : TimeSt → TimeSt) : (s.updTime f).slices = s.slices := rfl
@[simp] theorem updTime_rgns (f : TimeSt → TimeSt) : (s.updTime f).rgns = s.rgns := rfl
@[simp] theorem updTime_banks (f : TimeSt → TimeSt) : (s.updTime f).banks = s.banks := rfl
@[simp] theorem updTime_host (f : TimeSt → TimeSt) : (s.updTime f).host = s.host := rfl
@[simp] theorem updTime_feed (f : TimeSt → TimeSt) : (s.updTime f).feed = s.feed := rfl
@[simp] theorem updTime_mem (f : TimeSt → TimeSt) : (s.updTime f).mem = s.mem := rfl
@[simp] theorem updTime_passes (f : TimeSt → TimeSt) : (s.updTime f).passes = s.passes := rfl
@[simp] theorem updTime_links (f : TimeSt → TimeSt) : (s.updTime f).links = s.links := rfl
@[simp] theorem updTime_pairs (f : TimeSt → TimeSt) : (s.updTime f).pairs = s.pairs := rfl
@[simp] theorem updTime_groups (f : TimeSt → TimeSt) : (s.updTime f).groups = s.groups := rfl
@[simp] theorem updTime_traces (f : TimeSt → TimeSt) : (s.updTime f).traces = s.traces := rfl
@[simp] theorem updTime_log (f : TimeSt → TimeSt) : (s.updTime f).log = s.log := rfl
@[simp] theorem updTime_wf (f : TimeSt → TimeSt) : (s.updTime f).wf = s.wf := rfl
@[simp] theorem updTime_wmDigest (f : TimeSt → TimeSt) : (s.updTime f).wmDigest = s.wmDigest := rfl
@[simp] theorem updTime_digestBad (f : TimeSt → TimeSt) : (s.updTime f).digestBad = s.digestBad := rfl
@[simp] theorem updTime_net (f : TimeSt → TimeSt) : (s.updTime f).net = s.net := rfl
@[simp] theorem updTime_ouLast (f : TimeSt → TimeSt) : (s.updTime f).ouLast = s.ouLast := rfl
@[simp] theorem updTime_free (f : TimeSt → TimeSt) : (s.updTime f).free = s.free := rfl
@[simp] theorem updTime_pending (f : TimeSt → TimeSt) : (s.updTime f).pending = s.pending := rfl

/-! ### `setReg` changes `regs` alone -/

@[simp] theorem setReg_power (o : Nat) (v : W64) : (s.setReg o v).power = s.power := rfl
@[simp] theorem setReg_time (o : Nat) (v : W64) : (s.setReg o v).time = s.time := rfl
@[simp] theorem setReg_fnRegs (o : Nat) (v : W64) : (s.setReg o v).fnRegs = s.fnRegs := rfl
@[simp] theorem setReg_pbRegs (o : Nat) (v : W64) : (s.setReg o v).pbRegs = s.pbRegs := rfl
@[simp] theorem setReg_cfg (o : Nat) (v : W64) : (s.setReg o v).cfg = s.cfg := rfl
@[simp] theorem setReg_pend (o : Nat) (v : W64) : (s.setReg o v).pend = s.pend := rfl
@[simp] theorem setReg_cus (o : Nat) (v : W64) : (s.setReg o v).cus = s.cus := rfl
@[simp] theorem setReg_mus (o : Nat) (v : W64) : (s.setReg o v).mus = s.mus := rfl
@[simp] theorem setReg_fab (o : Nat) (v : W64) : (s.setReg o v).fab = s.fab := rfl
@[simp] theorem setReg_flits (o : Nat) (v : W64) : (s.setReg o v).flits = s.flits := rfl
@[simp] theorem setReg_wires (o : Nat) (v : W64) : (s.setReg o v).wires = s.wires := rfl
@[simp] theorem setReg_slices (o : Nat) (v : W64) : (s.setReg o v).slices = s.slices := rfl
@[simp] theorem setReg_rgns (o : Nat) (v : W64) : (s.setReg o v).rgns = s.rgns := rfl
@[simp] theorem setReg_banks (o : Nat) (v : W64) : (s.setReg o v).banks = s.banks := rfl
@[simp] theorem setReg_host (o : Nat) (v : W64) : (s.setReg o v).host = s.host := rfl
@[simp] theorem setReg_feed (o : Nat) (v : W64) : (s.setReg o v).feed = s.feed := rfl
@[simp] theorem setReg_mem (o : Nat) (v : W64) : (s.setReg o v).mem = s.mem := rfl
@[simp] theorem setReg_passes (o : Nat) (v : W64) : (s.setReg o v).passes = s.passes := rfl
@[simp] theorem setReg_links (o : Nat) (v : W64) : (s.setReg o v).links = s.links := rfl
@[simp] theorem setReg_pairs (o : Nat) (v : W64) : (s.setReg o v).pairs = s.pairs := rfl
@[simp] theorem setReg_groups (o : Nat) (v : W64) : (s.setReg o v).groups = s.groups := rfl
@[simp] theorem setReg_traces (o : Nat) (v : W64) : (s.setReg o v).traces = s.traces := rfl
@[simp] theorem setReg_log (o : Nat) (v : W64) : (s.setReg o v).log = s.log := rfl
@[simp] theorem setReg_wf (o : Nat) (v : W64) : (s.setReg o v).wf = s.wf := rfl
@[simp] theorem setReg_wmDigest (o : Nat) (v : W64) : (s.setReg o v).wmDigest = s.wmDigest := rfl
@[simp] theorem setReg_digestBad (o : Nat) (v : W64) : (s.setReg o v).digestBad = s.digestBad := rfl
@[simp] theorem setReg_net (o : Nat) (v : W64) : (s.setReg o v).net = s.net := rfl
@[simp] theorem setReg_ouLast (o : Nat) (v : W64) : (s.setReg o v).ouLast = s.ouLast := rfl
@[simp] theorem setReg_free (o : Nat) (v : W64) : (s.setReg o v).free = s.free := rfl
@[simp] theorem setReg_pending (o : Nat) (v : W64) : (s.setReg o v).pending = s.pending := rfl

/-! ### `setFnReg` changes `fnRegs` alone -/

@[simp] theorem setFnReg_power (fn o : Nat) (v : W64) : (s.setFnReg fn o v).power = s.power := rfl
@[simp] theorem setFnReg_time (fn o : Nat) (v : W64) : (s.setFnReg fn o v).time = s.time := rfl
@[simp] theorem setFnReg_regs (fn o : Nat) (v : W64) : (s.setFnReg fn o v).regs = s.regs := rfl
@[simp] theorem setFnReg_pbRegs (fn o : Nat) (v : W64) : (s.setFnReg fn o v).pbRegs = s.pbRegs := rfl
@[simp] theorem setFnReg_cfg (fn o : Nat) (v : W64) : (s.setFnReg fn o v).cfg = s.cfg := rfl
@[simp] theorem setFnReg_pend (fn o : Nat) (v : W64) : (s.setFnReg fn o v).pend = s.pend := rfl
@[simp] theorem setFnReg_cus (fn o : Nat) (v : W64) : (s.setFnReg fn o v).cus = s.cus := rfl
@[simp] theorem setFnReg_mus (fn o : Nat) (v : W64) : (s.setFnReg fn o v).mus = s.mus := rfl
@[simp] theorem setFnReg_fab (fn o : Nat) (v : W64) : (s.setFnReg fn o v).fab = s.fab := rfl
@[simp] theorem setFnReg_flits (fn o : Nat) (v : W64) : (s.setFnReg fn o v).flits = s.flits := rfl
@[simp] theorem setFnReg_wires (fn o : Nat) (v : W64) : (s.setFnReg fn o v).wires = s.wires := rfl
@[simp] theorem setFnReg_slices (fn o : Nat) (v : W64) : (s.setFnReg fn o v).slices = s.slices := rfl
@[simp] theorem setFnReg_rgns (fn o : Nat) (v : W64) : (s.setFnReg fn o v).rgns = s.rgns := rfl
@[simp] theorem setFnReg_banks (fn o : Nat) (v : W64) : (s.setFnReg fn o v).banks = s.banks := rfl
@[simp] theorem setFnReg_host (fn o : Nat) (v : W64) : (s.setFnReg fn o v).host = s.host := rfl
@[simp] theorem setFnReg_feed (fn o : Nat) (v : W64) : (s.setFnReg fn o v).feed = s.feed := rfl
@[simp] theorem setFnReg_mem (fn o : Nat) (v : W64) : (s.setFnReg fn o v).mem = s.mem := rfl
@[simp] theorem setFnReg_passes (fn o : Nat) (v : W64) : (s.setFnReg fn o v).passes = s.passes := rfl
@[simp] theorem setFnReg_links (fn o : Nat) (v : W64) : (s.setFnReg fn o v).links = s.links := rfl
@[simp] theorem setFnReg_pairs (fn o : Nat) (v : W64) : (s.setFnReg fn o v).pairs = s.pairs := rfl
@[simp] theorem setFnReg_groups (fn o : Nat) (v : W64) : (s.setFnReg fn o v).groups = s.groups := rfl
@[simp] theorem setFnReg_traces (fn o : Nat) (v : W64) : (s.setFnReg fn o v).traces = s.traces := rfl
@[simp] theorem setFnReg_log (fn o : Nat) (v : W64) : (s.setFnReg fn o v).log = s.log := rfl
@[simp] theorem setFnReg_wf (fn o : Nat) (v : W64) : (s.setFnReg fn o v).wf = s.wf := rfl
@[simp] theorem setFnReg_wmDigest (fn o : Nat) (v : W64) : (s.setFnReg fn o v).wmDigest = s.wmDigest := rfl
@[simp] theorem setFnReg_digestBad (fn o : Nat) (v : W64) : (s.setFnReg fn o v).digestBad = s.digestBad := rfl
@[simp] theorem setFnReg_net (fn o : Nat) (v : W64) : (s.setFnReg fn o v).net = s.net := rfl
@[simp] theorem setFnReg_ouLast (fn o : Nat) (v : W64) : (s.setFnReg fn o v).ouLast = s.ouLast := rfl
@[simp] theorem setFnReg_free (fn o : Nat) (v : W64) : (s.setFnReg fn o v).free = s.free := rfl
@[simp] theorem setFnReg_pending (fn o : Nat) (v : W64) : (s.setFnReg fn o v).pending = s.pending := rfl

/-! ### `setPbReg` changes `pbRegs` alone -/

@[simp] theorem setPbReg_power (o : Nat) (v : W64) : (s.setPbReg o v).power = s.power := rfl
@[simp] theorem setPbReg_time (o : Nat) (v : W64) : (s.setPbReg o v).time = s.time := rfl
@[simp] theorem setPbReg_regs (o : Nat) (v : W64) : (s.setPbReg o v).regs = s.regs := rfl
@[simp] theorem setPbReg_fnRegs (o : Nat) (v : W64) : (s.setPbReg o v).fnRegs = s.fnRegs := rfl
@[simp] theorem setPbReg_cfg (o : Nat) (v : W64) : (s.setPbReg o v).cfg = s.cfg := rfl
@[simp] theorem setPbReg_pend (o : Nat) (v : W64) : (s.setPbReg o v).pend = s.pend := rfl
@[simp] theorem setPbReg_cus (o : Nat) (v : W64) : (s.setPbReg o v).cus = s.cus := rfl
@[simp] theorem setPbReg_mus (o : Nat) (v : W64) : (s.setPbReg o v).mus = s.mus := rfl
@[simp] theorem setPbReg_fab (o : Nat) (v : W64) : (s.setPbReg o v).fab = s.fab := rfl
@[simp] theorem setPbReg_flits (o : Nat) (v : W64) : (s.setPbReg o v).flits = s.flits := rfl
@[simp] theorem setPbReg_wires (o : Nat) (v : W64) : (s.setPbReg o v).wires = s.wires := rfl
@[simp] theorem setPbReg_slices (o : Nat) (v : W64) : (s.setPbReg o v).slices = s.slices := rfl
@[simp] theorem setPbReg_rgns (o : Nat) (v : W64) : (s.setPbReg o v).rgns = s.rgns := rfl
@[simp] theorem setPbReg_banks (o : Nat) (v : W64) : (s.setPbReg o v).banks = s.banks := rfl
@[simp] theorem setPbReg_host (o : Nat) (v : W64) : (s.setPbReg o v).host = s.host := rfl
@[simp] theorem setPbReg_feed (o : Nat) (v : W64) : (s.setPbReg o v).feed = s.feed := rfl
@[simp] theorem setPbReg_mem (o : Nat) (v : W64) : (s.setPbReg o v).mem = s.mem := rfl
@[simp] theorem setPbReg_passes (o : Nat) (v : W64) : (s.setPbReg o v).passes = s.passes := rfl
@[simp] theorem setPbReg_links (o : Nat) (v : W64) : (s.setPbReg o v).links = s.links := rfl
@[simp] theorem setPbReg_pairs (o : Nat) (v : W64) : (s.setPbReg o v).pairs = s.pairs := rfl
@[simp] theorem setPbReg_groups (o : Nat) (v : W64) : (s.setPbReg o v).groups = s.groups := rfl
@[simp] theorem setPbReg_traces (o : Nat) (v : W64) : (s.setPbReg o v).traces = s.traces := rfl
@[simp] theorem setPbReg_log (o : Nat) (v : W64) : (s.setPbReg o v).log = s.log := rfl
@[simp] theorem setPbReg_wf (o : Nat) (v : W64) : (s.setPbReg o v).wf = s.wf := rfl
@[simp] theorem setPbReg_wmDigest (o : Nat) (v : W64) : (s.setPbReg o v).wmDigest = s.wmDigest := rfl
@[simp] theorem setPbReg_digestBad (o : Nat) (v : W64) : (s.setPbReg o v).digestBad = s.digestBad := rfl
@[simp] theorem setPbReg_net (o : Nat) (v : W64) : (s.setPbReg o v).net = s.net := rfl
@[simp] theorem setPbReg_ouLast (o : Nat) (v : W64) : (s.setPbReg o v).ouLast = s.ouLast := rfl
@[simp] theorem setPbReg_free (o : Nat) (v : W64) : (s.setPbReg o v).free = s.free := rfl
@[simp] theorem setPbReg_pending (o : Nat) (v : W64) : (s.setPbReg o v).pending = s.pending := rfl

/-! ### `setBankEnt` changes `banks`, and in the memory the entry's check bits alone -/

@[simp] theorem setBankEnt_power (b i : Nat) (w : W64 × W64) : (s.setBankEnt b i w).power = s.power := rfl
@[simp] theorem setBankEnt_time (b i : Nat) (w : W64 × W64) : (s.setBankEnt b i w).time = s.time := rfl
@[simp] theorem setBankEnt_regs (b i : Nat) (w : W64 × W64) : (s.setBankEnt b i w).regs = s.regs := rfl
@[simp] theorem setBankEnt_fnRegs (b i : Nat) (w : W64 × W64) : (s.setBankEnt b i w).fnRegs = s.fnRegs := rfl
@[simp] theorem setBankEnt_pbRegs (b i : Nat) (w : W64 × W64) : (s.setBankEnt b i w).pbRegs = s.pbRegs := rfl
@[simp] theorem setBankEnt_cfg (b i : Nat) (w : W64 × W64) : (s.setBankEnt b i w).cfg = s.cfg := rfl
@[simp] theorem setBankEnt_pend (b i : Nat) (w : W64 × W64) : (s.setBankEnt b i w).pend = s.pend := rfl
@[simp] theorem setBankEnt_cus (b i : Nat) (w : W64 × W64) : (s.setBankEnt b i w).cus = s.cus := rfl
@[simp] theorem setBankEnt_mus (b i : Nat) (w : W64 × W64) : (s.setBankEnt b i w).mus = s.mus := rfl
@[simp] theorem setBankEnt_fab (b i : Nat) (w : W64 × W64) : (s.setBankEnt b i w).fab = s.fab := rfl
@[simp] theorem setBankEnt_flits (b i : Nat) (w : W64 × W64) : (s.setBankEnt b i w).flits = s.flits := rfl
@[simp] theorem setBankEnt_wires (b i : Nat) (w : W64 × W64) : (s.setBankEnt b i w).wires = s.wires := rfl
@[simp] theorem setBankEnt_slices (b i : Nat) (w : W64 × W64) : (s.setBankEnt b i w).slices = s.slices := rfl
@[simp] theorem setBankEnt_rgns (b i : Nat) (w : W64 × W64) : (s.setBankEnt b i w).rgns = s.rgns := rfl
@[simp] theorem setBankEnt_host (b i : Nat) (w : W64 × W64) : (s.setBankEnt b i w).host = s.host := rfl
@[simp] theorem setBankEnt_feed (b i : Nat) (w : W64 × W64) : (s.setBankEnt b i w).feed = s.feed := rfl
@[simp] theorem setBankEnt_mem (b i : Nat) (w : W64 × W64) :
    (s.setBankEnt b i w).mem = { s.mem with ecc := FMap.set 0 s.mem.ecc (4096 * b + i) 0 } := rfl
@[simp] theorem setBankEnt_passes (b i : Nat) (w : W64 × W64) : (s.setBankEnt b i w).passes = s.passes := rfl
@[simp] theorem setBankEnt_links (b i : Nat) (w : W64 × W64) : (s.setBankEnt b i w).links = s.links := rfl
@[simp] theorem setBankEnt_pairs (b i : Nat) (w : W64 × W64) : (s.setBankEnt b i w).pairs = s.pairs := rfl
@[simp] theorem setBankEnt_groups (b i : Nat) (w : W64 × W64) : (s.setBankEnt b i w).groups = s.groups := rfl
@[simp] theorem setBankEnt_traces (b i : Nat) (w : W64 × W64) : (s.setBankEnt b i w).traces = s.traces := rfl
@[simp] theorem setBankEnt_log (b i : Nat) (w : W64 × W64) : (s.setBankEnt b i w).log = s.log := rfl
@[simp] theorem setBankEnt_wf (b i : Nat) (w : W64 × W64) : (s.setBankEnt b i w).wf = s.wf := rfl
@[simp] theorem setBankEnt_wmDigest (b i : Nat) (w : W64 × W64) : (s.setBankEnt b i w).wmDigest = s.wmDigest := rfl
@[simp] theorem setBankEnt_digestBad (b i : Nat) (w : W64 × W64) : (s.setBankEnt b i w).digestBad = s.digestBad := rfl
@[simp] theorem setBankEnt_net (b i : Nat) (w : W64 × W64) : (s.setBankEnt b i w).net = s.net := rfl
@[simp] theorem setBankEnt_ouLast (b i : Nat) (w : W64 × W64) : (s.setBankEnt b i w).ouLast = s.ouLast := rfl
@[simp] theorem setBankEnt_free (b i : Nat) (w : W64 × W64) : (s.setBankEnt b i w).free = s.free := rfl
@[simp] theorem setBankEnt_pending (b i : Nat) (w : W64 × W64) : (s.setBankEnt b i w).pending = s.pending := rfl

/-! ### `updPass` changes `passes` alone -/

@[simp] theorem updPass_power (q p : Nat) (f : Pass → Pass) : (s.updPass q p f).power = s.power := rfl
@[simp] theorem updPass_time (q p : Nat) (f : Pass → Pass) : (s.updPass q p f).time = s.time := rfl
@[simp] theorem updPass_regs (q p : Nat) (f : Pass → Pass) : (s.updPass q p f).regs = s.regs := rfl
@[simp] theorem updPass_fnRegs (q p : Nat) (f : Pass → Pass) : (s.updPass q p f).fnRegs = s.fnRegs := rfl
@[simp] theorem updPass_pbRegs (q p : Nat) (f : Pass → Pass) : (s.updPass q p f).pbRegs = s.pbRegs := rfl
@[simp] theorem updPass_cfg (q p : Nat) (f : Pass → Pass) : (s.updPass q p f).cfg = s.cfg := rfl
@[simp] theorem updPass_pend (q p : Nat) (f : Pass → Pass) : (s.updPass q p f).pend = s.pend := rfl
@[simp] theorem updPass_cus (q p : Nat) (f : Pass → Pass) : (s.updPass q p f).cus = s.cus := rfl
@[simp] theorem updPass_mus (q p : Nat) (f : Pass → Pass) : (s.updPass q p f).mus = s.mus := rfl
@[simp] theorem updPass_fab (q p : Nat) (f : Pass → Pass) : (s.updPass q p f).fab = s.fab := rfl
@[simp] theorem updPass_flits (q p : Nat) (f : Pass → Pass) : (s.updPass q p f).flits = s.flits := rfl
@[simp] theorem updPass_wires (q p : Nat) (f : Pass → Pass) : (s.updPass q p f).wires = s.wires := rfl
@[simp] theorem updPass_slices (q p : Nat) (f : Pass → Pass) : (s.updPass q p f).slices = s.slices := rfl
@[simp] theorem updPass_rgns (q p : Nat) (f : Pass → Pass) : (s.updPass q p f).rgns = s.rgns := rfl
@[simp] theorem updPass_banks (q p : Nat) (f : Pass → Pass) : (s.updPass q p f).banks = s.banks := rfl
@[simp] theorem updPass_host (q p : Nat) (f : Pass → Pass) : (s.updPass q p f).host = s.host := rfl
@[simp] theorem updPass_feed (q p : Nat) (f : Pass → Pass) : (s.updPass q p f).feed = s.feed := rfl
@[simp] theorem updPass_mem (q p : Nat) (f : Pass → Pass) : (s.updPass q p f).mem = s.mem := rfl
@[simp] theorem updPass_links (q p : Nat) (f : Pass → Pass) : (s.updPass q p f).links = s.links := rfl
@[simp] theorem updPass_pairs (q p : Nat) (f : Pass → Pass) : (s.updPass q p f).pairs = s.pairs := rfl
@[simp] theorem updPass_groups (q p : Nat) (f : Pass → Pass) : (s.updPass q p f).groups = s.groups := rfl
@[simp] theorem updPass_traces (q p : Nat) (f : Pass → Pass) : (s.updPass q p f).traces = s.traces := rfl
@[simp] theorem updPass_log (q p : Nat) (f : Pass → Pass) : (s.updPass q p f).log = s.log := rfl
@[simp] theorem updPass_wf (q p : Nat) (f : Pass → Pass) : (s.updPass q p f).wf = s.wf := rfl
@[simp] theorem updPass_wmDigest (q p : Nat) (f : Pass → Pass) : (s.updPass q p f).wmDigest = s.wmDigest := rfl
@[simp] theorem updPass_digestBad (q p : Nat) (f : Pass → Pass) : (s.updPass q p f).digestBad = s.digestBad := rfl
@[simp] theorem updPass_net (q p : Nat) (f : Pass → Pass) : (s.updPass q p f).net = s.net := rfl
@[simp] theorem updPass_ouLast (q p : Nat) (f : Pass → Pass) : (s.updPass q p f).ouLast = s.ouLast := rfl
@[simp] theorem updPass_free (q p : Nat) (f : Pass → Pass) : (s.updPass q p f).free = s.free := rfl
@[simp] theorem updPass_pending (q p : Nat) (f : Pass → Pass) : (s.updPass q p f).pending = s.pending := rfl

/-! ### `updReq` changes `feed` alone -/

@[simp] theorem updReq_power (h : W64) (f : FeedReq → FeedReq) : (s.updReq h f).power = s.power := rfl
@[simp] theorem updReq_time (h : W64) (f : FeedReq → FeedReq) : (s.updReq h f).time = s.time := rfl
@[simp] theorem updReq_regs (h : W64) (f : FeedReq → FeedReq) : (s.updReq h f).regs = s.regs := rfl
@[simp] theorem updReq_fnRegs (h : W64) (f : FeedReq → FeedReq) : (s.updReq h f).fnRegs = s.fnRegs := rfl
@[simp] theorem updReq_pbRegs (h : W64) (f : FeedReq → FeedReq) : (s.updReq h f).pbRegs = s.pbRegs := rfl
@[simp] theorem updReq_cfg (h : W64) (f : FeedReq → FeedReq) : (s.updReq h f).cfg = s.cfg := rfl
@[simp] theorem updReq_pend (h : W64) (f : FeedReq → FeedReq) : (s.updReq h f).pend = s.pend := rfl
@[simp] theorem updReq_cus (h : W64) (f : FeedReq → FeedReq) : (s.updReq h f).cus = s.cus := rfl
@[simp] theorem updReq_mus (h : W64) (f : FeedReq → FeedReq) : (s.updReq h f).mus = s.mus := rfl
@[simp] theorem updReq_fab (h : W64) (f : FeedReq → FeedReq) : (s.updReq h f).fab = s.fab := rfl
@[simp] theorem updReq_flits (h : W64) (f : FeedReq → FeedReq) : (s.updReq h f).flits = s.flits := rfl
@[simp] theorem updReq_wires (h : W64) (f : FeedReq → FeedReq) : (s.updReq h f).wires = s.wires := rfl
@[simp] theorem updReq_slices (h : W64) (f : FeedReq → FeedReq) : (s.updReq h f).slices = s.slices := rfl
@[simp] theorem updReq_rgns (h : W64) (f : FeedReq → FeedReq) : (s.updReq h f).rgns = s.rgns := rfl
@[simp] theorem updReq_banks (h : W64) (f : FeedReq → FeedReq) : (s.updReq h f).banks = s.banks := rfl
@[simp] theorem updReq_host (h : W64) (f : FeedReq → FeedReq) : (s.updReq h f).host = s.host := rfl
@[simp] theorem updReq_mem (h : W64) (f : FeedReq → FeedReq) : (s.updReq h f).mem = s.mem := rfl
@[simp] theorem updReq_passes (h : W64) (f : FeedReq → FeedReq) : (s.updReq h f).passes = s.passes := rfl
@[simp] theorem updReq_links (h : W64) (f : FeedReq → FeedReq) : (s.updReq h f).links = s.links := rfl
@[simp] theorem updReq_pairs (h : W64) (f : FeedReq → FeedReq) : (s.updReq h f).pairs = s.pairs := rfl
@[simp] theorem updReq_groups (h : W64) (f : FeedReq → FeedReq) : (s.updReq h f).groups = s.groups := rfl
@[simp] theorem updReq_traces (h : W64) (f : FeedReq → FeedReq) : (s.updReq h f).traces = s.traces := rfl
@[simp] theorem updReq_log (h : W64) (f : FeedReq → FeedReq) : (s.updReq h f).log = s.log := rfl
@[simp] theorem updReq_wf (h : W64) (f : FeedReq → FeedReq) : (s.updReq h f).wf = s.wf := rfl
@[simp] theorem updReq_wmDigest (h : W64) (f : FeedReq → FeedReq) : (s.updReq h f).wmDigest = s.wmDigest := rfl
@[simp] theorem updReq_digestBad (h : W64) (f : FeedReq → FeedReq) : (s.updReq h f).digestBad = s.digestBad := rfl
@[simp] theorem updReq_net (h : W64) (f : FeedReq → FeedReq) : (s.updReq h f).net = s.net := rfl
@[simp] theorem updReq_ouLast (h : W64) (f : FeedReq → FeedReq) : (s.updReq h f).ouLast = s.ouLast := rfl
@[simp] theorem updReq_free (h : W64) (f : FeedReq → FeedReq) : (s.updReq h f).free = s.free := rfl
@[simp] theorem updReq_pending (h : W64) (f : FeedReq → FeedReq) : (s.updReq h f).pending = s.pending := rfl

/-! ### Derived updates -/

theorem updCu_eq (u : Nat) (f : Cu → Cu) : s.updCu u f = s.setCu u (f (s.cu u)) := rfl
theorem updCtx_eq (u k : Nat) (f : Ctx → Ctx) : s.updCtx u k f = s.setCu u ((s.cu u).setCtx k (f ((s.cu u).ctxAt k))) := rfl
theorem updMu_eq (m : Nat) (f : Mu → Mu) : s.updMu m f = s.setMu m (f (s.mu m)) := rfl
theorem updEng_eq (m e : Nat) (f : Eng → Eng) : s.updEng m e f = s.setMu m ((s.mu m).setEng e (f ((s.mu m).engAt e))) := rfl
theorem setDie_eq (d : Nat) (p : DiePhase) :
    s.setDie d p = s.updPower fun w => { w with dies := FMap.set DiePhase.powered w.dies d p } := rfl
theorem updCmd_eq (h : W64) (f : Cmd → Cmd) :
    s.updCmd h f = s.updHost fun x => { x with cmds := x.cmds.map fun c => if c.handle == h then f c else c } := rfl
theorem setRegBits_eq (o hi lo v : Nat) :
    s.setRegBits o hi lo v = s.setReg o (mergeBits (s.reg o) (BitVec.ofNat 64 (v * 2 ^ lo)) (maskBits hi lo)) := rfl
theorem setRegBit_eq (o i : Nat) :
    s.setRegBit o i = s.setReg o (mergeBits (s.reg o) (BitVec.ofNat 64 (1 * 2 ^ i)) (maskBits i i)) := rfl
theorem setFnBit_eq (fn o i : Nat) (b : Bool) :
    s.setFnBit fn o i b = s.setFnReg fn o (mergeBits (s.fnReg fn o) (if b then BitVec.ofNat 64 (2 ^ i) else 0) (maskBits i i)) := rfl
theorem addCtr_eq (r w p n : Nat) : s.addCtr r w p n = s.updRgn r fun g => { g with ctr := bump g.ctr (ctrKey w p) n } := rfl

/-! ### Reads after writes -/

theorem cu_setCu (u v : Nat) (c : Cu) : (s.setCu u c).cu v = if v = u then c else s.cu v := get_set _ _ _ _ _
@[simp] theorem cu_setCu_same (u : Nat) (c : Cu) : (s.setCu u c).cu u = c := by simp [cu_setCu]
theorem mu_setMu (m n : Nat) (x : Mu) : (s.setMu m x).mu n = if n = m then x else s.mu n := get_set _ _ _ _ _
@[simp] theorem mu_setMu_same (m : Nat) (x : Mu) : (s.setMu m x).mu m = x := by simp [mu_setMu]
theorem ctxAt_setCtx (c : Cu) (k j : Nat) (x : Ctx) : (c.setCtx k x).ctxAt j = if j = k then x else c.ctxAt j := get_set _ _ _ _ _
@[simp] theorem ctxAt_setCtx_same (c : Cu) (k : Nat) (x : Ctx) : (c.setCtx k x).ctxAt k = x := by simp [ctxAt_setCtx]
theorem engAt_setEng (x : Mu) (e j : Nat) (g : Eng) : (x.setEng e g).engAt j = if j = e then g else x.engAt j := get_set _ _ _ _ _
@[simp] theorem engAt_setEng_same (x : Mu) (e : Nat) (g : Eng) : (x.setEng e g).engAt e = g := by simp [engAt_setEng]
theorem fabric_updFab (u v : Nat) (f : Fabric → Fabric) :
    (s.updFab u f).fabric v = if v = u then f (s.fabric u) else s.fabric v := get_set _ _ _ _ _
theorem slice_updSlice (i j : Nat) (f : Slice → Slice) :
    (s.updSlice i f).slice j = if j = i then f (s.slice i) else s.slice j := get_set _ _ _ _ _
theorem rgn_updRgn (r q : Nat) (f : Region → Region) :
    (s.updRgn r f).rgn q = if q = r then f (s.rgn r) else s.rgn q := get_set _ _ _ _ _
theorem link_updLink (l m : Nat) (f : Link → Link) :
    (s.updLink l f).link m = if m = l then f (s.link l) else s.link m := get_set _ _ _ _ _
theorem pair_updPair (p q : Nat) (f : Pair → Pair) :
    (s.updPair p f).pair q = if q = p then f (s.pair p) else s.pair q := get_set _ _ _ _ _
theorem group_updGroup (g q : Nat) (f : Group → Group) :
    (s.updGroup g f).group q = if q = g then f (s.group g) else s.group q := get_set _ _ _ _ _
theorem die_setDie (d e : Nat) (p : DiePhase) : (s.setDie d p).die e = if e = d then p else s.die e := get_set _ _ _ _ _

theorem reg_setReg (o p : Nat) (v : W64) : (s.setReg o v).reg p = if p = o then v else s.reg p := by
  by_cases h : p = o
  · subst h; simp [State.reg, State.setReg]
  · simp [State.reg, State.setReg, get_set_at, h]
@[simp] theorem reg_setReg_same (o : Nat) (v : W64) : (s.setReg o v).reg o = v := by simp [reg_setReg]
theorem pbReg_setPbReg (o p : Nat) (v : W64) : (s.setPbReg o v).pbReg p = if p = o then v else s.pbReg p := get_set _ _ _ _ _
theorem fnReg_setFnReg_same (fn o : Nat) (v : W64) : (s.setFnReg fn o v).fnReg fn o = v := by
  simp [State.fnReg, State.setFnReg]
theorem fnReg_setFnReg_ne (fn o : Nat) (v : W64) {gn p : Nat} (h : 65536 * gn + p ≠ 65536 * fn + o) :
    (s.setFnReg fn o v).fnReg gn p = s.fnReg gn p := by simp [State.fnReg, State.setFnReg, get_set_at, h]

end Sys2Proof.Laws
end

