-- ==== Sys2Proof/Laws/Issue.lean ====
section
/-! SUPPORT. What the issue of a unit instruction does, once for all of them. -/

namespace Sys2Proof.Laws

open Sys2Proof.Machine

theorem progressAt_rest (s : State) (u : Nat) : s.progressAt u = { s with rgns := (s.progressAt u).rgns } := by
  unfold State.progressAt
  split <;> rfl

theorem progressAt_rgn (s : State) (u r : Nat) :
    (s.progressAt u).rgn r = { s.rgn r with progress := ((s.progressAt u).rgn r).progress } := by
  unfold State.progressAt
  split
  · rename_i q _
    simp only [rgn_updRgn]
    split
    · rename_i h; subst h; rfl
    · rfl
  · rfl

@[simp] theorem progressAt_cus (s : State) (u : Nat) : (s.progressAt u).cus = s.cus := by
  rw [progressAt_rest]

@[simp] theorem progressAt_cu (s : State) (u v : Nat) : (s.progressAt u).cu v = s.cu v := by
  simp [State.cu]

@[simp] theorem setCu_rgn (s : State) (u : Nat) (c : Cu) (r : Nat) : (s.setCu u c).rgn r = s.rgn r := rfl

/-- The context as an instruction that issues finds it. -/
def issued (s : State) (u k : Nat) : Ctx := { s.cx u k with waitTo := none }

/-- An instruction that its context stands at, and that need not wait, issues. -/
theorem issue_go {s : State} {u k : Nat} {z : Zelux} {wait : Cu → Nat → Ctx → Wait} {go : Nat → Cu → Ctx → State → State}
    (h : Issues s u k z) (hw : wait (s.cu u) k (issued s u k) = .go) :
    issue u z wait go s = .next ((go k ((s.cu u).setCtx k (issued s u k)) (issued s u k)
      (s.setCu u ((s.cu u).setCtx k (issued s u k)))).progressAt u) := by
  obtain ⟨h1, h2, h3, h4, h5, h6⟩ := h
  simp only [State.cx] at h4 h5 h6
  simp only [issued, State.cx] at hw ⊢
  simp [issue, State.readInstr, h1, h2, h3, h4, h5, h6, hw]

/-- An instruction that changes its context's registers alone changes nothing else, and its context advances. -/
theorem issueCtx_go {s : State} {u k : Nat} {z : Zelux} {use : Ctx → RegUse} {f : Ctx → Ctx}
    (h : Issues s u k z) (hw : (s.cu u).hazard k (use (issued s u k)) = .go) :
    ∃ t, issueCtx u z use f s = .next t ∧ OnlyCtx s t u k ∧ t.cx u k = (f (issued s u k)).advance := by
  refine ⟨_, issue_go h hw, ⟨⟨?_, ?_, ?_⟩, ?_, ?_⟩, ?_⟩
  · rw [progressAt_rest]; rfl
  · intro v hv
    simp [cu_setCu, hv]
  · intro r
    rw [progressAt_rgn]
    simp
  · simp [Cu.setCtx]
  · intro j hj
    simp [State.cx, ctxAt_setCtx, hj]
  · simp [State.cx]

end Sys2Proof.Laws
end

