-- ==== Sys2Proof/Laws/Memory.lean ====
section
/-! SUPPORT. The operations that write a memory: what they write, and that each of them keeps every memory in its canonical form. -/

namespace Sys2Proof.Laws

open Sys2Proof Sys2Proof.Machine

/-! ### Rows of bytes -/

/-- A fold whose every step keeps a property keeps it. -/
theorem foldl_keeps {α β : Type} (p : β → Prop) (f : β → α → β) (l : List α) (b : β) (h : p b) (hf : ∀ b a, p b → p (f b a)) :
    p (l.foldl f b) := by
  induction l generalizing b with
  | nil => exact h
  | cons a l ih => exact ih _ (hf b a h)

theorem wf_putRow (m : Mem) (k : Nat) (r : Row) (mask : BitVec 16) (h : Mem.wf m = true) : Mem.wf (putRow m k r mask) = true := by
  refine foldl_keeps (fun m => Mem.wf m = true) _ _ m h fun m w h => ?_
  split
  · exact wf_writeNat m _ _ _ h
  · exact h

/-- A row's write leaves every byte outside the row. -/
theorem byte_putRow_outside (m : Mem) (k : Nat) (r : Row) (mask : BitVec 16) (x : Nat) (h : x < k ∨ k + 128 ≤ x) :
    Mem.byte (putRow m k r mask) x = Mem.byte m x := by
  have : ∀ (l : List Nat) (q : Mem), (∀ w ∈ l, w < 16) →
      Mem.byte (l.foldl (fun q w =>
        if mask.getLsbD w then Mem.writeNat q (k + 8 * w) (r.data.extractLsb' (64 * w) 64).toNat 8 else q) q) x = Mem.byte q x := by
    intro l
    induction l with
    | nil => intro q _; rfl
    | cons w l ih =>
      intro q hw
      have hw' := hw w (by simp)
      rw [List.foldl_cons, ih _ fun v hv => hw v (by simp [hv])]
      split
      · rw [byte_writeNat, if_neg (by omega)]
      · rfl
  exact this _ m fun w hw => List.mem_range.mp hw

/-! ### Reading back -/

theorem readNat_lt (m : Mem) (a n : Nat) : Mem.readNat m a n < 256 ^ n := by
  induction n generalizing a with
  | zero => simp [Mem.readNat]
  | succ n ih =>
    have h1 := ih (a + 1)
    have h2 : (Mem.byte m a).toNat < 256 := (Mem.byte m a).isLt
    rw [Mem.readNat, pow_succ]
    omega

/-- Two memories with the same bytes read the same. -/
theorem readNat_congr (m q : Mem) (a n : Nat) (h : ∀ x, a ≤ x → x < a + n → Mem.byte m x = Mem.byte q x) :
    Mem.readNat m a n = Mem.readNat q a n := by
  induction n generalizing a with
  | zero => rfl
  | succ n ih =>
    rw [Mem.readNat, Mem.readNat, h a (by omega) (by omega), ih (a + 1) fun x h1 h2 => h x (by omega) (by omega)]

/-- A number written is read back. -/
theorem readNat_writeNat (m : Mem) (a v n : Nat) : Mem.readNat (Mem.writeNat m a v n) a n = v % 256 ^ n := by
  induction n generalizing m a v with
  | zero => simp [Mem.readNat, Nat.mod_one]
  | succ n ih =>
    rw [Mem.readNat, Mem.writeNat, ih, byte_writeNat, if_neg (by omega), byte_put, if_pos rfl, pow_succ, Nat.mul_comm (256 ^ n) 256,
      Nat.mod_mul, BitVec.toNat_ofNat]

/-- Bytes that a write does not touch are read as before. -/
theorem readNat_writeNat_apart (m : Mem) (a v n b k : Nat) (h : b + k ≤ a ∨ a + n ≤ b) :
    Mem.readNat (Mem.writeNat m a v n) b k = Mem.readNat m b k :=
  readNat_congr _ _ _ _ fun x h1 h2 => by rw [byte_writeNat, if_neg (by omega)]

/-- After the write of a row, each word that the mask names is the row's, and each other word is as before. -/
theorem word_putRow (m : Mem) (k : Nat) (r : Row) (mask : BitVec 16) (w : Nat) (hw : w < 16) :
    Mem.readNat (putRow m k r mask) (k + 8 * w) 8 =
      if mask.getLsbD w then (r.data.extractLsb' (64 * w) 64).toNat else Mem.readNat m (k + 8 * w) 8 := by
  have key : ∀ (l : List Nat) (q : Mem), l.Nodup →
      Mem.readNat (l.foldl (fun q w =>
        if mask.getLsbD w then Mem.writeNat q (k + 8 * w) (r.data.extractLsb' (64 * w) 64).toNat 8 else q) q) (k + 8 * w) 8 =
      if w ∈ l ∧ mask.getLsbD w = true then (r.data.extractLsb' (64 * w) 64).toNat else Mem.readNat q (k + 8 * w) 8 := by
    intro l
    induction l with
    | nil => intro q _; simp
    | cons v l ih =>
      intro q hn
      rw [List.nodup_cons] at hn
      rw [List.foldl_cons, ih _ hn.2]
      by_cases hv : w = v
      · subst hv
        rw [if_neg (by tauto)]
        by_cases hm : mask.getLsbD w = true
        · rw [if_pos hm, if_pos ⟨by simp, hm⟩, readNat_writeNat]
          exact Nat.mod_eq_of_lt (by have := (r.data.extractLsb' (64 * w) 64).isLt; omega)
        · rw [if_neg hm, if_neg (by tauto)]
      · have hr : Mem.readNat (if mask.getLsbD v then Mem.writeNat q (k + 8 * v) (r.data.extractLsb' (64 * v) 64).toNat 8 else q)
            (k + 8 * w) 8 = Mem.readNat q (k + 8 * w) 8 := by
          split
          · exact readNat_writeNat_apart _ _ _ _ _ _ (by omega)
          · rfl
        rw [hr]
        simp [List.mem_cons, hv]
  rw [show putRow m k r mask = (List.range 16).foldl _ m from rfl, key _ m List.nodup_range]
  simp [List.mem_range.mpr hw]

/-! ### The canonical form -/

/-- What the four memories are decides the canonical form. -/
theorem canonical_congr {s t : State} (h : s.Canonical) (hm : t.mem = s.mem) (hh : t.host = s.host) : t.Canonical := by
  unfold State.Canonical at *
  rwa [hm, hh]

theorem reset_canonical : State.reset.Canonical := ⟨rfl, rfl, rfl, rfl⟩

/-! What only counts, logs or changes a slice's lines leaves every memory alone. -/

/-- The host's memory and the block's are the same, but for the copies' heat and places. -/
structure SameMem (s t : State) : Prop where
  dram : t.mem.dram = s.mem.dram
  spad : t.mem.spad = s.mem.spad
  flash : t.mem.flash = s.mem.flash
  host : t.host.mem = s.host.mem

theorem SameMem.refl (s : State) : SameMem s s := ⟨rfl, rfl, rfl, rfl⟩

theorem SameMem.trans {s t v : State} (h : SameMem s t) (k : SameMem t v) : SameMem s v :=
  ⟨k.1.trans h.1, k.2.trans h.2, k.3.trans h.3, k.4.trans h.4⟩

theorem SameMem.canonical {s t : State} (k : SameMem s t) (h : s.Canonical) : t.Canonical := by
  unfold State.Canonical at *
  rwa [k.dram, k.spad, k.flash, k.host]

/-- A fold of steps that leave the memories alone leaves them alone. -/
theorem SameMem.foldl {α : Type} (f : State → α → State) (l : List α) (s : State) (hf : ∀ s a, SameMem s (f s a)) :
    SameMem s (l.foldl f s) := by
  induction l generalizing s with
  | nil => exact .refl s
  | cons a l ih => exact (hf s a).trans (ih _)

theorem countErr_sameMem (s : State) (src k : Nat) : SameMem s (s.countErr src k) := by
  unfold State.countErr
  split <;> exact ⟨rfl, rfl, rfl, rfl⟩

theorem countT_sameMem (s : State) (r w n : Nat) : SameMem s (s.countT r w n) := by
  unfold State.countT
  split <;> exact ⟨rfl, rfl, rfl, rfl⟩

theorem countHs_sameMem (s : State) (a w n : Nat) : SameMem s (s.countHs a w n) := by
  unfold State.countHs
  split <;> exact ⟨rfl, rfl, rfl, rfl⟩

theorem logRec_sameMem (s : State) (src kind synd whr : Nat) (own : Option (Nat × Nat)) : SameMem s (s.logRec src kind synd whr own) := by
  unfold State.logRec
  dsimp only
  split <;> exact ⟨rfl, rfl, rfl, rfl⟩

theorem countWord_sameMem (s : State) (src u : Nat) (poi : Bool) (whr : Nat) (own : Option (Nat × Nat)) :
    SameMem s (s.countWord src u poi whr own) := by
  have hc : ∀ (t : State) (p : Nat), SameMem t (match own with | some (_, r) => t.addCtr r 27 p 1 | none => t) := by
    intro t p
    split <;> exact ⟨rfl, rfl, rfl, rfl⟩
  unfold State.countWord
  dsimp only
  split
  · exact (countErr_sameMem _ _ _).trans (hc _ _)
  split
  · exact (countErr_sameMem _ _ _).trans (hc _ _)
  split
  · exact ((countErr_sameMem _ _ _).trans (logRec_sameMem _ _ _ _ _ _)).trans (hc _ _)
  split
  · exact (countErr_sameMem _ _ _).trans (hc _ _)
  · exact .refl s

theorem readDram_sameMem (s : State) (who l : Nat) : SameMem s (s.readDram who l) :=
  ((SameMem.foldl _ _ _ fun _ _ => countWord_sameMem _ _ _ _ _ _).trans (countHs_sameMem _ _ _ _)).trans (countT_sameMem _ _ _ _)

theorem countWrite_sameMem (s : State) (who i : Nat) (part : Option Nat) (l : Nat) : SameMem s (s.countWrite who i part l) :=
  countT_sameMem _ _ _ _

theorem lookWay_sameMem (s : State) (i set w : Nat) : SameMem s (s.lookWay i set w) := by
  have hc : ∀ (t : State) (src o : Nat), SameMem t (if o = 0 then t else t.countErr src (o - 1)) := by
    intro t src o
    split
    · exact .refl t
    · exact countErr_sameMem _ _ _
  have hp : ∀ (t : State) (g : Slice → Slice), SameMem t (t.updSlice i g) := fun t g => ⟨rfl, rfl, rfl, rfl⟩
  unfold State.lookWay
  dsimp only
  split
  · exact .refl s
  split
  · exact (hc _ _ _).trans (hp _ _)
  split
  · exact ((hc _ _ _).trans (hc _ _ _)).trans (hp _ _)
  · exact (((hc _ _ _).trans (hc _ _ _)).trans (hp _ _)).trans ((logRec_sameMem _ _ _ _ _ _).trans (hp _ _))

theorem lookTags_sameMem (s : State) (i set : Nat) : SameMem s (s.lookTags i set) :=
  SameMem.foldl _ _ _ fun _ _ => lookWay_sameMem _ _ _ _

/-! What writes one keeps its form. -/

theorem writeBack_canonical (s : State) (who a : Nat) (r : Row) (mask : BitVec 16) (h : s.Canonical) : (s.writeBack who a r mask).Canonical :=
  ((countHs_sameMem _ _ _ _).trans (countT_sameMem _ _ _ _)).canonical
    (s := s.updMem fun m => m.putDramRow a r mask) ⟨wf_putRow _ _ _ _ h.1, h.2⟩

theorem putSpadRow_canonical (s : State) (m o : Nat) (r : Row) (mask : BitVec 16) (h : s.Canonical) : (s.putSpadRow m o r mask).Canonical :=
  ⟨h.1, wf_putRow _ _ _ _ h.2.1, h.2.2⟩

theorem updSlice_canonical (s : State) (i : Nat) (f : Slice → Slice) (h : s.Canonical) : (s.updSlice i f).Canonical := h

theorem cleanOthers_canonical (s : State) (who i : Nat) (part : Option Nat) (l : Nat) (h : s.Canonical) :
    (s.cleanOthers who i part l).Canonical := by
  unfold State.cleanOthers
  refine updSlice_canonical _ _ _ (foldl_keeps State.Canonical _ _ s h fun s x h => ?_)
  split
  · exact writeBack_canonical _ _ _ _ _ h
  · exact h

theorem dropOthers_canonical (s : State) (who i : Nat) (part : Option Nat) (l : Nat) (h : s.Canonical) :
    (s.dropOthers who i part l).Canonical :=
  updSlice_canonical _ _ _ (cleanOthers_canonical _ _ _ _ _ h)

theorem allocLine_canonical (s : State) (who i : Nat) (part : Option Nat) (a : Nat) (dirty : Bool) (row : Row) (h : s.Canonical) :
    (s.allocLine who i part a dirty row).Canonical := by
  unfold State.allocLine
  dsimp only
  split
  · exact updSlice_canonical _ _ _ h
  split
  · split
    · exact writeBack_canonical _ _ _ _ _ h
    · exact h
  · refine updSlice_canonical _ _ _ ?_
    split
    · exact writeBack_canonical _ _ _ _ _ h
    · exact h

theorem writeLine_canonical (s : State) (who i : Nat) (part : Option Nat) (alloc : Bool) (l : Nat) (r : Row) (mask : BitVec 16)
    (h : s.Canonical) : (s.writeLine who i part alloc l r mask).Canonical := by
  have hd := dropOthers_canonical _ who i part l ((lookTags_sameMem s i (setOf l)).canonical h)
  unfold State.writeLine
  dsimp only
  split
  · exact updSlice_canonical _ _ _ (updSlice_canonical _ _ _ hd)
  split
  · exact writeBack_canonical _ _ _ _ _ hd
  split
  · exact allocLine_canonical _ _ _ _ _ _ _ hd
  · exact allocLine_canonical _ _ _ _ _ _ _ hd

theorem putLineFor_canonical (s : State) (who a : Nat) (r : Row) (mask : BitVec 16) (h : s.Canonical) :
    (s.putLineFor who a r mask).Canonical := by
  unfold State.putLineFor
  refine writeLine_canonical _ _ _ _ _ _ _ _ ?_
  generalize hq : s.countWrite who (s.homeSlice (lineOf a)) none (lineOf a) = q
  have hc : q.Canonical := hq ▸ (countWrite_sameMem _ _ _ _ _).canonical h
  split
  · exact hc
  · exact (readDram_sameMem _ _ _).canonical hc

theorem putLine_canonical (s : State) (a : Nat) (r : Row) (mask : BitVec 16) (h : s.Canonical) : (s.putLine a r mask).Canonical :=
  putLineFor_canonical _ _ _ _ _ h

theorem putThrough_canonical (s : State) (r a : Nat) (row : Row) (mask : BitVec 16) (h : s.Canonical) :
    (s.putThrough r a row mask).Canonical := by
  unfold State.putThrough
  refine writeLine_canonical _ _ _ _ _ _ _ _ ?_
  generalize hq : s.countWrite r (s.homeSlice (lineOf a)) (s.partFor r (lineOf a)) (lineOf a) = q
  exact hq ▸ (countWrite_sameMem _ _ _ _ _).canonical h

theorem putDevWord_canonical (s : State) (a : Nat) (v : W64) (p : Bool) (h : s.Canonical) : (s.putDevWord a v p).Canonical := by
  unfold State.putDevWord
  exact putLine_canonical _ _ _ _ h

theorem putWords_canonical (put : State → Nat → W64 → State) (hp : ∀ s a w, s.Canonical → (put s a w).Canonical) (s : State) (a : Nat)
    (l : List W64) (h : s.Canonical) : (putWords put s a l).Canonical := by
  induction l generalizing s a with
  | nil => exact h
  | cons w l ih => exact ih _ _ (hp s a w h)

theorem putDevWords_canonical (s : State) (a : Nat) (l : List W64) (h : s.Canonical) : (s.putDevWords a l).Canonical :=
  putWords_canonical _ (fun s a w h => putDevWord_canonical s a w false h) s a l h

theorem putFnWord_canonical (s : State) (fn a : Nat) (v : W64) (p : Bool) (h : s.Canonical) : (s.putFnWord fn a v p).Canonical := by
  unfold State.putFnWord
  split
  · exact putDevWord_canonical _ _ _ _ h
  · split
    · exact ⟨h.1, h.2.1, h.2.2.1, wf_writeNat _ _ _ _ h.2.2.2⟩
    · exact h

theorem putFnWords_canonical (s : State) (fn a : Nat) (l : List W64) (h : s.Canonical) : (s.putFnWords fn a l).Canonical :=
  putWords_canonical _ (fun s a w h => putFnWord_canonical s fn a w false h) s a l h

theorem hostWrite_canonical (s : State) (a : Nat) (l : List W64) (h : s.Canonical) : (s.hostWrite a l).Canonical := by
  induction l generalizing s a with
  | nil => exact h
  | cons w l ih => exact ih _ _ ⟨h.1, h.2.1, h.2.2.1, wf_writeNat _ _ _ _ h.2.2.2⟩

theorem zeroSpad_canonical (s : State) (p : Nat → Bool) (h : s.Canonical) : (s.zeroSpad p).Canonical :=
  ⟨h.1, wf_filter _ _ _ h.2.1, h.2.2⟩

theorem flushLines_canonical (s : State) (i : Nat) (p : Line → Bool) (h : s.Canonical) : (s.flushLines i p).Canonical := by
  unfold State.flushLines
  refine updSlice_canonical _ _ _ (foldl_keeps State.Canonical _ _ s h fun s l h => ?_)
  split
  · exact writeBack_canonical _ _ _ _ _ h
  · exact h

theorem dropLines_mem (s : State) (a n : Nat) : (s.dropLines a n).mem = s.mem ∧ (s.dropLines a n).host = s.host := by
  constructor <;> rfl

theorem zeroDram_canonical (s : State) (a n : Nat) (h : s.Canonical) : (s.zeroDram a n).Canonical := by
  have hd := canonical_congr h (dropLines_mem s a n).1 (dropLines_mem s a n).2
  exact ⟨wf_clear _ _ _ hd.1, hd.2⟩

/-- The bytes that a FLASH_WRITE or a checkpoint commits keep the flash window's form. -/
theorem flash_write_wf (m : MemSt) (a n : Nat) (l : List Byte) (h : Mem.wf m.flash = true) :
    Mem.wf (Mem.writeBytes (Mem.clear m.flash a n) a l) = true :=
  wf_writeBytes _ _ _ (wf_clear _ _ _ h)

end Sys2Proof.Laws
end

