-- ==== Sys2Proof/Laws/Rows.lean ====
section
/-! SUPPORT. The lanes and marks of a row built from lanes, the registers of a context after one is written, and what the end of an
instruction leaves alone. -/

namespace Sys2Proof.Laws

open Sys2Proof.Machine

@[simp] theorem lanes_length (r : Row) : r.lanes.length = 32 := by simp [Row.lanes]

theorem lanes_getD (r : Row) (j : Nat) (h : j < 32) (d : Ln) : r.lanes.getD j d = (r.lane j, r.mark j) := by
  simp [Row.lanes, List.getD_eq_getElem?_getD, h]

theorem packData_lt (l : List Ln) : packData l < 2 ^ (32 * l.length) := by
  induction l with
  | nil => simp [packData]
  | cons a l ih =>
    have := a.1.isLt
    simp only [packData, List.length_cons, Nat.mul_add, pow_add]
    omega

theorem packData_lane (l : List Ln) (j : Nat) (d : Ln) (h : j < l.length) :
    packData l / 2 ^ (32 * j) % 2 ^ 32 = (l.getD j d).1.toNat := by
  induction l generalizing j with
  | nil => simp at h
  | cons a l ih =>
    have ha := a.1.isLt
    cases j with
    | zero => simp [packData]; omega
    | succ j =>
      have h' : j < l.length := by simpa using h
      rw [List.getD_cons_succ, ← ih j h']
      have : packData (a :: l) / 2 ^ (32 * (j + 1)) = packData l / 2 ^ (32 * j) := by
        rw [Nat.mul_add, Nat.mul_one, Nat.add_comm, pow_add, ← Nat.div_div_eq_div_mul]
        congr 1
        simp only [packData]
        omega
      rw [this]

/-- Lane `j` of a row built from 32 lanes. -/
theorem lane_ofLanes (l : List Ln) (d : Ln) (hl : l.length = 32) (j : Nat) (h : j < 32) :
    (Row.ofLanes l).lane j = (l.getD j d).1 := by
  apply BitVec.eq_of_toNat_eq
  have hb := packData_lt l
  rw [hl] at hb
  rw [← packData_lane l j d (by omega)]
  simp only [Row.ofLanes, Row.lane, BitVec.extractLsb'_toNat, BitVec.toNat_ofNat, Nat.shiftRight_eq_div_pow]
  rw [Nat.mod_eq_of_lt (a := packData l) hb]

theorem packMarks_bit (l : List Ln) (d : Ln) (n i : Nat) (hl : l.length = 2 * n) (h : i < n) :
    (packMarks l).testBit i = ((l.getD (2 * i) d).2 || (l.getD (2 * i + 1) d).2) := by
  induction n generalizing l i with
  | zero => omega
  | succ n ih =>
    match l, hl with
    | a :: b :: l, hl =>
      have hl' : l.length = 2 * n := by simp at hl; omega
      cases i with
      | zero => cases ha : a.2 <;> cases hb : b.2 <;> simp [packMarks, ha, hb, Nat.testBit_zero]
      | succ i =>
        have h2 : 2 * (i + 1) = 2 * i + 1 + 1 := by ring
        rw [h2]
        simp only [List.getD_cons_succ]
        rw [← ih l i hl' (by omega), packMarks, Nat.testBit_succ]
        congr 1
        split <;> omega

theorem packMarks_lt (l : List Ln) (n : Nat) (hl : l.length = 2 * n) : packMarks l < 2 ^ n := by
  induction n generalizing l with
  | zero => match l, hl with | [], _ => simp [packMarks]
  | succ n ih =>
    match l, hl with
    | a :: b :: l, hl =>
      have := ih l (by simp at hl; omega)
      simp only [packMarks, pow_succ]
      split <;> omega

/-- The mark of lane `j`'s word in a row built from 32 lanes: either lane's. -/
theorem mark_ofLanes (l : List Ln) (d : Ln) (hl : l.length = 32) (j : Nat) (h : j < 32) :
    (Row.ofLanes l).mark j = ((l.getD (2 * (j / 2)) d).2 || (l.getD (2 * (j / 2) + 1) d).2) := by
  have hb := packMarks_lt l 16 (by omega)
  rw [← packMarks_bit l d 16 (j / 2) (by omega) (by omega)]
  simp only [Row.ofLanes, Row.mark, BitVec.getLsbD_ofNat]
  simp [show j / 2 < 16 by omega]

/-! ### Registers of a context -/

theorem vReg_setVReg (x : Ctx) (k j : Nat) (r : Row) : (x.setVReg k r).vReg j = if j = k then r else x.vReg j := get_set _ _ _ _ _
theorem tRow_setTRow (x : Ctx) (k i k' i' : Nat) (r : Row) (h : i < 32) (h' : i' < 32) :
    (x.setTRow k i r).tRow k' i' = if k' = k ∧ i' = i then r else x.tRow k' i' := by
  simp only [Ctx.tRow, Ctx.setTRow, get_set]
  by_cases e : 32 * k' + i' = 32 * k + i
  · rw [if_pos e, if_pos (by omega)]
  · rw [if_neg e, if_neg (by omega)]
@[simp] theorem tRow_setVReg (x : Ctx) (k k' i : Nat) (r : Row) : (x.setVReg k r).tRow k' i = x.tRow k' i := rfl
@[simp] theorem vReg_setTRow (x : Ctx) (k i k' : Nat) (r : Row) : (x.setTRow k i r).vReg k' = x.vReg k' := rfl
theorem sReg_setSReg (x : Ctx) (k j : Nat) (v : Scal) : (x.setSReg k v).sReg j = if j = k then v else x.sReg j := get_set _ _ _ _ _
theorem lReg_setLReg (x : Ctx) (k j : Nat) (v : BitVec 16) : (x.setLReg k v).lReg j = if j = k then v else x.lReg j := get_set _ _ _ _ _
theorem pReg_setPReg (x : Ctx) (k j : Nat) (v : Scal) (hk : k ≠ 0) :
    (x.setPReg k v).pReg j = if j = k then v else x.pReg j := by
  by_cases h0 : j = 0
  · subst h0; simp [Ctx.pReg, Ne.symm hk]
  · simp [Ctx.pReg, Ctx.setPReg, hk, h0, get_set]
@[simp] theorem setPReg_zero (x : Ctx) (v : Scal) : x.setPReg 0 v = x := by simp [Ctx.setPReg]

/-- Writing one row of a register leaves every other row of every register alone. -/
theorem regRow_setRegRow (x : Ctx) (c i c' i' : Nat) (r : Row) (h : i < 32) (h' : i' < 32) (hc : c < 16 → i = 0) :
    (x.setRegRow c i r).regRow c' i' = if c' = c ∧ (c < 16 ∨ i' = i) then r else x.regRow c' i' := by
  unfold Ctx.setRegRow Ctx.regRow
  by_cases h1 : c < 16
  · by_cases h2 : c' < 16
    · simp [h1, h2, vReg_setVReg]
    · have : c' ≠ c := by omega
      simp [h1, h2, this]
  · by_cases h2 : c' < 16
    · have : c' ≠ c := by omega
      simp [h1, h2, this]
    · simp only [h1, h2, if_false, tRow_setTRow _ _ _ _ _ _ h h', false_or]
      by_cases e : c' = c
      · subst e; simp
      · have : ¬(c' - 16 = c - 16) := by omega
        simp [e, this]

/-! ### The end of an instruction -/

theorem closeLoops_rest (x : Ctx) (skip : Option Nat) (e : Nat) (l : List (Nat × Nat)) :
    x.closeLoops skip e l = { x with l := (x.closeLoops skip e l).l, pc := (x.closeLoops skip e l).pc } := by
  induction l generalizing x with
  | nil => rfl
  | cons a l ih =>
    obtain ⟨c, first⟩ := a
    unfold Ctx.closeLoops
    split
    · exact ih x
    · split
      · rfl
      · rw [ih]; rfl

/-- The end of an instruction changes PC and the loop counters alone. -/
theorem advance_rest (x : Ctx) : x.advance = { x with l := x.advance.l, pc := x.advance.pc } := closeLoops_rest x _ _ _

theorem closeLoops_congr (x y : Ctx) (skip : Option Nat) (e : Nat) (l : List (Nat × Nat)) (hl : x.l = y.l) :
    (x.closeLoops skip e l).l = (y.closeLoops skip e l).l ∧ (x.closeLoops skip e l).pc = (y.closeLoops skip e l).pc := by
  induction l generalizing x y with
  | nil => exact ⟨hl, rfl⟩
  | cons a l ih =>
    obtain ⟨c, first⟩ := a
    have hr : x.lReg c = y.lReg c := by simp [Ctx.lReg, hl]
    unfold Ctx.closeLoops
    split
    · exact ih x y hl
    · rw [hr]
      split
      · exact ⟨by simp [Ctx.setLReg, hl], rfl⟩
      · exact ih _ _ (by simp [Ctx.setLReg, hl])

/-- Where PC and the loop counters stand after an instruction depends on the program, PC and the counters alone. -/
theorem advance_congr (x y : Ctx) (hi : x.imem = y.imem) (hp : x.pc = y.pc) (hl : x.l = y.l) :
    x.advance.l = y.advance.l ∧ x.advance.pc = y.advance.pc := by
  simp only [Ctx.advance, hi, hp]
  exact closeLoops_congr x y _ _ _ hl

end Sys2Proof.Laws
end

