-- ==== Sys2Proof/Tests/Slice0.lean ====
section
/-! SUPPORT. The model's own tests: ill-formed terms that WellFormed refuses, results worked out from the spec's tables and examples,
and for every statement that has hypotheses a state and operands that meet them. -/

namespace Sys2Proof.Tests

open Sys2Proof Sys2Proof.Machine

/-! One theorem at a time: many kernel evaluations at once would each take a thread's memory. -/

set_option Elab.async false

/-! ### Well-formedness -/

/-- An mma of F32 operands on T0, T1 and T2. -/
def mma0 : MmaF := ⟨2, 1, 0, 0, 31, 31, 31, 0, 0, 0, 0, 0, 0⟩
/-- add V2 ← V0, V1. -/
def vec0 : VecF := ⟨false, 0, 0, 2, 0, 1, 0, 0, 0⟩
/-- T-form add T2 ← T0, T1. -/
def vecT : VecF := ⟨true, 0, 0, 0x12, 0x10, 0x11, 0, 0, 0⟩
/-- cmp P1 ← V0, V1. -/
def pred0 : PredF := ⟨0, 0, 1, 0, 0, 0, 1, 0, 0, 0⟩
/-- A reduction V0 ← T0 by rows. -/
def red0 : RedF := ⟨0, 0, 0, 0x10, 0, 0⟩
/-- A move on T0 with port 0 and m = 1. -/
def move0 : MoveF := ⟨0, 0, 0x10, 1, 0, 0, 0, 0, 0⟩
/-- loop l0 four times to index 3. -/
def loop0 : LoopF := ⟨0, 0, 4, 0, 3⟩
/-- S1 ← S2, S3. -/
def scal0 : ScalF := ⟨1, 2, 3, 0, 0⟩

theorem test_wf_legal :
    [Zelux.mma mma0, .vec .add vec0, .vec .add vecT, .red .sum red0, .move .pop move0, .move .push move0, .pred .eq pred0,
     .setmode 4 4 0x7f, .waitStep 1, .waitSb true false].all Zelux.legal = true := by decide +kernel

theorem test_wf_mma_refused :
    [{ mma0 with afmt := 6 }, { mma0 with bfmt := 7 }, { mma0 with asrc := 1, a := 4 }, { mma0 with c := 1 }, { mma0 with a := 1 },
     { mma0 with a := 2 }, { mma0 with afmt := 1, aconv := 1 }, { mma0 with bfmt := 1, bconv := 1 }, { mma0 with pair := 1 },
     { mma0 with afmt := 5, bfmt := 5, pair := 1, asrc := 1 }].all (fun f => !(Zelux.mma f).legal) = true := by decide +kernel

theorem test_wf_vec_refused :
    [Zelux.vec .fma { vec0 with ty := 1 }, .vec .and vec0, .vec .shl vec0, .vec .add { vec0 with ty := 4 }, .vec .add { vec0 with dst := 0x10 },
     .vec .add { vecT with dst := 0 }, .vec .add { vec0 with sa := 0x10 }, .vec .add { vec0 with sb := 0x24 },
     .vec .add { vecT with sa := 0x25 }, .vec .add { vecT with sb := 0x18 }, .vec .add { vec0 with sc := 1 },
     .vec .fma { vec0 with sc := 0x10 }].all (fun z => !z.legal) = true := by decide +kernel

theorem test_wf_red_pred_refused :
    [Zelux.red .sum { red0 with dst := 0x10 }, .red .sum { red0 with src := 1 }, .red .sum { red0 with ty := 4 },
     .pred .eq { pred0 with sa := 0x10 }, .pred .eq { pred0 with sb := 0x11 }, .pred .eq { pred0 with sa := 0x20 },
     .pred .eq { pred0 with sb := 0x20 }, .pred .eq { pred0 with ty := 4 }, .pred .pand { pred0 with ty := 4 }, .pred .pget { pred0 with pd := 0, sa := 0x24 },
     .pred .pget pred0, .pred .pand { pred0 with pred := 1 },
     .pred .pset { pred0 with pneg := 1 }].all (fun z => !z.legal) = true := by decide +kernel

theorem test_wf_move_refused :
    [Zelux.move .pop { move0 with pred := 1 }, .move .pop { move0 with pmask := 0 }, .move .pop { move0 with reg := 0x17, pmask := 3 },
     .move .pop { move0 with reg := 0, mm1 := 1 }, .move .push { move0 with pmask := 3 }, .move .push { move0 with reg := 0x18 },
     .move .drop { move0 with pmask := 0 }, .move .rowget { move0 with reg := 0 }, .move .rowput { move0 with mm1 := 1 },
     .move .lget move0, .move .lput { move0 with reg := 0 }, .move .rld move0, .move .rst { move0 with reg := 0, mm1 := 1, pmask := 0 },
     .setmode 3 2 0, .setmode 8 8 0, .setmode 0 0 0x80, .waitStep 0, .waitSb false false].all (fun z => !z.legal) = true := by decide +kernel

theorem test_wf_commands_refused :
    [Instr.mma 4096 mma0, .add 1 vec0, .shiftEnd 64, .tokenArrive 0 4 0 ⟨Row.zero, true⟩, .creditReturn 0 0 4, .devToSp 0 0, .listEnd 1 4,
     .missFill 256 0 0, .missFill 0 0 257, .drainDeclare 256 0, .drainDeclare 0 256, .slotWindowClose 0 36, .detectorEdge 0 8 false,
     .ctxStart ⟨256, 0, none, 0, 0⟩, .requestDispatch 65536, .feedFrame 2 [] 0, .commandFetch 4096 0, .fnSqDb 0 16 0, .flr 4096, .passStart 16 0,
     .slowPull 256 0, .sheetFetchDone 257 ⟨0, [], []⟩, .refreshRelocation 2 ⟨0, 0, false⟩, .spPatrol 0, .digestRecompute 65, .diePowerDown 16, .feedSlotWrite 4096 0,
     .hubGuestWrite 0 16 0, .ceGrpWrite 64 0, .glBypClose 6 0, .memTrainGo 0 16, .frameSend 36, .tagTimeout 0 2048, .switchSettled 0 3,
     .readyResend 0 6, .sensorMissing 42, .hwComparatorTrip 25].all (fun i => !i.wf) = true := by decide +kernel

/-! ### The encodings -/

theorem test_decode_reduce : decodeZelux (0b0100#4 ++ 0#6 ++ 0b101#3 ++ 1#1 ++ 0b000011#6 ++ 0b100000#6 ++ 1#1 ++ 0b001#3 ++ 0#34) =
    some (.red .sum ⟨5, 1, 3, 0x20, 1, 1⟩) := by decide +kernel
theorem test_decode_pop : decodeZelux (0b0101#4 ++ 0#6 ++ 0#4 ++ 0b010000#6 ++ 0b0011#4 ++ 0b11111#5 ++ 0#5 ++ 0#5 ++ 0#5 ++ 0#1 ++ 0#19) =
    some (.move .pop ⟨0, 0, 0x10, 3, 31, 0, 0, 0, 0⟩) := by decide +kernel
theorem test_decode_setmode : decodeZelux (0b1000#4 ++ 0#6 ++ 0#4 ++ 0x07#8 ++ 0x05#8 ++ 0x7f#8 ++ 0#26) = some (.setmode 7 5 0x7f) := by
  decide +kernel
theorem test_table_gives_no_bits : decodeTableWord 64 0 = none := rfl

/-! ### Numbers: the spec's own examples -/

/-- The example of R49: a tie to even at an odd kept fraction, and the same value truncated. -/
theorem test_f19_example : (f32ToF19 .rtz 0x3F803000).1 = 0x3F802000 ∧ (f32ToF19 .rne 0x3F803000).1 = 0x3F804000 := by decide +kernel
/-- R46: the largest finite F19 and the bound from which RNE gives infinity. -/
theorem test_f19_top : (f32ToF19 .rtz 0x7F7FFFFF).1 = 0x7F7FE000 ∧ (f32ToF19 .rne 0x7F7FF000).1 = 0x7F800000 := by decide +kernel
/-- R50: the largest finite values, 448, 57,344, 28, 7.5 and 6, as F32 at scale 1. -/
theorem test_block_largest :
    [(1, 0x7E), (2, 0x7B), (3, 0x1F), (4, 0x1F), (5, 0x7)].map (fun p => (blockToF32 p.1 127 p.2).1) =
      [0x43E00000, 0x47600000, 0x41E00000, 0x40F00000, 0x40C00000] := by decide +kernel
/-- R73: the generator's step from a state whose low bit is 1. -/
theorem test_generator : genNext 1 = 0x80200003 ∧ genNext 2 = 1 := by decide +kernel
/-- FIPS 180-4: SHA-256 of the empty message begins e3b0c442. -/
theorem test_sha_empty : leNat ((sha256 ([] : List Byte)).take 4) = 0x42c4b0e3 := by decide +kernel

/-! ### States for the witnesses -/

/-- A context at the start of one instruction. -/
def ctxOf (z : Zelux) : Ctx := { Ctx.empty with st := .active, imem := [encodeZelux z] }
/-- A CU whose context 0 is active. -/
def cuOf (x : Ctx) : Cu := { Cu.empty.setCtx 0 x with active := some 0 }
/-- The machine with one CU. -/
def withCu (c : Cu) : State := State.reset.setCu 0 c
/-- Context 0 of unit 0 stands at `z`. -/
def at0 (z : Zelux) : State := withCu (cuOf (ctxOf z))

theorem test_issues_at0 (z : Zelux) (h : z.legal = true) : Issues (at0 z) 0 0 z :=
  ⟨h, rfl, rfl, by simp [at0, withCu, cuOf, ctxOf, State.cx, State.cu, State.setCu, Cu.ctxAt, Cu.setCtx, FMap.set, FMap.get,
    FMap.ins, Ctx.standsAt, State.reset, Ctx.empty, Cu.empty, count], rfl, rfl⟩
/-- An instruction issues where each of its conditions computes to true. -/
def issuesB (s : State) (u k : Nat) (z : Zelux) : Bool :=
  z.legal && !(s.stoppedAt u) && decide ((s.cu u).active = some k) && (s.cx u k).standsAt z && !((s.cx u k).waits s.time.now) &&
    decide (count (s.cx u k).upset (s.cx u k).pc = 0)
theorem test_issues_of {s : State} {u k : Nat} {z : Zelux} (h : issuesB s u k z = true) : Issues s u k z := by
  simp only [issuesB, Bool.and_eq_true, Bool.not_eq_true', decide_eq_true_eq] at h
  obtain ⟨⟨⟨⟨⟨a, b⟩, c⟩, d⟩, e⟩, f⟩ := h
  exact ⟨a, b, c, d, e, f⟩
/-- Region 0 of function 0: the whole grid. -/
def withRegion (s : State) : State := { s with cfg := { s.cfg with part0 := [(0, 0x2000FF00)] } }
/-- The machine in Ready with device time running. -/
def ready : State := { State.reset with power := { PowerSt.reset with st := .ready }, time := { TimeSt.reset with running := true } }

/-! ### Witnesses: the queue, the encodings and the lanes -/

theorem test_meets_StepTakesFront : ({ State.reset with pending := [.nop 0] } : State).pending = [.nop 0] := rfl
theorem test_meets_IdleStep :
    (ready.pending = [] ∧ ready.awake = true ∧ ready.time.running = true ∧ ready.onStep ((ready.time.now + 8) % 2 ^ 64) = false) ∧
    (let s := { ready with time := { ready.time with now := 120 } }
     s.pending = [] ∧ s.awake = true ∧ s.time.running = true ∧ s.onStep ((s.time.now + 8) % 2 ^ 64) = true) ∧
    State.reset.time.running = false := by decide +kernel
theorem test_meets_EncodeOfDecode : decodeZelux 0x0000000000000000#64 = some .nop ∧ decodeZelux 0x0200000000000000#64 = none := by decide +kernel
theorem test_meets_WordsDecode :
    9 ≤ W64.bits 0x9000000000000000 63 60 ∧ (W64.bits 0x01C0000000000000 63 60 = 0 ∧ 7 ≤ W64.bits 0x01C0000000000000 59 54) ∧
    (W64.bits 0x2180000000000000 63 60 = 2 ∧ W64.bits 0x2180000000000000 59 54 = 6) ∧
    (W64.bits 0x38C0000000000000 63 60 = 3 ∧ 0x23 ≤ W64.bits 0x38C0000000000000 59 54) ∧
    (W64.bits 0x2000000000020000 63 60 = 2 ∧ W64.bits 0x2000000000020000 17 0 ≠ 0) ∧
    (W64.bits 0x1004000000000000 63 60 = 1 ∧ W64.bits 0x1004000000000000 59 50 ≠ 0) ∧
    (W64.bits 0x1000000000004000 63 60 = 1 ∧ W64.bits 0x1000000000004000 14 0 ≠ 0) ∧
    (W64.bits 0x40C0000000000000 63 60 = 4 ∧ 3 ≤ W64.bits 0x40C0000000000000 59 54) ∧
    (W64.bits 0x4000000200000000 63 60 = 4 ∧ W64.bits 0x4000000200000000 33 0 ≠ 0) := by decide +kernel
theorem test_meets_FormatConversions :
    (fmtF16.decode 0x7c01 = .nan ∧ fmtF16.decode 0xfc00 = .inf true ∧ fmtF16.decode 1 = .fin false 1 (-24)) ∧
    ((blockFmt 2).decode 0x7B = .fin false 7 13 ∧ (7 ≠ 0 ∧ (128 : Int) < 13 + 254 - 127 + bitLen 7)) ∧
    ((blockFmt 1).decode 1 = .fin false 1 (-9) ∧ (-9 : Int) + 0 - 127 + bitLen 1 ≤ 128) ∧
    (0xFF7E : W32).toNat / 256 % 256 = 255 := by decide +kernel
theorem test_meets_InstructionsHeld :
    (Zelux.nop.legal = true ∧ (State.reset.cu 0).active = none) ∧
    ((at0 .nop).cu 0).active = some 0 ∧ ((at0 .nop).cx 0 0).standsAt .endp = false ∧
    (let s := withCu (cuOf { ctxOf .nop with waitTo := some 128 })
     s.stoppedAt 0 = false ∧ (s.cu 0).active = some 0 ∧ (s.cx 0 0).standsAt .nop = true ∧ (s.cx 0 0).waits s.time.now = true) ∧
    (let z := Zelux.move .drop { move0 with pmask := 1 }
     let s := withCu (cuOf { ctxOf z with hold := some ⟨[]⟩ })
     z.legal = true ∧ s.stoppedAt 0 = false ∧ (s.cu 0).active = some 0 ∧ (s.cx 0 0).st = .active ∧ (s.cx 0 0).hold.isSome = true ∧
     (s.cx 0 0).imem[(s.cx 0 0).pc]? = some (encodeZelux z) ∧ (s.cu 0).heldEmpty z = true) ∧
    (let s := withCu (cuOf { ctxOf .nop with upset := [(0, 3)] })
     s.stoppedAt 0 = false ∧ (s.cu 0).active = some 0 ∧ (s.cx 0 0).st = .active ∧ (s.cx 0 0).hold = none ∧
     count (s.cx 0 0).upset (s.cx 0 0).pc = 3 ∧ unitDie 0 < 16) := by decide +kernel
theorem test_meets_VectorLanes :
    Issues (at0 (.vec .add vec0)) 0 0 (.vec .add vec0) ∧
    ((at0 (.vec .add vec0)).cu 0).hazard 0 (((at0 (.vec .add vec0)).cx 0 0).vecUse .add vec0) = .go ∧
    Issues (at0 (.vec .add vecT)) 0 0 (.vec .add vecT) ∧
    ((at0 (.vec .add vecT)).cu 0).hazard 0 (((at0 (.vec .add vecT)).cx 0 0).vecUse .add vecT) = .go :=
  ⟨test_issues_at0 _ (by decide +kernel), by decide +kernel, test_issues_at0 _ (by decide +kernel), by decide +kernel⟩
theorem test_meets_LaneResults : f32IsNan canonNan = true ∧ f32IsNan 0 = false ∧ 1 ≤ 3 ∧ 3 ≤ 3 := by decide +kernel
theorem test_meets_CompareBits :
    PredOp.eq.compares = true ∧ Issues (at0 (.pred .eq pred0)) 0 0 (.pred .eq pred0) ∧
    ((at0 (.pred .eq pred0)).cu 0).hazard 0 (((at0 (.pred .eq pred0)).cx 0 0).cmpUse pred0) = .go ∧ pred0.pd ≠ 0 :=
  ⟨rfl, test_issues_at0 _ (by decide +kernel), by decide +kernel, by decide +kernel⟩
theorem test_meets_PredicateOperations :
    PredOp.pand.compares = false ∧ Issues (at0 (.pred .pand pred0)) 0 0 (.pred .pand pred0) ∧
    Issues (at0 (.pred .pget { pred0 with pd := 0 })) 0 0 (.pred .pget { pred0 with pd := 0 }) :=
  ⟨rfl, test_issues_at0 _ (by decide +kernel), test_issues_at0 _ (by decide +kernel)⟩
theorem test_meets_ReductionLanes :
    Issues (at0 (.red .sum red0)) 0 0 (.red .sum red0) ∧
    ((at0 (.red .sum red0)).cu 0).hazard 0 (((at0 (.red .sum red0)).cx 0 0).redUse red0) = .go :=
  ⟨test_issues_at0 _ (by decide +kernel), by decide +kernel⟩
theorem test_meets_ScalarOperations : Issues (at0 (.scal .sadd scal0)) 0 0 (.scal .sadd scal0) := test_issues_at0 _ rfl
/-- loop l1 whose count is S0, closing at its successor. -/
def loopS : LoopF := ⟨1, 1, 0, 0, 1⟩
theorem test_meets_LoopIssues :
    (Issues (at0 (.loop loop0)) 0 0 (.loop loop0) ∧ 0 < ((at0 (.loop loop0)).cx 0 0).loopCount loop0) ∧
    (Issues (at0 (.loop loopS)) 0 0 (.loop loopS) ∧ ((at0 (.loop loopS)).cx 0 0).loopCount loopS = 0 ∧
      (((at0 (.loop loopS)).cx 0 0).sReg loopS.sidx.toNat).poi = false ∧
      loopsAt ((at0 (.loop loopS)).cx 0 0).imem loopS.endpc.toNat = [(loopS.l.toNat, ((at0 (.loop loopS)).cx 0 0).pc + 1)]) ∧
    (let s := withCu (cuOf { ctxOf (.loop loopS) with sr := [(0, ⟨0, true⟩)] })
     Issues s 0 0 (.loop loopS) ∧ loopS.csrc = 1 ∧ ((s.cx 0 0).sReg loopS.sidx.toNat).poi = true) ∧
    (let x := { ctxOf (.loop loopS) with imem := [encodeZelux (.loop loopS), 0], pc := 1, l := [(1, 2)] }
     loopsAt x.imem x.pc = [(1, 1)] ∧ 1 < (x.lReg 1).toNat) ∧
    (let x := { ctxOf (.loop loopS) with imem := [encodeZelux (.loop loopS), 0], pc := 1, l := [(1, 1)] }
     loopsAt x.imem x.pc = [(1, 1)] ∧ (x.lReg 1).toNat ≤ 1) :=
  ⟨⟨test_issues_at0 _ rfl, by decide +kernel⟩, ⟨test_issues_at0 _ rfl, by decide +kernel, by decide +kernel, by decide +kernel⟩,
   ⟨test_issues_of (by decide +kernel), by decide +kernel, by decide +kernel⟩,
   by decide +kernel, by decide +kernel⟩
theorem test_meets_ModeClass :
    Issues (at0 (.setmode 5 5 1)) 0 0 (.setmode 5 5 1) ∧ Issues (at0 (.getstat 3)) 0 0 (.getstat 3) ∧ Issues (at0 .nop) 0 0 .nop ∧
    ((at0 (.getstat 3)).cx 0 0).late = 0 :=
  ⟨test_issues_at0 _ (by decide +kernel), test_issues_at0 _ rfl, test_issues_at0 _ rfl, by decide +kernel⟩
/-- lget or lput of lane 31 of V0 and S2. -/
def lane0 : MoveF := ⟨0, 0, 0, 0, 0, 2, 0, 31, 0⟩
/-- rowget or rowput of row 31 of T0 and V1. -/
def row0 : MoveF := ⟨0, 0, 0x10, 1, 0, 2, 0, 31, 0⟩
/-- The same with the row from S2. -/
def rowS : MoveF := ⟨0, 0, 0x10, 1, 0, 2, 0, 0, 1⟩
theorem test_meets_RowAndLaneMoves :
    (Issues (at0 (.move .lget lane0)) 0 0 (.move .lget lane0) ∧ ((at0 (.move .lget lane0)).cu 0).hazard 0 ⟨[0], []⟩ = .go) ∧
    (Issues (at0 (.move .lput lane0)) 0 0 (.move .lput lane0) ∧ ((at0 (.move .lput lane0)).cu 0).hazard 0 ⟨[], [0]⟩ = .go) ∧
    (Issues (at0 (.move .rowget row0)) 0 0 (.move .rowget row0) ∧ ((at0 (.move .rowget row0)).cu 0).hazardRows 0 ⟨[16], [1]⟩ (· == ((at0 (.move .rowget row0)).cx 0 0).rowIndex row0) = .go ∧
      ((at0 (.move .rowget row0)).cx 0 0).rowIndexPoison row0 = false) ∧
    (Issues (at0 (.move .rowput row0)) 0 0 (.move .rowput row0) ∧ ((at0 (.move .rowput row0)).cu 0).hazard 0 ⟨[1], [16]⟩ = .go ∧
      ((at0 (.move .rowput row0)).cx 0 0).rowIndexPoison row0 = false) ∧
    (let s := withCu (cuOf { ctxOf (.move .rowget rowS) with sr := [(2, ⟨0, true⟩)] })
     Issues s 0 0 (.move .rowget rowS) ∧ (s.cu 0).hazardRows 0 ⟨[16], [1]⟩ (· == (s.cx 0 0).rowIndex rowS) = .go ∧
     (s.cx 0 0).rowIndexPoison rowS = true) ∧
    (let s := withCu (cuOf { ctxOf (.move .rowput rowS) with sr := [(2, ⟨0, true⟩)] })
     Issues s 0 0 (.move .rowput rowS) ∧ (s.cu 0).hazard 0 ⟨[1], [16]⟩ = .go ∧ (s.cx 0 0).rowIndexPoison rowS = true) :=
  ⟨⟨test_issues_at0 _ (by decide +kernel), by decide +kernel⟩, ⟨test_issues_at0 _ (by decide +kernel), by decide +kernel⟩,
   ⟨test_issues_at0 _ (by decide +kernel), by decide +kernel, by decide +kernel⟩,
   ⟨test_issues_at0 _ (by decide +kernel), by decide +kernel, by decide +kernel⟩,
   ⟨test_issues_of (by decide +kernel), by decide +kernel, by decide +kernel⟩,
   test_issues_of (by decide +kernel), by decide +kernel, by decide +kernel⟩
/-- A pop of V0 from port 3. -/
def popV : MoveF := ⟨0, 0, 0, 8, 0, 0, 0, 0, 0⟩
/-- A pop of T0 and T1 from ports 0 and 3, m = 2. -/
def popT : MoveF := ⟨0, 0, 0x10, 9, 1, 0, 0, 0, 0⟩
/-- Two tokens, the second with END. -/
def pairOf : List Token := [⟨Row.zero, false⟩, ⟨Row.zero, true⟩]
theorem test_meets_PopAndDrop :
    (let s := withCu ({ cuOf (ctxOf (.move .pop popV)) with qbuf := [(3, pairOf)] })
     Issues s 0 0 (.move .pop popV) ∧ isVreg popV.reg = true ∧ maskPorts popV.pmask = [3] ∧ (s.cu 0).hazard 0 ⟨[], [0]⟩ = .go ∧
     (s.cu 0).qTokens 3 = ⟨Row.zero, false⟩ :: [⟨Row.zero, true⟩]) ∧
    (let s := withCu ({ cuOf (ctxOf (.move .pop popT)) with qbuf := [(0, pairOf), (3, pairOf ++ [⟨Row.zero, true⟩])] })
     Issues s 0 0 (.move .pop popT) ∧ isTreg popT.reg = true ∧ (s.cu 0).hazard 0 ⟨[], popTargets popT⟩ = .go ∧
     ∀ p ∈ maskPorts popT.pmask, (s.cu 0).qTokens p = pairOf ++ (if p = 3 then [⟨Row.zero, true⟩] else []) ∧
       pairOf.length = popT.mm1.toNat + 1 ∧ ∀ i, i < pairOf.length → (pairOf.getD i ⟨Row.zero, false⟩).fin = decide (i = popT.mm1.toNat)) :=
  ⟨⟨test_issues_of (by decide +kernel), by decide +kernel⟩,
   ⟨test_issues_of (by decide +kernel), by decide +kernel⟩⟩
/-- A push of T0's first row into port 3. -/
def pushT : MoveF := ⟨0, 0, 0x10, 8, 0, 0, 0, 0, 0⟩
theorem test_meets_PushSendsRows :
    Issues (at0 (.move .push pushT)) 0 0 (.move .push pushT) ∧ maskPorts pushT.pmask = [3] ∧
    ((at0 (.move .push pushT)).cu 0).hazardRows 0 ⟨[16], []⟩ (fun _ => false) = .go ∧
    ((at0 (.move .push pushT)).cu 0).hazard 0 ⟨[16], []⟩ = .go ∧ pushT.mm1 = 0 ∧ (((at0 (.move .push pushT)).cu 0).oTokens 3).length < 2 ∧
    ((at0 (.move .push pushT)).cu 0).waitingPush 3 = none ∧
    (FMap.get PortBind.free ((at0 (.move .push pushT)).cu 0).obind 3).wire = none :=
  ⟨test_issues_at0 _ (by decide +kernel), by decide +kernel⟩
/-- An rld of T0 from the MU in S1 at the offset in S2. -/
def rld0 : MoveF := ⟨0, 0, 0x10, 0, 31, 1, 2, 0, 0⟩
theorem test_meets_RemoteAccess :
    (let s := withRegion (withCu (cuOf { ctxOf (.move .rld rld0) with sr := [(1, ⟨4032, false⟩), (2, ⟨0x7F000, false⟩)], rowHi := 4095, rv := true }))
     Issues s 0 0 (.move .rld rld0) ∧ s.fencedRegion 0 = false ∧ (s.cu 0).hazard 0 ⟨[], [16]⟩ = .go ∧ s.remoteCheck 0 (s.cx 0 0) rld0 = none) ∧
    (let s := withRegion (withCu (cuOf { ctxOf (.move .rst rld0) with sr := [(1, ⟨4032, false⟩), (2, ⟨0x7F080, false⟩)], rowHi := 4095, rv := true }))
     Issues s 0 0 (.move .rst rld0) ∧ s.fencedRegion 0 = false ∧ (s.cu 0).hazard 0 ⟨[16], []⟩ = .go ∧
     (s.remoteCheck 0 (s.cx 0 0) rld0).isSome = true) :=
  ⟨⟨test_issues_of (by decide +kernel), by decide +kernel⟩,
   ⟨test_issues_of (by decide +kernel), by decide +kernel⟩⟩
theorem test_meets_SyncClass :
    (Issues (at0 .endp) 0 0 .endp ∧ Issues (at0 (.yld false 0)) 0 0 (.yld false 0)) ∧
    (let s := withCu ((cuOf (ctxOf (.yld true 3))).setCtx 3 { Ctx.empty with st := .done })
     Issues s 0 0 (.yld true 3) ∧ (s.cu 0).pendSw = none ∧ (3#2).toNat ≠ 0 ∧ (s.cx 0 3).st = .done) ∧
    (Issues (at0 (.yld true 3)) 0 0 (.yld true 3) ∧ ((at0 (.yld true 3)).cx 0 3).st = .empty) ∧
    (Issues (at0 (.waitStep 65535)) 0 0 (.waitStep 65535) ∧ Issues (at0 (.waitSb true true)) 0 0 (.waitSb true true) ∧
      ((at0 (.waitSb true true)).cx 0 0).remote.all (fun r => !r.load) = true ∧
      ((at0 (.waitSb true true)).cx 0 0).remote.all (·.load) = true) ∧
    (Issues (at0 .waitDrain) 0 0 .waitDrain ∧ ((at0 .waitDrain).cu 0).runsOf 0 = [] ∧ ((at0 .waitDrain).cx 0 0).pushes = [] ∧
      ((at0 .waitDrain).cx 0 0).remote = []) ∧
    (Issues (at0 (.mark 7)) 0 0 (.mark 7) ∧ ((at0 (.mark 7)).cx 0 0).mode.getLsbD 2 = false) ∧
    (let s := withCu (cuOf { ctxOf (.waitSb false true) with remote := [⟨false, 0, 0, 4⟩] })
     Issues s 0 0 (.waitSb false true) ∧
     ((false && (s.cx 0 0).remote.any (·.load)) || (true && (s.cx 0 0).remote.any fun r => !r.load)) = true) ∧
    (let s := withCu ({ cuOf (ctxOf .waitDrain) with arr := some ⟨0, mma0, none, 0, [], none⟩ })
     Issues s 0 0 .waitDrain ∧ (s.cu 0).runsOf 0 ≠ []) ∧
    (let s := withCu (cuOf { ctxOf .waitDrain with pushes := [⟨0, 16, 0, 4⟩] })
     Issues s 0 0 .waitDrain ∧ (s.cx 0 0).pushes ≠ []) ∧
    (let s := withCu (cuOf { ctxOf .waitDrain with remote := [⟨false, 0, 0, 4⟩] })
     Issues s 0 0 .waitDrain ∧ (s.cx 0 0).remote ≠ []) :=
  ⟨⟨test_issues_at0 _ rfl, test_issues_at0 _ rfl⟩,
   ⟨test_issues_of (by decide +kernel), by decide +kernel⟩,
   ⟨test_issues_at0 _ rfl, by decide +kernel⟩,
   ⟨test_issues_at0 _ rfl, test_issues_at0 _ rfl, by decide +kernel⟩, ⟨test_issues_at0 _ rfl, by decide +kernel⟩,
   ⟨test_issues_at0 _ rfl, by decide +kernel⟩,
   ⟨test_issues_of (by decide +kernel), by decide +kernel⟩,
   ⟨test_issues_of (by decide +kernel), by decide +kernel⟩,
   ⟨test_issues_of (by decide +kernel), by decide +kernel⟩, ⟨test_issues_of (by decide +kernel), by decide +kernel⟩⟩
/-! ### Witnesses: the array, the links, the streams, the network -/

theorem test_meets_MmaEntersArray :
    (Issues (at0 (.mma mma0)) 0 0 (.mma mma0) ∧ mmaWait mma0 ((at0 (.mma mma0)).cu 0) 0 ((at0 (.mma mma0)).cx 0 0) = .go ∧ mma0.asrc = 0 ∧
      mma0.pair = 0 ∧ ((at0 (.mma mma0)).cx 0 0).flag = none ∧ ((at0 (.mma mma0)).cu 0).arr = none) ∧
    (let s := withCu { cuOf (ctxOf (.mma mma0)) with arr := some ⟨0, { mma0 with c := 5, b := 6, a := 7 }, none, 0, [], none⟩ }
     Issues s 0 0 (.mma mma0) ∧ mmaWait mma0 (s.cu 0) 0 (s.cx 0 0) = .go ∧ (s.cx 0 0).flag = none ∧ (s.cu 0).arr.isSome = true) ∧
    (let f : MmaF := { mma0 with afmt := 5, bfmt := 5, pair := 1 }
     Issues (at0 (.mma f)) 0 0 (.mma f) ∧ mmaWait f ((at0 (.mma f)).cu 0) 0 ((at0 (.mma f)).cx 0 0) = .go ∧ f.pair = 1 ∧ f.asrc = 0 ∧
     ((at0 (.mma f)).cx 0 0).flag = none) ∧
    (let f : MmaF := { mma0 with afmt := 5, bfmt := 5 }
     let s := withCu (cuOf { ctxOf (.mma f) with flag := some ⟨0, { f with c := 5, b := 6, a := 7, pair := 1 }, none, 0, [], none⟩ })
     let p := withCu { cuOf { ctxOf (.mma f) with flag := some ⟨0, { f with c := 5, b := 6, a := 7, pair := 1 }, none, 0, [], none⟩ } with
       arr := some ⟨1, mma0, none, 0, [], none⟩ }
     (Issues s 0 0 (.mma f) ∧ mmaWait f (s.cu 0) 0 (s.cx 0 0) = .go ∧ f.asrc = 0 ∧ (s.cx 0 0).flag.isSome = true ∧ (s.cu 0).arr = none) ∧
     Issues p 0 0 (.mma f) ∧ mmaWait f (p.cu 0) 0 (p.cx 0 0) = .go ∧ (p.cx 0 0).flag.isSome = true ∧ (p.cu 0).arr.isSome = true) ∧
    (let f : MmaF := { mma0 with asrc := 1, a := 3 }
     Issues (at0 (.mma f)) 0 0 (.mma f) ∧ mmaWait f ((at0 (.mma f)).cu 0) 0 ((at0 (.mma f)).cx 0 0) = .go ∧ f.asrc = 1 ∧
     ((at0 (.mma f)).cx 0 0).flag = none ∧ f.pair = 0 ∧ ((at0 (.mma f)).cu 0).arr = none ∧
     ((at0 (.mma f)).cu 0).qTokens (f.a.toNat % 4) = []) :=
  ⟨⟨test_issues_at0 _ (by decide +kernel), by decide +kernel⟩,
   ⟨test_issues_of (by decide +kernel), by decide +kernel⟩,
   ⟨test_issues_at0 _ (by decide +kernel), by decide +kernel⟩,
   ⟨⟨test_issues_of (by decide +kernel), by decide +kernel⟩, test_issues_of (by decide +kernel), by decide +kernel⟩,
   ⟨test_issues_at0 _ (by decide +kernel), by decide +kernel⟩⟩
/-- An mma of B8E4 operands, one shift. -/
def mma8 : MmaF := { mma0 with afmt := 1, bfmt := 1, mm1 := 3, nm1 := 7 }
theorem test_meets_ShiftWritesAccumulator :
    let s := withCu { cuOf (ctxOf .nop) with arr := some ⟨0, mma8, none, 0, [], none⟩ }
    (s.cu 0).arr = some ⟨0, mma8, none, 0, [], none⟩ ∧ mma8.asrc = 0 ∧ mma8.shifts = 1 ∧ mma8.b ≠ mma8.c ∧ mma8.a ≠ mma8.c ∧
    (s.cu 0).que = none ∧ (s.cu 0).active = some 0 ∧ (s.cx 0 0).st = .active ∧ (s.cx 0 0).rem = none ∧ (s.cx 0 0).que = none ∧
    (s.cu 0).endedWaiting = false := by decide +kernel
theorem test_meets_ContextSwitches :
    (let s := withCu { (cuOf (ctxOf .nop)).setCtx 3 { ctxOf .nop with st := .done } with
       pendSw := some 3, arr := some ⟨0, mma8, none, 0, [], none⟩ }
     (s.cu 0).midShift = false ∧ (s.cu 0).active = some 0 ∧ (s.cu 0).pendSw = some 3 ∧ (s.cx 0 3).st = .done ∧ (s.cx 0 3).rem = none ∧
     (s.cx 0 3).que = none ∧ (∀ r ∈ (s.cu 0).pendingRuns, r.ctx = 0) ∧ (s.cu 0).endedWaiting = false ∧ ∀ j, j < 4 → (s.cx 0 j).hold = none) ∧
    (let s := withCu { cuOf (ctxOf .nop) with pendSw := some 1 }
     (s.cu 0).midShift = false ∧ (s.cu 0).active = some 0 ∧ (s.cu 0).pendSw = some 1 ∧ (s.cx 0 1).st = .empty ∧ (s.cu 0).arr = none ∧
     ∀ j, j < 4 → (s.cx 0 j).hold = none) := by
  decide +kernel
/-- A token with END. -/
def tok : Token := ⟨Row.zero, true⟩
/-- Unit 0 with one token on the wire of link 1 (from unit 1), and a route for it. -/
def arriving (route : Byte) : State :=
  withRegion { State.reset with wires := [(wireKey 1 3 2, [tok])], fab := [(0, { Fabric.empty with route := [(6, route)] })] }
theorem test_meets_NeighbourLinks :
    (neighbour 0 1 = some 1 ∧ oppositeLink 1 = 3 ∧
     ∀ b : Byte, b ∈ [0x4c#8, 0xac#8, 0x00#8, 0xc0#8] → (arriving b).fenced 0 1 = false ∧ isMu 0 = false ∧
       FMap.get ([] : List Token) (arriving b).wires (wireKey 1 (oppositeLink 1) 2) = tok :: [] ∧
       ((((arriving b).fabric 0).entry 1 2) = b ∧ ((arriving b).cu 0).arr = none ∧ ((arriving b).cu 0).active = none) ∧
       (((arriving b).cu 0).qTokens (routeTarget b)).length < 8 ∧ (∀ k, k < 4 → ((arriving b).cx 0 k).hold = none) ∧
       (FMap.get ([] : List Token) ((arriving b).fabric 0).pass (4 * routeOlink b + routeTarget b)).length < 2) ∧
    (routeKind 0x4c#8 = 1 ∧ routeKind 0xac#8 = 2 ∧ routeKind 0#8 ≠ 1 ∧ routeKind 0#8 ≠ 2 ∧ routeKind 0xc0#8 = 3) ∧
    (let s := withRegion { withCu { Cu.empty with obind := [(3, ⟨some 0, some (1, 2)⟩)], obuf := [(3, [tok])] } with
       fab := [(0, { Fabric.empty with used := [(6, 8)] })] }
     isMu 0 = false ∧ (s.cu 0).oPort 1 2 = some 3 ∧ (s.cu 0).oTokens 3 = [tok] ∧ (s.cu 0).waitingPush 3 = none ∧
     FMap.get ([] : List Token) (s.fabric 0).pass (4 * 1 + 2) = [] ∧ count (s.fabric 0).used (4 * 1 + 2) = s.capacity 0 1 2 ∧
     s.outstanding 0 1 2 < s.capacity 0 1 2) ∧
    (let s := withRegion { withCu { Cu.empty with obind := [(3, ⟨some 0, some (1, 2)⟩)] } with
       fab := [(0, { Fabric.empty with used := [(6, 8)] })] }
     (s.cu 0).oPort 1 2 = some 3 ∧ (s.cu 0).oTokens 3 = [] ∧ (s.cu 0).waitingPush 3 = none ∧
     FMap.get ([] : List Token) (s.fabric 0).pass (4 * 1 + 2) = [] ∧ s.outstanding 0 1 2 < count (s.fabric 0).used (4 * 1 + 2) ∧
     (let t := withRegion (withCu { Cu.empty with obind := [(3, ⟨some 0, some (1, 2)⟩)] })
      count (t.fabric 0).used (4 * 1 + 2) ≤ t.outstanding 0 1 2)) := by decide +kernel
theorem test_meets_NeighbourLinks_mu :
    let s := withRegion { State.reset with wires := [(wireKey 0 1 2, [tok])], fab := [(1, { Fabric.empty with route := [(14, 0x40)] })] }
    neighbour 1 3 = some 0 ∧ s.fenced 1 3 = false ∧ isMu 1 = true ∧ FMap.get ([] : List Token) s.wires (wireKey 0 (oppositeLink 3) 2) = tok :: [] ∧
    routeKind ((s.fabric 1).entry 3 2) = 1 ∧ (s.eng 1 (routeTarget ((s.fabric 1).entry 3 2))).inbuf.length < 8 ∧
    (s.eng 1 (routeTarget ((s.fabric 1).entry 3 2))).desc = none ∧ (s.eng 1 (routeTarget ((s.fabric 1).entry 3 2))).clear :=
  ⟨by decide +kernel, by decide +kernel, rfl, by decide +kernel, by decide +kernel, by decide +kernel, by decide +kernel, by
    constructor <;> decide +kernel⟩

/-- A descriptor of kind `k` with one row of 32 lanes at address 0, a first hold word, and its whole window as its range. -/
def descOf (k : Nat) (hold : W64) : Desc := [BitVec.ofNat 64 (k * 2 ^ 58), 0, 0, 0, hold, 0, 0, 0x1FFF000]
/-- An engine with windows over the whole scratchpad and 4,096 device bytes. -/
def engBase : Eng := { Eng.empty with st := .run, started := true, tags := 64, banks := [(0, [0xFFF000, 0, 0x30000000001000, 0, 0])] }
/-- Engine 0 of MU 1 with a descriptor in its queue, one in hand, a token come in, and the MU's scoreboard. -/
def withEng (g : Eng) (sb : List SbEntry) : State := State.reset.setMu 1 { Mu.empty with eng := [(0, g)], sb := sb }
theorem test_meets_StreamBegins :
    (∀ k ∈ List.range 7, let d := descOf k 0x1000000
      let s := withEng { engBase with queue := [(0, d, 0)] } []
      dKind d = k ∧ (s.eng 1 0).desc = none ∧ (s.eng 1 0).started = true ∧ (s.eng 1 0).st = .run ∧ (s.eng 1 0).queue = (0, d, 0) :: [] ∧
      ((s.eng 1 0).jobs = [] ∧ (s.eng 1 0).outbuf = [] ∧ (s.eng 1 0).wq = [] ∧ (s.eng 1 0).quant = [] ∧ (s.eng 1 0).scales = []) ∧
      (s.eng 1 0).agpLost d = false ∧ 0 < (s.eng 1 0).rows d ∧ (s.mu 1).cmpOwner = none ∧ sbBlocks (s.eng 1 0).win d (s.mu 1).sb = false ∧ (dHold d 0).bits 25 24 = 1 ∧ (dHold d 0).bits 23 0 = 0 ∧
      NatSet.mem (s.eng 1 0).latches ((dHold d 0).bits 39 32) = false) ∧
    (let s := withEng { engBase with queue := [(0, descOf 4 0, 0)] } [⟨1, 1, 7, 7, 0, false⟩]
     (s.eng 1 0).queue = (0, descOf 4 0, 0) :: [] ∧ (s.eng 1 0).agpLost (descOf 4 0) = false ∧ sbBlocks (s.eng 1 0).win (descOf 4 0) (s.mu 1).sb = true) ∧
    (let s := withEng { engBase with queue := [(0, descOf 4 0, 1)] } []
     (s.eng 1 0).queue = (0, descOf 4 0, 1) :: [] ∧ (s.eng 1 0).desc = none ∧ (1 : BitVec 8) ≠ 0) := by decide +kernel
theorem test_meets_StreamBegins_cmp :
    let s := State.reset.setMu 1 { Mu.empty with eng := [(1, { engBase with queue := [(0, descOf 6 0, 0)] })] }
    (s.mu 1).cmpOwner = none ∧ ∀ i, i < 1 → s.atCmp 1 i = false := by decide +kernel
/-- An engine that has in hand the one row of a descriptor of kind `k`, with its token come in. -/
def rowOf (k : Nat) (cmp : Option CmpAcc) : State :=
  withEng { engBase with desc := some (0, descOf k 0), inbuf := if k = 4 ∨ k = 5 then [tok] else [], cmp := cmp } []
theorem test_only_row (k : Nat) (cmp : Option CmpAcc) (h : k < 7) : ((rowOf k cmp).eng 1 0).atOnlyRow 0 (descOf k 0) :=
  have : k = 0 ∨ k = 1 ∨ k = 2 ∨ k = 3 ∨ k = 4 ∨ k = 5 ∨ k = 6 := by omega
  by rcases this with rfl | rfl | rfl | rfl | rfl | rfl | rfl <;> exact ⟨rfl, rfl, rfl, rfl, rfl, rfl, rfl, rfl, rfl, rfl⟩
theorem test_meets_DeviceRowsRequested : ∀ k, k < 2 →
    dKind (descOf k 0) = k ∧ dBlock (descOf k 0) = false ∧ (rowOf k none).muFenced 1 = false ∧
    (rowOf k none).formRow 1 ((rowOf k none).eng 1 0) (descOf k 0) 0 = .row ⟨[], 0, 0, 32⟩ ∧ ((rowOf k none).mu 1).freeTag 0 = some 0 ∧
    linesOf (winBase ((rowOf k none).eng 1 0).win (dDw (descOf k 0)) + (0 : Int).toNat) (dElemBytes (descOf k 0) 32) = [0] := by decide +kernel
theorem test_meets_StreamRowsStored :
    (∀ k ∈ [2, 3, 4, 5], dKind (descOf k 0) = k ∧ dBlock (descOf k 0) = false ∧ (rowOf k none).muFenced 1 = false ∧
      (rowOf k none).formRow 1 ((rowOf k none).eng 1 0) (descOf k 0) 0 = .row ⟨[], 0, 0, 32⟩ ∧ ((rowOf k none).mu 1).freeTag 0 = some 0) ∧
    ((rowOf 2 none).credit 1 (dLink (descOf 2 0)) (dChan (descOf 2 0)) = false) ∧
    (∀ k ∈ [3, 5], linesOf (winBase ((rowOf k none).eng 1 0).win (dDw (descOf k 0)) + (0 : Int).toNat)
      (storePlain (descOf k 0) Row.zero 32).1.length = [0]) ∧
    (rowOf 3 none).spadRow 1 (128 * (winLo ((rowOf 3 none).eng 1 0).win + dRlo (descOf 3 0))) = Row.zero ∧
    (∀ k ∈ [4, 5], ((rowOf k none).eng 1 0).inbuf = [tok] ∧ tok.fin = decide (dTile (descOf k 0) = 1)) ∧
    ((0 : Int).toNat % 8 = 0 ∧ dWidth (descOf 4 0) * 32 % 64 = 0) := by decide +kernel
/-- A compare-and-count that has seen nothing. -/
def acc0 : CmpAcc := ⟨[], 0, 0, 0, 0, 0, 0, false⟩
theorem test_meets_CompareDelivers :
    dKind (descOf 6 0) = 6 ∧ dBlock (descOf 6 0) = false ∧ ((rowOf 6 (some acc0)).eng 1 0).cmp = some acc0 ∧
    (rowOf 6 (some acc0)).formRow 1 ((rowOf 6 (some acc0)).eng 1 0) (descOf 6 0) 0 = .row ⟨[], 0, 0, 32⟩ ∧ dRdst (descOf 6 0) = false ∧
    resBeyond ((rowOf 6 (some acc0)).eng 1 0).win (descOf 6 0) = false ∧
    (let d := (descOf 6 0).set 2 0x4000000000
     dKind d = 6 ∧ dRdst d = true ∧ (rowOf 6 (some acc0)).credit 1 (dLink d) (dChan d) = false) ∧
    f32IsNan canonNan = true ∧ dRfmt (descOf 6 0) ≠ 2 := by decide +kernel
/-- Descriptor 0 with a first mark of PEER and a second of STEP, both at row 0. -/
def descMarks : Desc := (descOf 2 0x2000000).set 5 0x1000000
/-- A read request of unit 1 for `a` at `dst`. -/
def flitTo (dst : Endpoint) (a : Nat) (mask : BitVec 16) : Flit := ⟨.readReq, 256, .unit 1, dst, a, mask, Row.zero, 5, 3, false, 1⟩
theorem test_meets_StreamEvents :
    ((withEng { engBase with burst := some 0x1000 } []).eng 1 0).burst = some 0x1000 ∧
    (let g := (withEng { engBase with started := false } []).eng 1 0
     g.st = .run ∧ g.atEnd = true) ∧
    (let s := withEng { engBase with desc := some (0, descMarks), st := .hold } []
     (s.eng 1 0).desc = some (0, descMarks) ∧ (s.eng 1 0).st = .hold ∧ (s.eng 1 0).markAt descMarks = some (0, 0x2000000) ∧
     W64.bits 0x2000000 25 24 = 2 ∧ s.markOpen 1 (s.eng 1 0) 0x2000000 = true ∧ (dHold descMarks 1).bits 25 24 = 1 ∧
     (dHold descMarks 1).bits 23 0 = (s.eng 1 0).row ∧ (s.eng 1 0).passed1 = false ∧
     NatSet.mem (s.eng 1 0).latches ((dHold descMarks 1).bits 39 32) = false) ∧
    (let s := State.reset.setMu 1 { Mu.empty with sb := [⟨0, 1, 0, 0, 0, true⟩], park := [flitTo (.unit 1) 0 0] }
     (s.mu 1).sb = ⟨0, 1, 0, 0, 0, true⟩ :: [] ∧ (s.mu 1).park = [flitTo (.unit 1) 0 0]) := by decide +kernel
/-- A flit of one kind. -/
def kinded (k : FlitKind) (f : Flit) : Flit := { f with kind := k }
theorem test_comes {s : State} {k : FlitKind} {f : Flit} (h : (decide (f.kind = k) && s.inOrder f && s.tagOk f) = true) : s.Comes k f := by
  simp only [Bool.and_eq_true, decide_eq_true_eq] at h
  exact ⟨h.1.1, h.1.2, h.2⟩
theorem test_meets_MemoryUnitRequests :
    (let f := flitTo (.unit 1) 128 0
     let s := { State.reset with flits := [f] }
     s.Comes .readReq f ∧ isMu 1 = true ∧ s.refuses f = false ∧ s.rowPending 1 f.addr = false ∧
     (let s := s.setMu 1 { Mu.empty with sb := [⟨0, 1, 0, 1, 0, false⟩] }
      s.Comes .readReq f ∧ s.rowPending 1 f.addr = true ∧ (s.mu 1).park.length < 32 ∧ oldestNacked (s.mu 1).nacked f = true) ∧
     (let s := s.setMu 1 { Mu.empty with sb := [⟨0, 1, 0, 1, 0, false⟩], park := List.replicate 32 f }
      s.Comes .readReq f ∧ s.rowPending 1 f.addr = true ∧ 32 ≤ (s.mu 1).park.length) ∧
     (let s := s.setMu 1 { Mu.empty with sb := [⟨0, 1, 0, 1, 0, false⟩], nacked := [flitTo (.unit 1) 0 0] }
      s.Comes .readReq f ∧ s.rowPending 1 f.addr = true ∧ oldestNacked (s.mu 1).nacked f = false)) ∧
    (∀ k ∈ [FlitKind.writeReq, .bulk], let f := kinded k (flitTo (.unit 1) 0x7FF80 0x8000)
     let s := { State.reset with flits := [f] }
     s.Comes k f ∧ s.refuses f = false ∧ f.mask ≠ 0) ∧
    (let f := kinded .control (flitTo (.unit 1) 0 0)
     ({ State.reset with flits := [f] } : State).Comes .control f ∧ ({ State.reset with flits := [f] } : State).refuses f = false) :=
  ⟨⟨test_comes (by decide +kernel), by decide +kernel, by decide +kernel, by decide +kernel,
    ⟨test_comes (by decide +kernel), by decide +kernel⟩, ⟨test_comes (by decide +kernel), by decide +kernel⟩,
    ⟨test_comes (by decide +kernel), by decide +kernel⟩⟩,
   by intro k hk; simp only [List.mem_cons, List.not_mem_nil, or_false] at hk
      rcases hk with rfl | rfl <;> exact ⟨test_comes (by decide +kernel), by decide +kernel⟩,
   test_comes (by decide +kernel), by decide +kernel⟩
/-- A line of slice 0. -/
def line0 (dirty : Bool) : Line := ⟨0, 0, none, dirty, ⟨7, 0⟩, 0, []⟩
theorem test_slice_idle {s : State} {i : Nat} (h : (decide ((s.slice i).order = []) && decide ((s.slice i).park = []) &&
    decide ((s.slice i).nacked = []) && decide ((s.slice i).tags = [])) = true) : s.SliceIdle i := by
  simp only [Bool.and_eq_true, decide_eq_true_eq] at h
  exact ⟨h.1.1.1, h.1.1.2, h.1.2, h.2⟩
theorem test_meets_SliceRequests_reads :
    let f := flitTo (.slice 0) 0 0
    (let s := { State.reset.updSlice 0 fun _ => { Slice.empty with lines := [line0 true] } with flits := [f] }
     s.Comes .readReq f ∧ s.SliceIdle 0 ∧ s.refuses f = false ∧ s.isDram f.addr 1 = true ∧ (s.slice 0).miss = [] ∧
     (s.slice 0).find (s.classOf 0 f) (lineOf f.addr) = some (line0 true) ∧ (line0 true).upset = [] ∧ (line0 true).row.poison = 0) ∧
    (let s := { State.reset with flits := [f] }
     s.Comes .readReq f ∧ s.SliceIdle 0 ∧ (s.slice 0).miss = [] ∧ (s.slice 0).find (s.classOf 0 f) (lineOf f.addr) = none ∧
     ((s.slice 0).miss.filter fun y => y.part == s.classOf 0 f).length < s.missRoom 0 (s.classOf 0 f)) ∧
    (let s := State.reset.updSlice 0 fun _ => { Slice.empty with miss := [⟨0, 256, none, [f], false⟩], order := [f] }
     (s.slice 0).miss = [⟨0, 256, none, [f], false⟩] ∧ f.kind = .readReq ∧ (s.slice 0).park = [] ∧ (s.slice 0).order = [f] ∧
     isFlash 0 1 = false ∧ (s.slice 0).lines = []) :=
  ⟨⟨test_comes (by decide +kernel), test_slice_idle (by decide +kernel), by decide +kernel⟩,
   ⟨test_comes (by decide +kernel), test_slice_idle (by decide +kernel), by decide +kernel⟩, by decide +kernel⟩
theorem test_meets_SliceRequests_writes :
    (let f := kinded .writeReq (flitTo (.slice 0) 0 fullMask)
     let s := { State.reset with flits := [f] }
     s.Comes .writeReq f ∧ s.SliceIdle 0 ∧ s.refuses f = false ∧ s.isDram f.addr 1 = true ∧ f.mask = fullMask ∧
     0 = s.homeSlice (lineOf f.addr) ∧ (s.slice 0).miss = [] ∧ (s.slice 0).disabled = [] ∧ s.waysAt (s.classOf 0 f) 0 (lineOf f.addr) ≠ []) ∧
    (∀ k ∈ [FlitKind.readReq, .writeReq, .bulk], let f := kinded k (flitTo (.slice 0) 0xFFFFFFFFFFF 1)
     let s := { State.reset with flits := [f] }
     s.Comes k f ∧ s.refuses f = false ∧ s.absent f.addr = true ∧ f.mask ≠ 0) :=
  ⟨⟨test_comes (by decide +kernel), test_slice_idle (by decide +kernel), by decide +kernel⟩,
   by intro k hk; simp only [List.mem_cons, List.not_mem_nil, or_false] at hk
      rcases hk with rfl | rfl | rfl <;> exact ⟨test_comes (by decide +kernel), by decide +kernel⟩⟩
/-- An answer to context 1 of CU 0 under tag 5, and that context's remote rows. -/
def answering (k : FlitKind) (l : List Remote) : State :=
  { withCu (Cu.empty.setCtx 1 { Ctx.empty with remote := l }) with
    net := { State.reset.net with gens := [(1, 3)] }, flits := [kinded k (flitTo (.unit 0) 0 0)] }
theorem test_meets_AnswersArrive :
    (∀ k ∈ [FlitKind.readReply, .down], let f := kinded k (flitTo (.unit 0) 0 0)
     let s := answering k [⟨true, 16, 31, 5⟩]
     s.Comes k f ∧ isMu 0 = false ∧ s.refuses f = false ∧ count s.net.gens (4 * 0 + f.tag % 4) = f.gen ∧
     (∀ p, p < 4 → (s.cu 0).waitingPush p = none ∧ (s.cu 0).oTokens p = []) ∧
     (s.cx 0 (f.tag % 4)).remote.find? (fun r => r.load && r.tag == f.tag) = some ⟨true, 16, 31, 5⟩) ∧
    (let f := kinded .ack (flitTo (.unit 0) 0 0)
     let s := answering .ack [⟨false, 0, 0, 5⟩]
     s.Comes .ack f ∧ (s.cx 0 (f.tag % 4)).remote.find? (fun r => !r.load && r.tag == f.tag) = some ⟨false, 0, 0, 5⟩ ∧ f.down = false) ∧
    (let f := kinded .readReply (flitTo (.unit 0) 0 0)
     (answering .readReply []).Comes .readReply f ∧ ((answering .readReply []).cx 0 (f.tag % 4)).remote = []) :=
  ⟨by intro k hk; simp only [List.mem_cons, List.not_mem_nil, or_false] at hk
      rcases hk with rfl | rfl <;> exact ⟨test_comes (by decide +kernel), by decide +kernel⟩,
   ⟨test_comes (by decide +kernel), by decide +kernel⟩, test_comes (by decide +kernel), by decide +kernel⟩
theorem test_meets_AnswersArrive_nacks :
    (let g := { flitTo (.unit 3) 0 0 with src := .unit 0 }
     let f := { kinded .nack (flitTo (.unit 0) 0 0) with src := .unit 3 }
     let s := { (answering .nack [⟨true, 16, 31, 5⟩]).setMu 3 { Mu.empty with nacked := [g] } with flits := [f] }
     s.Comes .nack f ∧ s.refuses f = false ∧ s.current f = true ∧ s.nackHeld f.src (· == g) = true ∧ g.src = f.dst ∧ g.tag = f.tag ∧
     g.gen = f.gen ∧
     (let t := { s with flits := [] }
      t.nackHeld g.dst (· == g) = true ∧ g ∉ t.flits ∧ answerOf g .nack Row.zero false ∉ t.flits ∧ t.current { g with dst := g.src } = true)) ∧
    (∀ k ∈ [FlitKind.readReq, .writeReq, .readReply], let f := kinded k (flitTo (.unit 1) 0 0)
     let s := { State.reset.setDie 0 .gated with flits := [f] }
     s.Comes k f ∧ s.refuses f = true ∧ isFlash f.addr 1 = false) ∧
    (∀ k ∈ [FlitKind.writeReq, .bulk, .control, .readReply, .ack, .nack, .down], let f := { kinded k (flitTo (.unit 1) 0 0) with rtag := 255 }
     let s := { State.reset with flits := [f] }
     s.inOrder f = true ∧ s.tagOk f = false) :=
  ⟨⟨test_comes (by decide +kernel), by decide +kernel⟩,
   by intro k hk; simp only [List.mem_cons, List.not_mem_nil, or_false] at hk
      rcases hk with rfl | rfl | rfl <;> exact ⟨test_comes (by decide +kernel), by decide +kernel⟩,
   by decide +kernel⟩
/-! ### Witnesses: boundaries, the schedule, the feed, the host -/

/-- Region 0 of function 0: the block at (0, 0). -/
def withBlock (s : State) : State := { s with cfg := { s.cfg with part0 := [(0, 0x20000000)] } }
/-- An image with a watchdog of two figures. -/
def img0 : Img := ⟨0, false, 0, 2, 1, 0, 0, 0, [], [], []⟩
/-- Region 0 as `g` says. -/
def withRgn (g : Region) (s : State) : State := (withBlock s).updRgn 0 fun _ => g
theorem test_meets_BoundaryEvents :
    (ready.awake = true ∧ ready.time.running = true ∧ 0 < ready.stepDt) ∧
    (let s := withRgn { Region.empty with fence := 1 } ready
     s.onStep s.time.now = true ∧ 0 < (s.rgn 0).fence ∧ s.rgnStopped 0 = false ∧ s.fenceHolds 0 = true ∧ s.regionMus 0 = []) ∧
    ({ ready with time := { ready.time with now := 1 } } : State).onStep 1 = false ∧
    (let s := { withRgn { Region.empty with fence := 1 } ready with flits := [{ flitTo (.unit 1) 0 0 with rtag := 0 }] }
     s.fenceHolds 0 = false) ∧
    (let s := withRgn { Region.empty with img := some img0 } ready
     (s.rgn 0).group = 0 ∧ s.onStep s.time.now = true ∧ s.drainDue 0 = true ∧ s.regionMus 0 = [] ∧ (s.rgn 0).run = none ∧ s.host.cmds = [] ∧ s.passes = []) ∧
    ready.drainDue 0 = false ∧
    (let s := withRgn { Region.empty with img := some img0, idle := 2 } ready
     s.onFigure s.time.now = true ∧ s.dueNow 0 = [] ∧ (s.rgn 0).img.isSome = true ∧ (s.rgn 0).wedged = 0 ∧ 0 < s.wdogOf 0 ∧ s.wdogOf 0 ≤ (s.rgn 0).idle) ∧
    ((withRgn { Region.empty with wedged := 1 } ready).rgn 0).wedged = 1 ∧
    (let s := withRgn { Region.empty with redirAsk := true } ready
     s.onStep s.time.now = true ∧ (s.rgn 0).redirAsk = true) := by decide +kernel
/-- An action of region 0 on unit (`x`, 0) alone, with more operand bits. -/
def fire (x : Nat) (op : Nat) : Fire := ⟨0, 0, none, 0, BitVec.ofNat 64 (x + 4096 * x + op)⟩
/-- A CU whose contexts 0 and 1 are as given. -/
def cuWith (a b : CtxState) (active : Option Nat) : State :=
  withBlock (withCu { (Cu.empty.setCtx 0 { Ctx.empty with st := a, entry := 2 }).setCtx 1 { Ctx.empty with st := b, entry := 2 } with active := active })
theorem test_meets_StartActions :
    (∀ st ∈ [CtxState.ready, .done], let s := cuWith st .empty none
      (s.rectUnits 0 (fire 0 0).op).filter (fun u => !(isMu u)) = [0] ∧ (fire 0 0).op.bits 25 24 = 0 ∧ (s.cx 0 0).st = st ∧
      (s.cu 0).active = none ∧ (s.cu 0).pendSw = none ∧ (s.cu 0).arr = none ∧ (s.cu 0).que = none ∧ (s.cx 0 0).rem = none ∧
      (s.cx 0 0).que = none ∧ (s.cu 0).endedWaiting = false ∧ (∀ j, j < 4 → (s.cx 0 j).hold = none) ∧ (s.cu 0).faultAt ≠ some s.time.now) ∧
    (let s := cuWith .active .done (some 0)
     (s.rectUnits 0 (fire 0 0x1000000).op).filter (fun u => !(isMu u)) = [0] ∧ (fire 0 0x1000000).op.bits 25 24 = 1 ∧ (s.cx 0 1).st = .done ∧
     (s.cu 0).active = some 0 ∧ (s.cu 0).pendSw = none ∧ (s.cu 0).faultAt ≠ some s.time.now ∧ (s.cu 0).startMark = none) ∧
    (((cuWith .active .faulted (some 0)).cx 0 1).st = .faulted ∧ ((cuWith .active .faulted (some 0)).cu 0).faultAt ≠ some 0) ∧
    (let s := withBlock (State.reset.setMu 1 { Mu.empty with eng := [(0, { Eng.empty with st := .idle, lists := [(0, 64), (64, 1)], banks := [(0, [0])] })] })
     (s.rectUnits 0 (fire 1 0).op).filter isMu = [1] ∧ (s.eng 1 0).st = .idle ∧ (s.eng 1 0).resume = false ∧
     (fire 1 0).op.bits 29 26 = (s.eng 1 0).staged ∧ (fire 1 0x4000000).op.bits 29 26 = 1 ∧ 1 < (s.eng 1 0).lists.length ∧
     s.bankFor 0 none = 0 ∧ FMap.get ([] : List W64) (s.eng 1 0).banks 0 ≠ [] ∧ (s.eng 1 1).st ≠ .idle ∧
     s.muFenced 1 = false ∧ (s.updRgn 0 fun g => { g with fence := 1 }).muFenced 1 = true ∧ ∀ e, e < 4 → (s.eng 1 e).st ≠ .hold) ∧
    (let s := withBlock (State.reset.setMu 1 { Mu.empty with eng := [(0, { Eng.empty with st := .idle, resume := true })] })
     (s.eng 1 0).st = .idle ∧ (s.eng 1 0).resume = true) := by decide +kernel
/-- A request instance with a deadline at 1,000. -/
def inst0 : Inst := ⟨4, 1, 0, 0, 0, some 1000, false, false, [], [], [], [], 0, 0⟩
/-- A command at work for function 0. -/
def cmd0 (h : W64) (words : List W64) (ph : CmdPhase) : Cmd := ⟨h, 0, 0, 0, 0, true, words, ph, 0, 0, 0, 0, 0, 0, [], []⟩
theorem test_meets_TimedActions :
    (let s := withRgn { Region.empty with insts := [inst0] } ready
     let f : Fire := ⟨0, 3, some 4, 2, 0⟩
     f.inst = some 4 ∧ f.base = 2 ∧ s.inst 0 4 = some inst0 ∧ inst0.deadline = some 1000 ∧ f.op.bits 1 0 = 0 ∧
     s.time.now + f.op.bits 31 16 * s.cfg.stepdt + 8 * f.op.bits 47 32 ≤ 1000 ∧
     1000 < s.time.now + W64.bits 0x80000 31 16 * s.cfg.stepdt + 8 * W64.bits 0x80000 47 32) ∧
    (FMap.get Det.idle (ready.rgn 0).dets 0).st = 0 ∧
    (let s := withRgn { Region.empty with dets := [(7, ⟨3, 0⟩), (1, ⟨1, 0⟩), (2, ⟨2, 0⟩)] } ready
     s.onStep s.time.now = true ∧ (FMap.get Det.idle (s.rgn 0).dets 7).st = 3 ∧ (FMap.get Det.idle (s.rgn 0).dets 1).st = 1 ∧ (FMap.get Det.idle (s.rgn 0).dets 2).st = 2) ∧
    (let s := withRgn { Region.empty with swap := some 9 } ready
     s.onFigure s.time.now = true ∧ (s.rgn 0).swap = some 9 ∧ s.cmd 9 = none ∧
     (let c := { cmd0 9 [0x0A] .running with aux := [(swapStage, 0)] }
      let t := { s with host := { s.host with cmds := [c] } }
      t.cmd 9 = some c ∧ c.at swapStage ≤ t.time.now)) ∧
    (∀ b ∈ [false, true], let n := if b then 0 else 1
     let s := (withRgn { Region.empty with dets := [(5, ⟨if b then 2 else 1, 0x10005⟩)] } ready).setMu 1
       { Mu.empty with eng := [(0, { Eng.empty with inbuf := List.replicate n tok })] }
     let x := FMap.get Det.idle (s.rgn 0).dets 5
     x.st = (if b then 2 else 1) ∧ x.op.bits 1 0 = 1 ∧ x.op.bits 7 2 + 64 * x.op.bits 13 8 = 1 ∧ (s.eng 1 0).inbuf.length = n ∧
     (if b then n < x.op.bits 19 16 else x.op.bits 19 16 ≤ n)) ∧
    (let s := { withRgn { Region.empty with copying := true } ready with banks := [(0, (1, 2))], cfg := { ready.cfg with allot := [(0, 4096 * 4096)] } }
     FMap.wf (0, 0) s.banks = true ∧ (s.allotOf 0).1 + (s.allotOf 0).2 ≤ 4096) := by decide +kernel
/-- An Ethernet frame for model slot 0 with no payload. -/
def frame0 : List Byte :=
  let f := List.replicate 12 0 ++ [0x88, 0xB5, 1, 1] ++ List.replicate 44 (0 : Byte)
  f ++ leBytes (crc32 f).toNat 4
/-- Function 0 with its completion ring on, and feed port 0 open to slot 0. -/
def feeding : State :=
  { ready with
    feed := { ready.feed with link := [0] }, fnRegs := [(fCqCfg 0, 0x26)], regs := [(aFeedCtl 0, 0x88B50001)],
    cfg := { ready.cfg with feed0 := [(0, 0x070000007D000000)] } }
/-- A request that is written and waits for its dispatch; `outlen` is its answer's length. -/
def req0 (outlen : Nat) (inst : Option Nat) : FeedReq :=
  ⟨5, 0x77, 0, 0, 0, BitVec.ofNat 64 (1 + outlen * 2 ^ 51), 1, 0, 0, 0, 0, 32000, 0, 100, [], some 0, inst, true, [], none, false⟩
theorem test_meets_FeedRequests :
    (feeding.power.st = .ready ∧ NatSet.mem feeding.feed.link 0 = true ∧ feeding.feedReason 0 frame0 0 = none ∧
      feeding.feedReason 0 (frame0.set 20 1) 0 = some 0) ∧
    (let s := { withRgn { Region.empty with img := some img0 } ready with feed := { ready.feed with reqs := [req0 0 none] } }
     s.onStep s.time.now = true ∧ s.feedReq 5 = some (req0 0 none) ∧ s.loaded 0 = true ∧ (s.rgn 0).graded.length < 4) ∧
    (let q := { req0 128 (some 4) with marks := [0] }
     let s := { withRgn { Region.empty with insts := [inst0] } ready with feed := { ready.feed with reqs := [q] } }
     s.feedReq 5 = some q ∧ q.answered = none ∧ s.answerIn q = true ∧ q.w1.bits 61 51 = 128 ∧ q.outRows = [0] ∧
     (s.spadRow (q.w1.bits 35 24) 0).poison = 0 ∧
     (let p := { s with mem := { s.mem with spadPoison := [15] } }
      p.answerIn q = true ∧ (p.spadRow (q.w1.bits 35 24) (128 * (q.w1.bits 47 36 + 8 * q.k.getD 0))).poison.getLsbD 15 = true)) ∧
    (let s := { ready with feed := { ready.feed with reqs := [req0 128 none] } }
     let t := { s with time := { s.time with now := s.backstopAt (req0 128 none) } }
     t.feedReq 5 = some (req0 128 none) ∧ t.answerIn (req0 128 none) = false ∧ t.backstopAt (req0 128 none) ≤ t.time.now) ∧
    (let q := { req0 0 (some 4) with answered := some (0, []) }
     let s := { ready with feed := { ready.feed with reqs := [q] }, host := { ready.host with cmds := [cmd0 0x77 [] .running] } }
     s.feedReq 5 = some q ∧ s.mayLeave q = true ∧ s.cmd q.handle = some (cmd0 0x77 [] .running)) := by decide +kernel
/-- Function 0's rings on, with one entry in the submission ring. -/
def rings : State :=
  { ready with
    fnRegs := [(fSqBase 0, 0x1000), (fSqCfg 0, 0x206), (fCqCfg 0, 0x26)],
    host := { ready.host with portA := true, sqTail := [(0, 1)] } }
theorem test_meets_HostRings :
    (rings.power.st = .ready ∧ rings.host.portA = true ∧ rings.fnEnabled 0 = true ∧ rings.isResetting 0 = false ∧ 0 < rings.nsq 0 ∧
      (rings.fnReg 0 (fSqCfg 0)).bit 9 = true ∧ (rings.fnReg 0 (fSqCfg 0)).bits 4 0 ≤ 16 ∧
      rings.cqRoom 0 ((rings.fnReg 0 (fSqCfg 0)).bits 8 5) = true ∧
      (rings.fnReg 0 (fSqHead 0)).bits 15 0 ≠ count rings.host.sqTail (ringKey 0 0) ∧ rings.mayTakeSlot 0 = true ∧
      rings.hostMute 0x1000 = false ∧ ({ rings with host := { rings.host with mute := [0x1000 / 4096] } } : State).hostMute 0x1000 = true) ∧
    (rings.sqOn 0 0 = true ∧ W64.bits 63 15 0 < ringSize (rings.fnReg 0 (fSqCfg 0)) ∧ ringSize (rings.fnReg 0 (fSqCfg 0)) ≤ W64.bits 64 15 0) ∧
    (0 < rings.ncq 0 ∧ rings.cqOn 0 0 = true ∧ W64.bits 63 15 0 < ringSize (rings.fnReg 0 (fCqCfg 0)) ∧
      count rings.host.cqHead (ringKey 0 0) ≤ W64.bits 63 15 0 ∧ ringSize (rings.fnReg 0 (fCqCfg 0)) ≤ W64.bits 0xFFFF 15 0) ∧
    (ready.awake = true ∧ (6 ≤ W64.bits 0x230 4 0 ∧ W64.bits 0x230 4 0 ≤ 16) ∧ (ready.fnReg 0 (fSqCfg 0)).bit 9 = false ∧
      (ready.fnReg 0 (fCqCfg 0)).bit 5 = false) ∧
    (let s := { rings with cfg := { rings.cfg with fnring := [(0, 0x21)] } }
     0 < s.nsq 0 ∧ s.cqRoom 0 ((s.fnReg 0 (fSqCfg 0)).bits 8 5) = true ∧ s.mayTakeSlot 0 = false) := by decide +kernel
/-! ### Witnesses: commands, the optimiser, the memories, the dies -/

/-- The machine in Ready with every stage completed. -/
def opened : State := { ready with regs := [(aHubStage, 10)] }
/-- The machine in Ready with one command in flight. -/
def withCmd (c : Cmd) : State := { ready with host := { ready.host with cmds := [c] } }
/-- A fetched command with handle 7. -/
def fetched (words : List W64) : Cmd := cmd0 7 words .fetched
/-- One at work. -/
def working (words : List W64) (aux : FMap Nat) : Cmd := { cmd0 7 words .running with aux := aux }
theorem test_meets_PortEvents :
    (let s := { ready with power := { ready.power with perstN := true } }
     s.power.perstN = true ∧ s.awake = true ∧ ready.power.perstN = false ∧ ready.host.portA = false ∧
     ({ s.host with portA := true } : HostSt).portA = true ∧ ({ s.host with portBBusy := true } : HostSt).portBBusy = true) ∧
    (let c := working [5, 0x800000000000, 0, 64] [(readStage, 1)]
     let s := withCmd c
     s.cmd 7 = some c ∧ c.phase = .running ∧ c.at readStage = 1 ∧ c.opcode = 5 ∧ isHostWin (c.word 1).toNat 1 = true ∧
     (c.word 2).toNat + (c.word 3).toNat ≤ 16 * halfStack ∧ 0 < (c.word 3).toNat) ∧
    ((withCmd (working [4] [])).cmd 7 = some (working [4] []) ∧ (working [4] []).opcode = 4) ∧
    (ready.awake = true ∧ ready.fnEnabled 0 = true ∧ ready.fnRegions 0 = [] ∧ ready.host.cmds = [] ∧ ready.feed.reqs = []) ∧
    (let c := fetched [0x0D, 1]
     (withCmd c).openCmd 7 0x0D = some c ∧ (withCmd c).isResetting ((c.word 1).bits 11 0) = false ∧
     (withCmd c).fnEnabled ((c.word 1).bits 11 0) = false) ∧
    (let c := fetched [0x0D, 0]
     (withCmd c).openCmd 7 0x0D = some c ∧ (withCmd c).fnEnabled ((c.word 1).bits 11 0) = true ∧
     (withCmd c).fnRegions ((c.word 1).bits 11 0) = [] ∧ (withCmd c).host.cmds = [c]) ∧
    (let s := { ready with
       host := { ready.host with zeroing := [0] }, cfg := { ready.cfg with map := [⟨0, 0, 128, 0, 0, 0, true, true, 0⟩] } }
     NatSet.mem s.host.zeroing 0 = true ∧ ∀ e ∈ s.cfg.map, e.kind = 0 ∧ e.owner = 0 ∧ e.base ≤ 127 ∧ 127 < e.base + e.len) := by decide +kernel
theorem test_port_free_of_groups : (∀ g, ready.gOwner g ≠ 7 ∨ (ready.group g).run = none) ∧ ∀ g, (ready.group g).run = none :=
  ⟨fun _ => .inr rfl, fun _ => rfl⟩
theorem test_meets_RunsAndCounters :
    (∀ o ∈ [3, 4], let c := fetched [BitVec.ofNat 64 o]
      let s := withRgn { Region.empty with img := some img0 } (withCmd c)
      s.openCmd 7 o = some c ∧ s.rgnStopped c.region = false ∧ (o = 4 → s.stepFault c = none) ∧ (s.rgn c.region).run = none ∧
      (s.rgn c.region).held = none ∧ (s.rgn c.region).img.isSome = true ∧ (s.rgn c.region).wedged = 0 ∧
      (s.setDie 0 .gated).rgnStopped c.region = true ∧ (∀ x ∈ s.host.cmds, x = c) ∧ c.phase ≠ .running) ∧
    (let c := fetched [4, 0, 0, 0, 0, 1]
     (withRgn Region.empty (withCmd c)).openCmd 7 4 = some c ∧ (withRgn Region.empty (withCmd c)).stepFault c = some 2) ∧
    ((withCmd (fetched [7])).openCmd 7 7 = some (fetched [7])) ∧
    (let c := fetched [9, 0x1000, 0]
     (withCmd c).openCmd 7 9 = some c ∧ (withCmd c).schedFree c = true ∧ (c.word 2).bits 24 12 = 0) ∧
    (let c := fetched [9, 0x1000, 0x1000]
     let s := { withCmd c with cfg := { ready.cfg with part0 := [(0, 0x20000000)], allot := [(0, 0x1000)] } }
     s.openCmd 7 9 = some c ∧ s.schedFree c = true ∧ (c.word 2).bits 24 12 = 1 ∧
     (c.word 2).bits 11 0 + 1 ≤ (s.allotOf c.region).2 ∧ (s.allotOf c.region).1 + (s.allotOf c.region).2 ≤ 4096 ∧
     isHostWin (c.word 1).toNat 1 = false ∧ s.fnMarks c.fn (c.word 1).toNat 2 = false ∧
     s.badSched (partOwner (s.part0 c.region)) c.region (schedEnts (s.fnWords c.fn (c.word 1).toNat 2)) = []) ∧
    ((withCmd (fetched [0x0A])).openCmd 7 0x0A = some (fetched [0x0A]) ∧ (withCmd (fetched [0x0A])).schedFree (fetched [0x0A]) = true) ∧
    (∀ k ∈ [0, 1, 2, 4, 15], let c := fetched [0x0B, 0, BitVec.ofNat 64 k, 32]
      let s := withRgn Region.empty (withCmd c)
      s.openCmd 7 0x0B = some c ∧ c.kind = k ∧ s.countersFault c = none ∧ s.countersFault (fetched [0x0B, 0, BitVec.ofNat 64 k, 31]) = some 3) ∧
    ((withCmd (fetched [0x0B, 0, 0, 32])).countersFault (fetched [0x0B, 0, 0, 32]) = some 2) ∧
    (let c := working [0x0B, 0x1000, 0, 32] []
     (withCmd c).cmd 7 = some c ∧ c.opcode = 0x0B ∧ c.phase = .running ∧ (withCmd c).onStep (withCmd c).time.now = true ∧ c.kind = 0 ∧ (c.word 1).toNat % 8 = 0 ∧
     (c.word 1).toNat + 224 ≤ 16 * halfStack ∧ (c.word 3).toNat = 32) ∧
    (let c := fetched [0x0F, 0x8000000]
     (withCmd c).openCmd 7 0x0F = some c ∧ (c.word 1).toNat % 8 = 0 ∧ (c.word 1).toNat + 32 ≤ 16 * halfStack ∧
     (withCmd c).stackDown (c.word 1).toNat 32 = false) := by decide +kernel
/-- A FLASH_WRITE of 64 KiB in class R from a source. -/
def flashWords (src : W64) : List W64 := [0x0C, 0x100000000000, src, 65536, 0, 0, 0]
/-- A map entry that lets function 0 read every source. -/
def hostMap : MapEnt := ⟨0, 0x800000000000, 0x100000000, 0, 0, 2, true, true, 1⟩
theorem test_meets_Transfers :
    (let c := fetched [5, 0x1000, 0x2040, 64]
     let s := withCmd c
     s.openCmd 7 5 = some c ∧ (c.word 3).toNat % 64 = 0 ∧ s.stepUses (c.word 1).toNat 64 = false ∧ s.stepUses (c.word 2).toNat 64 = false ∧
     s.stackDown (c.word 1).toNat 64 = false ∧ s.stackDown (c.word 2).toNat 64 = false ∧ (c.word 1).toNat % 8 = 0 ∧ (c.word 2).toNat % 8 = 0 ∧
     lineOf 0x2000 ∈ linesOf 0x2040 64 ∧ lineOf 0x2080 ∉ linesOf 0x2040 64 ∧ (s.slice (s.homeSlice 0x2000)).lines = [] ∧
     s.mem.dramRow 0x2000 = s.lineRow 0x2000) ∧
    (let c := fetched [8, 0x1000, 256]
     (withCmd c).openCmd 7 8 = some c ∧ (withCmd c).host.cmds = [c] ∧ (c.word 2).toNat % 128 = 0 ∧ (withCmd c).stackDown (c.word 1).toNat (c.word 2).toNat = false) ∧
    ((withCmd (fetched [8, 0x1000, 64])).openCmd 7 8 = some (fetched [8, 0x1000, 64])) ∧
    (let c := working [8, 0x1000, 256] []
     (withCmd c).cmd 7 = some c ∧ c.opcode = 8 ∧ c.phase = .running ∧ (c.word 2).toNat % 128 = 0) ∧
    (let c := fetched (flashWords 0x800000000000)
     let s := { withCmd c with cfg := { ready.cfg with map := [hostMap] } }
     s.openCmd 7 0x0C = some c ∧ s.loadAhead 7 = false ∧ s.stepUses (c.word 2).toNat c.flashSource = false ∧ s.flashFault c = none ∧
     s.wrstop = false ∧ isHostWin (c.word 2).toNat 1 = true ∧ (withCmd c).flashFault c = some 2 ∧
     (let s := { s with regs := [(aFlStatus 0, 4)] }
      s.flashFault c = none ∧ s.wrstop = true)) ∧
    (let c := working (flashWords 0) [(readStage, 2)]
     let s := { withCmd c with mem := { ready.mem with writing := [(7, c.flashRange)] } }
     s.cmd 7 = some c ∧ c.opcode = 0x0C ∧ c.phase = .running ∧ c.at readStage = 2 ∧ (∃ w ∈ s.mem.writing, w.1 = 7) ∧ c.flashRange.cls < 2 ∧
     s.flashRead c.flashRange.base c.flashRange.len = false) := by decide +kernel
theorem test_xfer_line_agrees : (withCmd (fetched [5, 0x1000, 0x2040, 64])).Agrees 0x2000 :=
  ⟨fun _ h => absurd h List.not_mem_nil, fun _ => by decide +kernel⟩
theorem test_ways_held (s : State) (h : s.slices = []) : s.WaysHeld := by
  intro i
  simp [State.slice, h, FMap.get, Slice.empty]
theorem test_upsets_bounded : ∀ k, count ready.mem.upset k ≤ 3 := fun _ => Nat.zero_le 3
theorem test_meets_LoadsAndUnload :
    (∀ n ∈ [1, 0x20001, 0x40001], let c := fetched [BitVec.ofNat 64 n, 0x800000000000, 64]
      (withCmd c).openCmd 7 1 = some c ∧ (withCmd c).loadTurn c = true ∧ (withCmd c).loadReady c.region = true) ∧
    (let c := { working [1, 0, 0] [(readStage, 2)] with status := 8, detail := 5 }
     (withCmd c).cmd 7 = some c ∧ c.opcode = 1 ∧ c.at readStage = 2 ∧ c.at pinStage = 0 ∧ c.status ≠ 0 ∧ c.detail.toNat < 2 ^ 63) ∧
    (let c := working [1, 0, 0] [(readStage, 2)]
     let s := withBlock (withCmd c)
     s.cmd 7 = some c ∧ c.status = 0 ∧ (s.rgn c.region).copying = false ∧ (c.word 0).bit 17 = false ∧ (c.word 0).bit 18 = false ∧
     firstBad (s.badTarget c.fn c.region (imageOf (c.kept (c.imageLen / 8)) c.imageLen) false) = none) ∧
    (let c := working [1, 0, 0] [(readStage, 2), (pinStage, 1)]
     (withCmd c).cmd 7 = some c ∧ c.at pinStage = 1 ∧ (withCmd c).shadowsWait c.region = false ∧
     (let s := { withCmd c with mem := { ready.mem with copies := [(5, ⟨0, false, 0, [pinShadow 0], some 3, 0, false, false⟩)] } }
      s.shadowsWait c.region = true)) ∧
    (withCmd (fetched [2])).openCmd 7 2 = some (fetched [2]) := by decide +kernel
/-- A pass of OU 0 in phase `ph` with its descriptor at 0x1000. -/
def pass0 (ph : Nat) : Pass := ⟨0, 3, 0, 7, 0x1000, ph, 0, none, 0, 1, 0, 0, 0, 0, 0, 0⟩
/-- The machine with that pass and DRAM bytes. -/
def withPass (ph : Nat) (l : Mem) : State := { ready with passes := [pass0 ph], mem := { ready.mem with dram := l } }
/-- A STEP taken up, with one slow set at a stage and one off-load entry. -/
def run0 (slow : FMap Nat) (off : FMap Nat) : RunState := ⟨7, true, 0, true, 0, slow, 1, off, 1, 0, 0, 0, 0, none, none, false⟩
/-- The command of that STEP, with word 5's counts. -/
def stepping (slow : FMap Nat) (off : FMap Nat) : State :=
  withRgn { Region.empty with run := some (run0 slow off) } (withCmd (working [4, 0, 0, 0x3000, 0x4000, 0] []))
/-- The same with its two port B transfers started, port B up, and the descriptors at 0x3000 and 0x4000 as `l` gives them. -/
def moving (slow : FMap Nat) (off : FMap Nat) (l : Mem) : State :=
  let s := stepping slow off
  { s with
    host := { s.host with portB := true, pbq := [⟨0, false, 0⟩, ⟨0, true, 0⟩] }, mem := { s.mem with dram := l },
    cfg := { s.cfg with map := [⟨1, 0, 4096, 0x7000, 0, 2, true, true, 2⟩] } }
theorem test_meets_PassesAndTransfers :
    ((withPass 2 []).pass 0 3 = some (pass0 2) ∧ (withPass 2 []).ouPlace 0 0 = true ∧ (withPass 2 []).placeTurn (pass0 2) = true ∧
      uF32 ((withPass 2 []).updDesc 0x1000) 11 false = 0) ∧
    (let s := withPass 3 [(0x1030, 1), (0x1059, 0x80)]
     let d := s.updDesc 0x1000
     s.pass 0 3 = some (pass0 3) ∧ s.ouTurnOf 0 = some (pass0 3) ∧ uN d = (pass0 3).next + 1 ∧ uBlock d = false ∧ s.slices = [] ∧
     (match s.ouRead d (pass0 3) 0 with | .upd _ _ _ => true | _ => false) = true) ∧
    (let s := withPass 3 [(0x1002, 2), (0x1009, 0x20), (0x1011, 0x30), (0x1019, 0x40), (0x1030, 1), (0x1059, 0x80)]
     let d := s.updDesc 0x1000
     let at_ := fun k => uBase d k + (if k = 3 ∧ uWfmt d = 0 then 2 else 4) * 0
     s.ouTurnOf 0 = some (pass0 3) ∧ uN d = 1 ∧ s.slices = [] ∧ (∀ k, k < 3 → at_ k % 4 = 0) ∧ (∀ k, k < 4 → at_ k + 4 ≤ 16 * halfStack) ∧
     [at_ 0, at_ 1, at_ 2, at_ 3].Pairwise fun a b => a + 4 ≤ b ∨ b + 4 ≤ a) ∧
    (let s := { withPass 3 [(0x1030, 1)] with mem := { ready.mem with dram := [(0x1030, 1)], dramPoison := [0] } }
     s.ouTurnOf 0 = some (pass0 3) ∧ uN (s.updDesc 0x1000) = 1 ∧ s.ouRead (s.updDesc 0x1000) (pass0 3) 0 = .skip true) ∧
    (uN ((withPass 3 []).updDesc 0x1000) ≤ (pass0 3).next ∧ (pass0 3).addr % 8 = 0 ∧ (pass0 3).addr + 128 ≤ 16 * halfStack) ∧
    (let s := withPass 1 []
     let t := { s with time := { s.time with now := unboundWait } }
     s.pass 0 3 = some (pass0 1) ∧ (pass0 1).bound = none ∧ s.time.now < (pass0 1).at_ + unboundWait ∧ t.pass 0 3 = some (pass0 1) ∧
     (pass0 1).at_ + unboundWait ≤ t.time.now) ∧
    (opened.pfOpen (aOuSkipclr 15) = true ∧ opened.die 15 = .powered) := by decide +kernel
theorem test_meets_PassesAndTransfers_slow :
    (let s := moving [] [] []
     (s.slowSet 0 0).any (fun (x, c, d) => decide (count x.slow 0 = 0 ∧ s.pbTurn 0 false 0 = true ∧
       (s.fnWord c.fn (sHost d + sWant d % 16 * sSlot d + 8)).toNat ≠ sWant d)) = true) ∧
    (let s := moving [] [] [(0x3020, 2), (0x3028, 128)]
     (s.slowSet 0 0).any (fun (x, c, d) => decide (
       let slot := sHost d + sWant d % 16 * sSlot d
       count x.slow 0 = 0 ∧ s.pbTurn 0 false 0 = true ∧ s.host.portB = true ∧ (s.fnWord c.fn (slot + 8)).toNat = sWant d ∧
       s.fnMark c.fn (slot + 8) = false ∧ s.slices = [] ∧ sWork d % 8 = 0 ∧ c.slowAt 0 % 8 = 0 ∧ sVlen d = 128 ∧
       sWork d + sVlen d ≤ 16 * halfStack ∧ c.slowAt 0 + 40 ≤ 16 * halfStack ∧ sWork d + sVlen d ≤ c.slowAt 0 + 32)) = true) ∧
    (let s := moving [(0, 1)] [] []
     (s.slowSet 0 0).any (fun (x, _, _) => decide (count x.slow 0 = 1 ∧ s.onStep s.time.now = true ∧ s.regionMus 0 = [])) = true) := by decide +kernel
theorem test_meets_PassesAndTransfers_offload :
    (let s := moving [(0, 1)] [(0, 1)] []
     let t := { s with host := { s.host with portB := false } }
     (t.offSet 0 0).any (fun (x, _, d) => decide (count x.off 0 = 1 ∧ t.pbTurn 0 true 0 = true ∧
       oBack d = false ∧ t.host.portB = false)) = true) ∧
    (let s := moving [(0, 1)] [(0, 1)] [(0x4018, 128)]
     (s.offSet 0 0).any (fun (x, c, d) => decide (count x.off 0 = 1 ∧ s.pbTurn 0 true 0 = true ∧ oBack d = false ∧
       oDram d = false ∧ s.host.portB = true ∧
       Mem.wf s.host.mem = true ∧ oLen d = 128 ∧ (∀ n, n < oLen d → s.hostAddr c.fn (oHaddr d + n) = 0x7000 + n) ∧
       s.pbBad x.handle = false ∧ ∀ k, k < oLen d / 128 → (s.offRow 0 d k).poison = 0)) = true) := by decide +kernel
theorem test_meets_MemoryUpkeep :
    (let s := { ready with mem := { ready.mem with copies := [(copyKey 256 9, ⟨0, false, 0, [], some 3, 0, false, false⟩)] } }
     (s.copyOf 256 9).fetch.isSome = true ∧ s.plcOn = false ∧
     (let t := { s with regs := [(aPlcCtl, 1)] }
      (t.copyOf 256 9).fetch.isSome = true ∧ t.plcOn = true ∧ t.slices = [])) ∧
    ready.leafWanted 256 3 = false ∧
    (let f := { flitTo (.slice 0) 0x100000003000 0 with rtag := 256 }
     let m : Miss := ⟨0x100000003000, 256, none, [f], false⟩
     let s := ready.updSlice 0 fun _ => { Slice.empty with miss := [m], order := [f] }
     s.slices = [(0, { Slice.empty with miss := [m], order := [f] })] ∧ f.kind = .readReq ∧ s.leafBad 3 = false ∧ m.line / 4096 = flashBase / 4096 + 3 ∧ isFlash m.line 1 = true ∧
     s.domainOf m.rtag = 256 ∧ s.plcOn = false ∧ f.mask = 0) ∧
    (let s := { ready with mem := { ready.mem with refresh := [2 ^ 20 + 5] } }
     NatSet.mem s.mem.refresh (2 ^ 20 * 1 + 5) = true ∧ s.inWindow 0 983 = true ∧
     ({ s with time := { s.time with now := 984 } } : State).inWindow 0 983 = false) ∧
    (let s := { ready with regs := [(aMemCtl, 3)] }
     s.inWindow 0 255 = true ∧ s.dieExists 15 = true ∧ s.dieExists (unitDie 4032) = true ∧ (s.reg aMemCtl).bit 0 = true ∧ (s.reg aMemCtl).bit 1 = true ∧ s.power.st = .ready ∧ s.die 15 = .powered ∧ s.stackPresent 15 = true ∧
     unitDie 4032 < 16 ∧ (let t := { s with regs := [(aMemCtl, 0)] }; (t.reg aMemCtl).bit 0 = false ∧ (t.reg aMemCtl).bit 1 = false)) ∧
    (let s := { ready with cfg := { ready.cfg with grp := [(63, [0x2000000000000000, 0, 0])] } }
     s.gValid 63 = true ∧ (s.group 63).run = none ∧ s.host.cmds = []) ∧
    (opened.pfOpen (aMemTrain 3) = true ∧ (opened.reg (aMemTrain 3)).bit 5 = false ∧ opened.die 3 = .powered ∧ opened.stackPresent 3 = true ∧
      opened.cfg.part0 = [] ∧ (ready.setDie 3 .gated).die 3 ≠ .powered) ∧
    (let s := { ready with power := { ready.power with retrain := [(3, 5)] } }
     count s.power.retrain 3 ≠ 0 ∧ count ready.power.retrain 3 = 0) := by decide +kernel
theorem test_meets_DiePower :
    (ready.die 15 = .powered ∧ (ready.setDie 15 .gated).die 15 ≠ .powered) ∧
    (let s := (withRegion ready).setDie 0 .fencing
     s.die 0 = .fencing ∧ s.rgnsOn 0 = [0] ∧ s.fenceHolds 0 = true ∧ ready.die 0 ≠ .fencing ∧
     ({ s with flits := [{ flitTo (.unit 1) 0 0 with rtag := 0 }] } : State).fenceHolds 0 = false) ∧
    (let s := ready.setDie 2 .refusing
     s.die 2 = .refusing ∧ (∀ k, k < 16 → (s.slice (16 * 2 + k)).miss = [] ∧ (s.slice (16 * 2 + k)).park = []) ∧
     (let t := s.updSlice 40 fun _ => { Slice.empty with miss := [⟨0, 256, none, [], false⟩] }
      (t.slice (16 * 2 + 8)).miss ≠ [])) ∧
    ((ready.setDie 2 .selfRefresh).die 2 = .selfRefresh ∧ count ready.power.retrain 2 = 0) ∧
    ((ready.setDie 2 .holding).die 2 = .holding ∧ (ready.setDie 2 .poweringUp).die 2 = .poweringUp ∧
      (ready.setDie 2 .poweringUp).onFigure (ready.setDie 2 .poweringUp).time.now = true ∧ (ready.setDie 2 .gated).die 2 = .gated) := by decide +kernel
/-! ### Witnesses: Pavane, staged tables, entries, registers -/

/-- The opened machine with registers at values. -/
def withRegs (l : FMap W64) : State := { opened with regs := FMap.set 0 l aHubStage 10 }
theorem test_meets_PavaneClock :
    (opened.pfOpen aPavCtl = true ∧ W64.bit 0xF 4 = false ∧ opened.allEmpty = true ∧ opened.pavMode = 0 ∧ opened.pavEpoch = false ∧ opened.pavState = 0) ∧
    ((at0 .nop).allEmpty = false ∧ (withRegs [(aPavCtl, 1)]).pavMode = 1 ∧ (withRegs [(aPavCtl, 2)]).pavMode = 2) ∧
    (let s := withRegs [(aPavCtl, 8), (aPavTlval, 2000), (aPavPer, 1000)]
     s.pfOpen aPavCtl = true ∧ s.allEmpty = true ∧ s.pavMode = 0 ∧ s.pavEpoch = true ∧ s.pend.tload = false ∧
     (s.reg aPavTlval).toNat % max (s.regBits aPavPer 47 0) 1 = 0 ∧
     ({ s with pend := { s.pend with tload := true } } : State).pavEpoch = true ∧
     max (s.regBits aPavPer 47 0) 1 = 1000 ∧ 2 * (1990 % 1000) ≤ 2 * 1000) ∧
    (let s := withRegs [(aPavCtl, 8), (aPavStatus, 2), (aPavPer, 1000)]
     s.pavState = 2 ∧ ({ s with time := { s.time with epochMiss := 2 } } : State).time.epochMiss = 2 ∧ s.time.epochMiss < 2) ∧
    (let s := withRegs [(aPavCtl, 1), (aPavStatus, 1), (aPavSrc, 0x2180)]
     let t := { s with links := [(3, { Link.off with st := .up, peerDepth := some 31 })] }
     s.pavMode = 1 ∧ s.pavState = 1 ∧ s.bakFit = false ∧ t.bakFit = true) ∧
    ((withRegs [(aPavStatus, 3)]).pavState = 3 ∧ (withRegs [(aPavStatus, 4)]).pavState = 4 ∧ (withRegs [(aPavStatus, 3)]).pavMode = 0 ∧
      (withRegs [(aPavStatus, 3)]).lossHolds = false ∧ (withRegs [(aPavStatus, 3), (aPavCtl, 1), (aPavSrc, 0x43)]).lossHolds = true) ∧
    (let s := withRegs [(aPavCtl, 8), (aPavStatus, 2)]
     let t := { withRegs [(aPavCtl, 8)] with time := { ready.time with epochGood := 16 } }
     s.pavMode = 0 ∧ s.pavState = 2 ∧ s.pavEpoch = true ∧ (s.reg aPavOffset).toInt.natAbs ≤ 2 ∧
     t.pavState = 0 ∧ t.pavEpoch = true ∧ 16 ≤ t.time.epochGood ∧ (withRegs [(aPavCtl, 8)]).time.epochGood < 16) ∧
    (let s := withRegs [(aPavCtl, 1), (aPavSrc, 0x43)]
     let t := { s with links := [(3, { Link.off with st := .up })] }
     t.pavMode = 1 ∧ t.pavState = 0 ∧ t.sourceUp = true ∧ t.allEmpty = true ∧ (t.reg aPavOffset).toInt.natAbs ≤ 2) ∧
    (opened.pfOpen aPavSrc = true ∧ W64.bit 0x64 6 = true ∧ opened.linkFused (W64.bits 0x64 5 0) = true ∧ W64.bit 0x21C3 13 = true ∧
      W64.bits 0x21C3 5 0 = W64.bits 0x21C3 12 7 ∧ opened.linkFused (W64.bits 0x2203 5 0) = false ∧ opened.linkFused (W64.bits 0x2203 12 7) = false ∧
      W64.bits 0x2203 5 0 ≠ W64.bits 0x2203 12 7) := by decide +kernel
theorem test_meets_StagedTables_part :
    (opened.pfOpen aPartCtl = true ∧ opened.ctlBusy aPartCtl = false ∧ (withRegs [(aPartCtl, 2)]).ctlBusy aPartCtl = true ∧
      (firstFault (List.range 256) (opened.partCheck opened.stagedPart)).1 = 0 ∧ shareFault opened.stagedPart = (0, 0)) ∧
    (let s := withRegs [(aPart 0 0, 0x20000001)]
     (firstFault (List.range 256) (s.partCheck s.stagedPart)).1 ≠ 0) ∧
    (let s := { withRegion ready with pend := { ready.pend with part := some ⟨[], [], [], []⟩ } }
     s.pend.part = some ⟨[], [], [], []⟩ ∧ s.onFigure s.time.now = true ∧
     ({ s with time := { s.time with now := 8 } } : State).onFigure 8 = false ∧ s.regionOf (5 / 2 ^ 19) = some 0 ∧ ready.pend.part = none) := by decide +kernel
theorem test_meets_StagedTables_allot :
    (opened.pfOpen aAllotCtl = true ∧ opened.ctlBusy aAllotCtl = false ∧ (withRegs [(aAllotCtl, 2)]).ctlBusy aAllotCtl = true ∧
      (firstFault (List.range 256) (opened.allotCheck (opened.regTable 0x101000 8 256 0))).1 = 0) ∧
    (let s := withRegs [(aAllot 1, 0x1000)]
     (firstFault (List.range 256) (s.allotCheck (s.regTable 0x101000 8 256 0))).1 ≠ 0) ∧
    (let s := { ready with pend := { ready.pend with allot := some [(0, 0x10000)] }, banks := [] }
     s.pend.allot = some [(0, 0x10000)] ∧ s.onFigure s.time.now = true ∧ ready.pend.allot = none) := by decide +kernel
theorem test_meets_StagedTables_map :
    (opened.pfOpen aMapCtl = true ∧ opened.ctlBusy aMapCtl = false ∧ (withRegs [(aMapCtl, 2)]).ctlBusy aMapCtl = true ∧
      (firstFault ((opened.mapTable.map (·.idx) ++ opened.cfg.map.map (·.idx)).foldl NatSet.ins []) (opened.mapCheck opened.mapTable)).1 = 0) ∧
    (let s := withRegs [(aMap 0 0, 0x1000), (aMap 0 1, 0xFFFFFFFFFFFF), (aMap 0 3, 0x4C000)]
     (firstFault ((s.mapTable.map (·.idx) ++ s.cfg.map.map (·.idx)).foldl NatSet.ins []) (s.mapCheck s.mapTable)).1 ≠ 0) ∧
    (let s := { ready with cfg := { ready.cfg with map := [⟨0, 0, 4096, 0, 0, 0, true, true, 0⟩] }, pend := { ready.pend with map := some [] } }
     s.pend.map = some [] ∧ s.onFigure s.time.now = true ∧ (∀ e ∈ s.cfg.map, e.kind = 0 ∧ e.base ≤ 4095 ∧ 4095 < e.base + e.len) ∧ ready.pend.map = none) := by decide +kernel
theorem test_meets_StagedTables_fnring :
    (opened.pfOpen aFnringCtl = true ∧ opened.ctlBusy aFnringCtl = false ∧ (withRegs [(aFnringCtl, 2)]).ctlBusy aFnringCtl = true ∧
      (firstFault (List.range 4096) (opened.ringCheck (opened.regTable 0xA0000 8 4096 0))).1 = 0) ∧
    (let s := withRegs [(aFnring 1, 0x1F)]
     (firstFault (List.range 4096) (s.ringCheck (s.regTable 0xA0000 8 4096 0))).1 ≠ 0) ∧
    (ready.onFigure ready.time.now = true ∧ ({ ready with pend := { ready.pend with fnring := some [] } } : State).pend.fnring = some [] ∧ ready.pend.fnring = none) := by decide +kernel
/-- A legal grid of 64 dt a step, 16 steps a figure and 1 figure a cycle. -/
def gridded : State := withRegs [(aPavGridNext, 0x200100040)]
theorem test_meets_StagedTables_grid :
    (gridded.pfOpen aPavGridAt = true ∧ gridLegal gridded.gridNext = true ∧
      (let v := BitVec.ofNat 64 (1024 * gridded.figDt)
       v.toNat % max gridded.figDt 1 = 0 ∧ v.toNat % max (gridded.gridNext.1 * gridded.gridNext.2.1) 1 = 0 ∧ gridded.time.now + gridded.figDt ≤ v.toNat) ∧
      (0 : W64).toNat < gridded.time.now + gridded.figDt ∧ gridLegal (0, 16, 1) = false) ∧
    (let s := { gridded with pend := { gridded.pend with gridAt := some 1024 }, time := { gridded.time with now := 1024 } }
     s.pend.gridAt = some s.time.now ∧ s.allEmpty = true ∧ gridLegal s.gridNext = true ∧ s.time.now % (s.gridNext.1 * s.gridNext.2.1) = 0 ∧
     (let t := { at0 .nop with pend := s.pend, time := s.time }
      t.pend.gridAt = some t.time.now ∧ t.allEmpty = false) ∧ ready.pend.gridAt ≠ some ready.time.now) := by decide +kernel
theorem test_meets_EntryWrites :
    (opened.pfOpen aPlcCtl = true ∧ opened.plcOn = false ∧ opened.poolBad = false ∧ opened.allEmpty = true ∧
      (withRegs [(aPlcCtl, 1)]).plcOn = true ∧ (let s := { opened with cus := (at0 .nop).cus }; s.plcOn ≠ true ∧ s.allEmpty = false)) ∧
    (opened.pfOpen (aPlcRgn 5 0) = true ∧ opened.plcBad 5 (mergeBits 0 0 (pfRw (aPlcRgn 5 0))) (opened.reg (aPlcRgn 5 1)) = true ∧
      opened.plcBad 5 (mergeBits 0 0x9000000 (pfRw (aPlcRgn 5 0))) (opened.reg (aPlcRgn 5 1)) = false) ∧
    (opened.pfOpen (aFeedSlot 5 0) = true ∧ opened.feedSlotBad (mergeBits 0 (pfReset (aFeedSlot 5 0)) (pfRw (aFeedSlot 5 0))) (opened.reg (aFeedSlot 5 1)) = false ∧
      opened.feedSlotBad (mergeBits 0 0xFFFFFFFFFFFFFFFF (pfRw (aFeedSlot 5 0))) (opened.reg (aFeedSlot 5 1)) = true) ∧
    (opened.pfOpen (aGuest 5 1) = true ∧ W64.bit 0x1001 12 = true ∧ opened.fnEnabled (W64.bits 0x1001 11 0) = false ∧
      W64.bit 0xFFF 12 = false ∧ (opened.guestWord 5 1).bit 12 = false) ∧
    (opened.pfOpen (aCeGrp 5 0) = true ∧ opened.grpBad 5 (mergeBits 0 0x2000000000000000 (pfRw (aCeGrp 5 0))) (opened.reg (aCeGrp 5 1)) = true ∧
      opened.grpBad 5 (mergeBits 0 0x100 (pfRw (aCeGrp 5 0))) (opened.reg (aCeGrp 5 1)) = false) ∧
    (let s := { withRegs [(aObsTrc 0 1, 0x100), (aObsTrc 1 1, 0x100)] with
       cfg := { opened.cfg with part0 := [(0, 0x20000000)], map := [⟨0, 0, 0x100000, 0, 0, 0, true, true, 0⟩] } }
     s.pfOpen (aObsTrc 0 0) = true ∧ s.pfOpen (aObsTrc 1 0) = true ∧
     s.trcBad 0 (mergeBits 0 0x260000000001000 (pfRw (aObsTrc 0 0))) (s.reg (aObsTrc 0 1)) = false ∧ W64.bit 0x260000000001000 57 = true ∧
     s.trcBad 1 (mergeBits 0 0x260000000001000 (pfRw (aObsTrc 1 0))) (s.reg (aObsTrc 1 1)) = true) := by decide +kernel
/-- One trace record of region 0 waits on die 3. -/
def traced (en : W64) : State :=
  { ready with
    traces := [(3, [⟨0, 77, 1, 0, 0, 0, 0, 0, 0, 5⟩])],
    cfg := { ready.cfg with part0 := [(0, 0x20000000)], map := [⟨0, 0, 0x100000, 0, 0, 0, true, true, 0⟩], trc0 := [(0, en)], trc1 := [(0, 0x100)] } }
theorem test_meets_EntryWrites_traces :
    (FMap.get [] ready.traces 3 = [] ∧ FMap.get [] (traced 0).traces 3 = [⟨0, 77, 1, 0, 0, 0, 0, 0, 0, 5⟩] ∧ ((traced 0).trcWord 0 0).bit 57 = false) ∧
    (let s := traced 0x260000000001000
     let w := s.trcWord 0 0
     let a := w.bits 51 0 + 32 * (((s.rgn 0).trSeq - 1) % 2 ^ w.bits 56 52)
     w.bit 57 = true ∧ (s.rgn 0).trFig < (s.trcWord 0 1).bits 20 8 ∧ s.mapped (partOwner (s.part0 0)) a 32 (entDram false true) = true ∧
     a % 8 = 0 ∧ a + 32 ≤ 16 * halfStack) := by decide +kernel
/-- A state in which bring-up has stage `w` of HUB_STAGE. -/
def staged (w : W64) : State := { opened with regs := [(aHubStage, w)] }
theorem test_meets_RegisterWrites :
    (State.reset.awake = false ∧ opened.pfOpen aPavTlval = true ∧ opened.pfOpen aPlcStatus = true ∧ isDoorbell .pf aPavTlval = false) ∧
    (opened.pfOpen (aGlNode 0) = true ∧ (∀ l, l < 36 → (opened.link l).st = .off ∨ (opened.link l).st = .bypass) ∧ opened.power.variant ≠ 2 ∧
      (let v : W64 := 0x204080000
       v.bits 24 18 * v.bits 31 25 * v.bits 38 32 ≤ 16384 ∧ v.bits 5 0 < v.bits 24 18 ∧ v.bits 11 6 < v.bits 31 25 ∧ v.bits 17 12 < v.bits 38 32 ∧
       v.bits 24 18 ≤ 64 ∧ v.bits 31 25 ≤ 64 ∧ v.bits 38 32 ≤ 64) ∧
      (({ opened with links := [(35, { Link.off with st := .up })] } : State).link 35).st = .up) ∧
    ((staged 0xF3).pfOpen aStageGo = true ∧ W64.bits 4 3 0 ≤ 10 ∧ W64.bits 4 3 0 = (((staged 0xF3).reg aHubStage).bits 3 0 + 1) % 16 ∧
      ((staged 0xF3).reg aHubStage).bits 7 4 = 15 ∧ ((staged 0xF3).reg aHubStage).bit 11 = false ∧ 10 < W64.bits 11 3 0) ∧
    (opened.pfOpen aFwCtl = true ∧ opened.regBits aFwCtl 63 32 = 0 ∧ (opened.reg aFwCtl).bit 4 = false ∧
      (let s := { withRegs [(aFwCtl, 0x100000000000), (aFwSrc, 0x1000)] with cfg := { opened.cfg with map := [⟨0, 0, 0x100000, 0, 0, 0, true, true, 0⟩] } }
       s.pfOpen aFwCtl = true ∧ (s.reg aFwCtl).bit 4 = false ∧ s.stageDone 7 = true ∧ 0 < s.regBits aFwCtl 63 32 ∧ s.regBits aFwCtl 63 32 ≤ 2 ^ 25 ∧
       s.mapped 0 (s.regBits aFwSrc 51 0) (s.regBits aFwCtl 63 32) (entDram true false) = true) ∧
      ((withRegs [(aFwCtl, 16)]).reg aFwCtl).bit 4 = true) ∧
    opened.pfOpen aWmTag = true := by decide +kernel
/-! ### Witnesses: collectives -/

/-- A run of handle 7 over 384 bytes. -/
def crun (reshard : Bool) (via cop : Nat) (phase : FMap Nat) : CollRun :=
  ⟨7, reshard, via, cop, false, 0, 0, 0x10000, 0x20000, 384, 0x30000, phase, [], [], [], [], [], [], [], [], 1, false, 0, true, 0⟩
/-- A plan at 0x30000 of one entry of 512 bytes: a receive from node 2, or a send. -/
def plan0 (recv : Bool) : Mem :=
  if recv then [(0x30000, 1), (0x30020, 1), (0x30022, 2), (0x30031, 2)] else [(0x30000, 1), (0x30031, 2)]
/-- Node 0 of a torus of 3 × 1 × 1, in group 0 of GID 5 whose box has `n` members along X, with map ranges for function 0. -/
def collS (n : Nat) (g : Group) (cmds : List Cmd) (recv : Bool) : State :=
  { ready with
    regs := [(aGlNode 0, 0x1020C0000)], groups := [(0, g)], host := { ready.host with cmds := cmds },
    mem := { ready.mem with dram := plan0 recv },
    cfg := { ready.cfg with
      grp := [(0, [BitVec.ofNat 64 (5 + 2 ^ 36 + 2 ^ 46 + 2 ^ 61), BitVec.ofNat 64 (n * 2 ^ 18 + 2 ^ 25 + 2 ^ 32), 0])],
      map := [⟨0, 0, 0x100000, 0, 0, 0, true, true, 0⟩, ⟨1, 0x800000000000, 0x100000000, 0, 0, 2, true, true, 3⟩] },
    links := [(1, { Link.off with st := .up, peer := some ⟨2, 3, 1, 1, 0, 0, 0, 0⟩ })] }
/-- A COLL of a COP in word 0's and word 1's form. -/
def collC (w0 cop : Nat) : Cmd := fetched [BitVec.ofNat 64 w0, BitVec.ofNat 64 (0x50000 + cop), 0x10000, 0x20000, 768, 0, 0x30000]
theorem test_meets_CollectiveCommands :
    (∀ cop ∈ [0, 1, 2, 3], let c := collC 6 cop
      let s := collS 1 Group.idle [c] true
      s.openCmd 7 6 = some c ∧ (c.word 1).bits 2 0 = cop ∧ s.collFault c = none ∧ s.stackDown c.collRun.src 768 = false ∧
      s.stackDown c.collRun.dst 768 = false ∧ (c.word 0).bit 17 = false ∧ (s.group 0).run = none ∧ c.at trigStage = 0 ∧
      NatSet.mem s.digestBad 0 = false ∧ s.startStatus 0 c.collRun = 0 ∧ (∀ x ∈ s.host.cmds, x.at groupStage = 1 → x.phase ≠ .running) ∧ s.passes = []) ∧
    (let c := collC 6 4
     let s := collS 3 Group.idle [c] true
     s.openCmd 7 6 = some c ∧ (c.word 1).bits 2 0 = 4 ∧ s.collFault c = none ∧ s.startStatus 0 c.collRun = 0) ∧
    (let c := fetched [0x0E, 0x50000, 0x30000, 0, 0]
     let s := collS 3 Group.idle [c] true
     s.openCmd 7 0x0E = some c ∧ (c.word 1).bits 0 0 = 0 ∧ s.reshardFault c = none ∧
     ((s.planEnts c.collRun).any fun x => s.stackDown x.addr x.len) = false ∧ s.startStatus 0 c.collRun = 0 ∧
     ((s.setDie 0 .gated).planEnts c.collRun).any (fun x => (s.setDie 0 .gated).stackDown x.addr x.len) = true) ∧
    (let c := fetched [0x0E, 0x50001, 0x30000, 0x800000000000, 512]
     let s := collS 1 Group.idle [c] false
     s.openCmd 7 0x0E = some c ∧ (c.word 1).bits 0 0 = 1 ∧ s.reshardFault c = none ∧ s.startStatus 0 c.collRun = 0) ∧
    ((collS 3 Group.idle [] true).collFault (collC 6 5) = some 1 ∧ (collS 3 Group.idle [] true).collFault (collC 6 0x10000) = some 1) ∧
    (let c := collC 0x20006 0
     (collS 1 Group.idle [c] true).collFault c = none ∧ (c.word 0).bit 17 = true) ∧
    (let s := collS 3 ⟨some (crun false 0 0 []), [], []⟩ [collC 6 0] true
     s.collFault (collC 6 0) = none ∧ (s.group 0).run = some (crun false 0 0 []) ∧ (crun false 0 0 []).fail = 0 ∧
     s.collDone 0 (crun false 0 0 []) = false) := by decide +kernel
/-- A slot from a node to this one for GID 5. -/
def slotOf (src op off : Nat) (data : Nat) : Slot :=
  ⟨1, 0, 0, BitVec.ofNat 16 src, 0, 3, 1, BitVec.ofNat 4 op, 5, 0, BitVec.ofNat 40 off, 0, BitVec.ofNat 2048 data⟩
theorem test_meets_CollectiveSlots :
    (let s := collS 3 Group.idle [] true
     s.routeDir 2 = some 1 ∧ s.linkReaches 1 2 = true ∧ s.gFind 5 = some 0 ∧ s.gFind 6 = none ∧ s.gWm 0 = 0 ∧ s.gSeq 0 = 0 ∧
     (s.group 0).run = none ∧ s.host.cmds = [] ∧ readyWm (slotOf 2 1 0 0) = (s.grpDigest 0).toNat ∧ FMap.get [] (s.group 0).readyHeld 0 = []) ∧
    (let r := crun false 0 0 []
     let s := collS 3 ⟨some r, [], []⟩ [cmd0 7 [6] .running] true
     let x := slotOf 1 1 0 (2 * 2 ^ 128)
     (s.group 0).run = some r ∧ r.fail = 0 ∧ r.outst ≠ 0 ∧ x.offset.toNat = s.gSeq 0 ∧ readyWm x = (s.grpDigest 0).toNat ∧
     x.data.toNat % 2 ^ 144 = s.readyData 0 r % 2 ^ 144 ∧ s.readyKey 0 0 r 1 = some 0 ∧ FMap.get [] r.holdq 0 = []) := by decide +kernel
/-- What the shared part of a slot's clause asks, with the status the engine answers. -/
def slotMeets (r : CollRun) (x : Slot) (st : Nat) : Bool :=
  let s := collS 3 ⟨some r, [], []⟩ [] true
  st == 0 && s.gFind x.job.toNat == some 0 && x.wm.toNat == s.gWm 0 && r.fail == 0 && (s.geo 0 r).lanes.contains 0 &&
    !(NatSet.mem r.ready (phaseKey 0 (count r.phase 0))) &&
    (match (r.phases (s.geo 0 r))[count r.phase 0]? with
     | some p => decide (count r.got (phaseKey 0 (count r.phase 0)) + 1 ≠ s.expected 0 r (s.geo 0 r) p)
     | none => false)
theorem test_meets_CollectiveSlots_phases :
    (let r := crun false 0 0 []
     slotMeets r (slotOf 2 2 0 0) ((collS 3 ⟨some r, [], []⟩ [] true).takeReduce 0 0 r (slotOf 2 2 0 0)).2 = true) ∧
    (let r := crun false 0 0 [(0, 1)]
     slotMeets r (slotOf 2 3 256 0) ((collS 3 ⟨some r, [], []⟩ [] true).takePlace 0 0 r (slotOf 2 3 256 0)).2 = true ∧ r.cop ≠ 4) ∧
    (let r := crun true 1 4 []
     slotMeets r (slotOf 2 4 0 0) ((collS 3 ⟨some r, [], []⟩ [] true).takeBarrier 0 0 r (slotOf 2 4 0 0)).2 = true) := by decide +kernel
theorem test_meets_CollectiveSlots_plan :
    (let r := crun false 0 4 []
     let s := collS 3 ⟨some r, [], []⟩ [] true
     let p : PlanEnt := ⟨true, 2, 0x20000, 512, 0⟩
     r.outst ≠ 0 ∧ r.via = 0 ∧ (s.planEnts r)[0]? = some p ∧ p.peer = 2 ∧ count r.rgot (planKey 0 0) < s.planShare 0 0 p.len ∧ 256 + 256 ≤ p.len ∧
     (p.addr + 256) % 8 = 0 ∧ p.addr + 256 + 256 ≤ 16 * halfStack) ∧
    (let r := crun false 0 0 []
     let x := { slotOf 0 1 0 0 with dst := 2 }
     let s := collS 3 ⟨some r, [], [(0, [x])]⟩ [] true
     FMap.get [] (s.group 0).refused 0 = [x] ∧ s.routeDir x.dst.toNat = some 1 ∧ slotLane x = 0 ∧ s.linkReaches 1 2 = true ∧
     (s.link 1).freeTag = some 0) ∧
    (let s := collS 3 ⟨some (crun false 0 0 []), [], []⟩ [{ cmd0 7 [6] .running with aux := [(groupStage, 1)] }] true
     (s.cmd 7).isSome = true ∧ (∀ y ∈ s.host.cmds, y.at groupStage = 1 → y.handle = 7) ∧ s.passes = []) := by decide +kernel
/-! ### Witnesses: the links -/

/-- The opened machine with link 3 as given. -/
def withLink (k : Link) : State := { opened with links := [(3, k)] }
/-- Link 3 UP, with one change. -/
def upLink : Link := { Link.off with st := .up }
/-- An empty frame of SEQ 0 under its CRC. -/
def frame1 : Frame :=
  let f : Frame := ⟨0, 5, false, false, 0, 0, 0, 0, 0, 0, 0, 0, false, false, [], [], 0⟩
  { f with crc := frameCrc f }
theorem test_meets_GlogalFrames :
    ((ready.link 3).st ∈ [LinkState.off, .bypass, .train, .align] ∧ (withLink upLink).linkUp 3 = true ∧ ((withLink upLink).link 3).resend = [] ∧
      ((withLink { upLink with resend := [Frame.mk 1 0 false false 0 0 0 0 0 0 0 0 false false [] [] 0] }).link 3).resend ≠ [] ∧
      ((withLink { Link.off with st := .negotiate }).link 3).st = .negotiate) ∧
    (((withLink upLink).link 3).missing = false ∧ ((withLink { upLink with missing := true }).link 3).missing = true ∧
      ((withLink { upLink with expect := 9 }).link 3).expect ≠ frame1.seq.toNat ∧ frame1.seq.toNat = ((withLink upLink).link 3).expect ∧
      frame1.nak = false ∧ (withLink upLink).pavMode ≠ 1 ∧ frame1.slots = [] ∧ frame1.acks = []) ∧
    (let s := { withLink upLink with regs := [(aGlNode 0, 0x1020C0000)] }
     let u : TagUse := ⟨0, 7, none⟩
     let a : W64 := ackWord 0 3 5 2 0
     s.linkUp 3 = true ∧ a.bit 41 = true ∧ a.bits 15 0 = s.ownNode ∧ (s.link (a.bits 21 16)).tag (a.bits 32 22) = none ∧
     (let t := { s with links := [(3, { upLink with tagUse := [(5, some u)], tagGen := [(5, 2)] })] }
      a.bits 36 33 = count (t.link (a.bits 21 16)).tagGen (a.bits 32 22) ∧ (t.link (a.bits 21 16)).tag (a.bits 32 22) = some u ∧
      (t.group 0).run = none ∧
      (let r := { crun false 0 0 [] with outst := 2 }
       let v := { t with groups := [(0, ⟨some r, [], []⟩)] }
       (v.group u.grp).run = some r ∧ r.handle = u.handle ∧ a.bits 40 38 = 0 ∧ r.fail = 0 ∧ r.txq = [] ∧ 1 < r.outst))) ∧
    (let b := leBytes (withLink upLink).wmDigest.toNat 16
     let c := b ++ [1, 0, 5, 0] ++ List.replicate 16 1
     leNat ((b.drop 16).take 1) = 0 ∧ leNat (b.take 16) = (withLink upLink).wmDigest.toNat ∧
     leNat ([1].take 16) ≠ (withLink upLink).wmDigest.toNat ∧ leNat (c.take 16) = (withLink upLink).wmDigest.toNat ∧
     leNat ((c.drop 16).take 1) = 1 ∧ (collS 1 Group.idle [] true).gFind (leNat ((c.drop 18).take 2)) = some 0 ∧
     leNat ((c.drop 20).take 16) ≠ ((withLink upLink).grpDigest 0).toNat) := by decide +kernel
theorem test_crc_apart (f : Frame) (c : W32) : frameCrc { f with crc := c } = frameCrc f := rfl
theorem test_frame1_crc : frame1.crc = frameCrc frame1 := (test_crc_apart _ _).symm
theorem test_meets_GlogalLinks :
    ((withLink { Link.off with st := .train }).power.seated = true ∧ ((withLink { Link.off with st := .train, light := true }).link 3).light = true) ∧
    (∀ st ∈ [LinkState.train, .align, .negotiate, .bypass, .up, .off], ((withLink { Link.off with st := st }).link 3).st = st) ∧
    (let c : Capability := ⟨1, 3, 1, 1, 1, 0, 0, 0⟩
     let s := { withLink { Link.off with st := .negotiate, passed := true, peer := some c } with
       regs := [(aGlNode 0, 0x1020C0000)], links := [(0, { Link.off with st := .negotiate, passed := true, peer := some c })] }
     s.capCheck 0 c = 0 ∧ s.capCheck 0 { c with dx := 2 } = 4 ∧ (s.link 0).peer = some c ∧ (s.link 0).st = .negotiate ∧ (s.link 0).passed = true) ∧
    (let s := withLink { upLink with echoes := 1024, echoSum := 2048 * 7 }
     s.linkUp 3 = true ∧ 1024 ≤ (s.link 3).echoes ∧ (s.link 3).echoSum % 2048 = 0) ∧
    (((withRegs [(aGlLstat 0, 0x80)]).reg (aGlLstat 0)).bit 7 = true ∧ ∀ l, l < 36 → (opened.reg (aGlLstat l)).bit 7 = false) ∧
    (let s := { opened with pairs := [(4, ⟨true, some false, false⟩)] }
     (s.pair (3 * 1 + 1)).target = some false ∧ (∀ l ∈ pairLinks 4, (s.link l).st ≠ .up) ∧ (opened.pair 4).target = none) ∧
    (opened.pfOpen (aGlByp 2) = true ∧ opened.power.variant ≠ 2 ∧ W64.bits 7 2 0 = 7 ∧ ((withRegs [(aGlByp 2, 0x201)]).reg (aGlByp 2)).bits 2 0 ≠ 0 ∧
      ((withRegs [(aGlByp 2, 0x201)]).reg (aGlByp 2)).bit 9 = true ∧ ∀ j, j < 3 → (opened.pair (6 + j)).stuck = false) ∧
    (opened.pfOpen (aGlLctl 3) = true ∧ opened.linkFused 3 = false ∧ (opened.link 3).st ≠ .up ∧ (opened.link 3).st = .off ∧
      (opened.pair (Machine.pairOf 3)).cross = true ∧ (opened.pair (Machine.pairOf 3)).stuck = false) := by decide +kernel

/-! ### Witnesses: supplies, stages, Wallflower -/

/-- The module in a state, with its pins as in Reset but for the changes of `f`. -/
def powered (f : PowerSt → PowerSt) : State := { State.reset with power := f { PowerSt.reset with aux := true, pwrEn := true } }
theorem test_meets_SuppliesAndPins :
    (State.reset.power.aux = false ∧ (powered id).power.aux = true) ∧
    (State.reset.power.pgood = false ∧ (powered fun p => { p with pgood := true }).power.pgood = true) ∧
    (let s := powered id
     s.power.aux = true ∧ s.power.pwrEn = true ∧ s.power.v48 = true ∧ s.thermTrip = false ∧ s.power.pgood = false ∧ s.power.cold = true) ∧
    (State.reset.awake = false ∧ ready.awake = true ∧ State.reset.power.st ≠ .reset ∧ (powered fun p => { p with st := .reset }).power.st = .reset) ∧
    (let s := { powered fun p => { p with st := .bringup } with regs := [(aHubStage, 0xFF)] }
     s.power.st = .bringup ∧ s.regBits aHubStage 7 0 = 0xff ∧ s.power.keepFw = false ∧ s.power.fwSlots = 0 ∧
     ({ s with power := { s.power with keepFw := true } } : State).power.keepFw = true) ∧
    (ready.awake = true ∧ ready.vfs = 0 ∧ ready.fnRegions 0 = [] ∧ ready.host.cmds = [] ∧ ready.feed.reqs = []) ∧
    (let s := powered fun p => { p with st := .ready }
     s.power.aux = true ∧ s.wf.running = false ∧ s.wf.hwtrip = false ∧ s.awake = true ∧
     ({ s with wf := { s.wf with running := true } } : State).wf.running = true) := by decide +kernel
/-- Bring-up with stage `n` in progress. -/
def inStage (n : Nat) : State :=
  { powered (fun p => { p with st := .bringup }) with regs := [(aHubStage, BitVec.ofNat 64 (16 * n + (if n = 0 then 15 else n - 1)))] }
/-- Bring-up whose stage `n` has ended with a code. -/
def ended (n code : Nat) : State := { inStage n with power := { (inStage n).power with stageOk := some (code, 9) } }
/-- A defect of a half-stack's row. -/
def def0 : Defect := ⟨1, 0, 2, 3, 0, 0, 0, 0⟩
theorem test_meets_BringupStages :
    (∀ n ∈ List.range 11, (inStage n).stageRuns n = true ∧ (ready.stageRuns n = false)) ∧
    (3 ≤ 3 ∧ ((inStage 3).reg aDefCtl).bit 0 = false ∧ (inStage 3).power.defects.length < 512 ∧
      (∀ y ∈ (inStage 3).power.defects, Machine.Defect.samePart y def0 = false)) ∧
    ((inStage 4).power.defects = [] ∧ (inStage 4).regBits aDefCtl 17 2 = 0 ∧
      (let s := { inStage 4 with regs := FMap.set 0 (inStage 4).regs aDefCtl 0x10 }
       s.stageRuns 4 = true ∧ s.die 2 ≠ .fusedOff ∧ (s.regBits aDefCtl 17 2).testBit 2 = true)) ∧
    ((inStage 5).power.defects = [] ∧ (inStage 5).stackPresent 3 = true ∧ (inStage 5).dieExists 3 = true ∧ NatSet.mem (inStage 5).power.ifSettings 3 = false) ∧
    ((inStage 8).power.defects = [] ∧ (inStage 8).power.variant ≠ 2 ∧ (inStage 8).wf.wfhold = false ∧
      ∀ l, l < 36 → ((inStage 8).reg (aGlLctl l)).bit 0 = false) ∧
    ((inStage 2).power.stageOk = none ∧ (∀ n ∈ [0, 1, 10], ∀ c ∈ [0, 255], (ended n c).power.stageOk = some (c, 9) ∧
      (ended n c).power.st = .bringup ∧ (ended n c).regBits aHubStage 7 4 = n ∧ (ended n c).pairs = [])) := by decide +kernel
/-- The machine in Ready with Wallflower as given. -/
def withWf (f : WfSt → WfSt) : State := { ready with wf := f { WfSt.reset with running := true, taking := true } }
theorem test_meets_WallflowerDecisions :
    (State.reset.power.st ≠ .ready ∧ (withWf id).power.st = .ready ∧ (withWf id).wf.running = true ∧ (withWf id).wf.hbAbsent = false) ∧
    ((withWf id).sensorOn 3 = true ∧ (withWf id).sensorOn 42 = false ∧ NatSet.mem (withWf id).wf.missing 3 = false ∧ (withWf id).awake = true ∧
      (withWf id).mayGate 3 = true ∧ (withWf id).sensorOn 16 = true ∧ NatSet.mem (withWf fun w => { w with missing := [3] }).wf.missing 3 = true) ∧
    (let s := withWf fun w => { w with pend := [(3, 0)] }
     s.power.st = .ready ∧ s.wf.taking = true ∧ s.wf.trip = false ∧ s.gatingRuns = false ∧ s.wf.pend = [(3, 0)] ∧ s.mayGate 3 = true ∧
     ((withWf fun w => { w with gatedBy := [(3, 7)] }).setDie 3 .fencing).gatingRuns = true) ∧
    (let s := (withWf fun w => { w with order := [3], gatedBy := [(3, 7)] }).setDie 3 .gated
     s.awake = true ∧ s.wf.running = true ∧ s.wf.taking = true ∧ s.thermTrip = false ∧ s.wf.order = [3] ∧ NatSet.mem s.wf.hostReq 3 = false ∧
     s.released 3 = true ∧ s.die 3 = .gated) ∧
    (let s := { withWf id with power := { ready.power with st := .reset, resetN := false } }
     s.wf.running = true ∧ s.power.st = .reset ∧ s.power.resetN = false ∧ s.wf.heldSet = false) ∧
    (let s := { withWf id with power := { ready.power with pgood := true } }
     s.power.pgood = true ∧ s.wf.running = true ∧ ready.power.pgood = false) := by decide +kernel
theorem test_meets_SmbusCommands :
    (let s := withWf fun w => { w with alert := 2 }
     s.wf.running = true ∧ s.smbAlert = true ∧ (withWf id).smbAlert = false ∧ ready.wf.running = false) ∧
    (let s := withWf id
     (0 : Byte) ≠ s.pecFor 0x05 (leBytes 9000 2) ∧ 8000 ≤ (8000 : BitVec 16).toNat ∧ (21000 : BitVec 16).toNat ≤ 21000 ∧
     (7999 : BitVec 16).toNat < 8000 ∧ (8 : BitVec 16).getLsbD 3 = true ∧ s.dieExists 3 = true ∧ s.mayGate 3 = true ∧
     (let l : List Byte := (List.range 16).map (BitVec.ofNat 8)
      l.length = 16 ∧ ∀ d, d < 16 → d ∈ l.map (·.toNat)) ∧ s.awake = true ∧ s.holdCause = false ∧ s.thermTrip = false ∧
     (withWf fun w => { w with hbAbsent := true }).holdCause = true) := by decide +kernel

/-! ### Witnesses: the whole machine -/

theorem test_meets_MemoryStaysCanonical :
    (Mem.wf State.reset.mem.dram = true ∧ Mem.wf State.reset.mem.spad = true ∧ Mem.wf State.reset.mem.flash = true ∧
      Mem.wf State.reset.host.mem = true) ∧ State.reset.pending = [] := by decide +kernel
theorem test_meets_OnlyStops : (Zelux.vec .add { vec0 with dst := 63 }).legal = false := by decide +kernel
end Sys2Proof.Tests
end

section
/-! PROOFS. Fields of registers: what a bit and a field of a word are after another is set, and the registers after a table of them is. -/

namespace Sys2Proof.Laws

open Sys2Proof.Machine

/-! ### Fields of a word -/

theorem bits_lt (w : W64) (hi lo : Nat) : w.bits hi lo < 2 ^ (hi + 1 - lo) := Nat.mod_lt _ (by positivity)

theorem testBit_bits (w : W64) (hi lo i : Nat) : (w.bits hi lo).testBit i = (decide (i < hi + 1 - lo) && w.bit (lo + i)) := by
  simp [W64.bits, W64.bit, Nat.testBit_mod_two_pow, Nat.testBit_shiftRight, BitVec.testBit_toNat]

theorem testBit_maskBits {hi lo : Nat} (h : lo ≤ hi + 1) (i : Nat) : (maskBits hi lo).testBit i = decide (lo ≤ i ∧ i ≤ hi) := by
  have hm : maskBits hi lo = 2 ^ lo * (2 ^ (hi + 1 - lo) - 1) := by
    rw [maskBits, Nat.mul_sub, ← pow_add, Nat.add_sub_cancel' h, Nat.mul_one]
  rw [hm, Nat.testBit_two_pow_mul, Nat.testBit_two_pow_sub_one, ← Bool.decide_and, decide_eq_decide]
  omega

theorem bit_mergeBits (old v : W64) (m : Nat) {i : Nat} (h : i < 64) :
    (mergeBits old v m).bit i = if m.testBit i then v.bit i else old.bit i := by
  simp only [mergeBits, W64.bit, BitVec.getLsbD_or, BitVec.getLsbD_and, BitVec.getLsbD_not, BitVec.getLsbD_ofNat, h]
  cases m.testBit i <;> simp

theorem bit_of_ge (w : W64) {i : Nat} (h : 64 ≤ i) : w.bit i = false := BitVec.getLsbD_of_ge w i h

theorem mergeBits_none (old v : W64) : mergeBits old v 0 = old :=
  BitVec.eq_of_getLsbD_eq fun i hi => (bit_mergeBits old v 0 hi).trans (by rw [Nat.zero_testBit]; rfl)

theorem mergeBits_all (old v : W64) : mergeBits old v (maskBits 63 0) = v :=
  BitVec.eq_of_getLsbD_eq fun i hi => (bit_mergeBits old v _ hi).trans (by
    rw [testBit_maskBits (by omega), if_pos (decide_eq_true (by omega))]; rfl)

/-- A bit after the field `[hi:lo]` is set to `n`. -/
theorem bit_mergeField (w : W64) {hi lo : Nat} (h : lo ≤ hi) (h64 : hi < 64) (n i : Nat) :
    (mergeBits w (BitVec.ofNat 64 (n * 2 ^ lo)) (maskBits hi lo)).bit i =
      if lo ≤ i ∧ i ≤ hi then n.testBit (i - lo) else w.bit i := by
  by_cases hi64 : i < 64
  · rw [bit_mergeBits _ _ _ hi64, testBit_maskBits (by omega)]
    by_cases hin : lo ≤ i ∧ i ≤ hi
    · rw [W64.bit, BitVec.getLsbD_ofNat, Nat.testBit_mul_two_pow]
      simp [hin, hi64]
    · simp [hin]
  · rw [bit_of_ge _ (by omega), bit_of_ge w (by omega), if_neg (by omega)]

/-- A field that is set reads as what it was set to. -/
theorem bits_mergeField_same (w : W64) {hi lo : Nat} (h : lo ≤ hi) (h64 : hi < 64) (n : Nat) :
    (mergeBits w (BitVec.ofNat 64 (n * 2 ^ lo)) (maskBits hi lo)).bits hi lo = n % 2 ^ (hi + 1 - lo) := by
  refine Nat.eq_of_testBit_eq fun i => ?_
  rw [testBit_bits, bit_mergeField w h h64, Nat.testBit_mod_two_pow]
  by_cases hi' : i < hi + 1 - lo
  · simp [hi', show lo + i ≤ hi by omega]
  · simp [hi']

/-- A field apart from the one that is set reads as before. -/
theorem bits_mergeField_apart (w : W64) {hi lo : Nat} (h : lo ≤ hi) (h64 : hi < 64) (n : Nat) {p q : Nat} (ha : p < lo ∨ hi < q) :
    (mergeBits w (BitVec.ofNat 64 (n * 2 ^ lo)) (maskBits hi lo)).bits p q = w.bits p q := by
  refine Nat.eq_of_testBit_eq fun i => ?_
  rw [testBit_bits, testBit_bits, bit_mergeField w h h64]
  by_cases hi' : i < p + 1 - q
  · rw [if_neg (by omega)]
  · simp [hi']

/-! ### Fields of a register -/

variable (s : State)

theorem bit_setRegBits (o : Nat) {hi lo : Nat} (h : lo ≤ hi) (h64 : hi < 64) (n i : Nat) :
    ((s.setRegBits o hi lo n).reg o).bit i = if lo ≤ i ∧ i ≤ hi then n.testBit (i - lo) else (s.reg o).bit i := by
  rw [setRegBits_eq, reg_setReg_same, bit_mergeField _ h h64]

theorem bits_setRegBits_same (o : Nat) {hi lo : Nat} (h : lo ≤ hi) (h64 : hi < 64) (n : Nat) :
    ((s.setRegBits o hi lo n).reg o).bits hi lo = n % 2 ^ (hi + 1 - lo) := by
  rw [setRegBits_eq, reg_setReg_same, bits_mergeField_same _ h h64]

theorem bits_setRegBits_apart (o : Nat) {hi lo : Nat} (h : lo ≤ hi) (h64 : hi < 64) (n : Nat) {p q : Nat} (ha : p < lo ∨ hi < q) :
    ((s.setRegBits o hi lo n).reg o).bits p q = (s.reg o).bits p q := by
  rw [setRegBits_eq, reg_setReg_same, bits_mergeField_apart _ h h64 _ ha]

theorem bit_setRegBit_same (o : Nat) {i : Nat} (h : i < 64) : ((s.setRegBit o i).reg o).bit i = true := by
  simp [State.setRegBit, bit_setRegBits s o (le_refl i) h]

theorem bits_setRegBit_apart (o : Nat) {i : Nat} (h : i < 64) {p q : Nat} (ha : p < i ∨ i < q) :
    ((s.setRegBit o i).reg o).bits p q = (s.reg o).bits p q :=
  bits_setRegBits_apart s o (le_refl i) h 1 ha

/-! ### A table of registers -/

/-- Writing registers one after another changes `regs` alone. -/
theorem foldl_setReg_rest {α : Type} (a : α → Nat) (w : α → W64) (l : List α) :
    l.foldl (fun (s : State) k => s.setReg (a k) (w k)) s =
      { s with regs := (l.foldl (fun (s : State) k => s.setReg (a k) (w k)) s).regs } := by
  induction l generalizing s with
  | nil => rfl
  | cons k l ih => rw [List.foldl_cons, ih]; rfl

/-- Each of the registers written, all at offsets of their own, reads as what it was written to. -/
theorem reg_foldl_setReg {α : Type} (a : α → Nat) (ha : Function.Injective a) (w : α → W64) (l : List α) {k : α} (hk : k ∈ l) :
    (l.foldl (fun (s : State) k => s.setReg (a k) (w k)) s).reg (a k) = w k := by
  induction l using List.reverseRecOn with
  | nil => simp at hk
  | append_singleton l x ih =>
    rw [List.foldl_concat, reg_setReg]
    split
    · next h => rw [ha h]
    · next h =>
      refine ih ?_
      rcases List.mem_append.mp hk with hk | hk
      · exact hk
      · exact absurd (congrArg a (List.mem_singleton.mp hk)) h

@[simp] theorem reg_updPower (f : PowerSt → PowerSt) (o : Nat) : (s.updPower f).reg o = s.reg o := rfl

/-! ### Writes of the host -/

theorem pfWrite_open {s : State} {off : Nat} (h : s.pfOpen off = true) (t : State) : s.pfWrite off t = .next t := by
  simp [State.pfWrite, h]

theorem awake_of_pfOpen {s : State} {off : Nat} (h : s.pfOpen off = true) : s.awake = true := by
  simp only [State.pfOpen, Bool.and_eq_true] at h
  exact h.1

end Sys2Proof.Laws
end

section
/-! PROOFS. Register writes, GL_NODE, the bring-up stages, firmware programming and the watermark tag. -/

namespace Sys2Proof.Proofs

open Sys2Proof Sys2Proof.Machine Sys2Proof.Laws

/-! ### REGISTER_WRITE (R15, R17, R557, R558) -/

theorem exec_registerWrite (w : RegWrite) (s : State) : exec (.registerWrite w) s = execRegisterWrite w s := rfl

theorem registerWrite_ignored {w : RegWrite} {s : State}
    (h : s.awake = false ∨ w.off % 8 ≠ 0 ∨ 64 < w.bytes.length ∨ (w.bytes.length % 8 ≠ 0 ∧ w.bytes.length ≠ 4)) :
    exec (.registerWrite w) s = .next s := by
  rw [exec_registerWrite, execRegisterWrite]
  rcases h with h | h | h | ⟨h8, h4⟩
  · simp [h]
  · simp [h]
  · simp [h]
  · simp [h8, h4]

theorem registerWrite_half_ignored {w : RegWrite} {s : State} (h4 : w.bytes.length = 4) (hd : isDoorbell w.win w.off = false) :
    exec (.registerWrite w) s = .next s := by
  simp [exec_registerWrite, execRegisterWrite, h4, hd]

/-- Eight bytes at an aligned offset are one write of their word. -/
theorem registerWrite_word {w : RegWrite} {s : State} (ha : s.awake = true) (ho : w.off % 8 = 0) (h8 : w.bytes.length = 8) :
    exec (.registerWrite w) s = .next (s.putAt w.win w.off (BitVec.ofNat 64 (leNat w.bytes))) := by
  simp [exec_registerWrite, execRegisterWrite, ha, ho, h8, leWords, State.putRun, List.take_of_length_le]

theorem pfPut_pavTlval {s : State} (h : s.pfOpen aPavTlval = true) (v : W64) : s.pfPut aPavTlval v = s.setReg aPavTlval v := by
  have hp : s.pfPut aPavTlval v = s.plainWrite aPavTlval v := by
    have hp : s.pfAbsent aPavTlval = false := by simp [State.pfAbsent, inArr, aPavTlval]
    rw [State.pfPut, h, hp]
    simp [State.pavPut, aPavTlval, aPavCtl, aPavPer, aPavGridAt, aPavSrc, aAllotCtl]
  have hrw : pfRw aPavTlval = maskBits 63 0 := by decide
  have hw1c : pfW1c aPavTlval = 0 := by decide
  rw [hp, State.plainWrite, hrw, hw1c, mergeBits_all]
  simp only [BitVec.and_zero, BitVec.not_zero, BitVec.and_allOnes]

theorem pfPut_plcStatus {s : State} (h : s.pfOpen aPlcStatus = true) (v : W64) :
    s.pfPut aPlcStatus v = s.setReg aPlcStatus (s.reg aPlcStatus &&& ~~~(v &&& 0xe)) := by
  have hp : s.pfPut aPlcStatus v = s.plainWrite aPlcStatus v := by
    have hp : s.pfAbsent aPlcStatus = false := by simp [State.pfAbsent, inArr, aPlcStatus]
    rw [State.pfPut, h, hp]
    simp [inArr, aPlcStatus, aPlcCtl, aFnPage]
  have hrw : pfRw aPlcStatus = 0 := by decide
  have hw1c : BitVec.ofNat 64 (pfW1c aPlcStatus) = 0xe := by decide
  rw [hp, State.plainWrite, hrw, hw1c, mergeBits_none]

/-- A write of one word that sets its register to `x` and nothing else. -/
theorem registerWrite_sets {w : RegWrite} {s : State} {o : Nat} {x : W64} (hwin : w.win = .pf) (hoff : w.off = o) (ho : o % 8 = 0)
    (h : s.pfOpen o = true) (h8 : w.bytes.length = 8) (hput : s.pfPut o (BitVec.ofNat 64 (leNat w.bytes)) = s.setReg o x) :
    ∃ t, exec (.registerWrite w) s = .next t ∧ t = { s with regs := t.regs } ∧ t.reg o = x ∧ ∀ p, p ≠ o → t.reg p = s.reg p := by
  refine ⟨s.setReg o x, ?_, rfl, reg_setReg_same s o x, fun p hp => by rw [reg_setReg, if_neg hp]⟩
  rw [registerWrite_word (awake_of_pfOpen h) (hoff ▸ ho) h8, hwin, hoff]
  exact congrArg _ hput

/-! ### GL_NODE (R397) -/

theorem exec_glNodeWrite (v : W64) (s : State) : exec (.glNodeWrite v) s = s.pfWrite (aGlNode 0) (s.nodeWrite v) := rfl

theorem aGlNode_injective : Function.Injective aGlNode := fun a b h => by
  simp only [aGlNode, aLd] at h
  omega

/-- GL_NODE of link die k is set to `w k` on all six dies. -/
def setNodes (s : State) (w : Nat → W64) : State := (List.range 6).foldl (fun (s : State) k => s.setReg (aGlNode k) (w k)) s

theorem setNodes_rest (s : State) (w : Nat → W64) : setNodes s w = { s with regs := (setNodes s w).regs } := foldl_setReg_rest s _ _ _

theorem reg_setNodes (s : State) (w : Nat → W64) {k : Nat} (h : k < 6) : (setNodes s w).reg (aGlNode k) = w k :=
  reg_foldl_setReg s _ aGlNode_injective _ _ (List.mem_range.mpr h)

theorem nodeWrite_taken {s : State} {v : W64} (hq : ∀ l, l < 36 → (s.link l).st = .off ∨ (s.link l).st = .bypass)
    (hz : s.power.variant ≠ 2) (hn : v.bits 24 18 * v.bits 31 25 * v.bits 38 32 ≤ 16384)
    (hx : v.bits 5 0 < v.bits 24 18 ∧ v.bits 24 18 ≤ 64) (hy : v.bits 11 6 < v.bits 31 25 ∧ v.bits 31 25 ≤ 64)
    (hw : v.bits 17 12 < v.bits 38 32 ∧ v.bits 38 32 ≤ 64) :
    s.nodeWrite v = setNodes s fun k => BitVec.ofNat 64 (v.bits 38 0 +
      (v.bits 5 0 + v.bits 24 18 * (v.bits 11 6 + v.bits 31 25 * v.bits 17 12)) * 2 ^ 39 +
      (if (s.reg (aGlNode k)).bit 63 && !v.bit 63 then 2 ^ 63 else 0)) := by
  have hall : ((List.range 36).all fun l => (s.link l).st == .off || (s.link l).st == .bypass) = true := by simpa using hq
  simp [State.nodeWrite, setNodes, hall, show s.power.variant ≠ 2#4 from hz, hn, hx, hy, hw]

theorem nodeWrite_refused {s : State} {v : W64} {l : Nat} (hl : l < 36) (hu : (s.link l).st = .up) :
    s.nodeWrite v = setNodes s fun k => mergeBits (s.reg (aGlNode k)) (BitVec.ofNat 64 (1 * 2 ^ 63)) (maskBits 63 63) := by
  have hall : ((List.range 36).all fun l => (s.link l).st == .off || (s.link l).st == .bypass) = false := by
    rw [List.all_eq_false]
    exact ⟨l, List.mem_range.mpr hl, by simp [hu]⟩
  simp [State.nodeWrite, setNodes, hall, maskBits]

/-- What stands from bit 39 on does not show in the bits below. -/
theorem bits_low_ofNat (a n : Nat) (b : Bool) (h : a < 2 ^ 39) :
    W64.bits (BitVec.ofNat 64 (a + n * 2 ^ 39 + (if b then 2 ^ 63 else 0))) 38 0 = a := by
  simp only [W64.bits, BitVec.toNat_ofNat, Nat.shiftRight_zero]
  cases b <;> simp <;> omega

theorem glNodeWrite_taken {s : State} {v : W64} (ho : s.pfOpen (aGlNode 0) = true)
    (hq : ∀ l, l < 36 → (s.link l).st = .off ∨ (s.link l).st = .bypass)
    (hz : s.power.variant ≠ 2) (hn : v.bits 24 18 * v.bits 31 25 * v.bits 38 32 ≤ 16384)
    (hx : v.bits 5 0 < v.bits 24 18 ∧ v.bits 24 18 ≤ 64) (hy : v.bits 11 6 < v.bits 31 25 ∧ v.bits 31 25 ≤ 64)
    (hw : v.bits 17 12 < v.bits 38 32 ∧ v.bits 38 32 ≤ 64) :
    ∃ t, exec (.glNodeWrite v) s = .next t ∧ t = { s with regs := t.regs } ∧ ∀ k, k < 6 → (t.reg (aGlNode k)).bits 38 0 = v.bits 38 0 := by
  rw [exec_glNodeWrite, pfWrite_open ho, nodeWrite_taken hq hz hn hx hy hw]
  refine ⟨_, rfl, setNodes_rest s _, fun k hk => ?_⟩
  rw [reg_setNodes s _ hk]
  exact bits_low_ofNat _ _ _ (bits_lt v 38 0)

theorem glNodeWrite_refused {s : State} {v : W64} {l : Nat} (ho : s.pfOpen (aGlNode 0) = true) (hl : l < 36) (hu : (s.link l).st = .up) :
    ∃ t, exec (.glNodeWrite v) s = .next t ∧ t = { s with regs := t.regs } ∧
      ∀ k, k < 6 → (t.reg (aGlNode k)).bit 63 = true ∧ (t.reg (aGlNode k)).bits 62 0 = (s.reg (aGlNode k)).bits 62 0 := by
  rw [exec_glNodeWrite, pfWrite_open ho, nodeWrite_refused hl hu]
  refine ⟨_, rfl, setNodes_rest s _, fun k hk => ?_⟩
  rw [reg_setNodes s _ hk]
  refine ⟨?_, bits_mergeField_apart _ (le_refl 63) (by omega) 1 (by omega)⟩
  rw [bit_mergeField _ (le_refl 63) (by omega)]
  simp

/-! ### HUB_STAGE_GO (R479) -/

theorem exec_hubStageGo (v : W64) (s : State) : exec (.hubStageGo v) s = s.pfWrite aStageGo (s.stageGo (v.bits 3 0)) := rfl

theorem stageGo_taken {s : State} {n : Nat} (h10 : n ≤ 10) (hn : n = ((s.reg aHubStage).bits 3 0 + 1) % 16)
    (hr : (s.reg aHubStage).bits 7 4 = 15) (hf : (s.reg aHubStage).bit 11 = false) :
    s.stageGo n = (((s.setRegBits aHubStage 7 4 n).setRegBits aHubStage 8 8 0).setRegBits aHubStage 31 16 0).updPower
      fun p => { p with stageOk := none } := by
  rw [State.stageGo, if_pos]
  simp [h10, ← hn, hr, hf]

theorem stageGo_refused {s : State} {n : Nat} (h : 10 < n ∨ n ≠ ((s.reg aHubStage).bits 3 0 + 1) % 16 ∨
    (s.reg aHubStage).bits 7 4 ≠ 15 ∨ (s.reg aHubStage).bit 11 = true) : s.stageGo n = s.setRegBit aHubStage 9 := by
  rw [State.stageGo, if_neg]
  simp only [Bool.and_eq_true, decide_eq_true_eq, beq_iff_eq, Bool.not_eq_true']
  rintro ⟨⟨⟨h10, hn⟩, hr⟩, hf⟩
  rcases h with h | h | h | h
  · omega
  · exact h hn
  · exact h hr
  · simp [hf] at h

theorem hubStageGo_taken {s : State} {v : W64} (ho : s.pfOpen aStageGo = true) (h10 : v.bits 3 0 ≤ 10)
    (hn : v.bits 3 0 = ((s.reg aHubStage).bits 3 0 + 1) % 16) (hr : (s.reg aHubStage).bits 7 4 = 15) (hf : (s.reg aHubStage).bit 11 = false) :
    ∃ t, exec (.hubStageGo v) s = .next t ∧ (t.reg aHubStage).bits 7 4 = v.bits 3 0 ∧
      (t.reg aHubStage).bits 3 0 = (s.reg aHubStage).bits 3 0 ∧ (t.reg aHubStage).bit 8 = false ∧ (t.reg aHubStage).bits 31 16 = 0 ∧
      t = { s with regs := t.regs, power := { s.power with stageOk := none } } := by
  rw [exec_hubStageGo, pfWrite_open ho, stageGo_taken h10 hn hr hf]
  refine ⟨_, rfl, ?_, ?_, ?_, ?_, rfl⟩
  · rw [reg_updPower, bits_setRegBits_apart, bits_setRegBits_apart, bits_setRegBits_same, Nat.mod_eq_of_lt (bits_lt v 3 0)] <;> omega
  · rw [reg_updPower, bits_setRegBits_apart, bits_setRegBits_apart, bits_setRegBits_apart] <;> omega
  · rw [reg_updPower, bit_setRegBits, if_neg, bit_setRegBits, if_pos, Nat.zero_testBit] <;> omega
  · rw [reg_updPower, bits_setRegBits_same] <;> omega

theorem hubStageGo_refused {s : State} {v : W64} (ho : s.pfOpen aStageGo = true)
    (h : 10 < v.bits 3 0 ∨ v.bits 3 0 ≠ ((s.reg aHubStage).bits 3 0 + 1) % 16 ∨ (s.reg aHubStage).bits 7 4 ≠ 15 ∨
      (s.reg aHubStage).bit 11 = true) :
    ∃ t, exec (.hubStageGo v) s = .next t ∧ t = { s with regs := t.regs } ∧ (t.reg aHubStage).bit 9 = true := by
  rw [exec_hubStageGo, pfWrite_open ho, stageGo_refused h]
  exact ⟨_, rfl, rfl, bit_setRegBit_same s aHubStage (by omega)⟩

/-! ### PROG (R494) -/

theorem exec_hubFwctlProg (s : State) : exec .hubFwctlProg s = s.pfWrite aFwCtl s.fwProg := rfl

theorem exec_fwProgramDone (b : Bool) (s : State) : exec (.fwProgramDone b) s = execFwProgramDone b s := rfl

theorem fwProg_refused {s : State} (h : (s.reg aFwCtl).bit 4 = true ∨ s.stageDone 7 = false ∨ s.regBits aFwCtl 63 32 = 0) :
    s.fwProg = s.setRegBits aFwCtl 6 5 3 := by
  rw [State.fwProg, if_pos]
  rcases h with h | h | h <;> simp [h]

theorem fwProg_begins {s : State} (hb : (s.reg aFwCtl).bit 4 = false) (h7 : s.stageDone 7 = true) (h0 : 0 < s.regBits aFwCtl 63 32)
    (hn : s.regBits aFwCtl 63 32 ≤ 2 ^ 25)
    (hm : s.mapped 0 (s.regBits aFwSrc 51 0) (s.regBits aFwCtl 63 32) (entDram true false) = true) :
    s.fwProg = (s.setRegBits aFwCtl 6 5 0).setRegBit aFwCtl 4 := by
  rw [State.fwProg, if_neg]
  simp [hb, h7, hm, h0.ne']
  omega

theorem hubFwctlProg_refused {s : State} (ho : s.pfOpen aFwCtl = true)
    (h : (s.reg aFwCtl).bit 4 = true ∨ s.stageDone 7 = false ∨ s.regBits aFwCtl 63 32 = 0) :
    ∃ t, exec .hubFwctlProg s = .next t ∧ t = { s with regs := t.regs } ∧ (t.reg aFwCtl).bits 6 5 = 3 := by
  rw [exec_hubFwctlProg, pfWrite_open ho, fwProg_refused h]
  exact ⟨_, rfl, rfl, bits_setRegBits_same s aFwCtl (by omega) (by omega) 3⟩

theorem hubFwctlProg_begins {s : State} (ho : s.pfOpen aFwCtl = true) (hb : (s.reg aFwCtl).bit 4 = false) (h7 : s.stageDone 7 = true)
    (h0 : 0 < s.regBits aFwCtl 63 32) (hn : s.regBits aFwCtl 63 32 ≤ 2 ^ 25)
    (hm : s.mapped 0 (s.regBits aFwSrc 51 0) (s.regBits aFwCtl 63 32) (entDram true false) = true) :
    ∃ t, exec .hubFwctlProg s = .next t ∧ t = { s with regs := t.regs } ∧ (t.reg aFwCtl).bit 4 = true ∧ (t.reg aFwCtl).bits 6 5 = 0 := by
  rw [exec_hubFwctlProg, pfWrite_open ho, fwProg_begins hb h7 h0 hn hm]
  refine ⟨_, rfl, rfl, bit_setRegBit_same _ aFwCtl (by omega), ?_⟩
  rw [bits_setRegBit_apart, bits_setRegBits_same] <;> omega

theorem fwProgramDone_idle {s : State} (b : Bool) (h : (s.reg aFwCtl).bit 4 = false) : exec (.fwProgramDone b) s = .next s := by
  simp [exec_fwProgramDone, execFwProgramDone, h]

theorem fwProgramDone_ends {s : State} (b : Bool) (h : (s.reg aFwCtl).bit 4 = true) :
    ∃ t, exec (.fwProgramDone b) s = .next t ∧ (t.reg aFwCtl).bit 4 = false ∧ (t.reg aFwCtl).bits 6 5 = (if b then 1 else 2) ∧
      t = { s with regs := t.regs, power := { s.power with fwSlots := t.power.fwSlots } } := by
  have hbit (n : Nat) : (((s.setRegBits aFwCtl 4 4 0).setRegBits aFwCtl 6 5 n).reg aFwCtl).bit 4 = false := by
    rw [bit_setRegBits, if_neg, bit_setRegBits, if_pos, Nat.zero_testBit] <;> omega
  have hres (n : Nat) : (((s.setRegBits aFwCtl 4 4 0).setRegBits aFwCtl 6 5 n).reg aFwCtl).bits 6 5 = n % 4 :=
    bits_setRegBits_same _ _ (by omega) (by omega) n
  rw [exec_fwProgramDone, execFwProgramDone, h]
  cases b with
  | false => exact ⟨_, rfl, hbit 2, hres 2, rfl⟩
  | true => exact ⟨_, rfl, hbit 1, hres 1, rfl⟩

/-! ### The watermark tag (R498) -/

theorem exec_hubWmtagWrite (v : W64) (s : State) : exec (.hubWmtagWrite v) s = s.pfWrite aWmTag (s.wmtagWrite v) := rfl

theorem hubWmtagWrite_pends {s : State} (v : W64) (ho : s.pfOpen aWmTag = true) :
    ∃ t, exec (.hubWmtagWrite v) s = .next t ∧ t = { s with regs := t.regs, pend := { s.pend with wmtag := some v } } ∧ t.reg aWmTag = v := by
  rw [exec_hubWmtagWrite, pfWrite_open ho]
  exact ⟨_, rfl, rfl, reg_setReg_same _ aWmTag v⟩

/-- Settles O50: each write through the lemma that says what it does where it is taken, refused or ignored. -/
theorem registerWrites : Obligations.RegisterWrites := by
  unfold Obligations.RegisterWrites
  refine ⟨fun w s => ⟨registerWrite_ignored, registerWrite_half_ignored, fun hwin hoff ho h8 => ?_, fun hwin hoff ho h8 => ?_⟩,
    fun v s ho => ⟨fun hq hz hn hx hy hw hx' hy' hw' => ?_, fun l hl hu => ?_⟩,
    fun v s ho => ⟨fun h10 hn hr hf => ?_, fun h => ?_⟩,
    fun s ho => ⟨fun h => ?_, fun hb h7 h0 hn hm => ?_⟩,
    fun b s => ⟨fwProgramDone_idle b, fwProgramDone_ends b⟩, fun v s ho => hubWmtagWrite_pends v ho⟩
  · exact registerWrite_sets hwin hoff (by decide) ho h8 (pfPut_pavTlval ho _)
  · exact registerWrite_sets hwin hoff (by decide) ho h8 (pfPut_plcStatus ho _)
  · exact glNodeWrite_taken ho hq hz hn ⟨hx, hx'⟩ ⟨hy, hy'⟩ ⟨hw, hw'⟩
  · exact glNodeWrite_refused ho hl hu
  · exact hubStageGo_taken ho h10 hn hr hf
  · exact hubStageGo_refused ho h
  · exact hubFwctlProg_refused ho h
  · exact hubFwctlProg_begins ho hb h7 h0 hn hm

end Sys2Proof.Proofs
end

section
/-! PROOFS. The machine after reset, and the step on an empty queue. -/

namespace Sys2Proof.Proofs

open Sys2Proof Sys2Proof.Machine Sys2Proof.Laws

/-! ### Reset (R16, R40) -/

theorem reset_reg (off : Nat) : State.reset.reg off = pfReset off := rfl

theorem reset_fnReg (fn off : Nat) : State.reset.fnReg fn off = fnReset off := rfl

/-- Settles O3: nothing is listed after reset, so every part reads as its Reset value. -/
theorem resetValues : Obligations.ResetValues := by
  unfold Obligations.ResetValues
  refine ⟨rfl, rfl, rfl, rfl, reset_reg, reset_fnReg, fun _ => rfl, fun _ => rfl, fun _ _ => rfl, fun _ _ => rfl,
    ?hubId, ?pavStatus, ?pavPer, ?pavGrid, ?plimit, rfl, reset_canonical⟩
  all_goals
    rw [reset_reg]
    decide

/-! ### Time that passes on an empty queue, and a response that leaves as it does (R12, R37, R370) -/

theorem sendResponse_time (s : State) (q : FeedReq) : (s.sendResponse q).time = s.time := by
  unfold State.sendResponse
  split
  · rfl
  · dsimp only
    split
    · split <;> rfl
    · rfl

theorem sendDue_time (s : State) : s.sendDue.time = s.time :=
  foldl_keeps (fun t : State => t.time = s.time) _ _ s rfl fun t q h => (sendResponse_time t q).trans h

theorem wfTime_time (s : State) (dt : Nat) : (s.wfTime dt).time = s.time := by
  unfold State.wfTime
  split <;> rfl

theorem passTo_now (s : State) (t : Nat) : (s.passTo t).time.now = t % 2 ^ 64 := by
  rw [State.passTo, wfTime_time, sendDue_time]
  rfl

/-- A core cycle that ends within a step passes time and no more. -/
theorem idleTick_within_step {s : State} (ha : s.awake = true) (hr : s.time.running = true)
    (hb : s.onStep ((s.time.now + 8) % 2 ^ 64) = false) : idleTick s = s.passTo (s.time.now + 8) := by
  simp only [idleTick, ha, hr, passTo_now, hb]
  rfl

theorem wfTime_host (s : State) (dt : Nat) : (s.wfTime dt).host = s.host := by
  unfold State.wfTime
  split <;> rfl

/-- A response that leaves makes its request's running command due, with the answer's status. -/
theorem sendResponse_host {s : State} {q : FeedReq} {a : Nat × List Byte} {c : Cmd} (ha : q.answered = some a)
    (hc : s.cmd q.handle = some c) (hp : c.phase = .running) :
    (s.sendResponse q).host = (s.updCmd q.handle fun c => { c with phase := .due, status := a.1 }).host := by
  rw [State.cmd] at hc
  simp only [State.sendResponse, ha, State.cmd, updReq_host, hc, hp]
  rfl

/-- With one request in flight, graded and its window begun, its response leaves. -/
theorem sendDue_single {s : State} {q : FeedReq} (hq : s.feed.reqs = [q]) (hs : q.sent = false) (ha : q.answered.isSome = true)
    (hw : q.win < 25 * s.time.now) : s.sendDue = s.sendResponse q := by
  simp [State.sendDue, hq, hs, ha, hw]

/-- The command of a request in flight. -/
def requestCmd : Cmd := ⟨7, 0, 0, 0, 0, false, [], .running, 0, 0, 0, 0, 0, 0, [], []⟩
/-- A request whose answer is graded OK and whose window has begun. -/
def gradedReq : FeedReq := ⟨0, 7, 0, 0, 0, 0, 0, 0, 0, 0, 0, 0, 0, 0, [], none, none, true, [], some (0, []), false⟩
/-- The module in Ready, its time running, with that request in flight and nothing queued. -/
def responseDue : State :=
  { State.reset with
    power := { PowerSt.reset with st := .ready }
    time := { TimeSt.reset with running := true }
    host := { HostSt.reset with cmds := [requestCmd] }
    feed := { FeedSt.reset with reqs := [gradedReq] } }

/-- The cycle in which the response leaves makes the command due: the host side does not stand still. -/
theorem idleTick_responseDue_cmds : (idleTick responseDue).host.cmds = [{ requestCmd with phase := .due }] := by
  rw [idleTick_within_step rfl rfl (by decide), State.passTo, wfTime_host, sendDue_single (q := gradedReq) rfl rfl rfl (by decide),
    sendResponse_host (a := (0, [])) (c := requestCmd) rfl rfl rfl]
  rfl

/-- Refutes O2: in a cycle short of a step boundary a graded response whose window has begun leaves, and its command becomes due
(R37, R370), so the host side is not as before. -/
theorem not_idleStepPassesOneCycle : ¬ Obligations.IdleStepPassesOneCycle := by
  unfold Obligations.IdleStepPassesOneCycle
  intro h
  obtain ⟨offBoundary, -, -⟩ := h responseDue rfl
  obtain ⟨t, hstep, -, -, -, -, hhost, -⟩ := offBoundary rfl rfl (by decide)
  have ht : idleTick responseDue = t := Host.Outcome.next.inj hstep
  have hcmds := idleTick_responseDue_cmds
  rw [ht, hhost] at hcmds
  exact absurd hcmds (by decide)

end Sys2Proof.Proofs
end

section
/-! PROOFS. What a step answers and what it keeps: the two notions that every command's lemma is said in, and how they pass through an
`if`, a fold over a list, and an answer that may be none. -/

namespace Sys2Proof.Proofs

open Sys2Proof Sys2Proof.Machine Sys2Proof.Laws

section
variable {α : Type} {c : Prop} [Decidable c] {a b : State}

theorem ite_canonical (ha : a.Canonical) (hb : b.Canonical) : (if c then a else b).Canonical := by
  split
  · exact ha
  · exact hb

/-- A change that leaves the four memories as they are. -/
theorem untouched (ha : a.Canonical) (hd : b.mem.dram = a.mem.dram := by rfl) (hs : b.mem.spad = a.mem.spad := by rfl)
    (hf : b.mem.flash = a.mem.flash := by rfl) (hh : b.host.mem = a.host.mem := by rfl) : b.Canonical :=
  SameMem.canonical ⟨hd, hs, hf, hh⟩ ha

/-- Nothing of the state outside `mem` and `host` bears on the memories. -/
theorem rest_canonical {power time regs fnRegs pbRegs cfg pend cus mus fab flits net wires slices rgns banks feed passes ouLast links pairs
    groups traces log wf wmDigest digestBad free pending} (ha : a.Canonical) :
    State.Canonical { a with
      power := power, time := time, regs := regs, fnRegs := fnRegs, pbRegs := pbRegs, cfg := cfg, pend := pend, cus := cus, mus := mus
      fab := fab, flits := flits, net := net, wires := wires, slices := slices, rgns := rgns, banks := banks, feed := feed
      passes := passes, ouLast := ouLast, links := links, pairs := pairs, groups := groups, traces := traces, log := log, wf := wf
      wmDigest := wmDigest, digestBad := digestBad, free := free, pending := pending } := ha

theorem updMem_canonical {f : MemSt → MemSt} (ha : a.Canonical) (hd : ∀ m, (f m).dram = m.dram := by intro; rfl)
    (hs : ∀ m, (f m).spad = m.spad := by intro; rfl) (hf : ∀ m, (f m).flash = m.flash := by intro; rfl) : (a.updMem f).Canonical :=
  SameMem.canonical (s := a) ⟨hd _, hs _, hf _, rfl⟩ ha

theorem updHost_canonical {f : HostSt → HostSt} (ha : a.Canonical) (hh : ∀ x, (f x).mem = x.mem := by intro; rfl) :
    (a.updHost f).Canonical := SameMem.canonical (s := a) ⟨rfl, rfl, rfl, hh _⟩ ha

/-- A state that may change once more. -/
theorem ite_then (ha : a.Canonical) (hb : a.Canonical → b.Canonical) : (if c then b else a).Canonical := ite_canonical (hb ha) ha

/-- A state that may change once more, the other way round. -/
theorem ite_else (ha : a.Canonical) (hb : a.Canonical → b.Canonical) : (if c then a else b).Canonical := ite_canonical ha (hb ha)

/-- The same of an answer that carries something beside the state. -/
theorem ite_fst_canonical {β : Type} {y z : State × β} (hy : y.1.Canonical) (hz : z.1.Canonical) :
    (if c then y else z).1.Canonical := by
  split
  · exact hy
  · exact hz

theorem foldl_canonical {f : State → α → State} {l : List α} (hf : ∀ t x, t.Canonical → (f t x).Canonical) (ha : a.Canonical) :
    (l.foldl f a).Canonical := foldl_keeps State.Canonical f l a ha hf

/-- A fold that carries something beside the state. -/
theorem foldl_fst_canonical {β : Type} {f : State × β → α → State × β} {l : List α} {z : State × β}
    (hf : ∀ z x, z.1.Canonical → (f z x).1.Canonical) (hz : z.1.Canonical) : (l.foldl f z).1.Canonical :=
  foldl_keeps (fun z : State × β => z.1.Canonical) f l z hz hf

/-- A fold that carries something before the state. -/
theorem foldl_snd_canonical {β : Type} {f : β × State → α → β × State} {l : List α} {z : β × State}
    (hf : ∀ z x, z.2.Canonical → (f z x).2.Canonical) (hz : z.2.Canonical) : (l.foldl f z).2.Canonical :=
  foldl_keeps (fun z : β × State => z.2.Canonical) f l z hz hf

/-- A state that comes with something else, where there is one. -/
theorem map_snd_canonical {β γ : Type} {o : Option (β × State)} {f : β → γ} (ho : ∀ z, o = some z → z.2.Canonical) :
    ∀ z, (o.map fun z => (f z.1, z.2)) = some z → z.2.Canonical := by
  intro z hz
  obtain ⟨y, hy, rfl⟩ := Option.map_eq_some_iff.mp hz
  exact ho y hy

theorem none_canonical : ∀ t, (none : Option State) = some t → t.Canonical := by simp

theorem some_canonical (ha : a.Canonical) : ∀ t, some a = some t → t.Canonical := by
  intro t h
  rwa [← Option.some.inj h]

theorem ite_opt_canonical {o p : Option State} (ho : ∀ t, o = some t → t.Canonical) (hp : ∀ t, p = some t → t.Canonical) :
    ∀ t, (if c then o else p) = some t → t.Canonical := by
  split
  · exact ho
  · exact hp

theorem getD_canonical {o : Option State} (ho : ∀ t, o = some t → t.Canonical) (ha : a.Canonical) : (o.getD a).Canonical := by
  cases o with
  | none => exact ha
  | some t => exact ho t rfl

end

/-! ### Commands -/

/-- The answer to a command run on `s` is a next state, canonical where `s` is. -/
def Keeps (s : State) (o : Out) : Prop := ∃ t, o = .next t ∧ (s.Canonical → t.Canonical)

section
variable {c : Prop} [Decidable c] {s t : State} {o p : Out}

theorem keeps_next (h : s.Canonical → t.Canonical) : Keeps s (.next t) := ⟨t, rfl, h⟩

theorem keeps_self : Keeps s (.next s) := keeps_next id

theorem ite_keeps (ho : Keeps s o) (hp : Keeps s p) : Keeps s (if c then o else p) := by
  split
  · exact ho
  · exact hp

theorem Keeps.after (ho : Keeps t o) (h : s.Canonical → t.Canonical) : Keeps s o := by
  obtain ⟨v, hv, hk⟩ := ho
  exact ⟨v, hv, fun hs => hk (h hs)⟩

theorem Keeps.canonical (ho : Keeps s o) (h : o = .next t) (hs : s.Canonical) : t.Canonical := by
  obtain ⟨v, hv, hk⟩ := ho
  obtain rfl : v = t := Host.Outcome.next.inj (hv.symm.trans h)
  exact hk hs

theorem Keeps.next (ho : Keeps s o) : ∃ t, o = .next t := by
  obtain ⟨v, hv, -⟩ := ho
  exact ⟨v, hv⟩

end

/-! ### Unit instructions (R110–R115) -/

/-- The command is the issue of instruction `z` at unit `u`, and what the instruction does keeps the canonical form. -/
def Issued (z : Zelux) (u : Nat) (s : State) (o : Out) : Prop :=
  ∃ wait go, o = issue u z wait go s ∧ ∀ k c x t, t.Canonical → State.Canonical (go k c x t)

end Sys2Proof.Proofs
end

section
/-! PROOFS. What every step keeps: registers, counters, memory and its caches. -/

namespace Sys2Proof.Proofs

open Sys2Proof Sys2Proof.Machine Sys2Proof.Laws

-- In order, one proof at a time: proofs elaborated side by side would exceed the limits of the check.
set_option Elab.async false

variable {s : State}

/-! ### Registers, counters and logs -/

section

variable (h : s.Canonical)
include h

theorem setReg_canonical {off v} : (s.setReg off v).Canonical := rest_canonical h

theorem setRegBits_canonical {off hi lo v} : (s.setRegBits off hi lo v).Canonical := setReg_canonical h

theorem setRegBit_canonical {off i} : (s.setRegBit off i).Canonical := setRegBits_canonical h

theorem addReg_canonical {off n} : (s.addReg off n).Canonical := setReg_canonical h

theorem addRegSat_canonical {off hi lo n} : (s.addRegSat off hi lo n).Canonical := setRegBits_canonical h

theorem setFnReg_canonical {fn off v} : (s.setFnReg fn off v).Canonical := rest_canonical h

theorem setFnBit_canonical {fn off i b} : (s.setFnBit fn off i b).Canonical := setFnReg_canonical h

theorem setPbReg_canonical {off v} : (s.setPbReg off v).Canonical := rest_canonical h

end

/-! ### Memory, lines and units' bytes -/

section

variable (h : s.Canonical)
include h

theorem setCu_canonical {u c} : (s.setCu u c).Canonical := rest_canonical h

theorem updCu_canonical {u f} : (s.updCu u f).Canonical := setCu_canonical h

theorem updCtx_canonical {u k f} : (s.updCtx u k f).Canonical := updCu_canonical h

theorem setMu_canonical {m x} : (s.setMu m x).Canonical := rest_canonical h

theorem updMu_canonical {m f} : (s.updMu m f).Canonical := setMu_canonical h

theorem updEng_canonical {m e f} : (s.updEng m e f).Canonical := updMu_canonical h

theorem updFab_canonical {u f} : (s.updFab u f).Canonical := rest_canonical h

theorem updRgn_canonical {r f} : (s.updRgn r f).Canonical := rest_canonical h

theorem updLink_canonical {l f} : (s.updLink l f).Canonical := rest_canonical h

theorem updPair_canonical {p f} : (s.updPair p f).Canonical := rest_canonical h

theorem updGroup_canonical {g f} : (s.updGroup g f).Canonical := rest_canonical h

theorem updWf_canonical {f} : (s.updWf f).Canonical := rest_canonical h

theorem updPower_canonical {f} : (s.updPower f).Canonical := rest_canonical h

theorem fresh_canonical : (s.fresh).2.Canonical := rest_canonical h

theorem setDie_canonical {d p} : (s.setDie d p).Canonical := updPower_canonical h

theorem addCtr_canonical {r w p n} : (s.addCtr r w p n).Canonical := updRgn_canonical h

theorem addUnitCtr_canonical {u w p n} : (s.addUnitCtr u w p n).Canonical := by
  unfold State.addUnitCtr
  split
  · exact addCtr_canonical h
  · exact h

theorem progressAt_canonical {u} : (s.progressAt u).Canonical := by
  unfold State.progressAt
  split
  · exact updRgn_canonical h
  · exact h

theorem noopSched_canonical {r} : (s.noopSched r).Canonical := addCtr_canonical h

theorem touchLine_canonical {i part a} : (s.touchLine i part a).Canonical := updSlice_canonical _ _ _ h

theorem lookLine_canonical {who i part a} : (s.lookLine who i part a).1.Canonical := by
  unfold State.lookLine
  extract_lets t src drop k gone
  have ht : t.Canonical := (lookTags_sameMem _ _ _).canonical h
  have hc : ∀ {a : State} {who w n}, a.Canonical → (a.countT who w n).Canonical := (countT_sameMem _ _ _ _).canonical
  split
  · exact hc ht
  next l _ =>
    extract_lets decoded
    have hd : (decoded t).Canonical := foldl_canonical (fun _ _ h1 => (countWord_sameMem _ _ _ _ _ _).canonical h1) ht
    have he : ∀ {a : State} {k}, a.Canonical → (a.countErr src k).Canonical := (countErr_sameMem _ _ _).canonical
    refine ite_fst_canonical (hc (updSlice_canonical _ _ _ (foldl_canonical (fun _ _ h1 => ?_) (he ht)))) (ite_fst_canonical ?_ ?_)
    · exact ite_canonical (he h1) (ite_canonical (he h1) h1)
    · exact updMem_canonical (hc (updSlice_canonical _ _ _ hd))
    · exact hc (touchLine_canonical hd)

theorem readLine_canonical {who part alloc l} : (s.readLine who part alloc l).Canonical := by
  unfold State.readLine
  dsimp only
  split
  · exact lookLine_canonical h
  · exact ite_then ((readDram_sameMem _ _ _).canonical (cleanOthers_canonical _ _ _ _ _ (lookLine_canonical h)))
      fun ht => allocLine_canonical _ _ _ _ _ _ _ ht

theorem hubRead_canonical {who a n} : (s.hubRead who a n).Canonical := foldl_canonical (fun _ _ h1 => readLine_canonical h1) h

theorem ouFetch_canonical {r a n} : (s.ouFetch r a n).Canonical := foldl_canonical (fun _ _ h1 => readLine_canonical h1) h

theorem muRead_canonical {r a n} : (s.muRead r a n).Canonical := foldl_canonical (fun _ _ h1 => readLine_canonical h1) h

theorem decodeSpad_canonical {m o n} : (s.decodeSpad m o n).Canonical :=
  foldl_canonical (fun _ _ h1 => (countWord_sameMem _ _ _ _ _ _).canonical h1) (ite_canonical h (addUnitCtr_canonical h))

theorem spadWritten_canonical {m o n} : (s.spadWritten m o n).Canonical :=
  ite_else (ite_canonical h (addUnitCtr_canonical h)) (rest_canonical ·)

theorem updCmd_canonical {a f} : (s.updCmd a f).Canonical := updHost_canonical h

theorem due_canonical {a status detail} : (s.due a status detail).Canonical := updCmd_canonical h

theorem regionFault_canonical {r status seq} : (s.regionFault r status seq).Canonical :=
  ite_canonical (ite_canonical h (updRgn_canonical h)) (untouched h)

theorem regionDown_canonical {r} : (s.regionDown r).Canonical := updRgn_canonical h

theorem latchEdge_canonical {r d second} : (s.latchEdge r d second).Canonical := ite_canonical (updRgn_canonical h) h

theorem latchWhere_canonical {r p second} : (s.latchWhere r p second).Canonical := foldl_canonical (fun _ _ h1 => latchEdge_canonical h1) h

theorem levelEdge_canonical {m e old new} : (s.levelEdge m e old new).Canonical := by
  unfold State.levelEdge
  split
  · exact h
  · exact latchWhere_canonical (latchWhere_canonical h)

theorem emitTrace_canonical {r d kind x y ce data a} : (s.emitTrace r d kind x y ce data a).Canonical :=
  ite_canonical (ite_canonical (rest_canonical h) (addCtr_canonical (updRgn_canonical h))) h

theorem faultRecord_canonical {r u ce w2 w3 w4 w5 w7} : (s.faultRecord r u ce w2 w3 w4 w5 w7).2.Canonical :=
  emitTrace_canonical (updRgn_canonical (by
    split
    · exact putDevWords_canonical _ _ _ h
    · exact h))

end

/-! ### Memory, lines and units' bytes: the commands -/

theorem pfWrite_keeps {off t} (h : s.Canonical → t.Canonical) : Keeps s (s.pfWrite off t) :=
  keeps_next fun hs => ite_canonical (h hs) hs

/-! ### Digests -/

section

variable (h : s.Canonical)
include h

theorem computeWm_canonical : (s.computeWm).Canonical := setReg_canonical (setReg_canonical (setReg_canonical (rest_canonical h)))

theorem computeGrp_canonical {g} : (s.computeGrp g).Canonical := setReg_canonical (setReg_canonical (rest_canonical h))

end

end Sys2Proof.Proofs
end

section
/-! PROOFS. What every step keeps: the units' queues and the streams. -/

namespace Sys2Proof.Proofs

open Sys2Proof Sys2Proof.Machine Sys2Proof.Laws

-- In order, one proof at a time: proofs elaborated side by side would exceed the limits of the check.
set_option Elab.async false

variable {s : State}

/-! ### Where things lie -/

section

variable (h : s.Canonical)
include h

theorem updCopy_canonical {dom sheet f} : (s.updCopy dom sheet f).Canonical := updMem_canonical h

theorem markLeaf_canonical {leaf b} : (s.markLeaf leaf b).Canonical := updMem_canonical h

theorem leafFails_canonical {dom leaf src deliver} (hdeliver : ∀ s, s.Canonical → (deliver s).Canonical) :
    (s.leafFails dom leaf src deliver).Canonical :=
  updCopy_canonical (markLeaf_canonical (hdeliver _ (markLeaf_canonical ((logRec_sameMem _ _ _ _ _ _).canonical (addReg_canonical h)))))

theorem countT2_canonical {dom sheet w n} : (s.countT2 dom sheet w n).Canonical :=
  (countT_sameMem _ _ _ _).canonical (ite_canonical (addReg_canonical h) h)

theorem dropCopy_canonical {dom sheet} : (s.dropCopy dom sheet).Canonical := updCopy_canonical h

theorem makeRoom_canonical {dom q need a n} : ∀ t, s.makeRoom dom q need a n = some t → t.Canonical := by
  induction n generalizing s with
  | zero => exact none_canonical
  | succ n ih =>
    rw [State.makeRoom]
    split
    · exact some_canonical h
    · split
      · exact ih (dropCopy_canonical h)
      · exact none_canonical

theorem startFetch_canonical {dom sheet prio a} : (s.startFetch dom sheet prio a).1.Canonical := by
  unfold State.startFetch
  dsimp only
  split
  · exact h
  · split
    · exact updCopy_canonical h
    · split
      · exact h
      · split
        next t e =>
          exact updCopy_canonical (makeRoom_canonical h _ e)
        · exact updMem_canonical h

theorem pinSheet_canonical {r pin prio sheet} : (s.pinSheet r pin prio sheet).1.Canonical := startFetch_canonical (updCopy_canonical h)

theorem pinWin_canonical {r w} : (s.pinWin r w).Canonical :=
  foldl_canonical (fun _ _ h1 => ite_canonical (addRegSat_canonical (pinSheet_canonical h1)) (pinSheet_canonical h1)) h

theorem unpinBy_canonical {p} : (s.unpinBy p).Canonical := updMem_canonical h

theorem unpinAll_canonical {r} : (s.unpinAll r).Canonical := unpinBy_canonical h

theorem showWres_canonical {r} : (s.showWres r).Canonical := ite_canonical h (setRegBits_canonical h)

theorem showAllWres_canonical : (s.showAllWres).Canonical := foldl_canonical (fun _ _ h1 => showWres_canonical h1) h

theorem pinAhead_canonical {r} : (s.pinAhead r).Canonical :=
  showWres_canonical (foldl_canonical (fun _ _ h1 => pinWin_canonical h1) (unpinBy_canonical h))

theorem fillT1_canonical {dom sheet} : (s.fillT1 dom sheet).Canonical :=
  foldl_canonical (fun _ _ h1 => ite_canonical h1 (allocLine_canonical _ _ _ _ _ _ _ h1)) (countT2_canonical h)

theorem dropLines_canonical {a n} : (s.dropLines a n).Canonical := rest_canonical h

theorem heatRead_canonical {r a} : (s.heatRead r a).Canonical :=
  ite_canonical h (ite_then (ite_then (updCopy_canonical h) (startFetch_canonical ·)) fun ht => ite_canonical (fillT1_canonical ht)
    (startFetch_canonical ht))

theorem retryPins_canonical : (s.retryPins).Canonical :=
  foldl_canonical (fun _ _ h1 => by
    split
    · dsimp only
      split
      next t e =>
        exact startFetch_canonical h1
      · exact h1
    · exact h1) h

theorem heatDecay_canonical : (s.heatDecay).Canonical := foldl_canonical (fun _ _ h1 => updCopy_canonical h1) h

theorem dropDieCopies_canonical {d} : (s.dropDieCopies d).Canonical :=
  showAllWres_canonical (foldl_canonical (fun _ _ h1 => ite_canonical (dropCopy_canonical h1) h1) h)

end

/-! ### Contexts and progress -/

section

variable (h : s.Canonical)
include h

theorem sendToken_canonical {u link chan t} : (s.sendToken u link chan t).Canonical := rest_canonical (updFab_canonical h)

theorem portFill_canonical {u p} : ∀ t, s.portFill u p = some t → t.Canonical := by
  unfold State.portFill
  dsimp only
  split
  · exact ite_opt_canonical (some_canonical (updCu_canonical h)) none_canonical
  · exact none_canonical

theorem portStep_canonical {u p} : ∀ t, s.portStep u p = some t → t.Canonical := by
  unfold State.portStep
  dsimp only
  split
  · exact ite_opt_canonical (some_canonical (sendToken_canonical (updCu_canonical h))) (portFill_canonical h)
  · exact portFill_canonical h

theorem pumpPort_canonical {u p n} : (s.pumpPort u p n).Canonical := by
  induction n generalizing s with
  | zero => exact h
  | succ n ih =>
    rw [State.pumpPort]
    split
    next t e => exact ih (portStep_canonical h t e)
    · exact h

theorem pumpPorts_canonical {u} : (s.pumpPorts u).Canonical := foldl_canonical (fun _ _ h1 => pumpPort_canonical h1) h

theorem pumpPass_canonical {u link chan n} : (s.pumpPass u link chan n).Canonical := by
  induction n generalizing s with
  | zero => exact h
  | succ n ih =>
    rw [State.pumpPass]
    split
    · exact h
    · exact ite_canonical (ih (sendToken_canonical (updFab_canonical h))) h

theorem cuFault_canonical {u k cause detail} : (s.cuFault u k cause detail).Canonical := by
  unfold State.cuFault
  dsimp only
  split
  · exact setCu_canonical h
  · exact regionFault_canonical (updRgn_canonical (addCtr_canonical (faultRecord_canonical (setCu_canonical h))))

theorem pumpMma_canonical {u} : (s.pumpMma u).Canonical := by
  unfold State.pumpMma
  extract_lets c z t
  have ht : t.Canonical := ite_canonical h (progressAt_canonical (setCu_canonical h))
  split
  · exact h
  · split
    · exact cuFault_canonical (setCu_canonical ht)
    · exact ite_then ht (updCtx_canonical ·)

theorem pumpPop_canonical {u k f drop} : (s.pumpPop u k f drop).Canonical := by
  unfold State.pumpPop
  extract_lets c x ports m
  split
  · exact h
  · extract_lets z y t
    have ht : t.Canonical := ite_canonical h (progressAt_canonical (setCu_canonical h))
    split
    · exact cuFault_canonical ht
    · exact ite_then ht (updCtx_canonical ·)

theorem pumpHold_canonical {u} : (s.pumpHold u).Canonical :=
  foldl_canonical (fun _ _ h1 => by
    dsimp only
    split
    · exact h1
    · split
      · exact pumpPop_canonical h1
      · exact pumpPop_canonical h1
      · exact h1) (pumpMma_canonical h)

theorem readInstr_canonical {u k} : (s.readInstr u k).Canonical := by
  unfold State.readInstr
  dsimp only
  split
  · exact h
  · exact (countErr_sameMem _ _ _).canonical h
  · exact (countErr_sameMem _ _ _).canonical h
  · exact updCtx_canonical ((logRec_sameMem _ _ _ _ _ _).canonical ((countErr_sameMem _ _ _).canonical h))
  · exact h

end

/-! ### Contexts and progress: the commands -/

theorem issueCtx_issued {u z use f} : Issued z u s (issueCtx u z use f s) := ⟨_, _, rfl, fun _ _ _ _ h => setCu_canonical h⟩

/-! ### Engines and their descriptors -/

section

variable (h : s.Canonical)
include h

theorem writeSpad_canonical {m o bs} : (s.writeSpad m o bs).Canonical :=
  spadWritten_canonical (foldl_canonical (fun _ _ h1 => putSpadRow_canonical _ _ _ _ _ h1) h)

theorem writeSpadRow_canonical {m row r} : (s.writeSpadRow m row r).Canonical := spadWritten_canonical (putSpadRow_canonical _ _ _ _ _ h)

theorem streamFault_canonical {m e cause detail idx} : (s.streamFault m e cause detail idx).Canonical := by
  unfold State.streamFault
  dsimp only
  split
  · exact updEng_canonical h
  · exact regionFault_canonical (addCtr_canonical (faultRecord_canonical (updEng_canonical h)))

theorem injectReq_canonical {m a mask row tag} : (s.injectReq m a mask row tag).Canonical := addUnitCtr_canonical (rest_canonical h)

theorem queueWrite_canonical {m e dw row lanes a bs} : (s.queueWrite m e dw row lanes a bs).Canonical := by
  unfold State.queueWrite
  exact updEng_canonical h

theorem sendWrite_canonical {m e} : ∀ t, s.sendWrite m e = some t → t.Canonical := by
  unfold State.sendWrite
  split
  · exact none_canonical
  · split
    · exact some_canonical (injectReq_canonical (updEng_canonical (updMu_canonical h)))
    · exact none_canonical

theorem addRc_canonical {m e n} : (s.addRc m e n).Canonical := ite_canonical h (progressAt_canonical (updEng_canonical h))

theorem dropJob_canonical {m e jobs} : (s.dropJob m e jobs).Canonical := updMu_canonical (updEng_canonical h)

theorem settleWrite_canonical {m e} : ∀ t, s.settleWrite m e = some t → t.Canonical :=
  ite_opt_canonical none_canonical (some_canonical (addRc_canonical (dropJob_canonical h)))

theorem settleRead_canonical {m e} : ∀ t, s.settleRead m e = some t → t.Canonical := by
  unfold State.settleRead
  dsimp only
  split
  · exact none_canonical
  · exact ite_opt_canonical none_canonical (ite_opt_canonical (some_canonical
      (ite_canonical (updMu_canonical (addRc_canonical (writeSpadRow_canonical (dropJob_canonical h))))
      (addRc_canonical (writeSpadRow_canonical (dropJob_canonical h)))))
      (ite_opt_canonical (some_canonical (addRc_canonical (sendToken_canonical (updEng_canonical (dropJob_canonical h))))) none_canonical))

theorem settleOut_canonical {m e} : ∀ t, s.settleOut m e = some t → t.Canonical := by
  unfold State.settleOut
  dsimp only
  split
  · exact none_canonical
  · exact ite_opt_canonical (some_canonical (sendToken_canonical (updEng_canonical h))) none_canonical

theorem engWait_canonical {m e st k} : (s.engWait m e st k).Canonical := updEng_canonical h

theorem nextRow_canonical {m e} : (s.nextRow m e).Canonical := updEng_canonical h

theorem storeBytes_canonical {m e d row lanes off bs} : (s.storeBytes m e d row lanes off bs).Canonical :=
  ite_canonical (queueWrite_canonical h) (writeSpad_canonical h)

theorem storeScales_canonical {m e d l} : (s.storeScales m e d l).Canonical :=
  foldl_canonical (fun _ _ h1 => ite_then (updEng_canonical h1) fun ht => storeBytes_canonical (updEng_canonical ht)) h

theorem storeRow_canonical {m e d x t} : (s.storeRow m e d x t).Canonical := by
  unfold State.storeRow
  extract_lets g u z q y full pack put v w
  have hu : u.Canonical := ite_canonical (addRc_canonical h) h
  have hput : ∀ a i, a.Canonical → (put a i).Canonical := fun a i ha => ite_else ha fun hb => addRc_canonical (storeBytes_canonical hb)
  have hv : v.Canonical := ite_canonical (hput _ _ hu) (ite_then hu fun ht => foldl_canonical (fun _ _ h1 => hput _ _ h1) ht)
  refine ite_canonical (ite_else hu fun ht => storeBytes_canonical (updEng_canonical ht)) ?_
  exact ite_then (updEng_canonical hv) (storeScales_canonical ·)

theorem pushOut_canonical {m e d t} : (s.pushOut m e d t).Canonical := updEng_canonical h

theorem endDesc_canonical {m e d} : (s.endDesc m e d).Canonical := by
  refine ite_canonical (streamFault_canonical h) (ite_then (updEng_canonical ?_) (updEng_canonical ·))
  have ht : State.Canonical (if dKind d = 4 then s.updMu m fun x => { x with sb := sbDone e (s.eng m e).nth x.sb } else s) :=
    ite_then h (updMu_canonical ·)
  split
  · exact ite_canonical (pushOut_canonical (updMu_canonical ht)) (writeSpadRow_canonical (updMu_canonical ht))
  · exact ht

theorem rowDone_canonical {m e d} : (s.rowDone m e d).Canonical := by
  unfold State.rowDone
  exact ite_then (nextRow_canonical h) (endDesc_canonical ·)

theorem readReqs_canonical {m e l} : ∀ z, s.readReqs m e l = some z → z.2.Canonical := by
  induction l generalizing s with
  | nil =>
    intro z hz
    obtain rfl := Option.some.inj hz
    exact h
  | cons a l ih =>
    rw [State.readReqs]
    dsimp only
    split
    · exact map_snd_canonical (ih h)
    · split
      · intro z hz
        exact absurd hz (by simp)
      · exact map_snd_canonical (ih (injectReq_canonical (updMu_canonical h)))

theorem formNext_canonical {m e} : (s.formNext m e).1.Canonical := by
  unfold State.formNext
  extract_lets g
  split
  · exact h
  · refine ite_fst_canonical h (ite_fst_canonical (endDesc_canonical h) ?_)
    split
    · exact ite_fst_canonical (updEng_canonical h) (engWait_canonical h)
    · refine ite_fst_canonical h ?_
      split
      · exact ite_fst_canonical h (streamFault_canonical h)
      · refine ite_fst_canonical ?_ ?_
        · split
          · exact updEng_canonical h
          · refine ite_fst_canonical (engWait_canonical h) ?_
            extract_lets t
            have ht : t.Canonical := levelEdge_canonical (progressAt_canonical (updEng_canonical h))
            clear_value t
            refine ite_fst_canonical (streamFault_canonical ht) ?_
            dsimp only
            exact rowDone_canonical (storeRow_canonical ht)
        · refine ite_fst_canonical ?_ ?_
          · refine ite_fst_canonical (engWait_canonical h) ?_
            dsimp only
            exact rowDone_canonical (ite_else (decodeSpad_canonical (addRc_canonical h)) (queueWrite_canonical ·))
          · refine ite_fst_canonical ?_ ?_
            · refine ite_fst_canonical h (ite_fst_canonical (engWait_canonical h) (ite_fst_canonical h ?_))
              extract_lets a b lines
              split
              · exact engWait_canonical h
              next t he =>
                dsimp only
                exact rowDone_canonical (addRc_canonical (updEng_canonical (readReqs_canonical h _ he)))
            · extract_lets z read
              have hr : (read s).Canonical := ite_else h fun h1 => decodeSpad_canonical (decodeSpad_canonical h1)
              refine ite_fst_canonical (ite_fst_canonical ?_ h) (ite_fst_canonical h ?_)
              · dsimp only
                exact rowDone_canonical (addRc_canonical (pushOut_canonical (updEng_canonical hr)))
              · dsimp only
                exact rowDone_canonical (addRc_canonical (updEng_canonical hr))

theorem engMove_canonical {m e} : (s.engMove m e).1.Canonical := by
  unfold State.engMove
  split
  next t e =>
    exact settleWrite_canonical h _ e
  · split
    next t e =>
      exact settleOut_canonical h _ e
    · split
      next t e =>
        exact settleRead_canonical h _ e
      · split
        next t e =>
          exact sendWrite_canonical h _ e
        · exact formNext_canonical h

theorem engRun_canonical {m e n} : (s.engRun m e n).Canonical := by
  induction n generalizing s with
  | zero => exact h
  | succ n ih => exact ite_then (engMove_canonical h) (ih ·)

theorem engGo_canonical {m e} : (s.engGo m e).Canonical := engRun_canonical h

theorem muGo_canonical {m} : (s.muGo m).Canonical := foldl_canonical (fun _ _ h1 => engGo_canonical h1) h

theorem beginDesc_canonical {m e k} : (s.beginDesc m e k).Canonical := by
  unfold State.beginDesc
  extract_lets g
  refine ite_canonical h ?_
  split
  · exact engWait_canonical h
  · refine ite_canonical (streamFault_canonical ((countErr_sameMem _ _ _).canonical h)) (ite_canonical h ?_)
    refine ite_canonical (streamFault_canonical ((countErr_sameMem _ _ _).canonical h)) (ite_canonical (engWait_canonical h) ?_)
    exact ite_canonical (engWait_canonical h) (updEng_canonical (updMu_canonical h))

theorem stream_canonical {m e k} : (s.stream m e k).Canonical := by
  unfold State.stream
  dsimp only
  split
  · exact ite_then (ite_canonical (beginDesc_canonical h) h) (engGo_canonical ·)
  · exact ite_canonical (beginDesc_canonical h) h

end

/-! ### Engines and their descriptors: the commands -/

theorem execDevToSp_keeps {m e} : Keeps s (execDevToSp m e s) := keeps_next (stream_canonical ·)

theorem execDevToLink_keeps {m e} : Keeps s (execDevToLink m e s) := keeps_next (stream_canonical ·)

theorem execSpToLink_keeps {m e} : Keeps s (execSpToLink m e s) := keeps_next (stream_canonical ·)

theorem execSpToDev_keeps {m e} : Keeps s (execSpToDev m e s) := keeps_next (stream_canonical ·)

theorem execLinkToSp_keeps {m e} : Keeps s (execLinkToSp m e s) := keeps_next (stream_canonical ·)

theorem execLinkToDev_keeps {m e} : Keeps s (execLinkToDev m e s) := keeps_next (stream_canonical ·)

theorem execCompareAndCount_keeps {m e} : Keeps s (execCompareAndCount m e s) := keeps_next (stream_canonical ·)

theorem execDescriptorBurstArrive_keeps {m e} : Keeps s (execDescriptorBurstArrive m e s) := by
  unfold execDescriptorBurstArrive
  split
  · exact keeps_self
  · exact keeps_next fun h => updEng_canonical (by
    split
    · exact ite_canonical (regionDown_canonical h) (muRead_canonical h)
    · exact h)

theorem execPeerRelease_keeps {m e} : Keeps s (execPeerRelease m e s) := by
  unfold execPeerRelease
  dsimp only
  split
  · exact ite_keeps (keeps_next (engGo_canonical ·)) keeps_self
  · exact keeps_self

theorem execListEnd_keeps {m e} : Keeps s (execListEnd m e s) := ite_keeps (keeps_next (updEng_canonical ·)) keeps_self

/-! ### Tokens -/

section

variable (h : s.Canonical)
include h

theorem deliver_canonical {u p t} : (s.deliver u p t).Canonical :=
  ite_canonical (ite_canonical (engGo_canonical (levelEdge_canonical (addUnitCtr_canonical (updEng_canonical h)))) h)
    (ite_canonical (pumpHold_canonical (addUnitCtr_canonical (setCu_canonical h))) h)

theorem passThrough_canonical {u olink ochan t} : (s.passThrough u olink ochan t).Canonical :=
  ite_canonical (pumpPass_canonical (addUnitCtr_canonical (updFab_canonical h))) h

end

/-! ### Tokens: the commands -/

theorem execTokenArrive_keeps {u link chan t} : Keeps s (execTokenArrive u link chan t s) := by
  unfold execTokenArrive
  split
  · exact keeps_self
  · exact ite_keeps keeps_self (ite_keeps (keeps_next fun h => updFab_canonical (rest_canonical h))
      (ite_keeps (keeps_next fun h => deliver_canonical (rest_canonical h)) (keeps_next fun h => passThrough_canonical (rest_canonical h))))

theorem execCreditReturn_keeps {u link chan} : Keeps s (execCreditReturn u link chan s) := by
  unfold execCreditReturn
  dsimp only
  split
  · exact keeps_self
  · split
    · exact keeps_next fun h => muGo_canonical (pumpPass_canonical (updFab_canonical h))
    · split
      · exact keeps_next fun h => pumpPort_canonical (pumpPass_canonical (updFab_canonical h))
      · exact keeps_next fun h => (pumpPass_canonical (updFab_canonical h))

end Sys2Proof.Proofs
end

section
/-! PROOFS. What every step keeps: the fabric, the home slices and the schedule. -/

namespace Sys2Proof.Proofs

open Sys2Proof Sys2Proof.Machine Sys2Proof.Laws

-- In order, one proof at a time: proofs elaborated side by side would exceed the limits of the check.
set_option Elab.async false

variable {s : State}

/-! ### Flits, slices and half-stacks -/

section

variable (h : s.Canonical)
include h

theorem takeFlit_canonical {f} : (s.takeFlit f).Canonical := rest_canonical h

theorem inject_canonical {f} : (s.inject f).Canonical := rest_canonical h

theorem reply_canonical {f row} : (s.reply f row).Canonical := inject_canonical h

theorem ack_canonical {f down} : (s.ack f down).Canonical := inject_canonical h

theorem nack_canonical {f} : (s.nack f).Canonical := inject_canonical h

theorem serveRld_canonical {m f} : (s.serveRld m f).Canonical := addUnitCtr_canonical (reply_canonical (decodeSpad_canonical h))

theorem remoteRead_canonical {m f} : (s.remoteRead m f).Canonical :=
  ite_canonical (ite_canonical (updMu_canonical h) (nack_canonical (updMu_canonical h))) (serveRld_canonical (updMu_canonical h))

theorem unpark_canonical {m} : (s.unpark m).Canonical := foldl_canonical (fun _ _ h1 => serveRld_canonical h1) (updMu_canonical h)

theorem sliceWrite_canonical {i f} : (s.sliceWrite i f).Canonical :=
  ack_canonical (writeLine_canonical _ _ _ _ _ _ _ _ (updSlice_canonical _ _ _ h))

theorem replyGroup_canonical {i part row l n} : (s.replyGroup i part row l n).Canonical := by
  induction n generalizing s l with
  | zero => cases l <;> exact h
  | succ n ih =>
    cases l with
    | nil => exact h
    | cons f l => exact ih (foldl_canonical (fun _ _ h1 => inject_canonical (updSlice_canonical _ _ _ h1)) h)

theorem runEntry_canonical {i m} : (s.runEntry i m).Canonical := by
  unfold State.runEntry
  dsimp only
  split
  · exact h
  · exact ite_canonical (sliceWrite_canonical h) (replyGroup_canonical h)

theorem takeEntry_canonical {i f} : (s.takeEntry i f).Canonical := ite_then (updSlice_canonical _ _ _ h) (heatRead_canonical ·)

theorem joinEntry_canonical {i f} : (s.joinEntry i f).Canonical := updSlice_canonical _ _ _ h

theorem mergeRead_canonical {i f} : (s.mergeRead i f).Canonical :=
  (countT_sameMem _ _ _ _).canonical (updSlice_canonical _ _ _ (joinEntry_canonical h))

theorem sliceServe_canonical {i f} : ∀ t, s.sliceServe i f = some t → t.Canonical := by
  unfold State.sliceServe
  dsimp only
  split
  · split
    · exact ite_opt_canonical (some_canonical (sliceWrite_canonical ((countWrite_sameMem _ _ _ _ _).canonical h))) none_canonical
    · split
      · exact some_canonical (joinEntry_canonical h)
      · exact ite_opt_canonical (some_canonical (takeEntry_canonical ((countWrite_sameMem _ _ _ _ _).canonical h))) none_canonical
  · split
    · exact ite_opt_canonical (some_canonical (mergeRead_canonical h)) none_canonical
    · split
      · exact none_canonical
      · split
        · exact some_canonical (reply_canonical (updSlice_canonical _ _ _ (lookLine_canonical h)))
        · exact ite_opt_canonical (some_canonical (takeEntry_canonical (lookLine_canonical h))) none_canonical

theorem sliceRound_canonical {i} : (s.sliceRound i).Canonical :=
  foldl_canonical (fun _ _ h1 => getD_canonical (sliceServe_canonical h1) h1) (updSlice_canonical _ _ _ (foldl_canonical (fun _ _ h1 => by
    split
    · exact runEntry_canonical h1
    · exact h1) h))

theorem sliceGo_canonical {i n} : (s.sliceGo i n).Canonical := by
  induction n generalizing s with
  | zero => exact h
  | succ n ih => exact ih (sliceRound_canonical h)

theorem sliceRun_canonical {i} : (s.sliceRun i).Canonical := sliceGo_canonical h

theorem sliceTake_canonical {i f} : (s.sliceTake i f).Canonical := by
  unfold State.sliceTake
  dsimp only
  split
  next t e =>
    exact sliceRun_canonical (updSlice_canonical _ _ _ (sliceServe_canonical (updSlice_canonical _ _ _ h) _ e))
  · exact ite_canonical (updSlice_canonical _ _ _ h) (nack_canonical (updSlice_canonical _ _ _ h))

theorem fillMiss_canonical {i m} : (s.fillMiss i m).Canonical :=
  sliceRun_canonical (ite_else (ite_else (updSlice_canonical _ _ _ h) fun ht => (readDram_sameMem _ _ _).canonical
    (cleanOthers_canonical _ _ _ _ _ ht)) fun ht => allocLine_canonical _ _ _ _ _ _ _ ht)

theorem rehome_canonical {f} : ∀ t, s.rehome f = some t → t.Canonical := by
  unfold State.rehome
  split
  · exact ite_opt_canonical none_canonical (ite_opt_canonical (some_canonical h)
      (ite_opt_canonical none_canonical (some_canonical (inject_canonical (takeFlit_canonical h)))))
  · exact none_canonical

theorem stale_canonical : (s.stale).Canonical := addReg_canonical h

theorem dropReply_canonical {f} : (s.dropReply f).Canonical := rest_canonical h

theorem rldArrive_canonical {u f row} : (s.rldArrive u f row).Canonical := by
  unfold State.rldArrive
  split
  · exact stale_canonical h
  · exact pumpPorts_canonical (updCtx_canonical h)

theorem rowArrive_canonical {f row} : (s.rowArrive f row).Canonical := by
  unfold State.rowArrive
  split
  · split
    · split
      · exact stale_canonical h
      · exact engGo_canonical (updEng_canonical h)
    · exact rldArrive_canonical h
  · exact h

theorem ackArrive_canonical {f} : (s.ackArrive f).Canonical := by
  unfold State.ackArrive
  split
  · split
    · split
      · exact stale_canonical h
      · exact engGo_canonical (updEng_canonical h)
    · split
      · exact stale_canonical h
      · exact updCtx_canonical h
  · exact h

theorem noteDown_canonical {f} : (s.noteDown f).Canonical := by
  unfold State.noteDown
  split
  · split
    · exact ite_canonical (regionDown_canonical h) h
    · exact h
  · exact h

theorem countResend_canonical {e} : (s.countResend e).Canonical := by
  unfold State.countResend
  split
  · exact ite_then (addUnitCtr_canonical h) (updMu_canonical ·)
  · exact rest_canonical h

end

/-! ### Flits, slices and half-stacks: the commands -/

theorem arrive_keeps {kind f refuse take} (hr : ∀ t, t.Canonical → (refuse t).Canonical) (ht : ∀ t, Keeps t (take t)) :
    Keeps s (s.arrive kind f refuse take) :=
  ite_keeps keeps_self (ite_keeps (keeps_next (addReg_canonical <| takeFlit_canonical ·))
    (ite_keeps (keeps_next (hr _ <| takeFlit_canonical ·)) ((ht _).after (takeFlit_canonical ·))))

theorem execScoreboardRetire_keeps {m e} : Keeps s (execScoreboardRetire m e s) := keeps_next fun h => unpark_canonical (updMu_canonical h)

theorem execMissFill_keeps {slice line tag} : Keeps s (execMissFill slice line tag s) := by
  unfold execMissFill
  split
  · exact keeps_self
  · exact ite_keeps (keeps_next (fillMiss_canonical ·)) (ite_keeps keeps_self
      (ite_keeps (keeps_next fun h => leafFails_canonical (countT2_canonical h) (fun _ h1 => fillMiss_canonical h1))
      (keeps_next fun h => fillMiss_canonical (countT2_canonical h))))

theorem execControlMessage_keeps {f} : Keeps s (execControlMessage f s) :=
  arrive_keeps (fun _ h1 => ack_canonical h1) (fun _ => keeps_next (ack_canonical ·))

theorem execReadReply_keeps {f} : Keeps s (execReadReply f s) :=
  arrive_keeps (fun _ h1 => dropReply_canonical h1) (fun _ => keeps_next (rowArrive_canonical ·))

theorem execAcknowledgement_keeps {f} : Keeps s (execAcknowledgement f s) :=
  arrive_keeps (fun _ h1 => h1) (fun _ => keeps_next fun h => ackArrive_canonical (ite_canonical (noteDown_canonical h) h))

theorem execDomainDownAnswer_keeps {f} : Keeps s (execDomainDownAnswer f s) :=
  arrive_keeps (fun _ h1 => h1) (fun _ => keeps_next fun h => rowArrive_canonical (noteDown_canonical h))

theorem execNack_keeps {f} : Keeps s (execNack f s) :=
  arrive_keeps (fun _ h1 => h1) (fun _ => keeps_next fun h => ite_canonical h (stale_canonical h))

theorem execNackResend_keeps {f} : Keeps s (execNackResend f s) :=
  keeps_next fun h => ite_canonical (countResend_canonical (inject_canonical h)) h

/-! ### Synchronisation -/

section

variable (h : s.Canonical)
include h

theorem lateDraw_canonical {x} : (s.lateDraw x).2.Canonical := by
  unfold State.lateDraw
  split
  · exact h
  · exact fresh_canonical h

theorem switchTo_canonical {u c v} : (s.switchTo u c v).Canonical := pumpHold_canonical (setCu_canonical h)

end

/-! ### Synchronisation: the commands -/

theorem execSetmode_issued {u mask value aclr} : Issued (Zelux.setmode mask value aclr) u s (execSetmode u mask value aclr s) :=
  ⟨_, _, rfl, fun _ _ _ _ h1 => setCu_canonical (lateDraw_canonical h1)⟩

theorem execGetstat_issued {u sd} : Issued (Zelux.getstat sd) u s (execGetstat u sd s) :=
  ⟨_, _, rfl, fun _ _ _ _ h1 => setCu_canonical (lateDraw_canonical h1)⟩

theorem execEndProg_issued {u} : Issued (Zelux.endp) u s (execEndProg u s) := ⟨_, _, rfl, fun _ _ _ _ h1 => setCu_canonical h1⟩

theorem execYieldCtx_issued {u sv succ} : Issued (Zelux.yld sv succ) u s (execYieldCtx u sv succ s) :=
  ⟨_, _, rfl, fun _ _ _ _ h1 => setCu_canonical h1⟩

theorem execWaitStep_issued {u count} : Issued (Zelux.waitStep count) u s (execWaitStep u count s) :=
  ⟨_, _, rfl, fun _ _ _ _ h1 => setCu_canonical h1⟩

theorem execWaitSb_issued {u ld st} : Issued (Zelux.waitSb ld st) u s (execWaitSb u ld st s) :=
  ⟨_, _, rfl, fun _ _ _ _ h1 => setCu_canonical h1⟩

theorem execWaitDrain_issued {u} : Issued (Zelux.waitDrain) u s (execWaitDrain u s) := ⟨_, _, rfl, fun _ _ _ _ h1 => setCu_canonical h1⟩

theorem execMark_issued {u tag} : Issued (Zelux.mark tag) u s (execMark u tag s) :=
  ⟨_, _, rfl, fun _ _ _ _ h1 => setCu_canonical (by
    split
    · split
      · exact emitTrace_canonical h1
      · exact h1
    · exact h1)⟩

theorem execContextSwitch_keeps {u} : Keeps s (execContextSwitch u s) := by
  unfold execContextSwitch
  dsimp only
  split
  · exact keeps_self
  · split
    · split
      · exact keeps_self
      · exact keeps_next (switchTo_canonical ·)
    · split
      · split
        · exact keeps_next (setCu_canonical ·)
        · exact keeps_next (switchTo_canonical ·)
      · split
        · exact keeps_self
        · exact ite_keeps keeps_self (keeps_next (switchTo_canonical ·))

/-! ### Regions, deadlines and triggers -/

section

variable (h : s.Canonical)
include h

theorem selectBank_canonical {r b} : (s.selectBank r b).Canonical := setRegBits_canonical (rest_canonical h)

theorem setBankEnt_canonical {bank i w} : (s.setBankEnt bank i w).Canonical := untouched h

theorem readEnt_canonical {r i} : (s.readEnt r i).2.Canonical := by
  unfold State.readEnt
  dsimp only
  split
  · exact (logRec_sameMem _ _ _ _ _ _).canonical (noopSched_canonical h)
  · exact h

theorem clearBank_canonical {r bank} : (s.clearBank r bank).Canonical := untouched h

theorem updInst_canonical {r id f} : (s.updInst r id f).Canonical := updRgn_canonical h

theorem armTimers_canonical {r kind det t0} : (s.armTimers r kind det t0).2.Canonical :=
  foldl_snd_canonical (fun _ _ h1 => readEnt_canonical h1) h

theorem beginInst_canonical {r kind a deadline det} : (s.beginInst r kind a deadline det).Canonical :=
  emitTrace_canonical (updRgn_canonical (armTimers_canonical h))

theorem endInst_canonical {r id} : (s.endInst r id).Canonical := by
  unfold State.endInst
  split
  · exact h
  · exact addCtr_canonical (updRgn_canonical h)

theorem startIdle_canonical {u k c} : (s.startIdle u k c).Canonical := pumpHold_canonical (setCu_canonical h)

theorem startCtx_canonical {r u k} : (s.startCtx r u k).Canonical := by
  unfold State.startCtx
  dsimp only
  split
  · exact h
  · split
    · exact noopSched_canonical h
    · split
      · exact startIdle_canonical h
      · exact ite_canonical (noopSched_canonical h) (noopSched_canonical (setCu_canonical h))
      · split
        · exact ite_canonical (noopSched_canonical (startIdle_canonical h)) (setCu_canonical h)
        · exact setCu_canonical h

theorem startList_canonical {r m e l bank} : (s.startList r m e l bank).Canonical :=
  ite_canonical (noopSched_canonical h) (ite_canonical (updEng_canonical h)
    (ite_canonical (noopSched_canonical h) (ite_canonical (updEng_canonical h) (updEng_canonical h))))

theorem releaseMu_canonical {r m id} : (s.releaseMu r m id).Canonical :=
  foldl_canonical (fun _ _ h1 => ite_canonical h1 (ite_canonical (engGo_canonical (updEng_canonical h1))
    (ite_canonical (noopSched_canonical h1) (updEng_canonical h1)))) h

theorem sendBursts_canonical {m} : (s.sendBursts m).Canonical :=
  foldl_canonical (fun _ _ h1 => by
    split
    · exact updEng_canonical h1
    · exact h1) h

theorem releaseFence_canonical {r} : (s.releaseFence r).Canonical :=
  foldl_canonical (fun _ _ h1 => muGo_canonical (sendBursts_canonical h1)) (updRgn_canonical h)

theorem tryFence_canonical {r} : (s.tryFence r).Canonical := ite_canonical (releaseFence_canonical h) h

theorem beginWave_canonical {r} : (s.beginWave r).Canonical := ite_canonical (updRgn_canonical h) h

theorem askRedirect_canonical {r} : (s.askRedirect r).Canonical := updRgn_canonical h

theorem actDeadline_canonical {f} : (s.actDeadline f).Canonical :=
  ite_else (ite_canonical (updRgn_canonical h) h) fun hu => ite_then (by
    split
    · exact updInst_canonical (emitTrace_canonical hu)
    · exact updInst_canonical (emitTrace_canonical hu)
    · exact updRgn_canonical (emitTrace_canonical hu)) (askRedirect_canonical ·)

theorem actMark_canonical {f} : (s.actMark f).Canonical :=
  emitTrace_canonical (by
    split
    · exact updInst_canonical h
    · exact h)

theorem actArm_canonical {f det} : (s.actArm f det).Canonical := ite_canonical (noopSched_canonical h) (updRgn_canonical h)

theorem actCtx_canonical {f} : (s.actCtx f).Canonical := foldl_canonical (fun _ _ h1 => startCtx_canonical h1) h

theorem actList_canonical {f} : (s.actList f).Canonical := foldl_canonical (fun _ _ h1 => startList_canonical h1) h

theorem actRelease_canonical {f} : (s.actRelease f).Canonical := foldl_canonical (fun _ _ h1 => releaseMu_canonical h1) h

theorem actFence_canonical {f} : (s.actFence f).Canonical := updRgn_canonical h

theorem actSlot_canonical {f} : (s.actSlot f).Canonical := updRgn_canonical h

theorem act_canonical {code det f} : (s.act code det f).Canonical := by
  unfold State.act
  split
  · exact actCtx_canonical h
  · exact actList_canonical h
  · exact actRelease_canonical h
  · exact actFence_canonical h
  · exact actDeadline_canonical h
  · exact actArm_canonical h
  · exact actMark_canonical h
  · exact actSlot_canonical h
  · exact h

theorem fireDue_canonical {r d} : (s.fireDue r d).Canonical := by
  unfold State.fireDue
  split
  · exact ite_canonical (act_canonical (readEnt_canonical h)) (readEnt_canonical h)
  · split
    · exact h
    · exact ite_else (updInst_canonical h) fun ht => ite_canonical (noopSched_canonical ht) (act_canonical ht)

theorem endDets_canonical {r} : (s.endDets r).Canonical := updRgn_canonical h

theorem fireAll_canonical {r} : (s.fireAll r).Canonical := endDets_canonical (foldl_canonical (fun _ _ h1 => fireDue_canonical h1) h)

theorem completeDet_canonical {r d} : (s.completeDet r d).Canonical :=
  ite_canonical (beginWave_canonical (beginInst_canonical (updRgn_canonical h))) h

end

/-! ### Regions, deadlines and triggers: the commands -/

theorem execCtxStart_keeps {f} : Keeps s (execCtxStart f s) := keeps_next (actCtx_canonical ·)

theorem execListStart_keeps {f} : Keeps s (execListStart f s) := keeps_next (actList_canonical ·)

theorem execRelease_keeps {f} : Keeps s (execRelease f s) := keeps_next (actRelease_canonical ·)

theorem execFenceAction_keeps {f} : Keeps s (execFenceAction f s) := keeps_next (actFence_canonical ·)

theorem execDeadline_keeps {f} : Keeps s (execDeadline f s) := keeps_next (actDeadline_canonical ·)

theorem execArm_keeps {f} : Keeps s (execArm f s) := keeps_next (actArm_canonical ·)

theorem execMarkAction_keeps {f} : Keeps s (execMarkAction f s) := keeps_next (actMark_canonical ·)

theorem execSlotOpen_keeps {f} : Keeps s (execSlotOpen f s) := keeps_next (actSlot_canonical ·)

theorem execSlotWindowClose_keeps {r link} : Keeps s (execSlotWindowClose r link s) := keeps_next (updRgn_canonical ·)

theorem execFenceRelease_keeps {r} : Keeps s (execFenceRelease r s) := keeps_next fun h => ite_canonical (tryFence_canonical h) h

theorem execDetectorEdge_keeps {r d second} : Keeps s (execDetectorEdge r d second s) :=
  keeps_next fun h => ite_canonical (latchEdge_canonical h) h

theorem execDetectorComplete_keeps {r d} : Keeps s (execDetectorComplete r d s) :=
  keeps_next fun h => ite_canonical (completeDet_canonical h) h

end Sys2Proof.Proofs
end

section
/-! PROOFS. What every step keeps: the host, images and LOAD. -/

namespace Sys2Proof.Proofs

open Sys2Proof Sys2Proof.Machine Sys2Proof.Laws

-- In order, one proof at a time: proofs elaborated side by side would exceed the limits of the check.
set_option Elab.async false

variable {s : State}

/-! ### Command rings -/

section

variable (h : s.Canonical)
include h

theorem dbref_canonical {fn} : (s.dbref fn).Canonical := setFnBit_canonical h

theorem sqerr_canonical {fn} : (s.sqerr fn).Canonical := setFnBit_canonical h

theorem cqerr_canonical {fn} : (s.cqerr fn).Canonical := setFnBit_canonical h

theorem fnCount_canonical {fn w n} : (s.fnCount fn w n).Canonical := updHost_canonical h

theorem paRead_canonical {fn n} : (s.paRead fn n).Canonical := fnCount_canonical (addReg_canonical h)

theorem paWrite_canonical {fn n} : (s.paWrite fn n).Canonical := fnCount_canonical (addReg_canonical h)

theorem sqDoorbell_canonical {fn r v} : (s.sqDoorbell fn r v).Canonical :=
  ite_canonical h (ite_canonical (dbref_canonical h) (updHost_canonical h))

theorem cqDoorbell_canonical {fn r v} : (s.cqDoorbell fn r v).Canonical :=
  ite_canonical h (ite_canonical (dbref_canonical h) (updHost_canonical h))

theorem sqCfg_canonical {fn r v} : (s.sqCfg fn r v).Canonical :=
  ite_canonical h (ite_canonical (dbref_canonical h) (ite_canonical (setFnReg_canonical (ite_canonical h (dbref_canonical h)))
    (ite_then (setFnReg_canonical h) fun ht => updHost_canonical (setFnReg_canonical ht))))

theorem cqCfg_canonical {fn r v} : (s.cqCfg fn r v).Canonical :=
  ite_canonical h (ite_canonical (dbref_canonical h) (ite_canonical
    (ite_else (ite_canonical h (dbref_canonical h)) fun ht => ite_canonical (dbref_canonical ht) (setFnReg_canonical ht))
    (ite_then (setFnReg_canonical h) fun ht => updHost_canonical (setFnReg_canonical ht))))

theorem doorbell_canonical {fn f} (hf : ∀ s, s.Canonical → (f s).Canonical) : (s.doorbell fn f).Canonical :=
  ite_canonical h (ite_canonical (hf _ h) (dbref_canonical h))

theorem takeSlot_canonical {fn} : (s.takeSlot fn).2.2.Canonical := updHost_canonical (updHost_canonical (fresh_canonical h))

theorem discardReport_canonical {a} : (s.discardReport a).Canonical := ite_canonical h (addReg_canonical h)

theorem dropSlot_canonical {a} : (s.dropSlot a).Canonical := ite_canonical h (updHost_canonical h)

theorem takeSeq_canonical {fn} : (s.takeSeq fn).2.Canonical := updHost_canonical h

theorem reserveCq_canonical {fn r} : (s.reserveCq fn r).Canonical := updHost_canonical h

theorem fetchOne_canonical {fn r} : (s.fetchOne fn r).Canonical :=
  updHost_canonical (setFnReg_canonical (paWrite_canonical (hostWrite_canonical _ _ _
    (paRead_canonical (fnCount_canonical (reserveCq_canonical (by
    split
    · exact takeSlot_canonical (takeSeq_canonical h)
    · exact (takeSeq_canonical h))))))))

theorem putRecord_canonical {w} : (s.putRecord w).Canonical :=
  dropSlot_canonical (ite_else (setFnReg_canonical (ite_canonical (cqerr_canonical h)
    (paWrite_canonical (hostWrite_canonical _ _ _ h)))) fun ht => ite_canonical (cqerr_canonical ht)
    (paWrite_canonical (hostWrite_canonical _ _ _ ht)))

theorem postRecord_canonical {c} : (s.postRecord c).Canonical :=
  ite_canonical (putRecord_canonical (fnCount_canonical h)) (updHost_canonical (fnCount_canonical h))

theorem dropCmd_canonical {a} : (s.dropCmd a).Canonical := updHost_canonical h

theorem begin_canonical {a} : (s.begin a).Canonical := updCmd_canonical h

theorem keep_canonical {a k v} : (s.keep a k v).Canonical := updCmd_canonical h

theorem putHeld_canonical : (s.putHeld).Canonical :=
  ite_canonical (foldl_canonical (fun _ _ h1 => putRecord_canonical h1) (updHost_canonical h)) h

end

/-! ### Command rings: the commands -/

theorem execFnSqDb_keeps {fn r v} : Keeps s (execFnSqDb fn r v s) :=
  keeps_next fun h => doorbell_canonical h (fun _ h1 => sqDoorbell_canonical h1)

theorem execFnCqDb_keeps {fn r v} : Keeps s (execFnCqDb fn r v s) :=
  keeps_next fun h => doorbell_canonical h (fun _ h1 => cqDoorbell_canonical h1)

theorem execFnSqCfgWrite_keeps {fn r v} : Keeps s (execFnSqCfgWrite fn r v s) := keeps_next fun h => ite_canonical (sqCfg_canonical h) h

theorem execFnCqCfgWrite_keeps {fn r v} : Keeps s (execFnCqCfgWrite fn r v s) := keeps_next fun h => ite_canonical (cqCfg_canonical h) h

theorem execCommandFetch_keeps {fn r} : Keeps s (execCommandFetch fn r s) :=
  ite_keeps (keeps_next fun h => ite_canonical (sqerr_canonical h) (fetchOne_canonical h)) keeps_self

theorem execPortALinkDown_keeps : Keeps s (execPortALinkDown s) := keeps_next (updHost_canonical ·)

theorem execPortALinkReturn_keeps : Keeps s (execPortALinkReturn s) := keeps_next fun h => ite_canonical (updHost_canonical h) h

theorem execPortAHoldExpiry_keeps : Keeps s (execPortAHoldExpiry s) :=
  keeps_next fun h => ite_canonical h (foldl_canonical (fun _ _ h1 => dropSlot_canonical (cqerr_canonical h1)) (updHost_canonical h))

/-! ### Images -/

section

variable (h : s.Canonical)
include h

theorem loadBuf_canonical {x} : (s.loadBuf x).Canonical :=
  ite_canonical (foldl_canonical (fun _ _ h1 => putSpadRow_canonical _ _ _ _ _ h1) h) h

theorem setRange_canonical {r bank l} : (s.setRange r bank l).Canonical :=
  foldl_canonical (fun _ _ h1 => setBankEnt_canonical h1) (clearBank_canonical h)

theorem loadSched_canonical {r l} : (s.loadSched r l).Canonical :=
  ite_canonical (setRange_canonical (setRange_canonical h)) (setRange_canonical h)

theorem setRoutes_canonical {u t} : (s.setRoutes u t).Canonical := updFab_canonical h

theorem loadRoutes_canonical {r m} : (s.loadRoutes r m).Canonical :=
  foldl_canonical (fun _ _ h1 => setRoutes_canonical h1) (foldl_canonical (fun _ _ h1 => setRoutes_canonical h1) h)

theorem dropGuests_canonical {r} : (s.dropGuests r).Canonical :=
  foldl_canonical (fun _ _ h1 => foldl_canonical (fun _ _ h2 => updEng_canonical h2) h1) h

theorem writeImage_canonical {r m} : (s.writeImage r m).Canonical := by
  unfold State.writeImage
  exact updRgn_canonical (putDevWords_canonical _ _ _ (ite_else (foldl_canonical (fun _ _ h1 => loadBuf_canonical h1)
    (foldl_canonical (fun _ _ h1 => updMu_canonical h1) (foldl_canonical (fun _ _ h1 => updCu_canonical h1)
    (loadRoutes_canonical (dropGuests_canonical h))))) (loadSched_canonical ·)))

theorem writeResume_canonical {r m} : (s.writeResume r m).Canonical :=
  updRgn_canonical (foldl_canonical (fun _ _ h1 => updEng_canonical h1) (foldl_canonical (fun _ _ h1 => updCtx_canonical h1) h))

theorem writeGuest_canonical {j m} : (s.writeGuest j m).Canonical := foldl_canonical (fun _ _ h1 => updEng_canonical h1) h

end

/-! ### LOAD and UNLOAD -/

section

variable (h : s.Canonical)
include h

theorem keepWords_canonical {a ws} : (s.keepWords a ws).Canonical := updCmd_canonical h

theorem loadRead_canonical {c ep} : (s.loadRead c ep).Canonical :=
  updCmd_canonical (keep_canonical (keepWords_canonical (ite_canonical (paRead_canonical h) (hubRead_canonical h))))

theorem loadBegin_canonical {a form} : (s.loadBegin a form).Canonical := by
  unfold State.loadBegin
  split
  · exact h
  · exact ite_canonical (ite_canonical (keep_canonical (begin_canonical h)) (loadRead_canonical (begin_canonical h))) h

theorem formWindows_canonical {r} : (s.formWindows r).Canonical := by
  unfold State.formWindows
  split
  · exact h
  · exact updRgn_canonical (addRegSat_canonical h)

theorem pinShadows_canonical {r} : (s.pinShadows r).Canonical :=
  foldl_canonical (fun _ _ h1 => by
    dsimp only
    split
    · exact addRegSat_canonical (updCopy_canonical (pinSheet_canonical h1))
    · exact ite_canonical (fillT1_canonical (pinSheet_canonical h1)) (pinSheet_canonical h1)) h

theorem repin_canonical {r} : (s.repin r).Canonical :=
  ite_canonical (pinAhead_canonical (pinShadows_canonical (formWindows_canonical (setReg_canonical h))))
    (showWres_canonical (pinShadows_canonical (formWindows_canonical (setReg_canonical h))))

theorem loadWrite_canonical {c m} : (s.loadWrite c m).Canonical :=
  ite_canonical (repin_canonical (writeGuest_canonical h)) (ite_canonical (repin_canonical (writeResume_canonical h))
    (repin_canonical (unpinAll_canonical (writeImage_canonical h))))

theorem newGens_canonical {u} : (s.newGens u).Canonical := rest_canonical h

theorem forgetNacked_canonical {r} : (s.forgetNacked r).Canonical :=
  foldl_canonical (fun _ _ h1 => ite_canonical h1 (updMu_canonical h1))
    (foldl_canonical (fun _ _ h1 => ite_canonical h1 (updSlice_canonical _ _ _ h1)) h)

theorem emptyRegion_canonical {r} : (s.emptyRegion r).Canonical := by
  unfold State.emptyRegion
  exact updRgn_canonical (forgetNacked_canonical (foldl_canonical (fun _ _ h1 => unpark_canonical h1)
    (clearBank_canonical (clearBank_canonical (rest_canonical (foldl_canonical (fun _ _ h1 => updFab_canonical h1)
    (foldl_canonical (fun _ _ h1 => updMu_canonical h1) (foldl_canonical (fun _ _ h1 => newGens_canonical h1)
    (foldl_canonical (fun _ _ h1 => updCu_canonical h1) h)))))))))

theorem stopRuns_canonical {r status} : (s.stopRuns r status).Canonical := untouched h

theorem unloadRegion_canonical {r} : (s.unloadRegion r).Canonical :=
  updRgn_canonical (setReg_canonical (unpinAll_canonical (emptyRegion_canonical h)))

end

/-! ### LOAD and UNLOAD: the commands -/

theorem execLoad_keeps {a} : Keeps s (execLoad a s) := keeps_next (loadBegin_canonical ·)

theorem execLoadResume_keeps {a} : Keeps s (execLoadResume a s) := keeps_next (loadBegin_canonical ·)

theorem execLoadGuest_keeps {a} : Keeps s (execLoadGuest a s) := keeps_next (loadBegin_canonical ·)

theorem execLoadVerifyDone_keeps {a} : Keeps s (execLoadVerifyDone a s) := by
  unfold execLoadVerifyDone
  split
  · exact keeps_next (discardReport_canonical ·)
  · dsimp only
    split
    · exact keeps_next (due_canonical ·)
    · split
      · exact keeps_self
      · split
        · exact keeps_next (due_canonical ·)
        · exact keeps_next fun h => ite_canonical (keep_canonical (loadWrite_canonical h)) (due_canonical (loadWrite_canonical h))

theorem execShadowPinDone_keeps {a} : Keeps s (execShadowPinDone a s) := by
  unfold execShadowPinDone
  split
  · exact keeps_next (discardReport_canonical ·)
  · exact keeps_next fun h => ite_canonical h (due_canonical h)

theorem execUnload_keeps {a} : Keeps s (execUnload a s) := by
  unfold execUnload
  split
  · exact keeps_self
  · exact keeps_next fun h => due_canonical (unloadRegion_canonical (stopRuns_canonical h))

end Sys2Proof.Proofs
end

section
/-! PROOFS. What every step keeps: the offload engines and flash. -/

namespace Sys2Proof.Proofs

open Sys2Proof Sys2Proof.Machine Sys2Proof.Laws

-- In order, one proof at a time: proofs elaborated side by side would exceed the limits of the check.
set_option Elab.async false

variable {s : State}

/-! ### Offload passes -/

section

variable (h : s.Canonical)
include h

theorem putDevBytes_canonical {who l mark} : (s.putDevBytes who l mark).Canonical :=
  foldl_canonical (fun _ _ h1 => putThrough_canonical _ _ _ _ _ h1) h

theorem putWord13_canonical {who a done stepcnt} : (s.putWord13 who a done stepcnt).Canonical := putDevBytes_canonical h

theorem ouBlock_canonical {who d gen b els} : (s.ouBlock who d gen b els).1.Canonical := putDevBytes_canonical h

theorem ouLog_canonical {q a} : (s.ouLog q a).Canonical := by
  unfold State.ouLog
  split
  · exact setReg_canonical h
  · exact h

theorem ouShow_canonical {q} : (s.ouShow q).Canonical := setReg_canonical h

theorem updStep_canonical {r a f} : (s.updStep r a f).Canonical := updRgn_canonical h

theorem updPass_canonical {q p f} : (s.updPass q p f).Canonical := rest_canonical h

theorem dropPass_canonical {p} : (s.dropPass p).Canonical := updStep_canonical (ouShow_canonical (rest_canonical h))

theorem skipPass_canonical {p status} : (s.skipPass p status).Canonical :=
  dropPass_canonical (updStep_canonical (addRegSat_canonical (putWord13_canonical h)))

theorem ouCount_canonical {x d i r} : (s.ouCount x d i r).Canonical := by
  unfold State.ouCount
  split
  · exact updStep_canonical (addCtr_canonical (ite_canonical (ouLog_canonical (addRegSat_canonical h)) (addRegSat_canonical h)))
  · exact addCtr_canonical (addReg_canonical h)

theorem ouRefresh_canonical {x d l} : (s.ouRefresh x d l).1.Canonical := by
  unfold State.ouRefresh
  split
  · refine foldl_fst_canonical (fun z e h1 => ?_) h
    split
    · exact ouBlock_canonical h1
    · exact h1
  · exact putDevBytes_canonical h

theorem stopPass_canonical {x} : (s.stopPass x).Canonical := ite_canonical (dropPass_canonical (putWord13_canonical h)) (rest_canonical h)

theorem normDone_canonical {a status} : (s.normDone a status).Canonical :=
  foldl_canonical (fun _ _ h1 => ite_canonical (ouShow_canonical (updPass_canonical h1)) (skipPass_canonical h1)) h

theorem ouSkipclr_canonical {q} : (s.ouSkipclr q).Canonical := ite_canonical (foldl_canonical (fun _ _ h1 => setReg_canonical h1) h) h

end

/-! ### Offload passes: the commands -/

theorem execPassStart_keeps {q p} : Keeps s (execPassStart q p s) := by
  unfold execPassStart
  split
  · exact keeps_self
  · exact ite_keeps (keeps_next fun h => skipPass_canonical (updStep_canonical (ite_else (ouFetch_canonical h) (ouFetch_canonical ·))))
      (keeps_next fun h => ouShow_canonical (updPass_canonical (updStep_canonical (ite_else (ouFetch_canonical h) (ouFetch_canonical ·)))))

theorem execOuChunk_keeps {q p} : Keeps s (execOuChunk q p s) := by
  unfold execOuChunk
  split
  · exact keeps_self
  · exact keeps_next fun h => updPass_canonical (rest_canonical (ouRefresh_canonical
      (putDevBytes_canonical (foldl_canonical (fun _ _ h1 => ouCount_canonical h1)
      (foldl_canonical (fun _ _ h1 => ouFetch_canonical h1) h)))))

theorem execPassEnd_keeps {q p} : Keeps s (execPassEnd q p s) := by
  unfold execPassEnd
  split
  · exact keeps_self
  · exact ite_keeps keeps_self (keeps_next fun h => dropPass_canonical (putWord13_canonical h))

theorem execPassUnboundTimeout_keeps {q p} : Keeps s (execPassUnboundTimeout q p s) := by
  unfold execPassUnboundTimeout
  split
  · exact keeps_self
  · exact keeps_next (skipPass_canonical ·)

theorem execOuSkipclr_keeps {q} : Keeps s (execOuSkipclr q s) := pfWrite_keeps (ouSkipclr_canonical ·)

/-! ### Flash and its journal -/

section

variable (h : s.Canonical)
include h

theorem endFlash_canonical {a} : (s.endFlash a).Canonical := updMem_canonical h

theorem sourceRead_canonical {fn a n} : (s.sourceRead fn a n).Canonical := ite_canonical (paRead_canonical h) (hubRead_canonical h)

theorem flashSourceRead_canonical {c ep} : (s.flashSourceRead c ep).Canonical :=
  ite_canonical (due_canonical (endFlash_canonical (sourceRead_canonical h)))
    (ite_canonical (due_canonical (endFlash_canonical (sourceRead_canonical h)))
    (keep_canonical (keepWords_canonical (sourceRead_canonical h))))

theorem addJournal_canonical {n k v} : (s.addJournal n k v).Canonical := updMem_canonical h

theorem showFlash_canonical {n} : (s.showFlash n).Canonical :=
  ite_canonical h (setReg_canonical (setReg_canonical (setReg_canonical (setReg_canonical h))))

theorem showFlashes_canonical : (s.showFlashes).Canonical := showFlash_canonical (showFlash_canonical h)

theorem freeBytes_canonical {n} : (s.freeBytes n).2.Canonical := rest_canonical h

theorem commitFlash_canonical {r bytes src} : (s.commitFlash r bytes src).Canonical := by
  refine showFlashes_canonical (showAllWres_canonical (foldl_canonical (fun _ _ h1 => addJournal_canonical (addJournal_canonical h1)) ?_))
  obtain ⟨hd, hs, hf, hh⟩ := h
  refine updMem_canonical (dropLines_canonical ?_)
  exact ⟨hd, hs, flash_write_wf _ _ _ _ hf, hh⟩

theorem flashCommit_canonical {a} : (s.flashCommit a).Canonical := by
  unfold State.flashCommit
  split
  · exact h
  · exact ite_canonical (due_canonical (endFlash_canonical h)) (ite_canonical
      (updCmd_canonical (due_canonical (commitFlash_canonical (freeBytes_canonical (freeBytes_canonical (endFlash_canonical h))))))
      (due_canonical (commitFlash_canonical (endFlash_canonical h))))

theorem toRefresh_canonical {fd b} : (s.toRefresh fd b).Canonical := showFlash_canonical (updMem_canonical h)

theorem updBlock_canonical {fd b f} : (s.updBlock fd b f).Canonical := updMem_canonical h

theorem unitRead_canonical {i n} : (s.unitRead i n).Canonical := ite_then (updBlock_canonical h) (toRefresh_canonical ·)

theorem unitLost_canonical {i} : (s.unitLost i).Canonical := toRefresh_canonical (updBlock_canonical (addJournal_canonical h))

theorem countT3_canonical {dom sheet fd n} : (s.countT3 dom sheet fd n).Canonical := addCtr_canonical (addReg_canonical h)

theorem fillFlash_canonical {dom a n} : (s.fillFlash dom a n).Canonical :=
  foldl_canonical (fun _ _ h1 => foldl_canonical (fun _ _ h2 => ite_canonical (fillMiss_canonical h2) h2) h1) h

end

/-! ### Flash and its journal: the commands -/

theorem execFlashWrite_keeps {a} : Keeps s (execFlashWrite a s) := by
  unfold execFlashWrite
  dsimp only
  split
  · exact keeps_self
  · split
    · exact keeps_next (keep_canonical ·)
    · split
      · exact keeps_next (due_canonical ·)
      · exact ite_keeps (keeps_next (due_canonical ·)) (ite_keeps (keeps_next (due_canonical ·))
          (keeps_next fun h => ite_canonical (keep_canonical (updMem_canonical (begin_canonical h)))
          (flashSourceRead_canonical (updMem_canonical (begin_canonical h)))))

theorem execFlashLeafRead_keeps {dom leaf uncorr crcBad} : Keeps s (execFlashLeafRead dom leaf uncorr crcBad s) := by
  unfold execFlashLeafRead
  extract_lets sheet z clsL fails reads t u v w x deliver
  refine ite_keeps keeps_self (keeps_next fun h => ?_)
  have hu : u.Canonical := ite_then (unitRead_canonical (startFetch_canonical h)) (updMem_canonical ·)
  have hw : w.Canonical := ite_then (ite_else hu (countT3_canonical ·)) (toRefresh_canonical ·)
  have hx : x.Canonical := ite_then hw fun ht => markLeaf_canonical (unitLost_canonical ht)
  exact ite_canonical (leafFails_canonical hx fun _ h1 => fillFlash_canonical h1) (fillFlash_canonical hx)

theorem execSheetFetchDone_keeps {dom sheet} : Keeps s (execSheetFetchDone dom sheet s) := by
  refine ite_keeps keeps_self (ite_keeps (keeps_next (updCopy_canonical ·)) (keeps_next fun h => ?_))
  refine showAllWres_canonical (fillFlash_canonical ?_)
  refine ite_then (countT2_canonical (foldl_canonical (fun _ _ h1 => toRefresh_canonical h1) ?_)) (fillT1_canonical ·)
  refine foldl_canonical (fun _ _ h1 => foldl_canonical (fun _ _ h2 => markLeaf_canonical h2) (unitLost_canonical h1)) ?_
  exact foldl_canonical (fun _ _ h1 => countT3_canonical (unitRead_canonical h1)) (updCopy_canonical h)

theorem execRetentionTrigger_keeps {fd block} : Keeps s (execRetentionTrigger fd block s) :=
  keeps_next fun h => toRefresh_canonical (updBlock_canonical h)

theorem execRefreshRelocation_keeps {fd block} : Keeps s (execRefreshRelocation fd block s) :=
  ite_keeps keeps_self (keeps_next fun h => showFlash_canonical (addJournal_canonical (addJournal_canonical (updMem_canonical h))))

end Sys2Proof.Proofs
end

section
/-! PROOFS. What every step keeps: collectives. -/

namespace Sys2Proof.Proofs

open Sys2Proof Sys2Proof.Machine Sys2Proof.Laws

-- In order, one proof at a time: proofs elaborated side by side would exceed the limits of the check.
set_option Elab.async false

variable {s : State}

/-! ### Links and pairs -/

section

variable (h : s.Canonical)
include h

theorem queueSlot_canonical {l x held} : (s.queueSlot l x held).Canonical := updLink_canonical h

theorem freePlace_canonical {held} : (s.freePlace held).Canonical := by
  unfold State.freePlace
  split
  · exact updLink_canonical h
  · exact h

theorem routeAck_canonical {k from_ a held} : (s.routeAck k from_ a held).Canonical := by
  unfold State.routeAck
  split
  · exact freePlace_canonical h
  · exact ite_canonical (updLink_canonical h) (freePlace_canonical h)

theorem sendAck_canonical {k x st} : (s.sendAck k x st).Canonical := routeAck_canonical h

theorem passSlot_canonical {k from_ x d held} : (s.passSlot k from_ x d held).Canonical :=
  ite_canonical (queueSlot_canonical h) (sendAck_canonical (freePlace_canonical h))

theorem showTags_canonical {l} : (s.showTags l).Canonical := setReg_canonical h

theorem takeLinkTag_canonical {l t u} : (s.takeLinkTag l t u).Canonical := showTags_canonical (updLink_canonical h)

theorem dropLinkTag_canonical {l t late} : (s.dropLinkTag l t late).Canonical := showTags_canonical (updLink_canonical h)

end

/-! ### Groups and lanes -/

section

variable (h : s.Canonical)
include h

theorem updRun_canonical {g f} : (s.updRun g f).Canonical := updGroup_canonical h

theorem collFail_canonical {g status} : (s.collFail g status).Canonical := updRun_canonical h

theorem injectSlot_canonical {g again x} : (s.injectSlot g again x).Canonical := by
  unfold State.injectSlot
  split
  · dsimp only
    split
    · exact collFail_canonical h
    · split
      · exact updRun_canonical h
      · exact addCtr_canonical (updRun_canonical (queueSlot_canonical (takeLinkTag_canonical h)))
  · exact h

theorem emit_canonical {g key x} : (s.emit g key x).Canonical := by
  unfold State.emit
  split
  · exact h
  · exact ite_canonical (injectSlot_canonical h) (updRun_canonical h)

theorem openKey_canonical {g key} : (s.openKey g key).Canonical := by
  unfold State.openKey
  split
  · exact h
  · exact foldl_canonical (fun _ _ h1 => injectSlot_canonical h1) (updRun_canonical h)

theorem pumpTx_canonical {g} : (s.pumpTx g).Canonical := by
  unfold State.pumpTx
  split
  · exact h
  · exact foldl_canonical (fun _ _ h1 => injectSlot_canonical h1) (updRun_canonical h)

theorem sendReady_canonical {g k peer} : (s.sendReady g k peer).Canonical := by
  unfold State.sendReady
  split
  · exact h
  · exact injectSlot_canonical h

theorem collEvents_canonical {g e} : (s.collEvents g e).Canonical := updRun_canonical h

theorem storeElems_canonical {g r l} : (s.storeElems g r l).Canonical :=
  ite_else (putDevBytes_canonical h) fun ht => updRun_canonical (putDevBytes_canonical ht)

theorem storeRaw_canonical {g x a n} : (s.storeRaw g x a n).Canonical :=
  ite_else (putDevBytes_canonical h) fun ht => updRun_canonical (putDevBytes_canonical ht)

theorem storeFinal_canonical {g r geo j base e l} : (s.storeFinal g r geo j base e l).Canonical :=
  ite_canonical (storeElems_canonical h) (ite_canonical (storeElems_canonical h)
    (foldl_canonical (fun _ _ h1 => updRun_canonical (storeElems_canonical (collEvents_canonical (collEvents_canonical h1)))) h))

theorem phaseStart_canonical {g k i r geo p} : (s.phaseStart g k i r geo p).Canonical :=
  ite_canonical (emit_canonical (ite_canonical (sendReady_canonical h) h))
    (ite_else (ite_canonical (sendReady_canonical h) h) fun ht => foldl_canonical
    (fun _ _ h1 => emit_canonical (collEvents_canonical h1)) ht)

theorem laneEnter_canonical {g k n} : (s.laneEnter g k n).Canonical := by
  induction n generalizing s with
  | zero => exact h
  | succ n ih =>
    rw [State.laneEnter]
    split
    · exact h
    · dsimp only
      split
      · exact h
      · exact ite_then (phaseStart_canonical h) fun hp => ih (updRun_canonical hp)

theorem phaseGot_canonical {g k} : (s.phaseGot g k).Canonical := by
  unfold State.phaseGot
  split
  · exact h
  · dsimp only
    split
    · exact h
    · exact ite_then (updRun_canonical h) fun ht => laneEnter_canonical (updRun_canonical ht)

theorem planSend_canonical {g r} : (s.planSend g r).Canonical :=
  foldl_canonical (fun _ _ h1 => foldl_canonical (fun _ _ h2 => emit_canonical h2) h1)
    (foldl_canonical (fun _ _ h1 => sendReady_canonical h1) h)

theorem dropQueued_canonical {g} : (s.dropQueued g).Canonical :=
  foldl_canonical (fun _ _ h1 => foldl_canonical (fun _ _ h2 => dropLinkTag_canonical h2) (updLink_canonical h1)) h

theorem gAdvance_canonical {g} : (s.gAdvance g).Canonical := setRegBits_canonical (setRegBits_canonical h)

theorem collEnd_canonical {g status} : (s.collEnd g status).Canonical := by
  unfold State.collEnd
  split
  · exact h
  · exact normDone_canonical (updCmd_canonical (due_canonical (endFlash_canonical
      (gAdvance_canonical (updGroup_canonical (ite_canonical h (dropQueued_canonical h)))))))

theorem holdReady_canonical {g k x} : (s.holdReady g k x).1.Canonical := by
  unfold State.holdReady
  dsimp only
  split
  · exact h
  · exact updGroup_canonical h

theorem takeReady_canonical {g k x} : (s.takeReady g k x).1.Canonical := by
  unfold State.takeReady
  split
  · split
    · exact holdReady_canonical h
    · exact h
  · split
    · exact collFail_canonical h
    · split
      · exact holdReady_canonical h
      · split
        · exact collFail_canonical h
        · split
          · exact h
          · exact openKey_canonical h

theorem collSource_canonical {g r} : (s.collSource g r).Canonical :=
  foldl_canonical (fun _ _ h1 => ite_canonical (ite_canonical (storeFinal_canonical h1) h1)
    (ite_canonical (ite_canonical (storeFinal_canonical h1) (foldl_canonical (fun _ _ h2 => storeRaw_canonical h2) h1)) h1)) h

theorem ckptBytes_canonical {r} : (s.ckptBytes r).2.Canonical := freeBytes_canonical h

theorem ckptWrite_canonical {g fn r} : (s.ckptWrite g fn r).Canonical :=
  ite_canonical (updRun_canonical (foldl_canonical (fun _ _ h1 => paWrite_canonical
    (foldl_canonical (fun _ _ h2 => putFnWord_canonical _ _ _ _ _ h2) h1)) h))
    (ite_canonical (collFail_canonical h) (ite_canonical (collFail_canonical h)
    (keep_canonical (keepWords_canonical (updMem_canonical (ckptBytes_canonical h))))))

theorem enterLanes_canonical {g r} : (s.enterLanes g r).Canonical := foldl_canonical (fun _ _ h1 => laneEnter_canonical h1) h

theorem collBegin_canonical {g c} : (s.collBegin g c).Canonical := by
  unfold State.collBegin
  extract_lets r held t v w x
  have ht : t.Canonical := setRegBit_canonical (updGroup_canonical h)
  have hv : v.Canonical := ite_canonical (ckptWrite_canonical ht) (collSource_canonical ht)
  have hw : w.Canonical := foldl_canonical (fun _ _ h1 => foldl_canonical (fun _ _ h2 => takeReady_canonical h2) h1) hv
  have hx : x.Canonical := ite_then hw (planSend_canonical ·)
  split
  · exact hx
  · exact ite_then hx (enterLanes_canonical ·)

theorem collSettle_canonical {g n} : (s.collSettle g n).Canonical := by
  induction n generalizing s with
  | zero => exact h
  | succ n ih =>
    rw [State.collSettle]
    split
    · exact ite_canonical (ih (collEnd_canonical h)) (ite_canonical (ih (collEnd_canonical h)) h)
    · split
      · exact h
      · exact ite_canonical (ih (normDone_canonical (due_canonical h)))
          (ite_canonical (ih (collBegin_canonical h)) (ih (normDone_canonical (due_canonical (gAdvance_canonical h)))))

theorem collGo_canonical {g} : (s.collGo g).Canonical := collSettle_canonical h

theorem bindLate_canonical {a} : (s.bindLate a).Canonical := by
  unfold State.bindLate
  split
  · exact h
  · exact ite_canonical h (foldl_canonical (fun _ _ h1 => updPass_canonical h1) (keep_canonical (keep_canonical h)))

theorem collCmd_canonical {a p} : (s.collCmd a p).Canonical := by
  unfold State.collCmd
  split
  · exact h
  · split
    · exact due_canonical h
    · exact ite_canonical (due_canonical h) (ite_canonical (bindLate_canonical (keep_canonical (keep_canonical (begin_canonical h))))
        (collGo_canonical (keep_canonical (begin_canonical h))))

theorem reshardCmd_canonical {a via} : (s.reshardCmd a via).Canonical := by
  unfold State.reshardCmd
  split
  · exact h
  · split
    · exact due_canonical h
    · exact ite_canonical (due_canonical h) (collGo_canonical (keep_canonical (begin_canonical h)))

theorem ckptCommit_canonical {a} : (s.ckptCommit a).Canonical := by
  unfold State.ckptCommit
  split
  · exact h
  · dsimp only
    split
    · exact h
    · exact ite_canonical (collGo_canonical (collFail_canonical (endFlash_canonical h)))
        (collGo_canonical (enterLanes_canonical (updRun_canonical (commitFlash_canonical (endFlash_canonical h)))))

theorem retireBlocks_canonical {bad0 bad1} : (s.retireBlocks bad0 bad1).Canonical :=
  showFlashes_canonical (addJournal_canonical (addJournal_canonical h))

theorem takeReduce_canonical {g k r x} : (s.takeReduce g k r x).1.Canonical := by
  unfold State.takeReduce
  dsimp only
  split
  · exact h
  · split
    · exact h
    · exact phaseGot_canonical (ite_canonical (emit_canonical (collEvents_canonical (collEvents_canonical h)))
        (ite_canonical (updRun_canonical (collEvents_canonical h)) (storeFinal_canonical (collEvents_canonical h))))

theorem storePlaced_canonical {g r geo j pc n x} : (s.storePlaced g r geo j pc n x).Canonical :=
  ite_canonical (foldl_canonical (fun _ _ h1 => updRun_canonical (storeElems_canonical (collEvents_canonical h1))) h) (storeRaw_canonical h)

theorem takePlan_canonical {g k r x} : (s.takePlan g k r x).1.Canonical := by
  unfold State.takePlan
  split
  · exact h
  · split
    · exact h
    · exact updRun_canonical (storeRaw_canonical h)

theorem takePlace_canonical {g k r x} : (s.takePlace g k r x).1.Canonical := by
  refine ite_fst_canonical (ite_fst_canonical h (takePlan_canonical h)) ?_
  split
  · exact h
  · exact ite_fst_canonical h (phaseGot_canonical (ite_else (storePlaced_canonical h) (emit_canonical ·)))

theorem takeBarrier_canonical {g k r x} : (s.takeBarrier g k r x).1.Canonical := by
  unfold State.takeBarrier
  dsimp only
  split
  · exact h
  · split
    · exact h
    · exact phaseGot_canonical (ite_canonical (emit_canonical h) h)

theorem ceSlot_canonical {k x} : (s.ceSlot k x).Canonical := by
  unfold State.ceSlot
  split
  · exact sendAck_canonical h
  · refine ite_canonical (collGo_canonical (collFail_canonical (sendAck_canonical h))) ?_
    extract_lets z t
    have hz : z.1.Canonical := by
      unfold z
      split
      · exact takeReady_canonical h
      · split
        · exact h
        · repeat' split
          · exact h
          · exact takeReduce_canonical h
          · exact takePlace_canonical h
          · exact takeBarrier_canonical h
          · exact h
    have ht : t.Canonical := ite_then hz (addCtr_canonical ·)
    exact collGo_canonical (sendAck_canonical ht)

theorem ackIn_canonical {a} : (s.ackIn a).Canonical := by
  unfold State.ackIn
  dsimp only
  split
  · exact addReg_canonical h
  next u _ =>
    have ht : State.Canonical ((s.dropLinkTag (a.bits 21 16) (a.bits 32 22) false).updRun u.grp fun r => { r with outst := r.outst - 1 }) :=
      updRun_canonical (dropLinkTag_canonical h)
    split
    · exact dropLinkTag_canonical h
    · refine collGo_canonical (pumpTx_canonical ?_)
      split
      · exact ht
      · split
        · exact updGroup_canonical ht
        · exact collFail_canonical ht
      · exact collFail_canonical ht
      · exact collFail_canonical ht

theorem loseTag_canonical {l t} : (s.loseTag l t).Canonical := by
  unfold State.loseTag
  split
  · exact h
  · dsimp only
    split
    · exact dropLinkTag_canonical h
    · exact collGo_canonical (collFail_canonical (updRun_canonical (dropLinkTag_canonical h)))

theorem trigColl_canonical {r grp} : (s.trigColl r grp).Canonical := foldl_canonical (fun _ _ h1 => collGo_canonical (keep_canonical h1)) h

theorem lateColl_canonical : (s.lateColl).Canonical := foldl_canonical (fun _ _ h1 => collGo_canonical (keep_canonical h1)) h

theorem lateDeadlines_canonical : (s.lateDeadlines).Canonical :=
  foldl_canonical (fun _ _ h1 => ite_canonical (collGo_canonical (collFail_canonical h1))
    (collGo_canonical (normDone_canonical (due_canonical (gAdvance_canonical h1))))) h

theorem stopColls_canonical {fn status} : (s.stopColls fn status).Canonical :=
  foldl_canonical (fun _ _ h1 => ite_canonical (collGo_canonical (collFail_canonical h1)) h1) h

end

/-! ### Groups and lanes: the commands -/

theorem execAllReduce_keeps {a} : Keeps s (execAllReduce a s) := keeps_next (collCmd_canonical ·)

theorem execReduceScatter_keeps {a} : Keeps s (execReduceScatter a s) := keeps_next (collCmd_canonical ·)

theorem execAllGather_keeps {a} : Keeps s (execAllGather a s) := keeps_next (collCmd_canonical ·)

theorem execBroadcast_keeps {a} : Keeps s (execBroadcast a s) := keeps_next (collCmd_canonical ·)

theorem execPermute_keeps {a} : Keeps s (execPermute a s) := keeps_next (collCmd_canonical ·)

theorem execReshardPermute_keeps {a} : Keeps s (execReshardPermute a s) := keeps_next (reshardCmd_canonical ·)

theorem execReshardCheckpoint_keeps {a} : Keeps s (execReshardCheckpoint a s) := keeps_next (reshardCmd_canonical ·)

theorem execFlashWriteCommit_keeps {a} : Keeps s (execFlashWriteCommit a s) :=
  keeps_next fun h => ite_canonical (retireBlocks_canonical (ckptCommit_canonical (flashCommit_canonical h))) (discardReport_canonical h)

theorem execReadySlot_keeps {l x} : Keeps s (execReadySlot l x s) := keeps_next fun h => ite_canonical (ceSlot_canonical h) h

theorem execReduceSlot_keeps {l x} : Keeps s (execReduceSlot l x s) := keeps_next fun h => ite_canonical (ceSlot_canonical h) h

theorem execPlaceSlot_keeps {l x} : Keeps s (execPlaceSlot l x s) := keeps_next fun h => ite_canonical (ceSlot_canonical h) h

theorem execBarrierSlot_keeps {l x} : Keeps s (execBarrierSlot l x s) := keeps_next fun h => ite_canonical (ceSlot_canonical h) h

theorem execTagTimeout_keeps {l tag} : Keeps s (execTagTimeout l tag s) := keeps_next (loseTag_canonical ·)

theorem execReadyResend_keeps {g k} : Keeps s (execReadyResend g k s) :=
  keeps_next fun h => collGo_canonical (foldl_canonical (fun _ _ h1 => injectSlot_canonical h1) (updGroup_canonical h))

theorem execCollStallTimeout_keeps {g} : Keeps s (execCollStallTimeout g s) := keeps_next fun h => collGo_canonical (collFail_canonical h)

theorem execDigestRecompute_keeps {g} : Keeps s (execDigestRecompute g s) :=
  keeps_next fun h => ite_canonical (computeWm_canonical h) (ite_canonical (collGo_canonical (computeGrp_canonical h)) h)

/-! ### The frame clock -/

section

variable (h : s.Canonical)
include h

theorem setPav_canonical {v} : (s.setPav v).Canonical := setRegBits_canonical h

theorem pavFlag_canonical {i} : (s.pavFlag i).Canonical := setRegBit_canonical h

theorem showDepth_canonical : (s.showDepth).Canonical := setRegBits_canonical (setRegBits_canonical h)

theorem updTime_canonical {f} : (s.updTime f).Canonical := rest_canonical h

theorem pavWrite_canonical {v} : (s.pavWrite v).Canonical := rest_canonical (setReg_canonical h)

theorem pavApply_canonical : (s.pavApply).Canonical := by
  unfold State.pavApply
  split
  · exact h
  · exact showDepth_canonical (setPav_canonical (setRegBits_canonical (updTime_canonical (rest_canonical h))))

theorem cancelGrid_canonical : (s.cancelGrid).Canonical := ite_canonical (rest_canonical (pavFlag_canonical h)) h

theorem setTime_canonical {t} : (s.setTime t).Canonical := cancelGrid_canonical (pavFlag_canonical (updTime_canonical h))

theorem timeLoad_canonical : (s.timeLoad).Canonical :=
  ite_canonical (pavFlag_canonical (cancelGrid_canonical h)) (ite_canonical (rest_canonical (cancelGrid_canonical h))
    (setTime_canonical (cancelGrid_canonical h)))

theorem refLost_canonical : (s.refLost).Canonical :=
  ite_canonical h (ite_canonical (updTime_canonical h) (updTime_canonical (setPav_canonical (pavFlag_canonical h))))

theorem pavSwitch_canonical : (s.pavSwitch).Canonical :=
  ite_canonical h (ite_canonical (showDepth_canonical (updTime_canonical
    (setPav_canonical (pavFlag_canonical (setRegBit_canonical (updTime_canonical h)))))) (refLost_canonical (updTime_canonical h)))

theorem sourceDown_canonical {l} : (s.sourceDown l).Canonical := ite_canonical (refLost_canonical h) h

theorem armGrid_canonical {at_} : (s.armGrid at_).Canonical := ite_canonical (rest_canonical h) (pavFlag_canonical h)

theorem fitEntries_canonical : (s.fitEntries).Canonical :=
  foldl_canonical (fun _ _ h1 => by
    split
    · exact noopSched_canonical h1
    · exact h1) (rest_canonical h)

theorem applyGrid_canonical : (s.applyGrid).Canonical := by
  unfold State.applyGrid
  split
  · exact h
  · exact ite_canonical (pavFlag_canonical (rest_canonical h)) (foldl_canonical (fun _ _ h1 => ite_canonical (computeGrp_canonical h1) h1)
      (fitEntries_canonical (pavFlag_canonical (setReg_canonical (rest_canonical (rest_canonical h))))))

theorem pavCtlWrite_canonical {v} : (s.pavCtlWrite v).Canonical :=
  ite_canonical (timeLoad_canonical (pavWrite_canonical h)) (pavWrite_canonical h)

theorem epochRise_canonical : (s.epochRise).Canonical := ite_canonical (foldl_canonical (fun _ _ h1 => latchWhere_canonical h1) h) h

theorem pavSrcWrite_canonical {v} : (s.pavSrcWrite v).Canonical := ite_canonical (pavFlag_canonical h) (setReg_canonical h)

end

/-! ### The frame clock: the commands -/

theorem execPavCtlWrite_keeps {v} : Keeps s (execPavCtlWrite v s) := pfWrite_keeps (pavCtlWrite_canonical ·)

theorem execTload_keeps : Keeps s (execTload s) := pfWrite_keeps (timeLoad_canonical ·)

theorem execEpochEdge_keeps {t} : Keeps s (execEpochEdge t s) := by
  unfold execEpochEdge
  extract_lets u pend v per d err w x
  have hu : s.Canonical → u.Canonical := (epochRise_canonical ·)
  have hv : s.Canonical → v.Canonical := fun h => rest_canonical (hu h)
  have hw : s.Canonical → w.Canonical := fun h => setReg_canonical (hu h)
  refine ite_keeps (keeps_next hu) (ite_keeps (keeps_next fun h => ?_) (ite_keeps (keeps_next fun h => updTime_canonical (hw h)) ?_))
  · exact ite_canonical (setTime_canonical (hv h)) (pavFlag_canonical (hv h))
  · exact keeps_next fun h => ite_then (updTime_canonical (pavFlag_canonical (hw h))) (refLost_canonical ·)

theorem execPavLock_keeps : Keeps s (execPavLock s) := keeps_next fun h => ite_canonical (setPav_canonical h) h

theorem execReferenceLoss_keeps : Keeps s (execReferenceLoss s) := keeps_next (refLost_canonical ·)

theorem execHoldoverExpiry_keeps : Keeps s (execHoldoverExpiry s) := keeps_next fun h => ite_canonical (setPav_canonical h) h

theorem execReferenceRequalify_keeps : Keeps s (execReferenceRequalify s) := keeps_next fun h => ite_canonical (setPav_canonical h) h

theorem execFollowerStep_keeps {t} : Keeps s (execFollowerStep t s) := keeps_next fun h => ite_canonical (setTime_canonical h) h

theorem execPavGridAt_keeps {v} : Keeps s (execPavGridAt v s) := pfWrite_keeps (armGrid_canonical ·)

theorem execGridChangeApply_keeps : Keeps s (execGridChangeApply s) := keeps_next fun h => ite_canonical (applyGrid_canonical h) h

theorem execPavSrcWrite_keeps {v} : Keeps s (execPavSrcWrite v s) := pfWrite_keeps (pavSrcWrite_canonical ·)

end Sys2Proof.Proofs
end

section
/-! PROOFS. What every step keeps: link traffic and runs. -/

namespace Sys2Proof.Proofs

open Sys2Proof Sys2Proof.Machine Sys2Proof.Laws

-- In order, one proof at a time: proofs elaborated side by side would exceed the limits of the check.
set_option Elab.async false

variable {s : State}

/-! ### Links -/

section

variable (h : s.Canonical)
include h

theorem downWhy_canonical {l w} : (s.downWhy l w).Canonical := setRegBits_canonical h

theorem setLink_canonical {l st} : (s.setLink l st).Canonical := setRegBits_canonical (updLink_canonical h)

theorem mixShow_canonical : (s.mixShow).Canonical := ite_canonical h (foldl_canonical (fun _ _ h1 => setRegBits_canonical h1) h)

theorem enterTrain_canonical {l} : (s.enterTrain l).Canonical := addReg_canonical (setLink_canonical (updLink_canonical h))

theorem emptyLink_canonical {l} : (s.emptyLink l).Canonical :=
  foldl_canonical (fun _ _ h1 => sendAck_canonical h1) (foldl_canonical (fun _ _ h1 => loseTag_canonical h1)
    (foldl_canonical (fun _ _ h1 => freePlace_canonical h1) (foldl_canonical (fun _ _ h1 => updLink_canonical h1) (updLink_canonical h))))

theorem leaveLink_canonical {l next} : (s.leaveLink l next).Canonical :=
  ite_then (mixShow_canonical (setRegBits_canonical (setRegBits_canonical
    (setRegBits_canonical (setLink_canonical (updLink_canonical h)))))) fun ht => emptyLink_canonical (sourceDown_canonical ht)

theorem linkDown_canonical {l why} : (s.linkDown l why).Canonical := enterTrain_canonical (downWhy_canonical (leaveLink_canonical h))

theorem takeCapability_canonical {l c} : (s.takeCapability l c).Canonical :=
  ite_canonical h (ite_else (setRegBits_canonical (setRegBits_canonical (updLink_canonical h))) (downWhy_canonical ·))

theorem frameOut_canonical {l f} : (s.frameOut l f).Canonical := updLink_canonical h

theorem sendAgain_canonical {l f} : (s.sendAgain l f).Canonical := addReg_canonical (frameOut_canonical (updLink_canonical h))

theorem sendNew_canonical {l} : (s.sendNew l).Canonical :=
  addReg_canonical (frameOut_canonical (foldl_canonical (fun _ _ h1 => freePlace_canonical h1) (updLink_canonical h)))

theorem sendCapability_canonical {l} : (s.sendCapability l).Canonical := updLink_canonical (freeBytes_canonical h)

theorem takeHeartbeat_canonical {l bytes} : (s.takeHeartbeat l bytes).Canonical :=
  foldl_canonical (fun _ _ h1 => by
    dsimp only
    split
    · exact h1
    · exact ite_canonical h1 (setRegBit_canonical h1)) (ite_canonical h (setRegBit_canonical h))

theorem takeAck_canonical {l a} : (s.takeAck l a).Canonical :=
  ite_canonical h (ite_canonical (ackIn_canonical (freePlace_canonical h)) (routeAck_canonical h))

theorem takeSlotIn_canonical {l x} : (s.takeSlotIn l x).Canonical := by
  unfold State.takeSlotIn
  split
  · exact ite_then (freePlace_canonical h) (takeHeartbeat_canonical ·)
  · split
    · dsimp only
      split
      · exact ceSlot_canonical (freePlace_canonical (addReg_canonical h))
      · exact passSlot_canonical (addReg_canonical h)
    · exact h

theorem dropFrame_canonical {l} : (s.dropFrame l).Canonical := ite_canonical h (updLink_canonical h)

theorem takeLack_canonical {l f} : (s.takeLack l f).Canonical :=
  ite_else (updLink_canonical h) fun ht => ite_canonical (linkDown_canonical ht) (updLink_canonical ht)

theorem takeSymbol_canonical {l f arrival} : (s.takeSymbol l f arrival).Canonical :=
  ite_then (updLink_canonical (ite_canonical (updLink_canonical h) h)) fun hu => ite_then (showDepth_canonical (updTime_canonical hu))
    (setReg_canonical ·)

theorem acceptFrame_canonical {l f arrival} : (s.acceptFrame l f arrival).Canonical :=
  takeLack_canonical (foldl_canonical (fun _ _ h1 => takeSlotIn_canonical h1)
    (foldl_canonical (fun _ _ h1 => takeAck_canonical h1) (takeSymbol_canonical (updLink_canonical h))))

theorem showByp_canonical {k} : (s.showByp k).Canonical := setRegBits_canonical (setRegBits_canonical h)

theorem drivePair_canonical {p cross} : (s.drivePair p cross).Canonical := showByp_canonical (ite_canonical h (updPair_canonical h))

theorem closeAll_canonical : (s.closeAll).Canonical :=
  foldl_canonical (fun _ _ h1 => drivePair_canonical h1) (foldl_canonical (fun _ _ h1 => setRegBits_canonical h1) h)

theorem restLink_canonical {l} : (s.restLink l).Canonical :=
  ite_canonical (setLink_canonical h) (ite_canonical (setLink_canonical h) (enterTrain_canonical h))

theorem bypClose_canonical {k v} : (s.bypClose k v).Canonical :=
  ite_canonical h (foldl_canonical (fun _ _ h1 => ite_canonical h1 (drivePair_canonical h1)) (setRegBits_canonical h))

theorem lctlHold_canonical {l hold} : (s.lctlHold l hold).Canonical :=
  ite_canonical h (ite_canonical (ite_else (setRegBits_canonical h) (leaveLink_canonical ·))
    (ite_then (setRegBits_canonical h) (restLink_canonical ·)))

theorem lctlRetrain_canonical {l} : (s.lctlRetrain l).Canonical := by
  unfold State.lctlRetrain
  split
  · exact h
  · exact h
  · exact linkDown_canonical h

theorem nodeWrite_canonical {v} : (s.nodeWrite v).Canonical :=
  ite_canonical (foldl_canonical (fun _ _ h1 => setReg_canonical h1) h) (foldl_canonical (fun _ _ h1 => setReg_canonical h1) h)

end

/-! ### Links: the commands -/

theorem execLightDetect_keeps {l} : Keeps s (execLightDetect l s) := keeps_next fun h => ite_canonical (updLink_canonical h) h

theorem execLinkTrainDone_keeps {l laneok} : Keeps s (execLinkTrainDone l laneok s) := by
  unfold execLinkTrainDone
  split
  · exact keeps_next fun h => ite_canonical h (ite_canonical (setLink_canonical (setRegBits_canonical h))
      (downWhy_canonical (setRegBits_canonical h)))
  · exact keeps_next fun h => (setRegBits_canonical h)
  · exact keeps_self

theorem execLinkAlignDone_keeps {l} : Keeps s (execLinkAlignDone l s) :=
  keeps_next fun h => ite_canonical (setLink_canonical (updLink_canonical h)) h

theorem execLinkTrainTimeout_keeps {l} : Keeps s (execLinkTrainTimeout l s) := by
  unfold execLinkTrainTimeout
  split
  · exact keeps_next fun h => enterTrain_canonical (downWhy_canonical h)
  · exact keeps_next fun h => enterTrain_canonical (downWhy_canonical h)
  · exact keeps_next (enterTrain_canonical ·)
  · exact keeps_self

theorem execCapabilityMessage_keeps {l c} : Keeps s (execCapabilityMessage l c s) := keeps_next (takeCapability_canonical ·)

theorem execLinkUp_keeps {l} : Keeps s (execLinkUp l s) := by
  unfold execLinkUp
  split
  · exact keeps_self
  · exact ite_keeps keeps_self (keeps_next fun h => mixShow_canonical
      (setRegBits_canonical (setRegBits_canonical (setLink_canonical (setReg_canonical (fresh_canonical (updLink_canonical h)))))))

theorem execMixlongExpiry_keeps : Keeps s (execMixlongExpiry s) :=
  keeps_next fun h => ite_canonical (foldl_canonical (fun _ _ h1 => setRegBits_canonical h1) h) h

theorem execLinkDownNoframe_keeps {l} : Keeps s (execLinkDownNoframe l s) := keeps_next fun h => ite_canonical (linkDown_canonical h) h

theorem execLinkDownLane_keeps {l} : Keeps s (execLinkDownLane l s) := keeps_next fun h => ite_canonical (linkDown_canonical h) h

theorem execFrameSend_keeps {l} : Keeps s (execFrameSend l s) := by
  unfold execFrameSend
  split
  · exact keeps_next (sendCapability_canonical ·)
  · split
    · exact keeps_next (sendAgain_canonical ·)
    · exact keeps_next (sendNew_canonical ·)
  · exact keeps_self

theorem execHeartbeatSend_keeps {l} : Keeps s (execHeartbeatSend l s) := ite_keeps keeps_self (keeps_next (updLink_canonical ·))

theorem execWatermarkExchange_keeps {l bytes} : Keeps s (execWatermarkExchange l bytes s) :=
  keeps_next fun h => ite_canonical (takeHeartbeat_canonical h) h

theorem execFrameReceive_keeps {l f fecBad arrival} : Keeps s (execFrameReceive l f fecBad arrival s) := by
  unfold execFrameReceive
  refine ite_keeps keeps_self ?_
  extract_lets z t u v
  have hu : s.Canonical → u.Canonical := fun h => ite_then (addReg_canonical (fresh_canonical h)) (addReg_canonical ·)
  refine ite_keeps (keeps_next fun h => ite_then (addReg_canonical (hu h)) (dropFrame_canonical ·)) ?_
  refine ite_keeps (keeps_next hu) (ite_keeps (keeps_next fun h => dropFrame_canonical (hu h)) ?_)
  exact keeps_next fun h => acceptFrame_canonical (hu h)

theorem execNakRepeat_keeps {l} : Keeps s (execNakRepeat l s) := keeps_next fun h => ite_canonical (updLink_canonical h) h

theorem execAckEntry_keeps {l a} : Keeps s (execAckEntry l a s) := keeps_next fun h => ite_canonical (takeAck_canonical h) h

theorem execDelayMeasure_keeps {l} : Keeps s (execDelayMeasure l s) :=
  ite_keeps keeps_self (keeps_next fun h => updLink_canonical (setReg_canonical (by
    split
    · exact h
    · exact fresh_canonical h)))

theorem execSwitchSettled_keeps {k pair} : Keeps s (execSwitchSettled k pair s) := by
  unfold execSwitchSettled
  dsimp only
  split
  · exact keeps_self
  · exact keeps_next fun h => foldl_canonical (fun _ _ h1 => by
    split
    · exact h1
    · exact ite_canonical h1 (enterTrain_canonical h1)
    · exact ite_canonical (leaveLink_canonical h1) h1) (showByp_canonical (updPair_canonical h))

theorem execGlBypClose_keeps {k v} : Keeps s (execGlBypClose k v s) := pfWrite_keeps (bypClose_canonical ·)

theorem execGlLctlHold_keeps {l hold} : Keeps s (execGlLctlHold l hold s) := pfWrite_keeps (lctlHold_canonical ·)

theorem execGlLctlRetrain_keeps {l} : Keeps s (execGlLctlRetrain l s) := pfWrite_keeps (lctlRetrain_canonical ·)

theorem execGlNodeWrite_keeps {v} : Keeps s (execGlNodeWrite v s) := pfWrite_keeps (nodeWrite_canonical ·)

/-! ### Runs -/

section

variable (h : s.Canonical)
include h

theorem takeUpN_canonical {r n} : (s.takeUpN r n).Canonical := by
  induction n generalizing s with
  | zero => exact h
  | succ n ih =>
    rw [State.takeUpN]
    refine ite_canonical h ?_
    split
    · exact h
    · split
      · exact ih (updRgn_canonical (due_canonical h))
      · exact ite_canonical (ih (due_canonical h)) (updRgn_canonical h)

theorem takeUp_canonical {r} : (s.takeUp r).Canonical := takeUpN_canonical h

theorem pbShow_canonical : (s.pbShow).Canonical := setPbReg_canonical (untouched h)

theorem beginRun_canonical {r} : (s.beginRun r).Canonical := by
  unfold State.beginRun
  split
  · exact h
  · split
    · exact h
    · exact ite_canonical h (pbShow_canonical (pinAhead_canonical
        (rest_canonical (ite_then (updHost_canonical (updRgn_canonical (beginInst_canonical h))) (regionDown_canonical ·)))))

theorem pbPut_canonical {fn a n v bad} : (s.pbPut fn a n v bad).Canonical := by
  obtain ⟨hd, hs, hf, hh⟩ := h
  exact ite_then ⟨hd, hs, hf, wf_writeNat _ _ _ _ hh⟩ (setPbReg_canonical ·)

theorem pbCount_canonical {r w n} : (s.pbCount r w n).Canonical :=
  setPbReg_canonical (setPbReg_canonical (addCtr_canonical (addReg_canonical h)))

theorem pbDone_canonical {bad} : (s.pbDone bad).Canonical := setPbReg_canonical h

theorem runPoison_canonical {r bad} : (s.runPoison r bad).Canonical := ite_canonical (updRgn_canonical h) h

theorem pbClear_canonical {a} : (s.pbClear a).Canonical := keep_canonical h

theorem updRunR_canonical {r f} : (s.updRunR r f).Canonical := updRgn_canonical h

theorem pbStamp_canonical {r} : (s.pbStamp r).Canonical := updRunR_canonical h

theorem releaseId_canonical {r id} : (s.releaseId r id).Canonical := foldl_canonical (fun _ _ h1 => releaseMu_canonical h1) h

theorem slowFree_canonical {r i} : (s.slowFree r i).Canonical := by
  unfold State.slowFree
  split
  · exact h
  · exact ite_else (updRunR_canonical h) (releaseId_canonical ·)

theorem slowPush_canonical {r i} : (s.slowPush r i).Canonical := by
  unfold State.slowPush
  split
  · exact h
  · exact pbStamp_canonical (updRunR_canonical (pbClear_canonical
      (pbDone_canonical (runPoison_canonical (ite_canonical h (pbCount_canonical
      (pbPut_canonical (foldl_canonical (fun _ _ h1 => pbPut_canonical h1) (hubRead_canonical h)))))))))

theorem putOffRow_canonical {r d k x} : (s.putOffRow r d k x).Canonical := by
  unfold State.putOffRow
  split
  · exact foldl_canonical (fun _ _ h1 => putDevWord_canonical _ _ _ _ h1) h
  · split
    · exact spadWritten_canonical (putSpadRow_canonical _ _ _ _ _ h)
    · exact h

theorem offFree_canonical {r i} : (s.offFree r i).Canonical := by
  unfold State.offFree
  split
  · exact h
  · exact ite_else (updRunR_canonical h) (releaseId_canonical ·)

theorem freeIds_canonical {r} : (s.freeIds r).Canonical := by
  unfold State.freeIds
  split
  · exact h
  · exact foldl_canonical (fun _ _ h1 => offFree_canonical h1) (foldl_canonical (fun _ _ h1 => slowFree_canonical h1) h)

theorem wakeDrain_canonical {r} : (s.wakeDrain r).Canonical := ite_canonical (beginWave_canonical h) h

theorem duePasses_canonical {r g} : (s.duePasses r g).Canonical :=
  foldl_canonical (fun _ _ h1 => ite_canonical (updPass_canonical (by
    split
    · exact keep_canonical h1
    · exact h1)) (ouShow_canonical (updPass_canonical h1))) h

theorem declareDrain_canonical {r} : (s.declareDrain r).Canonical := by
  unfold State.declareDrain
  extract_lets g now t u v w x
  have hw : w.Canonical :=
    trigColl_canonical (duePasses_canonical (pinAhead_canonical (emitTrace_canonical (addCtr_canonical (updRgn_canonical h)))))
  refine foldl_canonical (fun _ _ h1 => muGo_canonical h1) ?_
  unfold x
  split
  · exact hw
  · split
    · exact hw
    · refine pbShow_canonical (updHost_canonical (foldl_canonical (fun _ _ h1 => pbStamp_canonical (updRunR_canonical h1)) ?_))
      exact foldl_canonical (fun _ _ h1 => slowPush_canonical h1) hw

theorem tryDrains_canonical {r n} : (s.tryDrains r n).Canonical := by
  induction n generalizing s with
  | zero => exact h
  | succ n ih => exact ite_canonical (ih (declareDrain_canonical h)) h

theorem tryDrain_canonical {r} : (s.tryDrain r).Canonical := tryDrains_canonical (wakeDrain_canonical h)

theorem slowEnd_canonical {x c} : (s.slowEnd x c).Canonical := foldl_canonical (fun _ _ h1 => putDevWord_canonical _ _ _ _ h1) h

theorem finishRun_canonical {r} : (s.finishRun r).Canonical := by
  unfold State.finishRun
  split
  · exact h
  · split
    · exact h
    · exact ite_canonical h (due_canonical (slowEnd_canonical h))

theorem closeRun_canonical {c} : (s.closeRun c).1.Canonical := by
  unfold State.closeRun
  dsimp only
  split
  · exact h
  · refine pbShow_canonical (updHost_canonical (updRgn_canonical (rest_canonical ?_)))
    split
    · exact h
    · refine endInst_canonical (emitTrace_canonical ?_)
      exact ite_canonical (addCtr_canonical (addCtr_canonical (updRgn_canonical h)))
        (ite_then (addCtr_canonical (updRgn_canonical h)) (addCtr_canonical ·))

end

/-! ### Runs: the commands -/

theorem execRun_keeps {a} : Keeps s (execRun a s) := by
  unfold execRun
  split
  · exact keeps_self
  · exact keeps_next fun h => ite_canonical (due_canonical h) (takeUp_canonical (begin_canonical h))

theorem execStepCmd_keeps {a} : Keeps s (execStepCmd a s) := by
  unfold execStepCmd
  split
  · exact keeps_self
  · split
    · exact keeps_next (due_canonical ·)
    · split
      · exact keeps_next fun h => takeUp_canonical (begin_canonical h)
      · split
        · exact keeps_next (due_canonical ·)
        · exact keeps_next fun h => takeUp_canonical (begin_canonical h)

theorem execSlowPull_keeps {r i} : Keeps s (execSlowPull r i s) := by
  unfold execSlowPull
  split
  · exact keeps_self
  · exact keeps_next fun h => pbShow_canonical (pbStamp_canonical
      (updRunR_canonical (pbClear_canonical (pbDone_canonical (runPoison_canonical
      (ite_else (ite_then (foldl_canonical (fun _ _ h1 => putDevWord_canonical _ _ _ _ h1) h) fun ht => putDevWord_canonical _ _ _ _ ht)
      (pbCount_canonical ·)))))))

theorem execSlowRelease_keeps {r i} : Keeps s (execSlowRelease r i s) := keeps_next fun h => ite_canonical (slowFree_canonical h) h

theorem execOffloadEnd_keeps {r i} : Keeps s (execOffloadEnd r i s) := by
  unfold execOffloadEnd
  split
  · exact keeps_self
  · refine keeps_next fun h => pbShow_canonical (pbStamp_canonical (updRunR_canonical ?_))
    refine pbClear_canonical (pbDone_canonical (runPoison_canonical (ite_then ?_ (pbCount_canonical ·))))
    refine foldl_fst_canonical (fun z k hz => ?_) h
    dsimp only
    split
    · exact putOffRow_canonical hz
    · refine ite_then (ite_canonical (hubRead_canonical hz) ?_) fun ht => foldl_canonical (fun _ _ h1 => pbPut_canonical h1) ht
      split
      · exact decodeSpad_canonical hz
      · exact hz

theorem execDrainDeclare_keeps {r g} : Keeps s (execDrainDeclare r g s) := keeps_next fun h => ite_canonical (declareDrain_canonical h) h

/-! ### The host's feeds -/

section

variable (h : s.Canonical)
include h

theorem feedDiscard_canonical {p k f} : (s.feedDiscard p k f).Canonical := ite_then (addReg_canonical h) (fnCount_canonical ·)

theorem updReq_canonical {a f} : (s.updReq a f).Canonical := rest_canonical h

theorem deliverInput_canonical {q k} : (s.deliverInput q k).Canonical :=
  ite_canonical (regionDown_canonical h) (foldl_canonical (fun _ _ h1 => spadWritten_canonical (putSpadRow_canonical _ _ _ _ _ h1)) h)

theorem giveBuffers_canonical {r} : (s.giveBuffers r).Canonical :=
  foldl_canonical (fun _ _ h1 => by
    split
    · exact h1
    · exact updReq_canonical (deliverInput_canonical h1)) h

theorem feedAccept_canonical {p f arrival} : (s.feedAccept p f arrival).Canonical :=
  giveBuffers_canonical (rest_canonical (updHost_canonical (addReg_canonical
    (fnCount_canonical (reserveCq_canonical (takeSlot_canonical (takeSeq_canonical h)))))))

theorem slotEdge_canonical {n second} : (s.slotEdge n second).Canonical := latchWhere_canonical h

theorem dispatch_canonical {q} : (s.dispatch q).Canonical :=
  ite_canonical h (ite_canonical (updReq_canonical h) (ite_canonical h (updReq_canonical (beginWave_canonical (beginInst_canonical h)))))

theorem feedAnswer_canonical {q} : (s.feedAnswer q).Canonical := by
  unfold State.feedAnswer
  extract_lets m n rows bytes bad t
  have ht : t.Canonical := foldl_canonical (fun _ _ h1 => decodeSpad_canonical h1) h
  exact ite_canonical (updReq_canonical (addReg_canonical ht)) (updReq_canonical ht)

theorem backstop_canonical {q} : (s.backstop q).Canonical :=
  ite_canonical h (ite_canonical (feedAnswer_canonical h) (updReq_canonical (by
    split
    · exact rest_canonical (updInst_canonical h)
    · exact h)))

theorem sendResponse_canonical {x} : (s.sendResponse x).Canonical := by
  unfold State.sendResponse
  split
  · exact h
  · dsimp only
    split
    · exact ite_then (updReq_canonical (rest_canonical h)) (updCmd_canonical ·)
    · exact rest_canonical (updReq_canonical (rest_canonical h))

theorem sendDue_canonical : (s.sendDue).Canonical := foldl_canonical (fun _ _ h1 => sendResponse_canonical h1) h

theorem closeReq_canonical {c} : (s.closeReq c).Canonical := by
  unfold State.closeReq
  split
  · exact h
  next q _ =>
    refine giveBuffers_canonical (rest_canonical ?_)
    have ht : State.Canonical (match q.inst with | some id => s.endInst q.region id | none => s) := by
      split
      · exact endInst_canonical h
      · exact h
    exact ite_canonical (addCtr_canonical ht) (ite_then ht (addCtr_canonical ·))

theorem feedSlotWrite_canonical {n v} : (s.feedSlotWrite n v).Canonical :=
  ite_canonical (setRegBits_canonical (setRegBit_canonical (setReg_canonical (setReg_canonical h)))) (rest_canonical (setReg_canonical h))

theorem applySlots_canonical : (s.applySlots).Canonical :=
  rest_canonical (foldl_canonical (fun _ _ h1 => by
    split
    · exact h1
    · exact rest_canonical h1) h)

end

/-! ### The host's feeds: the commands -/

theorem execFeedFrame_keeps {p bytes arrival} : Keeps s (execFeedFrame p bytes arrival s) := by
  unfold execFeedFrame
  split
  · split
    · exact keeps_next fun h => feedDiscard_canonical (ite_canonical (slotEdge_canonical h) h)
    · exact keeps_next fun h => feedAccept_canonical (slotEdge_canonical (slotEdge_canonical h))
  · exact keeps_self

theorem execRequestDispatch_keeps {q} : Keeps s (execRequestDispatch q s) := by
  unfold execRequestDispatch
  split
  · exact keeps_self
  · exact keeps_next (dispatch_canonical ·)

theorem execAnswerReady_keeps {q} : Keeps s (execAnswerReady q s) := by
  unfold execAnswerReady
  split
  · exact keeps_self
  · exact keeps_next (feedAnswer_canonical ·)

theorem execBackstop_keeps {q} : Keeps s (execBackstop q s) := by
  unfold execBackstop
  split
  · exact keeps_self
  · exact keeps_next (backstop_canonical ·)

theorem execResponseSend_keeps {q} : Keeps s (execResponseSend q s) := by
  unfold execResponseSend
  split
  · exact keeps_self
  · exact keeps_next (sendResponse_canonical ·)

theorem execFeedLinkUp_keeps {p} : Keeps s (execFeedLinkUp p s) :=
  keeps_next fun h => ite_canonical (setRegBit_canonical (rest_canonical h)) h

theorem execFeedLinkDown_keeps {p} : Keeps s (execFeedLinkDown p s) := keeps_next fun h => setRegBits_canonical (rest_canonical h)

theorem execFeedSlotWrite_keeps {n v} : Keeps s (execFeedSlotWrite n v s) := pfWrite_keeps (feedSlotWrite_canonical ·)

end Sys2Proof.Proofs
end

section
/-! PROOFS. What every step keeps: host commands, commits and maintenance. -/

namespace Sys2Proof.Proofs

open Sys2Proof Sys2Proof.Machine Sys2Proof.Laws

-- In order, one proof at a time: proofs elaborated side by side would exceed the limits of the check.
set_option Elab.async false

variable {s : State}

/-! ### Host commands and scrubbing -/

section

variable (h : s.Canonical)
include h

theorem putFnPart_canonical {fn w l} : (s.putFnPart fn w l).Canonical := putFnWord_canonical _ _ _ _ _ h

theorem xferMove_canonical {c ep} : (s.xferMove c ep).Canonical :=
  due_canonical (ite_then (foldl_canonical (fun _ _ h1 => putFnPart_canonical h1) (sourceRead_canonical h)) (paWrite_canonical ·))

theorem placeFences_canonical : (s.placeFences).Canonical := foldl_canonical (fun _ _ h1 => keep_canonical (updRgn_canonical h1)) h

theorem heldFences_canonical : (s.heldFences).Canonical := foldl_canonical (fun _ _ h1 => ite_canonical (keep_canonical h1) h1) h

theorem dueFences_canonical : (s.dueFences).Canonical := foldl_canonical (fun _ _ h1 => ite_canonical h1 (due_canonical h1)) h

theorem schedDo_canonical {c ep} : (s.schedDo c ep).Canonical := by
  unfold State.schedDo
  dsimp only
  split
  · exact due_canonical (sourceRead_canonical h)
  · exact due_canonical (foldl_canonical (fun _ _ h1 => setBankEnt_canonical h1) (sourceRead_canonical h))

theorem commitSwap_canonical {r} : (s.commitSwap r).Canonical := by
  unfold State.commitSwap
  split
  · exact h
  · exact ite_canonical h (due_canonical (updRgn_canonical (selectBank_canonical h)))

theorem countersCmd_canonical {a p} : (s.countersCmd a p).Canonical := by
  unfold State.countersCmd
  split
  · exact h
  · split
    · exact due_canonical h
    · exact begin_canonical h

theorem sample_canonical {c} : (s.sample c).Canonical :=
  due_canonical (ite_then (foldl_canonical (fun _ _ h1 => putFnPart_canonical h1) h) (paWrite_canonical ·))

theorem sampleAll_canonical : (s.sampleAll).Canonical := foldl_canonical (fun _ _ h1 => sample_canonical h1) h

theorem scrubWord_canonical {kind a} : (s.scrubWord kind a).2.Canonical := by
  unfold State.scrubWord
  dsimp only
  split
  · exact updMem_canonical ((countErr_sameMem _ _ _).canonical h)
  · split
    · exact updMem_canonical ((countErr_sameMem _ _ _).canonical h)
    · split
      · exact updMem_canonical (updMem_canonical ((logRec_sameMem _ _ _ _ _ _).canonical ((countErr_sameMem _ _ _).canonical h)))
      · split
        · exact (countErr_sameMem _ _ _).canonical h
        · exact h

theorem scrubCopy_canonical {kind i x w} : (s.scrubCopy kind i x w).2.Canonical := by
  unfold State.scrubCopy
  extract_lets src a u fix clear v
  have hc : ∀ k, (s.countErr src k).Canonical := fun k => (countErr_sameMem _ _ _).canonical h
  have hf : ∀ t f, t.Canonical → (fix t f).Canonical := fun _ _ ht => updSlice_canonical _ _ _ ht
  split
  · exact hf _ _ (hc 0)
  · split
    · exact hf _ _ (hc 1)
    · split
      · exact hf _ _ ((logRec_sameMem _ _ _ _ _ _).canonical (hc 2))
      · split
        · exact hc 3
        · exact h

omit h in
theorem scrubLine_canonical {z : State × Scrub} {l} (hz : z.1.Canonical) : (State.scrubLine z l).1.Canonical := by
  refine foldl_fst_canonical (fun z w h1 => ?_) (countHs_sameMem _ _ _ _ |>.canonical hz)
  dsimp only
  split
  · exact scrubWord_canonical h1
  · exact scrubCopy_canonical (scrubWord_canonical h1)

theorem scrubPass_canonical {c lines status} : (s.scrubPass c lines status).Canonical :=
  due_canonical (ite_then (putFnWords_canonical _ _ _ _ (foldl_fst_canonical (fun _ _ h1 => scrubLine_canonical h1) h))
    (paWrite_canonical ·))

theorem scrubStop_canonical {c status} : (s.scrubStop c status).Canonical := scrubPass_canonical (fresh_canonical h)

theorem countPass_canonical {src} : (s.countPass src).Canonical := addRegSat_canonical h

theorem setPatrol_canonical {k v} : (s.setPatrol k v).Canonical := updMem_canonical h

theorem patrolDram_canonical {q} : (s.patrolDram q).Canonical :=
  ite_canonical (setPatrol_canonical (ite_then (foldl_canonical (fun _ _ h1 => foldl_canonical (fun _ _ h2 => scrubWord_canonical h2)
    (addReg_canonical h1)) h) (countPass_canonical ·))) h

theorem patrolSlices_canonical {d} : (s.patrolSlices d).Canonical :=
  setPatrol_canonical (ite_then (foldl_canonical (fun _ _ h1 => foldl_canonical
    (fun _ _ h2 => foldl_canonical (fun _ _ h3 => scrubCopy_canonical h3) h2)
    (foldl_canonical (fun _ _ h2 => foldl_canonical (fun _ _ h3 => scrubCopy_canonical h3) h2) h1)) h) (countPass_canonical ·))

theorem hostRead_canonical {portB a ep} : (s.hostRead portB a ep).Canonical := by
  unfold State.hostRead
  split
  · exact discardReport_canonical h
  · extract_lets own b log t
    have hl : (log s).Canonical := ite_then h ((logRec_sameMem _ _ _ _ _ _).canonical ·)
    refine ite_canonical (ite_canonical (keep_canonical (setPbReg_canonical hl)) h) (ite_canonical h ?_)
    split
    · exact loadRead_canonical hl
    · exact xferMove_canonical hl
    · exact schedDo_canonical hl
    · exact flashSourceRead_canonical hl
    · exact hl

theorem dropTrace_canonical {r} : (s.dropTrace r).Canonical := addCtr_canonical (updRgn_canonical h)

theorem trcOff_canonical {r} : (s.trcOff r).Canonical := setReg_canonical (rest_canonical h)

theorem writeTrace_canonical {x} : (s.writeTrace x).Canonical :=
  ite_canonical h (ite_canonical (dropTrace_canonical h) (ite_canonical (trcOff_canonical (dropTrace_canonical h))
    (addCtr_canonical (updRgn_canonical (putDevWords_canonical _ _ _ h)))))

end

/-! ### Host commands and scrubbing: the commands -/

theorem execXfer_keeps {a} : Keeps s (execXfer a s) := by
  unfold execXfer
  split
  · exact keeps_self
  · exact ite_keeps (keeps_next (due_canonical ·)) (ite_keeps (keeps_next (keep_canonical ·))
      (ite_keeps (keeps_next (due_canonical ·)) (ite_keeps (keeps_next fun h => keep_canonical (begin_canonical h))
      (keeps_next fun h => xferMove_canonical (begin_canonical h)))))

theorem execFence_keeps {a} : Keeps s (execFence a s) := by
  unfold execFence
  split
  · exact keeps_self
  · exact keeps_next fun h => keep_canonical (begin_canonical h)

theorem execSchedWrite_keeps {a} : Keeps s (execSchedWrite a s) := by
  unfold execSchedWrite
  split
  · exact keeps_self
  · exact ite_keeps keeps_self (ite_keeps (keeps_next (due_canonical ·))
      (ite_keeps (keeps_next fun h => keep_canonical (begin_canonical h)) (keeps_next fun h => schedDo_canonical (begin_canonical h))))

theorem execSchedSwap_keeps {a} : Keeps s (execSchedSwap a s) := by
  unfold execSchedSwap
  split
  · exact keeps_self
  · exact ite_keeps (keeps_next fun h => updRgn_canonical (keep_canonical (begin_canonical h))) keeps_self

theorem execSchedSwapCommit_keeps {r} : Keeps s (execSchedSwapCommit r s) := keeps_next fun h => ite_canonical (commitSwap_canonical h) h

theorem execBankCopyDone_keeps {r} : Keeps s (execBankCopyDone r s) :=
  ite_keeps keeps_self (keeps_next fun h => updRgn_canonical (foldl_canonical (fun _ _ h1 => setBankEnt_canonical h1)
    (clearBank_canonical h)))

theorem execCountersRegion_keeps {a} : Keeps s (execCountersRegion a s) := keeps_next (countersCmd_canonical ·)

theorem execCountersUnit_keeps {a} : Keeps s (execCountersUnit a s) := keeps_next (countersCmd_canonical ·)

theorem execCountersPhase_keeps {a} : Keeps s (execCountersPhase a s) := keeps_next (countersCmd_canonical ·)

theorem execCountersWindows_keeps {a} : Keeps s (execCountersWindows a s) := keeps_next (countersCmd_canonical ·)

theorem execCountersFunction_keeps {a} : Keeps s (execCountersFunction a s) := keeps_next (countersCmd_canonical ·)

theorem execCountersSample_keeps {a} : Keeps s (execCountersSample a s) := by
  unfold execCountersSample
  split
  · exact keeps_self
  · exact keeps_next (sample_canonical ·)

theorem execWatermark_keeps {a} : Keeps s (execWatermark a s) := by
  unfold execWatermark
  split
  · exact keeps_self
  · exact ite_keeps (keeps_next (due_canonical ·)) (keeps_next fun h => due_canonical
      (ite_then (putFnWords_canonical _ _ _ _ h) (paWrite_canonical ·)))

theorem execScrub_keeps {a} : Keeps s (execScrub a s) := by
  unfold execScrub
  split
  · exact keeps_self
  · exact ite_keeps (keeps_next (keep_canonical ·)) (ite_keeps (keeps_next (due_canonical ·))
      (ite_keeps (keeps_next (due_canonical ·)) (keeps_next fun h => keep_canonical (begin_canonical h))))

theorem execScrubPassDone_keeps {a} : Keeps s (execScrubPassDone a s) := by
  unfold execScrubPassDone
  split
  · exact keeps_next (discardReport_canonical ·)
  · exact keeps_next (scrubPass_canonical ·)

theorem execPatrolWindow_keeps {q} : Keeps s (execPatrolWindow q s) :=
  ite_keeps (keeps_next fun h => patrolSlices_canonical (patrolDram_canonical h)) keeps_self

theorem execSpPatrol_keeps {m} : Keeps s (execSpPatrol m s) := by
  unfold execSpPatrol
  extract_lets d p t
  have ht : s.Canonical → t.Canonical := fun h => foldl_canonical (fun u w hu => by
    have hc : ∀ k, (u.countErr (32 + d) k).Canonical := fun k => (countErr_sameMem _ _ _).canonical hu
    refine ite_canonical (updMem_canonical (hc 0)) (ite_canonical (updMem_canonical (hc 1)) (ite_canonical ?_ (ite_canonical (hc 3) hu)))
    exact updMem_canonical (updMem_canonical ((logRec_sameMem _ _ _ _ _ _).canonical (hc 2)))) h
  refine ite_keeps (ite_keeps (keeps_next fun h => ?_) (keeps_next fun h => setPatrol_canonical (ht h))) keeps_self
  exact setRegBits_canonical (setPatrol_canonical (setPatrol_canonical (ht h)))

theorem execHostReadCompletion_keeps {portB a ep} : Keeps s (execHostReadCompletion portB a ep s) := keeps_next (hostRead_canonical ·)

theorem execHostReadTimeout_keeps {portB a} : Keeps s (execHostReadTimeout portB a s) := keeps_next (hostRead_canonical ·)

theorem execPortBLinkDown_keeps : Keeps s (execPortBLinkDown s) :=
  keeps_next fun h => updHost_canonical (ite_canonical (setPbReg_canonical (foldl_canonical (fun _ _ h1 => keep_canonical h1) h)) h)

theorem execPortBLinkUp_keeps : Keeps s (execPortBLinkUp s) := keeps_next fun h => ite_canonical (updHost_canonical h) h

theorem execTraceRecordArrive_keeps {die} : Keeps s (execTraceRecordArrive die s) := by
  unfold execTraceRecordArrive
  split
  · exact keeps_self
  · exact keeps_next fun h => writeTrace_canonical (rest_canonical h)

/-! ### Commits -/

section

variable (h : s.Canonical)
include h

theorem ctlResult_canonical {a z} : (s.ctlResult a z).Canonical := setReg_canonical h

theorem ctlIdle_canonical {a} : (s.ctlIdle a).Canonical := setRegBits_canonical h

theorem partCommit_canonical : (s.partCommit).Canonical := ite_canonical h (ite_then (ctlResult_canonical h) (rest_canonical ·))

theorem flushLost_canonical : (s.flushLost).Canonical := foldl_canonical (fun _ _ h1 => flushLines_canonical _ _ _ h1) h

theorem clearObs_canonical {r} : (s.clearObs r).Canonical := updRgn_canonical (setReg_canonical (setReg_canonical (rest_canonical h)))

theorem applyPart_canonical : (s.applyPart).Canonical := by
  unfold State.applyPart
  dsimp only
  split
  · exact h
  · exact ctlIdle_canonical (foldl_canonical (fun _ _ h1 => ite_canonical h1
      (ite_then (ite_canonical (clearObs_canonical h1) (trcOff_canonical h1)) (updRgn_canonical ·)))
      (updMem_canonical (flushLost_canonical (zeroSpad_canonical _ _ (rest_canonical h)))))

theorem allotCommit_canonical : (s.allotCommit).Canonical := ite_canonical h (ite_then (ctlResult_canonical h) (rest_canonical ·))

theorem applyAllot_canonical : (s.applyAllot).Canonical := by
  unfold State.applyAllot
  split
  · exact h
  · exact foldl_canonical (fun _ _ h1 => selectBank_canonical h1) (ctlIdle_canonical (rest_canonical h))

theorem ringCommit_canonical : (s.ringCommit).Canonical := ite_canonical h (ite_then (ctlResult_canonical h) (rest_canonical ·))

theorem applyRings_canonical : (s.applyRings).Canonical := by
  unfold State.applyRings
  split
  · exact h
  · exact ctlIdle_canonical (rest_canonical h)

theorem mapCommit_canonical : (s.mapCommit).Canonical := ite_canonical h (ite_then (ctlResult_canonical h) (rest_canonical ·))

theorem applyMap_canonical : (s.applyMap).Canonical := by
  unfold State.applyMap
  split
  · exact h
  · exact ctlIdle_canonical (rest_canonical (foldl_canonical (fun _ _ h1 => zeroDram_canonical _ _ _ h1) h))

theorem plcEn_canonical {en} : (s.plcEn en).Canonical :=
  ite_canonical h (ite_canonical (setRegBit_canonical h) (ite_canonical (setRegBit_canonical h)
    (setRegBits_canonical (setRegBits_canonical h))))

theorem plcClr_canonical : (s.plcClr).Canonical := ite_canonical h (updMem_canonical h)

theorem plcWrite_canonical {n v} : (s.plcWrite n v).Canonical :=
  ite_canonical (setRegBit_canonical (setReg_canonical (setReg_canonical h))) (rest_canonical (setReg_canonical h))

theorem applyPlc_canonical : (s.applyPlc).Canonical :=
  foldl_canonical (fun _ _ h1 => ite_canonical (pinAhead_canonical h1) h1) (rest_canonical (foldl_canonical (fun _ _ h1 => by
    split
    · exact h1
    · exact rest_canonical h1) h))

theorem guestWrite_canonical {n j v} : (s.guestWrite n j v).Canonical :=
  ite_canonical h (ite_canonical (setRegBits_canonical (setRegBits_canonical (setRegBit_canonical h)))
    (rest_canonical (setReg_canonical h)))

theorem applyGuests_canonical : (s.applyGuests).Canonical :=
  rest_canonical (foldl_canonical (fun _ _ h1 => by
    split
    · exact h1
    · exact rest_canonical h1) h)

theorem grpWrite_canonical {n v} : (s.grpWrite n v).Canonical :=
  ite_canonical (foldl_canonical (fun _ _ h1 => setRegBits_canonical (setRegBit_canonical h1))
    (foldl_canonical (fun _ _ h1 => setReg_canonical h1) h)) (rest_canonical (setReg_canonical h))

theorem applyGroups_canonical : (s.applyGroups).Canonical :=
  rest_canonical (foldl_canonical (fun _ _ h1 => by
    split
    · exact h1
    · exact computeGrp_canonical (setReg_canonical (rest_canonical h1))) h)

theorem wmtagWrite_canonical {v} : (s.wmtagWrite v).Canonical := setReg_canonical (rest_canonical h)

theorem applyWmtag_canonical : (s.applyWmtag).Canonical := by
  unfold State.applyWmtag
  split
  · exact h
  · exact rest_canonical h

theorem trainGo_canonical {q chan} : (s.trainGo q chan).Canonical :=
  ite_canonical (setRegBit_canonical h) (updPower_canonical (setRegBit_canonical (setRegBits_canonical h)))

theorem fwProg_canonical : (s.fwProg).Canonical := ite_canonical (setRegBits_canonical h) (setRegBit_canonical (setRegBits_canonical h))

theorem trcWrite_canonical {n v} : (s.trcWrite n v).Canonical :=
  ite_canonical (setRegBits_canonical (setRegBit_canonical (setReg_canonical (setReg_canonical h))))
    (ite_then (setReg_canonical (rest_canonical h)) (updRgn_canonical ·))

end

/-! ### Commits: the commands -/

theorem execHubPartCommit_keeps : Keeps s (execHubPartCommit s) := pfWrite_keeps (partCommit_canonical ·)

theorem execPartitionApply_keeps : Keeps s (execPartitionApply s) := keeps_next fun h => ite_canonical (applyPart_canonical h) h

theorem execPavAllotCommit_keeps : Keeps s (execPavAllotCommit s) := pfWrite_keeps (allotCommit_canonical ·)

theorem execAllotApply_keeps : Keeps s (execAllotApply s) := keeps_next fun h => ite_canonical (applyAllot_canonical h) h

theorem execHubFnringCommit_keeps : Keeps s (execHubFnringCommit s) := pfWrite_keeps (ringCommit_canonical ·)

theorem execFnringApply_keeps : Keeps s (execFnringApply s) := keeps_next fun h => ite_canonical (applyRings_canonical h) h

theorem execHubMapCommit_keeps : Keeps s (execHubMapCommit s) := pfWrite_keeps (mapCommit_canonical ·)

theorem execMapApply_keeps : Keeps s (execMapApply s) := keeps_next fun h => ite_canonical (applyMap_canonical h) h

theorem execPlcCtlEn_keeps {en} : Keeps s (execPlcCtlEn en s) := pfWrite_keeps (plcEn_canonical ·)

theorem execPlcCtlClr_keeps : Keeps s (execPlcCtlClr s) := pfWrite_keeps (plcClr_canonical ·)

theorem execPlcRgnWrite_keeps {n v} : Keeps s (execPlcRgnWrite n v s) := pfWrite_keeps (plcWrite_canonical ·)

theorem execHubGuestWrite_keeps {n j v} : Keeps s (execHubGuestWrite n j v s) := pfWrite_keeps (guestWrite_canonical ·)

theorem execCeGrpWrite_keeps {n v} : Keeps s (execCeGrpWrite n v s) := pfWrite_keeps (grpWrite_canonical ·)

theorem execHubWmtagWrite_keeps {v} : Keeps s (execHubWmtagWrite v s) := pfWrite_keeps (wmtagWrite_canonical ·)

theorem execWatermarkRecompute_keeps : Keeps s (execWatermarkRecompute s) := keeps_next (computeWm_canonical ·)

theorem execMemTrainGo_keeps {q chan} : Keeps s (execMemTrainGo q chan s) := pfWrite_keeps (trainGo_canonical ·)

theorem execRetrainDone_keeps {q ok} : Keeps s (execRetrainDone q ok s) :=
  ite_keeps keeps_self (keeps_next fun h => ite_else (updPower_canonical (setRegBits_canonical h)) (setRegBit_canonical ·))

theorem execHubFwctlProg_keeps : Keeps s (execHubFwctlProg s) := pfWrite_keeps (fwProg_canonical ·)

theorem execFwProgramDone_keeps {verified} : Keeps s (execFwProgramDone verified s) :=
  ite_keeps keeps_self (keeps_next fun h => ite_then (setRegBits_canonical (setRegBits_canonical h)) (updPower_canonical ·))

theorem execObsTrcWrite_keeps {n v} : Keeps s (execObsTrcWrite n v s) := pfWrite_keeps (trcWrite_canonical ·)

end Sys2Proof.Proofs
end

section
/-! PROOFS. What every step keeps: power, resets, Wallflower and bring-up. -/

namespace Sys2Proof.Proofs

open Sys2Proof Sys2Proof.Machine Sys2Proof.Laws

-- In order, one proof at a time: proofs elaborated side by side would exceed the limits of the check.
set_option Elab.async false

variable {s : State}

/-! ### Power -/

section

variable (h : s.Canonical)
include h

theorem powerDown_canonical {d} : (s.powerDown d).Canonical :=
  ite_canonical h (foldl_canonical (fun _ _ h1 => updRgn_canonical h1) (dropDieCopies_canonical (rest_canonical (setDie_canonical h))))

theorem moveReads_canonical {i} : (s.moveReads i).Canonical :=
  ite_canonical h (foldl_canonical (fun _ _ h1 => inject_canonical h1) (updSlice_canonical _ _ _ h))

theorem applyDies_canonical : (s.applyDies).Canonical :=
  ite_else (rest_canonical h) fun ht => showAllWres_canonical (foldl_canonical
    (fun _ _ h1 => foldl_canonical (fun _ _ h2 => moveReads_canonical h2) h1) ht)

theorem downReqs_canonical {r} : (s.downReqs r).Canonical :=
  foldl_canonical (fun _ _ h1 => ite_canonical (feedAnswer_canonical h1) (updReq_canonical h1)) h

theorem downCmds_canonical {r} : (s.downCmds r).Canonical := updHost_canonical (updRgn_canonical h)

theorem downStack_canonical {d} : (s.downStack d).Canonical :=
  foldl_canonical (fun _ _ h1 => by
    split
    · exact ite_canonical (collGo_canonical (collFail_canonical h1)) h1
    · exact h1) (foldl_canonical (fun _ _ h1 => scrubStop_canonical h1) h)

theorem fillDie_canonical {d} : (s.fillDie d).Canonical := updPower_canonical (zeroSpad_canonical _ _ (setDie_canonical h))

theorem powerUp_canonical {d} : (s.powerUp d).Canonical := by
  unfold State.powerUp
  split
  · exact fillDie_canonical h
  · exact updPower_canonical h
  · exact updPower_canonical h
  · exact updPower_canonical h
  · exact updPower_canonical h
  · exact h

end

/-! ### Power: the commands -/

theorem execDiePowerDown_keeps {d} : Keeps s (execDiePowerDown d s) := keeps_next (powerDown_canonical ·)

theorem execRefuseStateEntry_keeps {d} : Keeps s (execRefuseStateEntry d s) :=
  ite_keeps (keeps_next fun h => setDie_canonical (foldl_canonical
    (fun _ _ h1 => downReqs_canonical (downCmds_canonical (regionDown_canonical h1))) (downStack_canonical h))) keeps_self

theorem execPowerDownWritebackDone_keeps {d} : Keeps s (execPowerDownWritebackDone d s) :=
  ite_keeps (keeps_next fun h => setDie_canonical (foldl_canonical (fun _ _ h1 => flushLines_canonical _ _ _ h1)
    (foldl_canonical (fun _ _ h1 => regionDown_canonical (stopPass_canonical h1)) h))) keeps_self

theorem execSelfRefreshConfirmed_keeps {d} : Keeps s (execSelfRefreshConfirmed d s) :=
  keeps_next fun h => ite_canonical (setDie_canonical h) h

theorem execRefuseHoldExpiry_keeps {d} : Keeps s (execRefuseHoldExpiry d s) :=
  ite_keeps (keeps_next fun h => ite_then (setDie_canonical (foldl_canonical
    (fun _ _ h1 => unloadRegion_canonical (downCmds_canonical h1)) h)) (fillDie_canonical ·)) keeps_self

theorem execDiePowerUp_keeps {d} : Keeps s (execDiePowerUp d s) := keeps_next (powerUp_canonical ·)

theorem execPowerUpDone_keeps {d} : Keeps s (execPowerUpDone d s) := keeps_next fun h => ite_canonical (setDie_canonical h) h

/-! ### Function resets -/

section

variable (h : s.Canonical)
include h

theorem lateReqs_canonical {p} : (s.lateReqs p).Canonical := updHost_canonical (rest_canonical h)

theorem cancelCmd_canonical {c silent} : (s.cancelCmd c silent).Canonical :=
  ite_else (endFlash_canonical h) fun ht => ite_canonical (takeUp_canonical (dropCmd_canonical (closeRun_canonical ht)))
    (ite_canonical (scrubStop_canonical ht) (due_canonical ht))

theorem cancelAll_canonical {fn a silent} : (s.cancelAll fn a silent).Canonical :=
  foldl_canonical (fun _ _ h1 => cancelCmd_canonical h1) (foldl_canonical (fun _ _ h1 => cancelCmd_canonical h1) (stopColls_canonical h))

theorem resetRegion_canonical {r} : (s.resetRegion r).Canonical := by
  refine foldl_canonical (fun _ _ h1 => updMu_canonical h1) (foldl_canonical (fun _ _ h1 => setCu_canonical h1) ?_)
  refine ite_then (foldl_canonical (fun _ _ h1 => flushLines_canonical _ _ _ h1) (zeroSpad_canonical _ _ ?_)) (updMem_canonical ·)
  exact updRgn_canonical (clearObs_canonical (unloadRegion_canonical (foldl_canonical (fun _ _ h1 => stopPass_canonical h1) h)))

theorem emptyBanks_canonical {fn} : (s.emptyBanks fn).Canonical :=
  foldl_canonical (fun _ _ h1 => by
    split
    · exact ite_canonical h1 (foldl_canonical (fun _ _ h2 => foldl_canonical (fun _ _ h3 => updEng_canonical h3) h2) h1)
    · exact h1) h

theorem beginReset_canonical {fn a silent} : (s.beginReset fn a silent).Canonical :=
  foldl_canonical (fun _ _ h1 => resetRegion_canonical h1) (emptyBanks_canonical
    (cancelAll_canonical (lateReqs_canonical (setFnReg_canonical (updHost_canonical h)))))

theorem clearFn_canonical {fn} : (s.clearFn fn).Canonical := updHost_canonical h

theorem clearRings_canonical {fn} : (s.clearRings fn).Canonical := setFnReg_canonical (rest_canonical (updHost_canonical h))

theorem endReset_canonical {fn} : (s.endReset fn).Canonical :=
  ite_canonical h (clearRings_canonical (by
    split
    · exact dropCmd_canonical (postRecord_canonical (clearFn_canonical h))
    · exact (clearFn_canonical h)))

theorem endResets_canonical : (s.endResets).Canonical := foldl_canonical (fun _ _ h1 => endReset_canonical h1) h

theorem dropQuiesce_canonical {fn} : (s.dropQuiesce fn).Canonical := by
  unfold State.dropQuiesce
  split
  · exact h
  · exact dropSlot_canonical (dropCmd_canonical (foldl_canonical (fun _ _ h1 => dropCmd_canonical (closeRun_canonical h1)) h))

theorem perst_canonical : (s.perst).Canonical :=
  updHost_canonical (foldl_canonical (fun _ _ h1 => beginReset_canonical (dropQuiesce_canonical h1)) (updHost_canonical h))

end

/-! ### Function resets: the commands -/

theorem execQuiesce_keeps {a} : Keeps s (execQuiesce a s) := by
  unfold execQuiesce
  split
  · exact keeps_self
  · exact ite_keeps keeps_self (ite_keeps (keeps_next (due_canonical ·)) (keeps_next fun h => beginReset_canonical (begin_canonical h)))

theorem execFlr_keeps {fn} : Keeps s (execFlr fn s) := keeps_next fun h => ite_canonical (beginReset_canonical (dropQuiesce_canonical h)) h

theorem execZeroingDone_keeps {fn} : Keeps s (execZeroingDone fn s) :=
  ite_keeps keeps_self (keeps_next fun h => setFnBit_canonical (updHost_canonical
    (foldl_canonical (fun _ _ h1 => zeroDram_canonical _ _ _ h1) h)))

/-! ### Wallflower -/

section

variable (h : s.Canonical)
include h

theorem showSensor_canonical {n} : (s.showSensor n).Canonical :=
  ite_canonical (setReg_canonical (by
    split
    · exact h
    · exact fresh_canonical h)) (setReg_canonical h)

theorem dropSamples_canonical {n} : (s.dropSamples n).Canonical := showSensor_canonical (updWf_canonical h)

theorem dropDark_canonical : (s.dropDark).Canonical :=
  foldl_canonical (fun _ _ h1 => ite_canonical h1 (dropSamples_canonical h1)) (updWf_canonical h)

theorem showWf_canonical : (s.showWf).Canonical :=
  foldl_canonical (fun _ _ h1 => setReg_canonical (setReg_canonical h1)) (setReg_canonical (setReg_canonical h))

theorem wfSet_canonical {f} : (s.wfSet f).Canonical := showWf_canonical (updWf_canonical h)

theorem alertTo_canonical {alert mask} : (s.alertTo alert mask).Canonical := wfSet_canonical h

theorem setAlert_canonical {i} : (s.setAlert i).Canonical := alertTo_canonical h

theorem wfNote_canonical {action cause obj} : (s.wfNote action cause obj).Canonical := wfSet_canonical h

theorem showHold_canonical : (s.showHold).Canonical := foldl_canonical (fun _ _ h1 => setRegBits_canonical h1) h

theorem wfClose_canonical {cause obj} : (s.wfClose cause obj).Canonical :=
  ite_canonical h (wfNote_canonical (setAlert_canonical (showHold_canonical (closeAll_canonical (updWf_canonical h)))))

theorem askGate_canonical {obj cause} : (s.askGate obj cause).Canonical := ite_canonical h (updWf_canonical h)

theorem gate_canonical {d cause} : (s.gate d cause).Canonical :=
  wfNote_canonical (setAlert_canonical (powerDown_canonical (updWf_canonical h)))

theorem doTrip_canonical {cause obj} : (s.doTrip cause obj).Canonical :=
  ite_canonical h (ite_else (wfClose_canonical (wfNote_canonical (setAlert_canonical (updWf_canonical h)))) fun ht => foldl_canonical
    (fun _ _ h1 => ite_canonical (setAlert_canonical (powerDown_canonical (updWf_canonical h1))) h1) ht)

theorem tryClear_canonical : (s.tryClear).Canonical := ite_canonical (wfNote_canonical (updWf_canonical h)) h

theorem evalAlerts_canonical : (s.evalAlerts).Canonical := alertTo_canonical (updWf_canonical h)

theorem evalGates_canonical : (s.evalGates).Canonical :=
  ite_canonical h (ite_then (foldl_canonical (fun _ _ h1 => ite_canonical (askGate_canonical h1) h1)
    (foldl_canonical (fun _ _ h1 => ite_canonical h1 (ite_canonical (askGate_canonical h1) (ite_canonical (askGate_canonical h1) h1))) h))
    (askGate_canonical ·))

theorem evalTaking_canonical : (s.evalTaking).Canonical := ite_canonical h (updWf_canonical h)

theorem judge_canonical : (s.judge).Canonical :=
  ite_else (tryClear_canonical (evalTaking_canonical h)) fun hu => by
    split
    · exact evalAlerts_canonical (doTrip_canonical hu)
    · exact evalAlerts_canonical (evalGates_canonical (by
      split
      · exact wfClose_canonical hu
      · exact ite_then hu (wfClose_canonical ·)))

theorem wfTime_canonical {dt} : (s.wfTime dt).Canonical := ite_canonical h (updWf_canonical h)

theorem holdEnds_canonical : (s.holdEnds).Canonical := updWf_canonical h

theorem smbRead_canonical {b} : (s.smbRead b).Canonical := updWf_canonical h

theorem smbWrite_canonical {code data pec need f} (hf : ∀ t, t.Canonical → (f t).1.Canonical) :
    (s.smbWrite code data pec need f).Canonical :=
  ite_canonical h (ite_canonical (updWf_canonical (hf _ h)) (setAlert_canonical (updWf_canonical h)))

end

/-! ### Wallflower: the commands -/

theorem execGateDie_keeps : Keeps s (execGateDie s) := by
  unfold execGateDie
  split
  · exact keeps_self
  · dsimp only
    split
    · exact keeps_next (updWf_canonical ·)
    · split
      · exact keeps_next fun h => gate_canonical (updWf_canonical h)
      · exact keeps_self

theorem execUngateDie_keeps : Keeps s (execUngateDie s) := by
  unfold execUngateDie
  split
  · exact keeps_self
  · split
    · exact keeps_self
    · exact keeps_next fun h => wfNote_canonical (setAlert_canonical (powerUp_canonical (updWf_canonical h)))

theorem execHwComparatorTrip_keeps {die} : Keeps s (execHwComparatorTrip die s) :=
  ite_keeps keeps_self (keeps_next fun h => ite_then (setAlert_canonical (updWf_canonical h)) (doTrip_canonical ·))

theorem execSensorSample_keeps {n v} : Keeps s (execSensorSample n v s) :=
  ite_keeps keeps_self (keeps_next fun h => judge_canonical (showSensor_canonical (updWf_canonical h)))

theorem execSensorMissing_keeps {n} : Keeps s (execSensorMissing n s) := by
  unfold execSensorMissing
  extract_lets t
  have ht : s.Canonical → t.Canonical := fun h => setAlert_canonical (dropSamples_canonical (updWf_canonical h))
  refine ite_keeps keeps_self (ite_keeps (keeps_next ht) (ite_keeps (keeps_next fun h => ?_) (keeps_next fun h => ?_)))
  · exact ite_then (ht h) (askGate_canonical ·)
  · exact ite_then (ht h) (wfClose_canonical ·)

theorem execHcpHeartbeat_keeps : Keeps s (execHcpHeartbeat s) := keeps_next (updWf_canonical ·)

theorem execHeartbeatLoss_keeps : Keeps s (execHeartbeatLoss s) :=
  ite_keeps keeps_self (keeps_next fun h => ite_then (setAlert_canonical (updWf_canonical h)) (wfClose_canonical ·))

theorem execResetHeldExpiry_keeps : Keeps s (execResetHeldExpiry s) :=
  keeps_next fun h => ite_canonical (setAlert_canonical (updWf_canonical h)) h

theorem execWfResetN_keeps : Keeps s (execWfResetN s) := keeps_next fun h => ite_canonical (wfSet_canonical h) h

theorem execWallflowerRestartDone_keeps : Keeps s (execWallflowerRestartDone s) :=
  ite_keeps keeps_self (keeps_next fun h => ite_then (wfSet_canonical (foldl_canonical (fun _ _ h1 => dropSamples_canonical h1) h))
    (doTrip_canonical ·))

theorem execErrtotRefresh_keeps : Keeps s (execErrtotRefresh s) := ite_keeps keeps_self (keeps_next (updWf_canonical ·))

theorem execSmbVersion_keeps : Keeps s (execSmbVersion s) := keeps_next (smbRead_canonical ·)

theorem execSmbState_keeps : Keeps s (execSmbState s) := keeps_next (smbRead_canonical ·)

theorem execAlertRead_keeps : Keeps s (execAlertRead s) := keeps_next (smbRead_canonical ·)

theorem execAlertmaskRead_keeps : Keeps s (execAlertmaskRead s) := keeps_next (smbRead_canonical ·)

theorem execSmbGated_keeps : Keeps s (execSmbGated s) := keeps_next (smbRead_canonical ·)

theorem execPlimitRead_keeps : Keeps s (execPlimitRead s) := keeps_next (smbRead_canonical ·)

theorem execGorderRead_keeps : Keeps s (execGorderRead s) := keeps_next (smbRead_canonical ·)

theorem execLastcmd_keeps : Keeps s (execLastcmd s) := keeps_next (smbRead_canonical ·)

theorem execResetheld_keeps : Keeps s (execResetheld s) := keeps_next (smbRead_canonical ·)

theorem execSensorN_keeps {n} : Keeps s (execSensorN n s) := keeps_next fun h => ite_canonical (smbRead_canonical h) (smbRead_canonical h)

theorem execErrtot_keeps : Keeps s (execErrtot s) := keeps_next (smbRead_canonical ·)

theorem execWfLog_keeps : Keeps s (execWfLog s) := keeps_next (smbRead_canonical ·)

theorem execAlertResponse_keeps : Keeps s (execAlertResponse s) :=
  keeps_next fun h => ite_canonical (updWf_canonical (smbRead_canonical h)) (smbRead_canonical h)

theorem execAlertClear_keeps {v pec} : Keeps s (execAlertClear v pec s) :=
  keeps_next fun h => smbWrite_canonical h (fun _ h1 => alertTo_canonical h1)

theorem execAlertmaskWrite_keeps {v pec} : Keeps s (execAlertmaskWrite v pec s) :=
  keeps_next fun h => smbWrite_canonical h (fun _ h1 => alertTo_canonical h1)

theorem execPlimitWrite_keeps {v pec} : Keeps s (execPlimitWrite v pec s) :=
  keeps_next fun h => smbWrite_canonical h (fun _ h1 => by
    split
    · exact wfSet_canonical h1
    · exact h1)

theorem execGorderWrite_keeps {bytes pec} : Keeps s (execGorderWrite bytes pec s) :=
  keeps_next fun h => smbWrite_canonical h (fun _ h1 => by
    split
    · exact updWf_canonical h1
    · exact h1)

theorem execCmdGate_keeps {v pec} : Keeps s (execCmdGate v pec s) :=
  keeps_next fun h => smbWrite_canonical h (fun _ h1 => by
    split
    · exact h1
    · exact foldl_canonical (fun _ _ h2 => ite_then (updWf_canonical h2) (askGate_canonical ·)) h1)

theorem execCmdUngate_keeps {v pec} : Keeps s (execCmdUngate v pec s) :=
  keeps_next fun h => smbWrite_canonical h (fun _ h1 => by
    split
    · exact h1
    · exact updWf_canonical h1)

theorem execCmdBypassClose_keeps {pec} : Keeps s (execCmdBypassClose pec s) :=
  keeps_next fun h => smbWrite_canonical h (fun _ h1 => wfClose_canonical h1)

theorem execCmdBypassRelease_keeps {pec} : Keeps s (execCmdBypassRelease pec s) :=
  keeps_next fun h => smbWrite_canonical h (fun _ h1 => by
    split
    · exact h1
    · split
      · exact h1
      · exact wfNote_canonical (showHold_canonical (updWf_canonical h1)))

/-! ### Bring-up -/

section

variable (h : s.Canonical)
include h

theorem showDefects_canonical : (s.showDefects).Canonical :=
  setRegBits_canonical (foldl_canonical (fun _ _ h1 => setReg_canonical (setReg_canonical h1)) (rest_canonical h))

theorem addDefect_canonical {d} : (s.addDefect d).Canonical := ite_then (updWf_canonical (updPower_canonical h)) (updPower_canonical ·)

theorem quench_canonical : (s.quench).Canonical :=
  closeAll_canonical (foldl_canonical (fun _ _ h1 => restLink_canonical h1) (untouched (ite_canonical (updPower_canonical h) h)))

theorem mainOff_canonical : (s.mainOff).Canonical :=
  ite_canonical h (showWf_canonical (dropDark_canonical (wfSet_canonical (updPower_canonical (quench_canonical h)))))

theorem enterReset_canonical : (s.enterReset).Canonical := by
  unfold State.enterReset
  exact showWf_canonical (dropDark_canonical (showHold_canonical (wfSet_canonical (updPower_canonical (quench_canonical h)))))

theorem beginBringup_canonical : (s.beginBringup).Canonical :=
  foldl_canonical (fun _ _ h1 => showSensor_canonical h1) (showWf_canonical
    (showHold_canonical (wfSet_canonical (foldl_canonical (fun _ _ h1 => showByp_canonical h1)
    (closeAll_canonical (foldl_canonical (fun _ _ h1 => restLink_canonical h1)
    (showDefects_canonical (setRegBits_canonical (setPbReg_canonical (setReg_canonical (rest_canonical (holdEnds_canonical h))))))))))))

theorem stageGo_canonical {n} : (s.stageGo n).Canonical :=
  ite_canonical (updPower_canonical (setRegBits_canonical (setRegBits_canonical (setRegBits_canonical h)))) (setRegBit_canonical h)

theorem stageEnd_canonical {code whr} : (s.stageEnd code whr).Canonical := updPower_canonical h

theorem removeDie_canonical {d} : (s.removeDie d).Canonical :=
  ite_else (setRegBit_canonical (setDie_canonical h)) fun ht => addDefect_canonical (fresh_canonical ht)

end

/-! ### Bring-up: the commands -/

theorem execAuxGood_keeps {straps} : Keeps s (execAuxGood straps s) :=
  ite_keeps keeps_self (keeps_next fun h => wfSet_canonical (updPower_canonical h))

theorem execAuxLoss_keeps : Keeps s (execAuxLoss s) :=
  ite_keeps keeps_self (keeps_next fun h => updWf_canonical (updPower_canonical (mainOff_canonical (updPower_canonical h))))

theorem execPwrEnAssert_keeps : Keeps s (execPwrEnAssert s) := keeps_next (updPower_canonical ·)

theorem execPwrEnDeassert_keeps : Keeps s (execPwrEnDeassert s) := keeps_next fun h => mainOff_canonical (updPower_canonical h)

theorem execPgoodAssert_keeps {pairTag} : Keeps s (execPgoodAssert pairTag s) :=
  ite_keeps keeps_self (keeps_next fun h => ite_then (showWf_canonical
    (closeAll_canonical (ite_then (updPower_canonical h) (setReg_canonical ·)))) (beginBringup_canonical ·))

theorem execPowerFail_keeps : Keeps s (execPowerFail s) := keeps_next fun h => mainOff_canonical (updPower_canonical h)

theorem execResetNAssert_keeps : Keeps s (execResetNAssert s) :=
  keeps_next fun h => ite_then (updPower_canonical h) (enterReset_canonical ·)

theorem execResetNDeassert_keeps : Keeps s (execResetNDeassert s) :=
  keeps_next fun h => ite_then (updPower_canonical h) (beginBringup_canonical ·)

theorem execPerstNAssert_keeps : Keeps s (execPerstNAssert s) := keeps_next fun h => ite_then (updPower_canonical h) (perst_canonical ·)

theorem execPerstNDeassert_keeps : Keeps s (execPerstNDeassert s) := keeps_next (updPower_canonical ·)

theorem execPlugWithdraw_keeps : Keeps s (execPlugWithdraw s) := keeps_next (updPower_canonical ·)

theorem execPlugSeat_keeps : Keeps s (execPlugSeat s) := keeps_next (updPower_canonical ·)

theorem execFirmwareBoot_keeps {ok0 ok1 flevel build} : Keeps s (execFirmwareBoot ok0 ok1 flevel build s) :=
  ite_keeps keeps_self (ite_keeps (keeps_next fun h => updPower_canonical
    (setRegBits_canonical (foldl_canonical (fun _ _ h1 => setReg_canonical h1)
    (setRegBits_canonical (setRegBits_canonical (setRegBits_canonical h)))))) (keeps_next (setRegBit_canonical ·)))

theorem execHubStageGo_keeps {v} : Keeps s (execHubStageGo v s) := pfWrite_keeps (stageGo_canonical ·)

theorem inStage_keeps {n f} (hf : ∀ s, s.Canonical → (f s).Canonical) : Keeps s (s.inStage n f) :=
  keeps_next fun h => ite_canonical (hf _ h) h

theorem execStageComplete_keeps {us} : Keeps s (execStageComplete us s) := by
  unfold execStageComplete
  split
  · exact keeps_self
  · exact ite_keeps keeps_self (ite_keeps (keeps_next fun h => setRegBits_canonical
      (setRegBits_canonical (setRegBit_canonical (setRegBits_canonical (setReg_canonical (updPower_canonical h))))))
      (keeps_next fun h => ite_canonical (updPower_canonical (ite_then
      (setRegBits_canonical (setRegBits_canonical (setReg_canonical (updPower_canonical h)))) (setRegBits_canonical ·)))
      (ite_then (ite_then (setRegBits_canonical (setRegBits_canonical (setReg_canonical (updPower_canonical h))))
      (setRegBits_canonical ·)) fun ht => showWf_canonical (updPower_canonical ht))))

theorem execBringupStage0_keeps {auxOk wfOk} : Keeps s (execBringupStage0 auxOk wfOk s) :=
  inStage_keeps (fun _ h1 => ite_canonical (stageEnd_canonical h1)
    (ite_canonical (stageEnd_canonical h1) (stageEnd_canonical (showDefects_canonical (updPower_canonical h1)))))

theorem execBringupStage1_keeps {fuseOk variant factory} : Keeps s (execBringupStage1 fuseOk variant factory s) :=
  inStage_keeps (fun _ h1 => ite_canonical (stageEnd_canonical h1)
    (stageEnd_canonical (showDefects_canonical (dropDark_canonical
    (foldl_canonical (fun _ _ h2 => showByp_canonical (setRegBits_canonical h2))
    (foldl_canonical (fun _ _ h2 => ite_canonical (setLink_canonical h2) h2)
    (ite_then (foldl_canonical (fun _ _ h2 => addDefect_canonical h2) (updPower_canonical h1)) fun ht => foldl_canonical
    (fun _ _ h2 => setDie_canonical h2) ht)))))))

theorem execBringupStage2_keeps {unlocked} : Keeps s (execBringupStage2 unlocked s) :=
  inStage_keeps (fun _ h1 => by
    split
    · exact stageEnd_canonical h1
    · exact stageEnd_canonical (showDepth_canonical (setPav_canonical (rest_canonical h1))))

theorem execBringupStage3_keeps {found noSpare wfOk} : Keeps s (execBringupStage3 found noSpare wfOk s) :=
  inStage_keeps fun t h => by
    extract_lets clr origin bad off u v new full w
    have hv : v.Canonical := ite_canonical (setRegBits_canonical (updWf_canonical (updPower_canonical h))) h
    have hw : w.Canonical := showDefects_canonical (foldl_canonical (fun _ _ h1 => addDefect_canonical h1) hv)
    refine ite_canonical (ite_canonical (stageEnd_canonical hw) ?_) (stageEnd_canonical (showDefects_canonical hv))
    split
    · exact stageEnd_canonical hw
    · exact stageEnd_canonical hw

theorem execBringupStage4_keeps : Keeps s (execBringupStage4 s) :=
  inStage_keeps fun t h => by
    extract_lets out u
    have hu : u.Canonical := showDefects_canonical (foldl_canonical (fun _ _ h1 => removeDie_canonical h1) h)
    split
    · exact stageEnd_canonical hu
    · split
      · exact stageEnd_canonical hu
      · refine stageEnd_canonical (foldl_canonical (fun _ _ h1 => ?_) (updPower_canonical hu))
        exact ite_canonical h1 (updSlice_canonical _ _ _ h1)

/-- Stage 5 fills DRAM and the scratchpads with zeros, which the canonical form lists nowhere. -/
theorem execBringupStage5_keeps {badBase} : Keeps s (execBringupStage5 badBase s) :=
  inStage_keeps fun t h => by
    obtain ⟨-, -, hf, hh⟩ := id h
    split
    · exact stageEnd_canonical h
    · extract_lets granules marks sites u
      have hu : u.Canonical := ⟨rfl, rfl, hf, hh⟩
      exact stageEnd_canonical (updPower_canonical hu)

theorem execBringupStage6_keeps {badTrain rows} : Keeps s (execBringupStage6 badTrain rows s) :=
  inStage_keeps (fun _ h1 => by
    split
    · exact stageEnd_canonical h1
    · exact stageEnd_canonical (showDefects_canonical (foldl_canonical (fun _ _ h2 => addDefect_canonical h2) h1)))

theorem execBringupStage7_keeps {badMount wfOk} : Keeps s (execBringupStage7 badMount wfOk s) :=
  inStage_keeps fun t h => by
    extract_lets up u
    have hu : u.Canonical := showFlashes_canonical (foldl_canonical (fun _ _ h1 => setRegBit_canonical h1) h)
    split
    · exact stageEnd_canonical hu
    · exact ite_canonical (stageEnd_canonical hu)
        (stageEnd_canonical (updMem_canonical (showDefects_canonical (updWf_canonical (updPower_canonical hu)))))

theorem execBringupStage8_keeps {badPairs} : Keeps s (execBringupStage8 badPairs s) :=
  inStage_keeps (fun _ h1 => stageEnd_canonical (foldl_canonical (fun _ _ h2 => drivePair_canonical (setRegBits_canonical h2))
    (foldl_canonical (fun _ _ h2 => setRegBit_canonical h2) (showDefects_canonical
    (foldl_canonical (fun _ _ h2 => foldl_canonical (fun _ _ h3 => addDefect_canonical (downWhy_canonical h3)) h2)
    (foldl_canonical (fun _ _ h2 => ite_canonical (setLink_canonical h2) h2) (foldl_canonical (fun _ _ h2 => updPair_canonical h2) h1)))))))

theorem execBringupStage9_keeps : Keeps s (execBringupStage9 s) := inStage_keeps (fun _ h1 => stageEnd_canonical (computeWm_canonical h1))

theorem execBringupStage10_keeps : Keeps s (execBringupStage10 s) := inStage_keeps (fun _ h1 => stageEnd_canonical h1)

end Sys2Proof.Proofs
end

section
/-! PROOFS. What every step keeps: unit instructions, register writes and the sweep. -/

namespace Sys2Proof.Proofs

open Sys2Proof Sys2Proof.Machine Sys2Proof.Laws

-- In order, one proof at a time: proofs elaborated side by side would exceed the limits of the check.
set_option Elab.async false

variable {s : State}

/-! ### Matrix instructions: the commands -/

theorem execMma_issued {u f} : Issued (Zelux.mma f) u s (execMma u f s) :=
  ⟨_, _, rfl, fun _ _ _ _ h1 => by
    split
    · exact setCu_canonical h1
    · exact ite_canonical (setCu_canonical h1) (ite_canonical (pumpMma_canonical (setCu_canonical h1)) (setCu_canonical h1))⟩

theorem execShiftEnd_keeps {u} : Keeps s (execShiftEnd u s) := by
  unfold execShiftEnd
  dsimp only
  split
  · exact keeps_self
  · exact ite_keeps (keeps_next (setCu_canonical ·)) (keeps_next fun h => pumpMma_canonical (setCu_canonical h))

/-! ### Moves -/

section

variable (h : s.Canonical)
include h

theorem sendRemote_canonical {u k x f load} : (s.sendRemote u k x f load).Canonical :=
  addUnitCtr_canonical (rest_canonical (updCtx_canonical h))

end

/-! ### Moves: the commands -/

theorem execPop_issued {u f} : Issued (Zelux.move MoveOp.pop f) u s (execPop u f s) := by
  unfold execPop
  exact ⟨_, _, rfl, fun _ _ _ _ h1 => by
      split
      · split
        · exact h1
        · exact setCu_canonical h1
      · exact pumpPop_canonical (setCu_canonical h1)⟩

theorem execPush_issued {u f} : Issued (Zelux.move MoveOp.push f) u s (execPush u f s) := by
  unfold execPush
  exact ⟨_, _, rfl, fun _ _ _ _ h1 => pumpPort_canonical (setCu_canonical h1)⟩

theorem execDrop_issued {u f} : Issued (Zelux.move MoveOp.drop f) u s (execDrop u f s) :=
  ⟨_, _, rfl, fun _ _ _ _ h1 => pumpPop_canonical (setCu_canonical h1)⟩

theorem execRowget_issued {u f} : Issued (Zelux.move MoveOp.rowget f) u s (execRowget u f s) :=
  ⟨_, _, rfl, fun _ _ _ _ h1 => ite_canonical (cuFault_canonical h1) (setCu_canonical h1)⟩

theorem execRowput_issued {u f} : Issued (Zelux.move MoveOp.rowput f) u s (execRowput u f s) :=
  ⟨_, _, rfl, fun _ _ _ _ h1 => ite_canonical (cuFault_canonical h1) (setCu_canonical h1)⟩

theorem execRld_issued {u f} : Issued (Zelux.move MoveOp.rld f) u s (execRld u f s) :=
  ⟨_, _, rfl, fun _ _ _ _ h1 => by
    split
    · exact cuFault_canonical h1
    · exact sendRemote_canonical h1⟩

theorem execRst_issued {u f} : Issued (Zelux.move MoveOp.rst f) u s (execRst u f s) :=
  ⟨_, _, rfl, fun _ _ _ _ h1 => by
    split
    · exact cuFault_canonical h1
    · exact sendRemote_canonical h1⟩

/-! ### Register writes -/

section

variable (h : s.Canonical)
include h

theorem plainWrite_canonical {off v} : (s.plainWrite off v).Canonical := setReg_canonical h

theorem epochPer_canonical {v} : (s.epochPer v).Canonical := ite_canonical (plainWrite_canonical h) h

theorem fwCtlWrite_canonical {v} : (s.fwCtlWrite v).Canonical := ite_then (plainWrite_canonical h) (fwProg_canonical ·)

theorem plcCtlWrite_canonical {v} : (s.plcCtlWrite v).Canonical := ite_then (plcEn_canonical h) (plcClr_canonical ·)

theorem memTrainWrite_canonical {q v} : (s.memTrainWrite q v).Canonical := ite_then (plainWrite_canonical h) (trainGo_canonical ·)

theorem lctlWrite_canonical {l v} : (s.lctlWrite l v).Canonical := ite_then (lctlHold_canonical h) (lctlRetrain_canonical ·)

theorem hubPut_canonical {off v} : (s.hubPut off v).Canonical := by
  refine ite_canonical (stageGo_canonical h) (ite_canonical (fwCtlWrite_canonical h) (ite_canonical (wmtagWrite_canonical h) ?_))
  refine ite_canonical (ite_canonical (partCommit_canonical h) h) (ite_canonical (ite_canonical (mapCommit_canonical h) h) ?_)
  refine ite_canonical (ite_canonical (ringCommit_canonical h) h) (ite_canonical (feedSlotWrite_canonical h) ?_)
  exact ite_canonical (guestWrite_canonical h) (plainWrite_canonical h)

theorem pavPut_canonical {off v} : (s.pavPut off v).Canonical :=
  ite_canonical (pavCtlWrite_canonical h) (ite_canonical (epochPer_canonical h)
    (ite_canonical (armGrid_canonical h) (ite_canonical (pavSrcWrite_canonical h)
    (ite_canonical (ite_canonical (allotCommit_canonical h) h) (plainWrite_canonical h)))))

theorem ldPut_canonical {k o v} : (s.ldPut k o v).Canonical :=
  ite_canonical (nodeWrite_canonical h) (ite_canonical (bypClose_canonical h)
    (ite_canonical (lctlWrite_canonical h) (ite_canonical (ite_canonical (grpWrite_canonical h) (plainWrite_canonical h))
    (plainWrite_canonical h))))

theorem baseWrite_canonical {fn off on v} : (s.baseWrite fn off on v).Canonical := ite_canonical (dbref_canonical h) (setFnReg_canonical h)

theorem fnPut_canonical {fn off v} : (s.fnPut fn off v).Canonical := by
  have hbase : ∀ {on c} [Decidable c] {a : State}, a.Canonical →
      State.Canonical (if c then s.baseWrite fn off on v else a) := fun ha => ite_canonical (baseWrite_canonical h) ha
  refine ite_canonical h (ite_canonical (setFnReg_canonical h) (ite_canonical (ite_canonical h ?_) (ite_canonical (ite_canonical h ?_) ?_)))
  · exact hbase (ite_canonical (sqCfg_canonical h) h)
  · exact hbase (ite_canonical (cqCfg_canonical h) (setFnReg_canonical h))
  · refine ite_canonical (doorbell_canonical h fun _ h1 => sqDoorbell_canonical h1) ?_
    exact ite_canonical (doorbell_canonical h fun _ h1 => cqDoorbell_canonical h1) h

theorem pfPut_canonical {off v} : (s.pfPut off v).Canonical := by
  refine ite_canonical h (ite_canonical (hubPut_canonical h) (ite_canonical (pavPut_canonical h) ?_))
  refine ite_canonical (plcCtlWrite_canonical h) ?_
  refine ite_canonical (ite_canonical h (plainWrite_canonical h)) (ite_canonical (plcWrite_canonical h) ?_)
  refine ite_canonical (trcWrite_canonical h) (ite_canonical (ite_canonical (ouSkipclr_canonical h) h) ?_)
  refine ite_canonical (memTrainWrite_canonical h) (ite_canonical (ldPut_canonical h) ?_)
  exact ite_canonical (fnPut_canonical h) (plainWrite_canonical h)

theorem sriovPut_canonical {off v} : (s.sriovPut off v).Canonical :=
  ite_canonical (updHost_canonical h) (ite_canonical (updHost_canonical h) h)

theorem putAt_canonical {win off v} : (s.putAt win off v).Canonical := by
  unfold State.putAt
  split
  · exact pfPut_canonical h
  · exact fnPut_canonical h
  · exact ite_canonical (setPbReg_canonical h) h
  · exact sriovPut_canonical h

theorem putRun_canonical {win off l} : (s.putRun win off l).Canonical := by
  induction l generalizing s off with
  | nil => exact h
  | cons v l ih => exact ih (putAt_canonical h)

end

/-! ### Register writes: the commands -/

theorem execRegisterWrite_keeps {w} : Keeps s (execRegisterWrite w s) :=
  ite_keeps keeps_self (ite_keeps (keeps_next fun h => ite_canonical (putAt_canonical h) h)
    (ite_keeps (keeps_next (putRun_canonical ·)) keeps_self))

/-! ### Scalar instructions: the commands -/

theorem execLoop_issued {u f} : Issued (Zelux.loop f) u s (execLoop u f s) :=
  ⟨_, _, rfl, fun _ _ _ _ h1 => ite_canonical (cuFault_canonical h1) (setCu_canonical h1)⟩

/-! ### The sweep -/

section

variable (h : s.Canonical)
include h

theorem eachRegion_canonical {f} (hf : ∀ s x1, s.Canonical → (f s x1).Canonical) : (s.eachRegion f).Canonical := foldl_canonical hf h

theorem figurePhase_canonical : (s.figurePhase).Canonical :=
  eachRegion_canonical (heatDecay_canonical (applyDies_canonical (applyWmtag_canonical
    (applyGroups_canonical (applyPlc_canonical (applyRings_canonical
    (applyMap_canonical (applyPart_canonical (applyAllot_canonical
    (eachRegion_canonical (ite_then (pavSwitch_canonical (pavApply_canonical h)) (applyGrid_canonical ·))
    (fun _ _ h1 => commitSwap_canonical h1))))))))))) (fun _ _ h1 => updRgn_canonical h1)

theorem stepPhase_canonical : (s.stepPhase).Canonical := retryPins_canonical (applyGuests_canonical (applySlots_canonical h))

theorem wedgeUnit_canonical {r figs u} : (s.wedgeUnit r figs u).Canonical := by
  unfold State.wedgeUnit
  split
  · exact foldl_canonical (fun _ _ h1 => ite_canonical (streamFault_canonical h1) h1) h
  · split
    · exact cuFault_canonical (foldl_canonical (fun _ _ h1 => startCtx_canonical h1) h)
    · exact h

theorem declareWedge_canonical {r} : (s.declareWedge r).Canonical := by
  unfold State.declareWedge
  exact updRgn_canonical (foldl_canonical (fun _ _ h1 => wedgeUnit_canonical h1) h)

theorem wedgeReset_canonical {r} : (s.wedgeReset r).Canonical := ite_canonical (updRgn_canonical (emptyRegion_canonical h)) h

theorem watch_canonical {r} : (s.watch r).Canonical :=
  ite_canonical (updRgn_canonical (wedgeReset_canonical h)) (ite_canonical h (ite_then (updRgn_canonical h) (declareWedge_canonical ·)))

theorem startRedir_canonical {r} : (s.startRedir r).Canonical := ite_canonical (updRgn_canonical h) h

theorem endRedir_canonical {r} : (s.endRedir r).Canonical := ite_canonical (updRgn_canonical h) h

theorem beginPhase_canonical {fig r} : (s.beginPhase fig r).Canonical :=
  foldl_canonical (fun _ _ h1 => completeDet_canonical h1) (foldl_canonical (fun _ _ h1 => dispatch_canonical h1)
    (ite_then (endRedir_canonical (startRedir_canonical h)) (beginRun_canonical ·)))

theorem answerPhase_canonical : (s.answerPhase).Canonical :=
  foldl_canonical (fun _ _ h1 => ite_canonical (backstop_canonical h1) h1) (foldl_canonical (fun _ _ h1 => by
    split
    · exact ite_canonical (feedAnswer_canonical h1) h1
    · exact h1) h)

theorem postCmd_canonical {c} : (s.postCmd c).Canonical :=
  ite_then (dropCmd_canonical (postRecord_canonical (by
    split
    · exact closeReq_canonical h
    · split
      · exact closeRun_canonical h
      · exact h))) (takeUp_canonical ·)

theorem writePhase_canonical : (s.writePhase).Canonical :=
  sampleAll_canonical (endResets_canonical (foldl_canonical (fun _ _ h1 => postCmd_canonical h1)
    (putHeld_canonical (dueFences_canonical (eachRegion_canonical (lateDeadlines_canonical (lateColl_canonical h))
    (fun _ _ h1 => finishRun_canonical h1))))))

theorem sweep_canonical : (s.sweep).Canonical := by
  unfold State.sweep
  exact ite_else (showDepth_canonical (stepPhase_canonical (ite_canonical (figurePhase_canonical h) h))) fun hu => writePhase_canonical
    (answerPhase_canonical (eachRegion_canonical (eachRegion_canonical
    (ite_then (heldFences_canonical (eachRegion_canonical (placeFences_canonical hu)
    (fun _ _ h1 => tryFence_canonical (tryDrain_canonical (freeIds_canonical h1))))) fun ht => eachRegion_canonical ht
    (fun _ _ h1 => watch_canonical h1)) (fun _ _ h1 => beginPhase_canonical h1)) (fun _ _ h1 => fireAll_canonical h1)))

theorem passTo_canonical {t} : (s.passTo t).Canonical := wfTime_canonical (sendDue_canonical (updTime_canonical h))

end

/-! ### The sweep: the commands -/

theorem execWedgeDeclare_keeps {r} : Keeps s (execWedgeDeclare r s) := keeps_next fun h => ite_canonical (declareWedge_canonical h) h

theorem execRegionReset_keeps {r} : Keeps s (execRegionReset r s) := keeps_next (wedgeReset_canonical ·)

theorem execRedirectionStart_keeps {r} : Keeps s (execRedirectionStart r s) := keeps_next fun h => ite_canonical (startRedir_canonical h) h

theorem execStepBoundary_keeps : Keeps s (execStepBoundary s) := keeps_next fun h => ite_canonical (sweep_canonical (passTo_canonical h)) h

/-! ### Idle time -/

section

variable (h : s.Canonical)
include h

theorem idleTick_canonical : (idleTick s).Canonical :=
  ite_canonical (ite_then (passTo_canonical h) (sweep_canonical ·)) (wfTime_canonical h)

end

end Sys2Proof.Proofs
end

section
/-! PROOFS. What a command answers, kind by kind, and with it the two statements about the whole machine: every step keeps the memories
canonical, and only an illegal instruction and a request to an absent address have no next state. -/

namespace Sys2Proof.Proofs

open Sys2Proof Sys2Proof.Machine Sys2Proof.Laws

-- In order, one proof at a time: proofs elaborated side by side would exceed the limits of the check.
set_option Elab.async false

variable {s t : State}

/-! ### Unit instructions (R110, R112) -/

theorem Issued.refused {z u o} (hi : Issued z u s o) (hz : z.legal = false) : o = .refused .illegalEncoding := by
  obtain ⟨wait, go, rfl, -⟩ := hi
  simp [issue, hz]

/-- A legal instruction that is issued waits, goes or finds nothing to do, each with a next state. -/
theorem Issued.keeps {z u o} (hi : Issued z u s o) (hz : z.legal = true) : Keeps s o := by
  obtain ⟨wait, go, rfl, hgo⟩ := hi
  unfold issue
  rw [hz]
  rw [if_neg (by simp)]
  refine ite_keeps keeps_self ?_
  dsimp only
  split
  · exact keeps_self
  · split
    · refine ite_keeps (keeps_next (setCu_canonical ·)) ?_
      split
      · exact keeps_next fun h => progressAt_canonical (hgo _ _ _ _ (setCu_canonical (readInstr_canonical h)))
      · exact keeps_next (setCu_canonical ·)
      · exact keeps_next (setCu_canonical ·)
    · exact ite_keeps (keeps_next (setCu_canonical ·)) (ite_keeps (keeps_next (readInstr_canonical ·)) keeps_self)

theorem exec_vec_issued {o : VecOp} {u f} : Issued (.vec o f) u s (exec (o.cmd u f) s) := by
  cases o
  all_goals
    dsimp only [VecOp.cmd, exec]
    exact issueCtx_issued

theorem exec_pred_issued {o : PredOp} {u f} : Issued (.pred o f) u s (exec (o.cmd u f) s) := by
  cases o
  all_goals
    dsimp only [PredOp.cmd, exec]
    exact issueCtx_issued

theorem exec_red_issued {o : RedOp} {u f} : Issued (.red o f) u s (exec (o.cmd u f) s) := by
  cases o
  all_goals
    dsimp only [RedOp.cmd, exec]
    exact issueCtx_issued

theorem exec_scal_issued {o : ScalOp} {u f} : Issued (.scal o f) u s (exec (o.cmd u f) s) := by
  cases o
  all_goals
    dsimp only [ScalOp.cmd, exec]
    exact issueCtx_issued

theorem execNop_issued {u} : Issued .nop u s (execNop u s) := issueCtx_issued

theorem execLget_issued {u f} : Issued (.move .lget f) u s (execLget u f s) := issueCtx_issued

theorem execLput_issued {u f} : Issued (.move .lput f) u s (execLput u f s) := issueCtx_issued

theorem exec_move_issued {o : MoveOp} {u f} : Issued (.move o f) u s (exec (Zelux.cmd (.move o f) u) s) :=
  match o with
  | .pop => execPop_issued
  | .push => execPush_issued
  | .drop => execDrop_issued
  | .rowget => execRowget_issued
  | .rowput => execRowput_issued
  | .lget => execLget_issued
  | .lput => execLput_issued
  | .rld => execRld_issued
  | .rst => execRst_issued

theorem exec_cmd_issued {z : Zelux} {u} : Issued z u s (exec (z.cmd u) s) :=
  match z with
  | .mma _ => execMma_issued
  | .vec .. => exec_vec_issued
  | .red .. => exec_red_issued
  | .pred .. => exec_pred_issued
  | .scal .. => exec_scal_issued
  | .move .. => exec_move_issued
  | .loop _ => execLoop_issued
  | .setmode .. => execSetmode_issued
  | .getstat _ => execGetstat_issued
  | .nop => execNop_issued
  | .endp => execEndProg_issued
  | .yld .. => execYieldCtx_issued
  | .waitStep _ => execWaitStep_issued
  | .waitSb .. => execWaitSb_issued
  | .waitDrain => execWaitDrain_issued
  | .mark _ => execMark_issued

/-! ### Requests (R27, R198) -/

/-- The command answers as the others do, or faults for the address of `f`. -/
def KeepsOrAbsent (f : Flit) (s : State) (o : Out) : Prop := Keeps s o ∨ o = .fault (.absentAddress f.addr)

theorem arrive_keepsOrAbsent {kind f refuse take} (hr : ∀ t, t.Canonical → (refuse t).Canonical)
    (ht : ∀ t, KeepsOrAbsent f t (take t)) : KeepsOrAbsent f s (s.arrive kind f refuse take) := by
  obtain hk | hf := ht (s.takeFlit f)
  · exact .inl (ite_keeps keeps_self (ite_keeps (keeps_next (addReg_canonical <| takeFlit_canonical ·))
      (ite_keeps (keeps_next (hr _ <| takeFlit_canonical ·)) (hk.after (takeFlit_canonical ·)))))
  · unfold State.arrive
    dsimp only
    rw [hf]
    split
    · exact .inl keeps_self
    · split
      · exact .inl (keeps_next (addReg_canonical <| takeFlit_canonical ·))
      · split
        · exact .inl (keeps_next (hr _ <| takeFlit_canonical ·))
        · exact .inr rfl

theorem writeAt_keepsOrAbsent {f} : KeepsOrAbsent f s (s.writeAt f) := by
  unfold State.writeAt
  split
  · exact .inl (keeps_next fun h => ite_canonical (ack_canonical (spadWritten_canonical (putSpadRow_canonical _ _ _ _ _ h))) h)
  · split
    · exact .inl (keeps_next (sliceTake_canonical ·))
    · exact .inr rfl
  · exact .inl (keeps_next (ack_canonical ·))

theorem execWriteRequest_keepsOrAbsent {f} : KeepsOrAbsent f s (execWriteRequest f s) :=
  arrive_keepsOrAbsent (fun _ h => ack_canonical h) fun _ => writeAt_keepsOrAbsent

theorem execBulk_keepsOrAbsent {f} : KeepsOrAbsent f s (execBulk f s) := by
  refine arrive_keepsOrAbsent (fun _ h => ack_canonical h) fun t => ?_
  split
  · exact .inl keeps_self
  · exact writeAt_keepsOrAbsent

theorem execReadRequest_keepsOrAbsent {f} : KeepsOrAbsent f s (execReadRequest f s) := by
  unfold execReadRequest
  split
  next t e => exact .inl (keeps_next fun h => rehome_canonical h _ e)
  · refine arrive_keepsOrAbsent (fun _ h => inject_canonical h) fun t => ?_
    split
    · exact .inl (keeps_next fun h => ite_canonical (remoteRead_canonical h) h)
    · split
      · exact .inr rfl
      · exact .inl (keeps_next (sliceTake_canonical ·))
    · split
      · exact .inl (keeps_next (reply_canonical ·))
      · exact .inr rfl
    · exact .inl keeps_self

/-! ### Every command -/

/-- The three kinds of answers: that of a unit instruction, that of a request, and a next state. -/
inductive Answers (s : State) : Instr → Prop
  | unit (z : Zelux) (u : Nat) : Answers s (z.cmd u)
  | request {c : Instr} (f : Flit) (hc : c ∈ [.readRequest f, .writeRequest f, .bulk f]) (ha : KeepsOrAbsent f s (exec c s)) : Answers s c
  | keeps {c : Instr} (hk : Keeps s (exec c s)) : Answers s c

theorem exec_answers (c : Instr) : Answers s c :=
  match c with
  | .mma u f => .unit (.mma f) u
  | .shiftEnd .. => .keeps execShiftEnd_keeps
  | .add u f => .unit (.vec .add f) u
  | .sub u f => .unit (.vec .sub f) u
  | .mul u f => .unit (.vec .mul f) u
  | .fma u f => .unit (.vec .fma f) u
  | .vmin u f => .unit (.vec .min f) u
  | .vmax u f => .unit (.vec .max f) u
  | .vand u f => .unit (.vec .and f) u
  | .vor u f => .unit (.vec .or f) u
  | .vxor u f => .unit (.vec .xor f) u
  | .shl u f => .unit (.vec .shl f) u
  | .shr u f => .unit (.vec .shr f) u
  | .sar u f => .unit (.vec .sar f) u
  | .sel u f => .unit (.vec .sel f) u
  | .mov u f => .unit (.vec .mov f) u
  | .exp2 u f => .unit (.vec .exp2 f) u
  | .log2 u f => .unit (.vec .log2 f) u
  | .rsqrt u f => .unit (.vec .rsqrt f) u
  | .rcp u f => .unit (.vec .rcp f) u
  | .cvtFi u f => .unit (.vec .cvtFi f) u
  | .cvtIf u f => .unit (.vec .cvtIf f) u
  | .cvtF19 u f => .unit (.vec .cvtF19 f) u
  | .cmpEq u f => .unit (.pred .eq f) u
  | .cmpNe u f => .unit (.pred .ne f) u
  | .cmpLt u f => .unit (.pred .lt f) u
  | .cmpLe u f => .unit (.pred .le f) u
  | .cmpGt u f => .unit (.pred .gt f) u
  | .cmpGe u f => .unit (.pred .ge f) u
  | .pand u f => .unit (.pred .pand f) u
  | .por u f => .unit (.pred .por f) u
  | .pxor u f => .unit (.pred .pxor f) u
  | .pandn u f => .unit (.pred .pandn f) u
  | .pset u f => .unit (.pred .pset f) u
  | .pget u f => .unit (.pred .pget f) u
  | .rsum u f => .unit (.red .sum f) u
  | .rmax u f => .unit (.red .max f) u
  | .rmin u f => .unit (.red .min f) u
  | .pop u f => .unit (.move .pop f) u
  | .push u f => .unit (.move .push f) u
  | .drop u f => .unit (.move .drop f) u
  | .rowget u f => .unit (.move .rowget f) u
  | .rowput u f => .unit (.move .rowput f) u
  | .lget u f => .unit (.move .lget f) u
  | .lput u f => .unit (.move .lput f) u
  | .rld u f => .unit (.move .rld f) u
  | .rst u f => .unit (.move .rst f) u
  | .loop u f => .unit (.loop f) u
  | .sli u f => .unit (.scal .sli f) u
  | .sadd u f => .unit (.scal .sadd f) u
  | .ssub u f => .unit (.scal .ssub f) u
  | .smul u f => .unit (.scal .smul f) u
  | .sand u f => .unit (.scal .sand f) u
  | .sor u f => .unit (.scal .sor f) u
  | .sxor u f => .unit (.scal .sxor f) u
  | .sshl u f => .unit (.scal .sshl f) u
  | .sshr u f => .unit (.scal .sshr f) u
  | .ssar u f => .unit (.scal .ssar f) u
  | .smin u f => .unit (.scal .smin f) u
  | .smax u f => .unit (.scal .smax f) u
  | .setmode u mask value aclr => .unit (.setmode mask value aclr) u
  | .getstat u sd => .unit (.getstat sd) u
  | .nop u => .unit .nop u
  | .endProg u => .unit .endp u
  | .yieldCtx u sv succ => .unit (.yld sv succ) u
  | .waitStep u count => .unit (.waitStep count) u
  | .waitSb u ld st => .unit (.waitSb ld st) u
  | .waitDrain u => .unit .waitDrain u
  | .mark u tag => .unit (.mark tag) u
  | .contextSwitch .. => .keeps execContextSwitch_keeps
  | .tokenArrive .. => .keeps execTokenArrive_keeps
  | .creditReturn .. => .keeps execCreditReturn_keeps
  | .devToSp .. => .keeps execDevToSp_keeps
  | .devToLink .. => .keeps execDevToLink_keeps
  | .spToLink .. => .keeps execSpToLink_keeps
  | .spToDev .. => .keeps execSpToDev_keeps
  | .linkToSp .. => .keeps execLinkToSp_keeps
  | .linkToDev .. => .keeps execLinkToDev_keeps
  | .compareAndCount .. => .keeps execCompareAndCount_keeps
  | .descriptorBurstArrive .. => .keeps execDescriptorBurstArrive_keeps
  | .scoreboardRetire .. => .keeps execScoreboardRetire_keeps
  | .peerRelease .. => .keeps execPeerRelease_keeps
  | .listEnd .. => .keeps execListEnd_keeps
  | .readRequest f => .request f (by simp) execReadRequest_keepsOrAbsent
  | .writeRequest f => .request f (by simp) execWriteRequest_keepsOrAbsent
  | .controlMessage .. => .keeps execControlMessage_keeps
  | .readReply .. => .keeps execReadReply_keeps
  | .acknowledgement .. => .keeps execAcknowledgement_keeps
  | .nack .. => .keeps execNack_keeps
  | .nackResend .. => .keeps execNackResend_keeps
  | .domainDownAnswer .. => .keeps execDomainDownAnswer_keeps
  | .bulk f => .request f (by simp) execBulk_keepsOrAbsent
  | .missFill .. => .keeps execMissFill_keeps
  | .stepBoundary => .keeps execStepBoundary_keeps
  | .drainDeclare .. => .keeps execDrainDeclare_keeps
  | .fenceRelease .. => .keeps execFenceRelease_keeps
  | .wedgeDeclare .. => .keeps execWedgeDeclare_keeps
  | .regionReset .. => .keeps execRegionReset_keeps
  | .nopAction .. => .keeps keeps_self
  | .ctxStart .. => .keeps execCtxStart_keeps
  | .listStart .. => .keeps execListStart_keeps
  | .release .. => .keeps execRelease_keeps
  | .fenceAction .. => .keeps execFenceAction_keeps
  | .deadline .. => .keeps execDeadline_keeps
  | .arm .. => .keeps execArm_keeps
  | .markAction .. => .keeps execMarkAction_keeps
  | .slotOpen .. => .keeps execSlotOpen_keeps
  | .slotWindowClose .. => .keeps execSlotWindowClose_keeps
  | .detectorEdge .. => .keeps execDetectorEdge_keeps
  | .detectorComplete .. => .keeps execDetectorComplete_keeps
  | .schedSwapCommit .. => .keeps execSchedSwapCommit_keeps
  | .bankCopyDone .. => .keeps execBankCopyDone_keeps
  | .redirectionStart .. => .keeps execRedirectionStart_keeps
  | .requestDispatch .. => .keeps execRequestDispatch_keeps
  | .answerReady .. => .keeps execAnswerReady_keeps
  | .backstop .. => .keeps execBackstop_keeps
  | .responseSend .. => .keeps execResponseSend_keeps
  | .feedFrame .. => .keeps execFeedFrame_keeps
  | .load .. => .keeps execLoad_keeps
  | .loadResume .. => .keeps execLoadResume_keeps
  | .loadGuest .. => .keeps execLoadGuest_keeps
  | .unload .. => .keeps execUnload_keeps
  | .run .. => .keeps execRun_keeps
  | .stepCmd .. => .keeps execStepCmd_keeps
  | .xfer .. => .keeps execXfer_keeps
  | .allReduce .. => .keeps execAllReduce_keeps
  | .reduceScatter .. => .keeps execReduceScatter_keeps
  | .allGather .. => .keeps execAllGather_keeps
  | .broadcast .. => .keeps execBroadcast_keeps
  | .permute .. => .keeps execPermute_keeps
  | .fence .. => .keeps execFence_keeps
  | .scrub .. => .keeps execScrub_keeps
  | .schedWrite .. => .keeps execSchedWrite_keeps
  | .schedSwap .. => .keeps execSchedSwap_keeps
  | .countersRegion .. => .keeps execCountersRegion_keeps
  | .countersUnit .. => .keeps execCountersUnit_keeps
  | .countersPhase .. => .keeps execCountersPhase_keeps
  | .countersWindows .. => .keeps execCountersWindows_keeps
  | .countersFunction .. => .keeps execCountersFunction_keeps
  | .countersSample .. => .keeps execCountersSample_keeps
  | .flashWrite .. => .keeps execFlashWrite_keeps
  | .flashWriteCommit .. => .keeps execFlashWriteCommit_keeps
  | .quiesce .. => .keeps execQuiesce_keeps
  | .reshardPermute .. => .keeps execReshardPermute_keeps
  | .reshardCheckpoint .. => .keeps execReshardCheckpoint_keeps
  | .watermark .. => .keeps execWatermark_keeps
  | .commandFetch .. => .keeps execCommandFetch_keeps
  | .fnSqDb .. => .keeps execFnSqDb_keeps
  | .fnCqDb .. => .keeps execFnCqDb_keeps
  | .fnSqCfgWrite .. => .keeps execFnSqCfgWrite_keeps
  | .fnCqCfgWrite .. => .keeps execFnCqCfgWrite_keeps
  | .portALinkDown => .keeps execPortALinkDown_keeps
  | .portALinkReturn => .keeps execPortALinkReturn_keeps
  | .portAHoldExpiry => .keeps execPortAHoldExpiry_keeps
  | .flr .. => .keeps execFlr_keeps
  | .zeroingDone .. => .keeps execZeroingDone_keeps
  | .hostReadCompletion .. => .keeps execHostReadCompletion_keeps
  | .passStart .. => .keeps execPassStart_keeps
  | .ouChunk .. => .keeps execOuChunk_keeps
  | .passEnd .. => .keeps execPassEnd_keeps
  | .passUnboundTimeout .. => .keeps execPassUnboundTimeout_keeps
  | .slowPull .. => .keeps execSlowPull_keeps
  | .slowRelease .. => .keeps execSlowRelease_keeps
  | .offloadEnd .. => .keeps execOffloadEnd_keeps
  | .sheetFetchDone .. => .keeps execSheetFetchDone_keeps
  | .flashLeafRead .. => .keeps execFlashLeafRead_keeps
  | .shadowPinDone .. => .keeps execShadowPinDone_keeps
  | .refreshRelocation .. => .keeps execRefreshRelocation_keeps
  | .patrolWindow .. => .keeps execPatrolWindow_keeps
  | .spPatrol .. => .keeps execSpPatrol_keeps
  | .digestRecompute .. => .keeps execDigestRecompute_keeps
  | .diePowerDown .. => .keeps execDiePowerDown_keeps
  | .refuseStateEntry .. => .keeps execRefuseStateEntry_keeps
  | .powerDownWritebackDone .. => .keeps execPowerDownWritebackDone_keeps
  | .selfRefreshConfirmed .. => .keeps execSelfRefreshConfirmed_keeps
  | .refuseHoldExpiry .. => .keeps execRefuseHoldExpiry_keeps
  | .diePowerUp .. => .keeps execDiePowerUp_keeps
  | .powerUpDone .. => .keeps execPowerUpDone_keeps
  | .pavCtlWrite .. => .keeps execPavCtlWrite_keeps
  | .tload => .keeps execTload_keeps
  | .epochEdge .. => .keeps execEpochEdge_keeps
  | .pavLock => .keeps execPavLock_keeps
  | .referenceLoss => .keeps execReferenceLoss_keeps
  | .holdoverExpiry => .keeps execHoldoverExpiry_keeps
  | .referenceRequalify => .keeps execReferenceRequalify_keeps
  | .followerStep .. => .keeps execFollowerStep_keeps
  | .pavGridAt .. => .keeps execPavGridAt_keeps
  | .gridChangeApply => .keeps execGridChangeApply_keeps
  | .pavSrcWrite .. => .keeps execPavSrcWrite_keeps
  | .pavAllotCommit => .keeps execPavAllotCommit_keeps
  | .allotApply => .keeps execAllotApply_keeps
  | .hubPartCommit => .keeps execHubPartCommit_keeps
  | .partitionApply => .keeps execPartitionApply_keeps
  | .hubMapCommit => .keeps execHubMapCommit_keeps
  | .mapApply => .keeps execMapApply_keeps
  | .hubFnringCommit => .keeps execHubFnringCommit_keeps
  | .fnringApply => .keeps execFnringApply_keeps
  | .plcCtlEn .. => .keeps execPlcCtlEn_keeps
  | .plcCtlClr => .keeps execPlcCtlClr_keeps
  | .plcRgnWrite .. => .keeps execPlcRgnWrite_keeps
  | .feedSlotWrite .. => .keeps execFeedSlotWrite_keeps
  | .hubGuestWrite .. => .keeps execHubGuestWrite_keeps
  | .ceGrpWrite .. => .keeps execCeGrpWrite_keeps
  | .glNodeWrite .. => .keeps execGlNodeWrite_keeps
  | .glBypClose .. => .keeps execGlBypClose_keeps
  | .glLctlHold .. => .keeps execGlLctlHold_keeps
  | .glLctlRetrain .. => .keeps execGlLctlRetrain_keeps
  | .hubStageGo .. => .keeps execHubStageGo_keeps
  | .hubFwctlProg => .keeps execHubFwctlProg_keeps
  | .fwProgramDone .. => .keeps execFwProgramDone_keeps
  | .hubWmtagWrite .. => .keeps execHubWmtagWrite_keeps
  | .watermarkRecompute => .keeps execWatermarkRecompute_keeps
  | .memTrainGo .. => .keeps execMemTrainGo_keeps
  | .retrainDone .. => .keeps execRetrainDone_keeps
  | .driftTrack .. => .keeps keeps_self
  | .ouSkipclr .. => .keeps execOuSkipclr_keeps
  | .obsTrcWrite .. => .keeps execObsTrcWrite_keeps
  | .registerWrite .. => .keeps execRegisterWrite_keeps
  | .traceRecordArrive .. => .keeps execTraceRecordArrive_keeps
  | .frameSend .. => .keeps execFrameSend_keeps
  | .frameReceive .. => .keeps execFrameReceive_keeps
  | .nakRepeat .. => .keeps execNakRepeat_keeps
  | .ackEntry .. => .keeps execAckEntry_keeps
  | .tagTimeout .. => .keeps execTagTimeout_keeps
  | .linkDownNoframe .. => .keeps execLinkDownNoframe_keeps
  | .linkDownLane .. => .keeps execLinkDownLane_keeps
  | .lightDetect .. => .keeps execLightDetect_keeps
  | .linkTrainDone .. => .keeps execLinkTrainDone_keeps
  | .linkAlignDone .. => .keeps execLinkAlignDone_keeps
  | .linkTrainTimeout .. => .keeps execLinkTrainTimeout_keeps
  | .capabilityMessage .. => .keeps execCapabilityMessage_keeps
  | .linkUp .. => .keeps execLinkUp_keeps
  | .calibrationMessage .. => .keeps keeps_self
  | .delayMeasure .. => .keeps execDelayMeasure_keeps
  | .mixlongExpiry => .keeps execMixlongExpiry_keeps
  | .switchSettled .. => .keeps execSwitchSettled_keeps
  | .plugWithdraw => .keeps execPlugWithdraw_keeps
  | .plugSeat => .keeps execPlugSeat_keeps
  | .readySlot .. => .keeps execReadySlot_keeps
  | .reduceSlot .. => .keeps execReduceSlot_keeps
  | .placeSlot .. => .keeps execPlaceSlot_keeps
  | .barrierSlot .. => .keeps execBarrierSlot_keeps
  | .readyResend .. => .keeps execReadyResend_keeps
  | .collStallTimeout .. => .keeps execCollStallTimeout_keeps
  | .heartbeatSend .. => .keeps execHeartbeatSend_keeps
  | .watermarkExchange .. => .keeps execWatermarkExchange_keeps
  | .auxGood .. => .keeps execAuxGood_keeps
  | .auxLoss => .keeps execAuxLoss_keeps
  | .pwrEnAssert => .keeps execPwrEnAssert_keeps
  | .pwrEnDeassert => .keeps execPwrEnDeassert_keeps
  | .pgoodAssert .. => .keeps execPgoodAssert_keeps
  | .powerFail => .keeps execPowerFail_keeps
  | .resetNAssert => .keeps execResetNAssert_keeps
  | .resetNDeassert => .keeps execResetNDeassert_keeps
  | .firmwareBoot .. => .keeps execFirmwareBoot_keeps
  | .perstNAssert => .keeps execPerstNAssert_keeps
  | .perstNDeassert => .keeps execPerstNDeassert_keeps
  | .wfResetN => .keeps execWfResetN_keeps
  | .wallflowerRestartDone => .keeps execWallflowerRestartDone_keeps
  | .bringupStage0 .. => .keeps execBringupStage0_keeps
  | .bringupStage1 .. => .keeps execBringupStage1_keeps
  | .bringupStage2 .. => .keeps execBringupStage2_keeps
  | .bringupStage3 .. => .keeps execBringupStage3_keeps
  | .bringupStage4 => .keeps execBringupStage4_keeps
  | .bringupStage5 .. => .keeps execBringupStage5_keeps
  | .bringupStage6 .. => .keeps execBringupStage6_keeps
  | .bringupStage7 .. => .keeps execBringupStage7_keeps
  | .bringupStage8 .. => .keeps execBringupStage8_keeps
  | .bringupStage9 => .keeps execBringupStage9_keeps
  | .bringupStage10 => .keeps execBringupStage10_keeps
  | .stageComplete .. => .keeps execStageComplete_keeps
  | .hcpHeartbeat => .keeps execHcpHeartbeat_keeps
  | .heartbeatLoss => .keeps execHeartbeatLoss_keeps
  | .sensorSample .. => .keeps execSensorSample_keeps
  | .sensorMissing .. => .keeps execSensorMissing_keeps
  | .gateDie => .keeps execGateDie_keeps
  | .ungateDie => .keeps execUngateDie_keeps
  | .hwComparatorTrip .. => .keeps execHwComparatorTrip_keeps
  | .resetHeldExpiry => .keeps execResetHeldExpiry_keeps
  | .errtotRefresh => .keeps execErrtotRefresh_keeps
  | .smbVersion => .keeps execSmbVersion_keeps
  | .smbState => .keeps execSmbState_keeps
  | .alertRead => .keeps execAlertRead_keeps
  | .alertClear .. => .keeps execAlertClear_keeps
  | .alertmaskRead => .keeps execAlertmaskRead_keeps
  | .alertmaskWrite .. => .keeps execAlertmaskWrite_keeps
  | .smbGated => .keeps execSmbGated_keeps
  | .plimitRead => .keeps execPlimitRead_keeps
  | .plimitWrite .. => .keeps execPlimitWrite_keeps
  | .gorderRead => .keeps execGorderRead_keeps
  | .gorderWrite .. => .keeps execGorderWrite_keeps
  | .lastcmd => .keeps execLastcmd_keeps
  | .resetheld => .keeps execResetheld_keeps
  | .cmdGate .. => .keeps execCmdGate_keeps
  | .cmdUngate .. => .keeps execCmdUngate_keeps
  | .cmdBypassClose .. => .keeps execCmdBypassClose_keeps
  | .cmdBypassRelease .. => .keeps execCmdBypassRelease_keeps
  | .sensorN .. => .keeps execSensorN_keeps
  | .errtot => .keeps execErrtot_keeps
  | .wfLog => .keeps execWfLog_keeps
  | .alertResponse => .keeps execAlertResponse_keeps
  | .loadVerifyDone .. => .keeps execLoadVerifyDone_keeps
  | .scrubPassDone .. => .keeps execScrubPassDone_keeps
  | .feedLinkUp .. => .keeps execFeedLinkUp_keeps
  | .feedLinkDown .. => .keeps execFeedLinkDown_keeps
  | .portBLinkDown => .keeps execPortBLinkDown_keeps
  | .portBLinkUp => .keeps execPortBLinkUp_keeps
  | .hostReadTimeout .. => .keeps execHostReadTimeout_keeps
  | .retentionTrigger .. => .keeps execRetentionTrigger_keeps

/-- A next state, of whatever command, is canonical where the state before was. -/
theorem Answers.canonical {c} (ha : Answers s c) (he : exec c s = .next t) (hs : s.Canonical) : t.Canonical := by
  cases ha with
  | unit z u =>
    cases hz : z.legal with
    | true => exact (exec_cmd_issued.keeps hz).canonical he hs
    | false => exact absurd (he.symm.trans (exec_cmd_issued.refused hz)) (by simp)
  | request f hc ha =>
    obtain hk | hf := ha
    · exact hk.canonical he hs
    · exact absurd (he.symm.trans hf) (by simp)
  | keeps hk => exact hk.canonical he hs

theorem step_canonical (hs : s.Canonical) (h : step s = .next t) : t.Canonical := by
  unfold step at h
  split at h
  · obtain rfl := Host.Outcome.next.inj h
    exact idleTick_canonical hs
  · exact (exec_answers _).canonical h (rest_canonical hs)

/-- Settles O59: each function that an instruction is made of keeps the four memories canonical, so each command does, and so does the
empty queue's cycle. -/
theorem memoryStaysCanonical : Obligations.MemoryStaysCanonical := fun _ _ hs h => step_canonical hs h

/-- Settles O60: by the three kinds of answers; a unit instruction answers by whether it is legal. -/
theorem onlyStops : Obligations.OnlyStops := by
  refine ⟨fun z u s hz => exec_cmd_issued.refused hz, fun c s => ?_⟩
  cases exec_answers (s := s) c with
  | unit z u =>
    cases hz : z.legal with
    | true => exact .inl (exec_cmd_issued.keeps hz).next
    | false => exact .inr (.inl ⟨exec_cmd_issued.refused hz, z, u, rfl, hz⟩)
  | request f hc ha =>
    obtain hk | hf := ha
    · exact .inl hk.next
    · exact .inr (.inr ⟨f, hc, hf⟩)
  | keeps hk => exact .inl hk.next

end Sys2Proof.Proofs
end

section
/-! PROOFS. What a home slice does with one request. -/

namespace Sys2Proof.Proofs

open Sys2Proof Sys2Proof.Machine Sys2Proof.Laws

-- In order, one proof at a time: proofs elaborated side by side would exceed the limits of the check.
set_option Elab.async false

variable {s t v : State} {i : Nat} {f : Flit}

/-! ### Counters -/

/-- `t` differs from `s` in counters and records alone, as far as a slice can tell. -/
structure Quiet (s t : State) : Prop where
  slice : ∀ j, t.slice j = s.slice j
  mem : t.mem = s.mem
  flits : t.flits = s.flits
  cfg : t.cfg = s.cfg
  power : t.power = s.power

theorem Quiet.refl : Quiet s s := ⟨fun _ => rfl, rfl, rfl, rfl, rfl⟩

theorem Quiet.trans (h : Quiet s t) (k : Quiet t v) : Quiet s v :=
  ⟨fun j => (k.slice j).trans (h.slice j), k.mem.trans h.mem, k.flits.trans h.flits, k.cfg.trans h.cfg, k.power.trans h.power⟩

theorem ite_quiet {c : Prop} [Decidable c] {a b : State} (ha : Quiet s a) (hb : Quiet s b) : Quiet s (if c then a else b) := by
  split
  · exact ha
  · exact hb

theorem foldl_quiet {α : Type} {g : State → α → State} {l : List α} (hg : ∀ t x, Quiet s t → Quiet s (g t x)) (h : Quiet s t) :
    Quiet s (l.foldl g t) := foldl_keeps (Quiet s) g l t h hg

theorem countErr_quiet {src k} : Quiet s (s.countErr src k) := ite_quiet ⟨fun _ => rfl, rfl, rfl, rfl, rfl⟩ .refl

theorem countT_quiet {r w n} : Quiet s (s.countT r w n) := ite_quiet ⟨fun _ => rfl, rfl, rfl, rfl, rfl⟩ .refl

theorem countHs_quiet {a w n} : Quiet s (s.countHs a w n) := ite_quiet ⟨fun _ => rfl, rfl, rfl, rfl, rfl⟩ .refl

theorem countWrite_quiet {who i part l} : Quiet s (s.countWrite who i part l) := countT_quiet

theorem logRec_quiet {src kind synd whr own} : Quiet s (s.logRec src kind synd whr own) :=
  ite_quiet ⟨fun _ => rfl, rfl, rfl, rfl, rfl⟩ ⟨fun _ => rfl, rfl, rfl, rfl, rfl⟩

theorem addCtr_quiet {r w p n} : Quiet s (s.addCtr r w p n) := ⟨fun _ => rfl, rfl, rfl, rfl, rfl⟩

theorem countWord_quiet {src u poi whr own} : Quiet s (s.countWord src u poi whr own) := by
  unfold State.countWord
  extract_lets ecc
  have he : ∀ t p, Quiet t (ecc t p) := by
    intro t p
    unfold ecc
    split
    · exact addCtr_quiet
    · exact .refl
  exact ite_quiet (countErr_quiet.trans (he _ 0)) (ite_quiet (countErr_quiet.trans (he _ 0))
    (ite_quiet ((countErr_quiet.trans logRec_quiet).trans (he _ 1)) (ite_quiet (countErr_quiet.trans (he _ 1)) .refl)))

theorem readDram_quiet {who l} : Quiet s (s.readDram who l) :=
  ((foldl_quiet (fun _ _ h => h.trans countWord_quiet) .refl).trans countHs_quiet).trans countT_quiet

/-- A word that reads clean is not counted. -/
theorem countWord_clean {src whr own} : s.countWord src 0 false whr own = s := by simp [State.countWord]

/-- The tags of a slice that need no correction are looked up without a trace. -/
theorem lookTags_clean {set : Nat} (h : (s.slice i).tags = []) : s.lookTags i set = s := by
  have hw : ∀ w, s.lookWay i set w = s := fun w => by simp [State.lookWay, h, count]
  have hl : ∀ l : List Nat, l.foldl (fun s w => s.lookWay i set w) s = s := by
    intro l
    induction l with
    | nil => rfl
    | cons w l ih => rw [List.foldl_cons, hw, ih]
  exact hl _

/-! ### Rows -/

theorem foldr_digits (b d n k : Nat) :
    (List.range' k n).foldr (fun w m => d / b ^ w % b + b * m) 0 = d / b ^ k % b ^ n := by
  induction n generalizing k with
  | zero => simp [Nat.mod_one]
  | succ n ih =>
    rw [List.range'_succ, List.foldr_cons, ih, pow_succ' b n, Nat.mod_mul, pow_succ, ← Nat.div_div_eq_div_mul]

theorem fullMask_getLsbD {w : Nat} (h : w < 16) : fullMask.getLsbD w = true := by
  have : ∀ w, w < 16 → fullMask.getLsbD w = true := by decide
  exact this w h

theorem toNat_word (d : BitVec 1024) (w : Nat) : (d.extractLsb' (64 * w) 64).toNat = d.toNat / (2 ^ 64) ^ w % 2 ^ 64 := by
  rw [BitVec.extractLsb'_toNat, Nat.shiftRight_eq_div_pow, pow_mul]

/-- A whole row written over another is that row. -/
theorem merge_fullMask (old new : Row) : Row.merge old new fullMask = new := by
  have hw : ∀ w ∈ List.range' 0 16, ∀ n : Nat,
      (if fullMask.getLsbD w then (new.data.extractLsb' (64 * w) 64).toNat else (old.data.extractLsb' (64 * w) 64).toNat) + 2 ^ 64 * n =
        new.data.toNat / (2 ^ 64) ^ w % 2 ^ 64 + 2 ^ 64 * n := by
    intro w hw n
    rw [if_pos (fullMask_getLsbD (by simpa using hw)), toNat_word]
  have hd : new.data.toNat / (2 ^ 64) ^ 0 % (2 ^ 64) ^ 16 = new.data.toNat := by
    rw [pow_zero, Nat.div_one, ← pow_mul]
    exact Nat.mod_eq_of_lt (by simpa only [Nat.reduceMul] using new.data.isLt)
  have hp : (old.poison &&& ~~~fullMask) ||| (new.poison &&& fullMask) = new.poison := by
    have : fullMask = BitVec.allOnes 16 := by decide
    rw [this, BitVec.and_allOnes, BitVec.not_allOnes, BitVec.and_zero, BitVec.zero_or]
  unfold Row.merge
  dsimp only
  rw [List.range_eq_range', List.foldr_ext _ _ _ hw, foldr_digits, hd, hp, BitVec.ofNat_toNat, BitVec.setWidth_eq]

/-- A line none of whose words is uncorrectable is shown as it is. -/
theorem shown_eq {x : Line} (h : ∀ w < 16, count x.upset w ≠ 3) : x.shown = x.row := by
  have hw : ∀ w ∈ List.range 16, ∀ n : Nat, (if count x.upset w = 3 then 1 else 0) + 2 * n = 0 + 2 * n := by
    intro w hw n
    rw [if_neg (h w (List.mem_range.mp hw))]
  have hz : (List.range 16).foldr (fun _ n => 0 + 2 * n) 0 = 0 := by decide
  unfold Line.shown
  rw [List.foldr_ext _ _ _ hw, hz]
  simp

/-- After the words that a mask names are cleared, none of them is upset. -/
theorem count_cleared {l : List Nat} {w : Nat} (hw : w ∈ l) (hl : ∀ v ∈ l, fullMask.getLsbD v = true) (u : FMap Nat) :
    count (l.foldl (fun u w => if fullMask.getLsbD w then FMap.set 0 u w 0 else u) u) w = 0 := by
  have hk : ∀ (l : List Nat) (u : FMap Nat), count u w = 0 →
      count (l.foldl (fun u w => if fullMask.getLsbD w then FMap.set 0 u w 0 else u) u) w = 0 := by
    intro l u h
    refine foldl_keeps (fun u => count u w = 0) _ l u h fun u v hu => ?_
    split
    · rw [count, get_set]
      split
      · rfl
      · exact hu
    · exact hu
  induction l generalizing u with
  | nil => simp at hw
  | cons v l ih =>
    rw [List.foldl_cons, if_pos (hl v (by simp))]
    obtain rfl | hw := List.mem_cons.mp hw
    · exact hk _ _ (get_set_same _ _ _ _)
    · exact ih hw (fun v hv => hl v (by simp [hv])) _

/-! ### Lines -/

/-- Where every copy of a line at its home slice is dirty and shows one row, and there is one, that row is the line's. -/
theorem lineRow_eq {a : Nat} {r : Row}
    (hall : ∀ x ∈ (s.slice (s.homeSlice (lineOf a))).lines, x.addr = lineOf a → x.dirty = true ∧ x.shown = r)
    (hone : ∃ x ∈ (s.slice (s.homeSlice (lineOf a))).lines, x.addr = lineOf a) : s.lineRow a = r := by
  obtain ⟨y, hy, hya⟩ := hone
  unfold State.lineRow Slice.any
  dsimp only
  cases he : (s.slice (s.homeSlice (lineOf a))).lines.find? fun l => l.addr == lineOf a && l.dirty with
  | none =>
    have := List.find?_eq_none.mp he y hy
    simp [hya, (hall y hy hya).1] at this
  | some x =>
    have hx := List.find?_some he
    simp only [Bool.and_eq_true, beq_iff_eq] at hx
    obtain ⟨hxa, hxd⟩ := hx
    have hr : x.refetched = false := by simp [Line.refetched, hxd]
    simp only [hr]
    exact (hall x (List.mem_of_find?_eq_some he) hxa).2

theorem Quiet.lineRow {a : Nat} (h : Quiet s t) : t.lineRow a = s.lineRow a := by
  have hh : t.homeSlice (lineOf a) = s.homeSlice (lineOf a) := by
    simp [State.homeSlice, State.homeDie, State.homesLines, State.die, h.power]
  unfold State.lineRow
  dsimp only
  rw [hh, h.slice, h.mem]

end Sys2Proof.Proofs
end

section
/-! PROOFS. What a whole-line write leaves in a home slice. -/

namespace Sys2Proof.Proofs

open Sys2Proof Sys2Proof.Machine Sys2Proof.Laws

-- In order, one proof at a time: proofs elaborated side by side would exceed the limits of the check.
set_option Elab.async false

variable {s t v : State} {i : Nat}

/-! ### What the lines' changes leave alone -/

/-- The requests that a slice holds are the same. -/
structure SameQueues (c d : Slice) : Prop where
  order : d.order = c.order
  park : d.park = c.park
  miss : d.miss = c.miss
  nacked : d.nacked = c.nacked

/-- `t` differs from `s` in counters, in lines of the slices and in what DRAM holds. -/
structure LinesOnly (s t : State) : Prop where
  queues : ∀ j, SameQueues (s.slice j) (t.slice j)
  spad : t.mem.spad = s.mem.spad
  flits : t.flits = s.flits
  power : t.power = s.power
  cfg : t.cfg = s.cfg

theorem LinesOnly.refl : LinesOnly s s := ⟨fun _ => ⟨rfl, rfl, rfl, rfl⟩, rfl, rfl, rfl, rfl⟩

theorem LinesOnly.trans (h : LinesOnly s t) (k : LinesOnly t v) : LinesOnly s v where
  queues j := by
    obtain ⟨h1, h2, h3, h4⟩ := h.queues j
    obtain ⟨k1, k2, k3, k4⟩ := k.queues j
    exact ⟨k1.trans h1, k2.trans h2, k3.trans h3, k4.trans h4⟩
  spad := k.spad.trans h.spad
  flits := k.flits.trans h.flits
  power := k.power.trans h.power
  cfg := k.cfg.trans h.cfg

theorem Quiet.linesOnly (h : Quiet s t) : LinesOnly s t where
  queues j := by
    rw [h.slice]
    exact ⟨rfl, rfl, rfl, rfl⟩
  spad := by rw [h.mem]
  flits := h.flits
  power := h.power
  cfg := h.cfg

theorem ite_linesOnly {c : Prop} [Decidable c] {a b : State} (ha : LinesOnly s a) (hb : LinesOnly s b) :
    LinesOnly s (if c then a else b) := by
  split
  · exact ha
  · exact hb

theorem foldl_linesOnly {α : Type} {g : State → α → State} {l : List α} (hg : ∀ t x, LinesOnly s t → LinesOnly s (g t x))
    (h : LinesOnly s t) : LinesOnly s (l.foldl g t) := foldl_keeps (LinesOnly s) g l t h hg

theorem updSlice_linesOnly {g : Slice → Slice} (hg : ∀ c, SameQueues c (g c)) :
    LinesOnly s (s.updSlice i g) where
  queues j := by
    rw [slice_updSlice]
    split
    next h => exact h ▸ hg _
    · exact ⟨rfl, rfl, rfl, rfl⟩
  spad := rfl
  flits := rfl
  power := rfl
  cfg := rfl

theorem writeBack_linesOnly {who a r mask} : LinesOnly s (s.writeBack who a r mask) := by
  have h : LinesOnly s (s.updMem fun m => m.putDramRow a r mask) := ⟨fun _ => ⟨rfl, rfl, rfl, rfl⟩, rfl, rfl, rfl, rfl⟩
  exact h.trans (countHs_quiet.trans countT_quiet).linesOnly

theorem cleanOthers_linesOnly {who part l} : LinesOnly s (s.cleanOthers who i part l) := by
  unfold State.cleanOthers
  refine .trans ?_ (updSlice_linesOnly fun _ => ⟨rfl, rfl, rfl, rfl⟩)
  exact foldl_linesOnly (fun _ _ h => ite_linesOnly (h.trans writeBack_linesOnly) h) .refl

theorem dropOthers_linesOnly {who part l} : LinesOnly s (s.dropOthers who i part l) := by
  unfold State.dropOthers
  exact cleanOthers_linesOnly.trans (updSlice_linesOnly fun _ => ⟨rfl, rfl, rfl, rfl⟩)

theorem allocLine_linesOnly {who part a dirty row} : LinesOnly s (s.allocLine who i part a dirty row) := by
  unfold State.allocLine
  dsimp only
  split
  · exact updSlice_linesOnly fun _ => ⟨rfl, rfl, rfl, rfl⟩
  · split
    · exact ite_linesOnly writeBack_linesOnly .refl
    · exact (ite_linesOnly writeBack_linesOnly .refl).trans (updSlice_linesOnly fun _ => ⟨rfl, rfl, rfl, rfl⟩)

theorem touchLine_linesOnly {part a} : LinesOnly s (s.touchLine i part a) := updSlice_linesOnly fun _ => ⟨rfl, rfl, rfl, rfl⟩

/-! ### A line put into a partition -/

theorem foldl_least_ne_none (l : List Line) (b : Option Line) (h : b ≠ none ∨ l ≠ []) :
    (l.foldl (fun (b : Option Line) l =>
      match b with | none => some l | some x => if l.use < x.use then some l else some x) b) ≠ none := by
  induction l generalizing b with
  | nil => simpa using h
  | cons x l ih =>
    refine ih _ (.inl ?_)
    cases b with
    | none => simp
    | some y =>
      dsimp only
      split <;> simp

@[simp] theorem slice_writeBack {who a r mask j} : (s.writeBack who a r mask).slice j = s.slice j :=
  (countHs_quiet.trans countT_quiet).slice j

/-- A line put into a partition stands in the slice, behind some of the lines that it held; a partition without an enabled way takes
none. -/
theorem allocLine_cases (s : State) (who i : Nat) (part : Option Nat) (a : Nat) (dirty : Bool) (row : Row) :
    (∃ w use l, ((s.allocLine who i part a dirty row).slice i).lines = l ++ [⟨w, a, part, dirty, row, use, []⟩] ∧
      ∀ y ∈ l, y ∈ (s.slice i).lines) ∨
    (((s.waysAt part i a).filter fun w => !(NatSet.mem (s.slice i).disabled (wayKey (setOf a) w))) = [] ∧
      s.allocLine who i part a dirty row = if dirty then s.writeBack who a row fullMask else s) := by
  unfold State.allocLine
  extract_lets c set ways here new
  split
  · exact .inl ⟨_, _, (s.slice i).lines, by rw [slice_updSlice, if_pos rfl], fun y hy => hy⟩
  · next hfree =>
    split
    · next hnone =>
      refine .inr ⟨List.eq_nil_iff_forall_not_mem.mpr fun w hw => ?_, rfl⟩
      have hused := List.find?_eq_none.mp hfree w hw
      simp only [Bool.not_eq_true', Bool.not_eq_false, List.any_eq_true, beq_iff_eq] at hused
      obtain ⟨x, hx, hxw⟩ := hused
      refine absurd hnone (foldl_least_ne_none _ _ (.inr (List.ne_nil_of_mem (a := x) ?_)))
      exact List.mem_filter.mpr ⟨hx, by rw [hxw]; exact List.contains_iff_mem.mpr hw⟩
    · next v _ =>
      refine .inl ⟨_, _, _, by rw [slice_updSlice, if_pos rfl], fun y hy => ?_⟩
      have := List.mem_of_mem_filter hy
      split at this
      · simpa using this
      · exact this

/-- A partition with a way takes the line where no way is disabled. -/
theorem allocLine_enters {who part a dirty row} (hd : (s.slice i).disabled = []) (hw : s.waysAt part i a ≠ []) :
    ∃ w use l, ((s.allocLine who i part a dirty row).slice i).lines = l ++ [⟨w, a, part, dirty, row, use, []⟩] ∧
      ∀ y ∈ l, y ∈ (s.slice i).lines := by
  refine (allocLine_cases s who i part a dirty row).resolve_right fun h => hw ?_
  rw [← h.1, hd]
  simp [NatSet.mem]

/-! ### A whole line written -/

theorem LinesOnly.waysAt {part a} (h : LinesOnly s t) : t.waysAt part i a = s.waysAt part i a := by
  simp [State.waysAt, State.waysOf, State.strictOn, State.partitionOf, State.part0, State.part1, State.isDram, State.stackPresent,
    h.power, h.cfg]

theorem LinesOnly.homeSlice {a} (h : LinesOnly s t) : t.homeSlice a = s.homeSlice a := by
  simp [State.homeSlice, State.homeDie, State.homesLines, State.die, h.power]

theorem disabled_cleanOthers {who part l} : ((s.cleanOthers who i part l).slice i).disabled = (s.slice i).disabled := by
  unfold State.cleanOthers
  rw [slice_updSlice, if_pos rfl]
  refine foldl_keeps (fun t => (t.slice i).disabled = (s.slice i).disabled) _ _ s rfl fun t x h => ?_
  split
  · rw [slice_writeBack]
    exact h
  · exact h

theorem disabled_dropOthers {who part l} : ((s.dropOthers who i part l).slice i).disabled = (s.slice i).disabled := by
  unfold State.dropOthers
  rw [slice_updSlice, if_pos rfl]
  exact disabled_cleanOthers

/-- The copies that are left after the others went are the partition's. -/
theorem part_of_mem_dropOthers {who part l} {x : Line} (hx : x ∈ ((s.dropOthers who i part l).slice i).lines) (ha : x.addr = l) :
    x.part = part := by
  unfold State.dropOthers at hx
  rw [slice_updSlice, if_pos rfl] at hx
  simpa [ha] using (List.mem_filter.mp hx).2

/-- A line as the write of a whole row leaves it. -/
def writtenLine (x : Line) (r : Row) : Line :=
  { x with row := Row.merge x.row r fullMask, dirty := true
           upset := (List.range 16).foldl (fun u w => if fullMask.getLsbD w then FMap.set 0 u w 0 else u) x.upset }

/-- The slice whose copies of a line a partition has written whole. -/
def writtenSlice (c : Slice) (part : Option Nat) (l : Nat) (r : Row) : Slice :=
  { c with lines := c.lines.map fun x => if x.addr == l && x.part == part then writtenLine x r else x }

theorem shown_writtenLine (x : Line) (r : Row) : (writtenLine x r).shown = r := by
  rw [shown_eq, writtenLine, merge_fullMask]
  intro w hw
  rw [writtenLine, count_cleared (List.mem_range.mpr hw) fun v hv => fullMask_getLsbD (List.mem_range.mp hv)]
  decide

/-- A line that is noted as used keeps its address, its state and what it shows. -/
theorem mem_touchLine {part a} {z : Line} (hz : z ∈ ((s.touchLine i part a).slice i).lines) :
    ∃ x ∈ (s.slice i).lines, z.addr = x.addr ∧ z.dirty = x.dirty ∧ z.shown = x.shown := by
  unfold State.touchLine at hz
  rw [slice_updSlice, if_pos rfl] at hz
  obtain ⟨x, hx, rfl⟩ := List.mem_map.mp hz
  refine ⟨x, hx, ?_⟩
  split <;> exact ⟨rfl, rfl, rfl⟩

theorem addr_mem_touchLine {part a} {x : Line} (hx : x ∈ (s.slice i).lines) :
    ∃ z ∈ ((s.touchLine i part a).slice i).lines, z.addr = x.addr := by
  unfold State.touchLine
  rw [slice_updSlice, if_pos rfl]
  refine ⟨_, List.mem_map_of_mem hx, ?_⟩
  split <;> rfl

/-- A held line updated in place, and noted as used. -/
theorem updated_copies {part l} {r : Row} {y : Line} (hy : (s.slice i).find part l = some y)
    (hpart : ∀ x ∈ (s.slice i).lines, x.addr = l → x.part = part) {t : State}
    (ht : t = (s.updSlice i fun c => writtenSlice c part l r).touchLine i part l) :
    (∀ x ∈ (t.slice i).lines, x.addr = l → x.dirty = true ∧ x.shown = r) ∧ ∃ x ∈ (t.slice i).lines, x.addr = l := by
  have hlines : ∀ z, z ∈ ((s.updSlice i fun c => writtenSlice c part l r).slice i).lines ↔
      ∃ x ∈ (s.slice i).lines, (if x.addr == l && x.part == part then writtenLine x r else x) = z := by
    intro z
    rw [slice_updSlice, if_pos rfl]
    exact List.mem_map
  obtain ⟨hya, hyp⟩ : y.addr = l ∧ y.part = part := by simpa using List.find?_some hy
  have hym : y ∈ (s.slice i).lines := List.mem_of_find?_eq_some hy
  subst ht
  constructor
  · intro z hz ha
    obtain ⟨x', hx', hxa, hxd, hxs⟩ := mem_touchLine hz
    obtain ⟨x, hx, rfl⟩ := (hlines _).mp hx'
    rw [hxd, hxs]
    by_cases hxl : x.addr = l
    · rw [if_pos (by simp [hxl, hpart x hx hxl])]
      exact ⟨rfl, shown_writtenLine x r⟩
    · rw [if_neg (by simp [hxl])] at hxa
      exact absurd (hxa.symm.trans ha) hxl
  · obtain ⟨z, hz, hza⟩ := addr_mem_touchLine (part := part) (a := l) ((hlines _).mpr ⟨y, hym, rfl⟩)
    refine ⟨z, hz, hza.trans ?_⟩
    rw [if_pos (by simp [hya, hyp])]
    exact hya

/-- After the write of a whole line every copy in the slice is dirty and shows its row, and there is one. -/
theorem writeLine_copies {who part l r} (ht : (s.slice i).tags = []) (hd : (s.slice i).disabled = []) (hw : s.waysAt part i l ≠ []) :
    (∀ x ∈ ((s.writeLine who i part true l r fullMask).slice i).lines, x.addr = l → x.dirty = true ∧ x.shown = r) ∧
      ∃ x ∈ ((s.writeLine who i part true l r fullMask).slice i).lines, x.addr = l := by
  unfold State.writeLine
  rw [lookTags_clean ht]
  extract_lets t
  have hpart : ∀ x ∈ (t.slice i).lines, x.addr = l → x.part = part := fun x hx => part_of_mem_dropOthers hx
  split
  · next y hy =>
    exact updated_copies hy hpart rfl
  · next hnone =>
    have hwt : t.waysAt part i l ≠ [] := by rwa [dropOthers_linesOnly.waysAt]
    have hdt : (t.slice i).disabled = [] := by rwa [disabled_dropOthers]
    have hold : ∀ x ∈ (t.slice i).lines, x.addr ≠ l := by
      intro x hx ha
      simpa [ha, hpart x hx ha] using List.find?_eq_none.mp hnone x hx
    obtain ⟨w, use, l', hl, hsub⟩ := allocLine_enters (who := who) (dirty := true) (row := r) hdt hwt
    rw [if_neg (by simpa using hwt), if_pos (by simp), hl]
    refine ⟨fun x hx ha => ?_, _, List.mem_append_right _ (List.mem_singleton.mpr rfl), rfl⟩
    obtain hx | hx := List.mem_append.mp hx
    · exact absurd ha (hold x (hsub x hx))
    · obtain rfl := List.mem_singleton.mp hx
      exact ⟨rfl, shown_eq fun _ _ => by simp [count]⟩

theorem writeLine_linesOnly {who part alloc l r mask} (ht : (s.slice i).tags = []) :
    LinesOnly s (s.writeLine who i part alloc l r mask) := by
  unfold State.writeLine
  rw [lookTags_clean ht]
  extract_lets t
  have hst : LinesOnly s t := dropOthers_linesOnly
  clear_value t
  refine hst.trans ?_
  split
  · refine .trans ?_ touchLine_linesOnly
    exact updSlice_linesOnly fun _ => ⟨rfl, rfl, rfl, rfl⟩
  · exact ite_linesOnly writeBack_linesOnly (ite_linesOnly allocLine_linesOnly allocLine_linesOnly)

/-- After the write of a whole line at its home slice every observer sees its row (R211). -/
theorem lineRow_writeLine {who part a r} (hi : i = s.homeSlice (lineOf a)) (ht : (s.slice i).tags = []) (hd : (s.slice i).disabled = [])
    (hw : s.waysAt part i (lineOf a) ≠ []) : (s.writeLine who i part true (lineOf a) r fullMask).lineRow a = r := by
  obtain ⟨hall, hone⟩ := writeLine_copies (who := who) (r := r) ht hd hw
  have hh : (s.writeLine who i part true (lineOf a) r fullMask).homeSlice (lineOf a) = i := by rw [(writeLine_linesOnly ht).homeSlice, hi]
  refine lineRow_eq ?_ ?_
  · rwa [hh]
  · rwa [hh]

end Sys2Proof.Proofs
end

section
/-! PROOFS. A request at its home slice, from its arrival to its answer. -/

namespace Sys2Proof.Proofs

open Sys2Proof Sys2Proof.Machine Sys2Proof.Laws

-- In order, one proof at a time: proofs elaborated side by side would exceed the limits of the check.
set_option Elab.async false

variable {s t : State} {i : Nat} {f : Flit} {k : FlitKind}

/-! ### Arrival (R27, R196, R210) -/

/-- An address of DRAM lies below the flash window. -/
theorem lt_flashBase {a : Nat} (h : s.isDram a 1 = true) : a < flashBase := by
  simp only [State.isDram, Bool.and_eq_true, decide_eq_true_eq] at h
  obtain ⟨⟨h, -⟩, -⟩ := h
  have : 16 * halfStack ≤ flashBase := by decide
  omega

theorem isFlash_of_lt {a n : Nat} (h : a < flashBase) : isFlash a n = false := by
  simp only [isFlash, Bool.and_eq_false_iff, decide_eq_false_iff_not]
  omega

theorem isFlash_of_isDram {a : Nat} (h : s.isDram a 1 = true) : isFlash a 1 = false := isFlash_of_lt (lt_flashBase h)

theorem isFlash_lineOf {a : Nat} (h : s.isDram a 1 = true) : isFlash (lineOf a) 1 = false := by
  refine isFlash_of_lt (Nat.lt_of_le_of_lt ?_ (lt_flashBase h))
  exact Nat.div_mul_le_self a 128

/-- A request that its path, its tag and its routers let through reaches its endpoint. -/
theorem arrive_take {refuse : State → State} {take : State → Out} (hc : s.Comes k f) (hr : s.refuses f = false) :
    s.arrive k f refuse take = take (s.takeFlit f) := by
  obtain ⟨hk, ho, ht⟩ := hc
  have ht' : (s.takeFlit f).tagOk f = true := ht
  have hr' : (s.takeFlit f).refuses f = false := hr
  simp [State.arrive, hk, ho, ht', hr']

theorem rehome_none (h : isFlash f.addr 1 = false) : s.rehome f = none := by
  unfold State.rehome
  split
  · simp [h]
  · rfl

theorem readRequest_slice (hd : f.dst = .slice i) (hc : s.Comes .readReq f) (hr : s.refuses f = false) (ha : s.isDram f.addr 1 = true) :
    exec (.readRequest f) s = .next ((s.takeFlit f).sliceTake i f) := by
  have hab : (s.takeFlit f).absent f.addr = false := by
    have : (s.takeFlit f).isDram f.addr 1 = true := ha
    simp [State.absent, this]
  show execReadRequest f s = _
  rw [execReadRequest, rehome_none (isFlash_of_isDram ha)]
  dsimp only
  rw [arrive_take hc hr, hd]
  simp [hab]

theorem writeRequest_slice (hd : f.dst = .slice i) (hc : s.Comes .writeReq f) (hr : s.refuses f = false) (ha : s.isDram f.addr 1 = true) :
    exec (.writeRequest f) s = .next ((s.takeFlit f).sliceTake i f) := by
  have hab : (s.takeFlit f).isDram f.addr 1 = true := ha
  show execWriteRequest f s = _
  rw [execWriteRequest, arrive_take hc hr, State.writeAt, hd]
  simp [hab]

theorem absent_iff {a : Nat} : s.absent a = true ↔ s.isDram a 1 = false ∧ isFlash a 1 = false := by simp [State.absent]

theorem readRequest_absent (hd : f.dst = .slice i) (hc : s.Comes .readReq f) (hr : s.refuses f = false) (ha : s.absent f.addr = true) :
    exec (.readRequest f) s = .fault (.absentAddress f.addr) := by
  have hab : (s.takeFlit f).absent f.addr = true := ha
  show execReadRequest f s = _
  rw [execReadRequest, rehome_none (absent_iff.mp ha).2]
  dsimp only
  rw [arrive_take hc hr, hd]
  simp [hab]

theorem writeAt_absent (hd : f.dst = .slice i) (ha : s.absent f.addr = true) : s.writeAt f = .fault (.absentAddress f.addr) := by
  simp [State.writeAt, hd, (absent_iff.mp ha).1]

theorem writeRequest_absent (hd : f.dst = .slice i) (hc : s.Comes .writeReq f) (hr : s.refuses f = false) (ha : s.absent f.addr = true) :
    exec (.writeRequest f) s = .fault (.absentAddress f.addr) := by
  show execWriteRequest f s = _
  rw [execWriteRequest, arrive_take hc hr]
  exact writeAt_absent hd ha

theorem bulk_absent (hd : f.dst = .slice i) (hc : s.Comes .bulk f) (hr : s.refuses f = false) (hm : f.mask ≠ 0)
    (ha : s.absent f.addr = true) : exec (.bulk f) s = .fault (.absentAddress f.addr) := by
  show execBulk f s = _
  rw [execBulk, arrive_take hc hr, if_neg (by simpa using hm)]
  exact writeAt_absent hd ha

/-! ### A slice with nothing to do (R209, R210) -/

/-- Nothing is parked at the slice, and no line that it waits for has arrived. -/
structure Settled (c : Slice) : Prop where
  park : c.park = []
  miss : ∀ m ∈ c.miss, m.filled = false

theorem foldl_self {α : Type} {g : State → α → State} {l : List α} (hg : ∀ x ∈ l, g s x = s) : l.foldl g s = s := by
  induction l with
  | nil => rfl
  | cons x l ih => rw [List.foldl_cons, hg x (by simp), ih fun y hy => hg y (by simp [hy])]

theorem sliceRound_quiet (h : Settled (s.slice i)) : Quiet s (s.sliceRound i) := by
  obtain ⟨hp, hm⟩ := h
  have hfilter : (s.slice i).miss.filter (fun m => !(m.filled && m.reqs.isEmpty)) = (s.slice i).miss :=
    List.filter_eq_self.mpr fun m hx => by simp [hm m hx]
  unfold State.sliceRound
  dsimp only
  rw [foldl_self (l := (s.slice i).miss) fun m _ => ?_, slice_updSlice, if_pos rfl, hp]
  refine ⟨fun j => ?_, rfl, rfl, rfl, rfl⟩
  rw [List.foldl_nil, slice_updSlice]
  split
  · next h =>
    rw [hfilter, h]
  · rfl
  · rw [List.find?_eq_none.mpr fun x hx => by simp [hm x hx]]

theorem Settled.of_quiet (h : Settled (s.slice i)) (hq : Quiet s t) : Settled (t.slice i) := by rwa [hq.slice]

theorem sliceGo_succ {n : Nat} : s.sliceGo i (n + 1) = (s.sliceRound i).sliceGo i n := rfl

theorem sliceGo_quiet {n : Nat} (h : Settled (s.slice i)) : Quiet s (s.sliceGo i n) := by
  induction n generalizing s with
  | zero => exact .refl
  | succ n ih =>
    have hq := sliceRound_quiet h
    exact hq.trans (ih (h.of_quiet hq))

theorem sliceRun_quiet (h : Settled (s.slice i)) : Quiet s (s.sliceRun i) := sliceGo_quiet h

/-- The slice with the request at the end of its order, as `sliceTake` serves it. -/
def queued (s : State) (i : Nat) (f : Flit) : State := s.updSlice i fun c => { c with order := c.order ++ [f] }

theorem sliceTake_served (h : (queued s i f).sliceServe i f = some t) :
    s.sliceTake i f = (t.updSlice i fun c => { c with nacked := c.nacked.erase f }).sliceRun i := by
  unfold State.sliceTake
  dsimp only
  unfold queued at h
  rw [h]

end Sys2Proof.Proofs
end

section
/-! PROOFS. The answer of a home slice to a read, to the write of a line, and to the arrival of a line. -/

namespace Sys2Proof.Proofs

open Sys2Proof Sys2Proof.Machine Sys2Proof.Laws

-- In order, one proof at a time: proofs elaborated side by side would exceed the limits of the check.
set_option Elab.async false

variable {s t : State} {i : Nat} {f : Flit}

/-! ### One request alone -/

theorem turn_single {c : Slice} (h : c.order = [f]) : c.turn f = true := by simp [Slice.turn, h]

theorem lineFor_dram (h : s.isDram f.addr 1 = true) : s.lineFor f = lineOf f.addr := by
  simp [State.lineFor, State.redirect, isFlash_of_isDram h]

theorem slice_queued (h : (s.slice i).order = []) : (queued s i f).slice i = { s.slice i with order := [f] } := by
  rw [queued, slice_updSlice, if_pos rfl, h]
  rfl

theorem slice_queued_ne {j : Nat} (h : j ≠ i) : (queued s i f).slice j = s.slice j := by rw [queued, slice_updSlice, if_neg h]

theorem perform_miss {c : Slice} (h : ∀ m ∈ c.miss, f ∉ m.reqs) : (c.perform f).miss = c.miss := by
  have : ∀ m ∈ c.miss, { m with reqs := m.reqs.erase f } = m := fun m hm => by rw [List.erase_of_not_mem (h m hm)]
  exact (List.map_congr_left this).trans (List.map_id _)

/-! ### Reads (R206, R208, R209) -/

theorem lookLine_hit {who part a} {x : Line} (ht : (s.slice i).tags = []) (hx : (s.slice i).find part a = some x) (hu : x.upset = [])
    (hp : x.row.poison = 0) : s.lookLine who i part a = ((s.touchLine i part a).countT who 6 128, some x.row) := by
  have hs : x.shown = x.row := shown_eq fun _ _ => by simp [hu, count]
  have hr : x.refetched = false := by simp [Line.refetched, hs, hp]
  have hclean : ∀ w, s.countWord (16 + i / 16) (count x.upset w) (x.row.poison.getLsbD w) (a + 8 * w) (s.tagOwner who) = s := by
    intro w
    rw [hu, hp]
    simpa [count] using countWord_clean
  unfold State.lookLine
  rw [lookTags_clean ht]
  dsimp only
  rw [hx]
  dsimp only
  rw [if_neg (by simp [hr]), if_neg (by simp [hs, hp]), hs]
  congr 3
  exact foldl_self fun w _ => hclean w

theorem lookLine_miss {who part a} (ht : (s.slice i).tags = []) (hx : (s.slice i).find part a = none) :
    s.lookLine who i part a = (s.countT who 7 128, none) := by
  unfold State.lookLine
  rw [lookTags_clean ht]
  dsimp only
  rw [hx]

theorem Quiet.classOf (h : Quiet s t) : t.classOf i f = s.classOf i f := by
  simp [State.classOf, State.partitionOf, State.part0, State.part1, h.cfg]

theorem Quiet.missRoom {cls} (h : Quiet s t) : t.missRoom i cls = s.missRoom i cls := by
  simp [State.missRoom, State.strictOn, State.partitionOf, State.part0, State.part1, h.cfg]

/-- Where no entry has the request's line and tag, it merges into none. -/
theorem mergeEntry_none (ha : s.isDram f.addr 1 = true) (hm : ∀ y ∈ (s.slice i).miss, y.line ≠ lineOf f.addr ∨ y.rtag ≠ f.rtag) :
    s.mergeEntry i f = none := by
  refine List.find?_eq_none.mpr fun y hy => ?_
  rw [lineFor_dram ha]
  obtain h | h := hm y hy
  · simp [h]
  · simp [h]

section
variable (hk : f.kind = .readReq) (ha : s.isDram f.addr 1 = true) (ho : (s.slice i).order = [f]) (ht : (s.slice i).tags = [])
  (hm : ∀ y ∈ (s.slice i).miss, y.line ≠ lineOf f.addr ∨ y.rtag ≠ f.rtag)
include hk ha ho ht hm

theorem sliceServe_hit {x : Line} (hx : (s.slice i).find (s.classOf i f) (lineOf f.addr) = some x) (hu : x.upset = [])
    (hp : x.row.poison = 0) : s.sliceServe i f =
      some ((((s.touchLine i (s.classOf i f) (lineOf f.addr)).countT f.rtag 6 128).updSlice i fun c => c.perform f).reply f x.row) := by
  unfold State.sliceServe
  dsimp only
  rw [if_neg (by simp [isWrite, hk]), mergeEntry_none ha hm, lineFor_dram ha, lookLine_hit ht hx hu hp]
  dsimp only
  rw [if_neg (by simp [turn_single ho])]

theorem sliceServe_miss (hx : (s.slice i).find (s.classOf i f) (lineOf f.addr) = none)
    (hroom : ((s.slice i).miss.filter fun y => y.part == s.classOf i f).length < s.missRoom i (s.classOf i f))
    (hn : (s.slice i).nacked = []) : s.sliceServe i f = some ((s.countT f.rtag 7 128).takeEntry i f) := by
  have hq : Quiet s (s.countT f.rtag 7 128) := countT_quiet
  have hfree : (s.countT f.rtag 7 128).entryFree i f = true := by
    unfold State.entryFree
    dsimp only
    rw [hq.slice, hq.missRoom, hq.classOf, hn]
    simp [hroom, oldestNacked]
  unfold State.sliceServe
  dsimp only
  rw [if_neg (by simp [isWrite, hk]), mergeEntry_none ha hm, lineFor_dram ha, lookLine_miss ht hx]
  dsimp only
  rw [if_neg (by simp [turn_single ho]), if_pos hfree]

end

theorem takeEntry_dram (ha : s.isDram f.addr 1 = true) : s.takeEntry i f = s.updSlice i fun c =>
    { c with miss := c.miss ++ [(⟨lineOf f.addr, f.rtag, s.classOf i f, [f], false⟩ : Miss)], park := c.park.erase f } := by
  unfold State.takeEntry
  rw [lineFor_dram ha]
  dsimp only
  rw [if_neg (by simp [isFlash_lineOf ha])]

/-- A request that is served at once, and leaves the slice with nothing to go on with, changes what serving it does. -/
theorem sliceTake_settles {z : State} (hz : (queued s i f).sliceServe i f = some z) (hn : (z.slice i).nacked = [])
    (hset : Settled (z.slice i)) : Quiet z (s.sliceTake i f) := by
  have hq : Quiet z (z.updSlice i fun c => { c with nacked := c.nacked.erase f }) := by
    refine ⟨fun j => ?_, rfl, rfl, rfl, rfl⟩
    rw [slice_updSlice]
    split
    next h => rw [h, hn, List.erase_nil, ← hn]
    · rfl
  rw [sliceTake_served hz]
  exact hq.trans (sliceRun_quiet (hset.of_quiet hq))

theorem SameQueues.perform {c d : Slice} (h : SameQueues c d) (hp : c.park = []) (hn : c.nacked = [])
    (hm : ∀ m ∈ c.miss, f ∉ m.reqs) : (d.perform f).park = [] ∧ (d.perform f).nacked = [] ∧ (d.perform f).miss = c.miss := by
  obtain ⟨-, h2, h3, h4⟩ := h
  refine ⟨?_, ?_, ?_⟩
  · rw [Slice.perform, h2, hp]
    rfl
  · rw [Slice.perform, h4, hn]
    rfl
  · rw [perform_miss (by rwa [h3]), h3]

section
variable (hk : f.kind = .readReq) (ha : s.isDram f.addr 1 = true) (hi : s.SliceIdle i)
  (hm : ∀ y ∈ (s.slice i).miss, y.filled = false ∧ f ∉ y.reqs ∧ (y.line ≠ lineOf f.addr ∨ y.rtag ≠ f.rtag))
include hk ha hi hm

theorem sliceTake_hit {x : Line} (hx : (s.slice i).find (s.classOf i f) (lineOf f.addr) = some x) (hu : x.upset = [])
    (hp : x.row.poison = 0) :
    (s.sliceTake i f).flits = s.flits ++ [answerOf f .readReply x.row false] ∧ (s.sliceTake i f).mem = s.mem ∧
      ((s.sliceTake i f).slice i).miss = (s.slice i).miss ∧ ∀ j, j ≠ i → (s.sliceTake i f).slice j = s.slice j := by
  obtain ⟨ho, hpark, hn, ht⟩ := hi
  have hs := slice_queued (f := f) ho
  have hserve := sliceServe_hit (s := queued s i f) (i := i) hk ha (by rw [hs]) (by rw [hs]; exact ht)
    (by rw [hs]; exact fun y hy => (hm y hy).2.2) (by rw [hs]; exact hx) hu hp
  generalize hz : ((queued s i f).touchLine i ((queued s i f).classOf i f) (lineOf f.addr)).countT f.rtag 6 128 = z at hserve
  have hl : LinesOnly (queued s i f) z := hz ▸ touchLine_linesOnly.trans countT_quiet.linesOnly
  have hzm : z.mem = s.mem := hz ▸ countT_quiet.mem
  have hzj : ∀ j, j ≠ i → z.slice j = s.slice j := by
    intro j hj
    rw [← hz, countT_quiet.slice, State.touchLine, slice_updSlice, if_neg hj, slice_queued_ne hj]
  obtain ⟨hpk, hnk, hms⟩ := (hs ▸ hl.queues i).perform (f := f) hpark hn fun m hm' => (hm m hm').2.1
  have hti : ((z.updSlice i fun c => c.perform f).reply f x.row).slice i = (z.slice i).perform f := by
    show (z.updSlice i fun c => c.perform f).slice i = _
    rw [slice_updSlice, if_pos rfl]
  have hq := sliceTake_settles hserve (by rwa [hti]) ⟨by rwa [hti], by rw [hti, hms]; exact fun m hm' => (hm m hm').1⟩
  refine ⟨?_, ?_, ?_, fun j hj => ?_⟩
  · rw [hq.flits]
    show z.flits ++ _ = _
    rw [hl.flits]
    rfl
  · rw [hq.mem]
    exact hzm
  · rw [hq.slice, hti, hms]
  · rw [hq.slice]
    show (z.updSlice i fun c => c.perform f).slice j = _
    rw [slice_updSlice, if_neg hj, hzj j hj]

theorem sliceTake_miss (hx : (s.slice i).find (s.classOf i f) (lineOf f.addr) = none)
    (hroom : ((s.slice i).miss.filter fun y => y.part == s.classOf i f).length < s.missRoom i (s.classOf i f)) :
    (s.sliceTake i f).flits = s.flits ∧ (s.sliceTake i f).mem = s.mem ∧
      ((s.sliceTake i f).slice i).miss = (s.slice i).miss ++ [⟨lineOf f.addr, f.rtag, s.classOf i f, [f], false⟩] ∧
      ((s.sliceTake i f).slice i).lines = (s.slice i).lines := by
  obtain ⟨ho, hpark, hn, ht⟩ := hi
  have hs := slice_queued (f := f) ho
  have hserve := sliceServe_miss (s := queued s i f) (i := i) hk ha (by rw [hs]) (by rw [hs]; exact ht)
    (by rw [hs]; exact fun y hy => (hm y hy).2.2) (by rw [hs]; exact hx) (by rw [hs]; exact hroom) (by rw [hs]; exact hn)
  have hc : Quiet (queued s i f) ((queued s i f).countT f.rtag 7 128) := countT_quiet
  generalize (queued s i f).countT f.rtag 7 128 = v at hserve hc
  have hva : v.isDram f.addr 1 = true := by
    rw [← ha]
    simp [State.isDram, State.stackPresent, hc.power, queued]
  have hvc : v.classOf i f = s.classOf i f := hc.classOf
  rw [takeEntry_dram hva, hvc] at hserve
  have hti := slice_updSlice (s := v) i i fun c =>
    { c with miss := c.miss ++ [(⟨lineOf f.addr, f.rtag, s.classOf i f, [f], false⟩ : Miss)], park := c.park.erase f }
  rw [if_pos rfl, hc.slice, hs] at hti
  have hset : ∀ m ∈ (s.slice i).miss ++ [(⟨lineOf f.addr, f.rtag, s.classOf i f, [f], false⟩ : Miss)], m.filled = false := by
    intro m hm'
    obtain hm' | hm' := List.mem_append.mp hm'
    · exact (hm m hm').1
    · rw [List.mem_singleton.mp hm']
  have hq := sliceTake_settles hserve (by rw [hti]; exact hn) (by rw [hti]; exact ⟨by simp [hpark], hset⟩)
  refine ⟨?_, ?_, ?_, ?_⟩
  · rw [hq.flits]
    exact hc.flits
  · rw [hq.mem]
    exact hc.mem
  · rw [hq.slice, hti]
  · rw [hq.slice, hti]

end

/-! ### The write of a line (R206, R211) -/

theorem lineRow_ack {g down a} : (s.ack g down).lineRow a = s.lineRow a := rfl

/-- The write of a whole line at its home slice is acknowledged, every observer sees it, and the slice holds the request no more. -/
theorem sliceWrite_whole (hmask : f.mask = fullMask) (hh : i = s.homeSlice (lineOf f.addr)) (ht : (s.slice i).tags = [])
    (hd : (s.slice i).disabled = []) (hw : s.waysAt (s.classOf i f) i (lineOf f.addr) ≠ []) :
    (s.sliceWrite i f).flits = s.flits ++ [answerOf f .ack Row.zero false] ∧ (s.sliceWrite i f).lineRow f.addr = f.row ∧
      (s.sliceWrite i f).mem.spad = s.mem.spad ∧ SameQueues ((s.slice i).perform f) ((s.sliceWrite i f).slice i) := by
  unfold State.sliceWrite
  rw [hmask]
  dsimp only
  have hsi : (s.updSlice i fun c => c.perform f).slice i = (s.slice i).perform f := by rw [slice_updSlice, if_pos rfl]
  have hst : ((s.updSlice i fun c => c.perform f).slice i).tags = [] := by
    rw [hsi]
    exact ht
  have hsd : ((s.updSlice i fun c => c.perform f).slice i).disabled = [] := by
    rw [hsi]
    exact hd
  have hrow := lineRow_writeLine (who := f.rtag) (r := f.row) (s := s.updSlice i fun c => c.perform f) hh hst hsd hw
  have hl := writeLine_linesOnly (who := f.rtag) (part := s.classOf i f) (alloc := true) (l := lineOf f.addr) (r := f.row)
    (mask := fullMask) hst
  generalize (s.updSlice i fun c => c.perform f).writeLine f.rtag i (s.classOf i f) true (lineOf f.addr) f.row fullMask = t at hrow hl ⊢
  refine ⟨?_, lineRow_ack.trans hrow, hl.spad, hsi ▸ hl.queues i⟩
  show _ ++ _ = _
  rw [hl.flits]
  rfl

section
variable (hk : f.kind = .writeReq) (ha : s.isDram f.addr 1 = true) (hmask : f.mask = fullMask) (hi : s.SliceIdle i)
include hk ha hmask hi

theorem sliceServe_write : (queued s i f).sliceServe i f =
    some (((queued s i f).countWrite f.rtag i (s.classOf i f) (lineOf f.addr)).sliceWrite i f) := by
  have hs := slice_queued (f := f) hi.1
  have hw : (queued s i f).writeAtOnce i f = true := by simp [State.writeAtOnce, hmask]
  have hl : (queued s i f).lineFor f = lineOf f.addr := lineFor_dram ha
  unfold State.sliceServe
  dsimp only
  rw [if_pos (by simp [isWrite, hk]), if_pos hw, hl, if_pos (turn_single (by rw [hs]))]
  rfl

theorem sliceTake_write (hm : (s.slice i).miss = []) (hh : i = s.homeSlice (lineOf f.addr)) (hd : (s.slice i).disabled = [])
    (hw : s.waysAt (s.classOf i f) i (lineOf f.addr) ≠ []) :
    (s.sliceTake i f).flits = s.flits ++ [answerOf f .ack Row.zero false] ∧ (s.sliceTake i f).lineRow f.addr = f.row ∧
      (s.sliceTake i f).mem.spad = s.mem.spad := by
  have hserve := sliceServe_write hk ha hmask hi
  obtain ⟨ho, hpark, hn, ht⟩ := hi
  have hs := slice_queued (f := f) ho
  have hc : Quiet (queued s i f) ((queued s i f).countWrite f.rtag i (s.classOf i f) (lineOf f.addr)) := countWrite_quiet
  generalize (queued s i f).countWrite f.rtag i (s.classOf i f) (lineOf f.addr) = v at hserve hc
  have hvi : v.slice i = { s.slice i with order := [f] } := (hc.slice i).trans hs
  have hvw : v.waysAt (v.classOf i f) i (lineOf f.addr) ≠ [] := by
    rw [hc.classOf, hc.linesOnly.waysAt]
    exact hw
  have hvh : i = v.homeSlice (lineOf f.addr) := hh.trans hc.linesOnly.homeSlice.symm
  obtain ⟨hflits, hrow, hspad, hqueues⟩ := sliceWrite_whole hmask hvh (by rw [hvi]; exact ht) (by rw [hvi]; exact hd) hvw
  obtain ⟨hpk, hnk, hms⟩ := SameQueues.perform (f := f) (c := v.slice i) ⟨rfl, rfl, rfl, rfl⟩ (by rw [hvi]; exact hpark)
    (by rw [hvi]; exact hn) (by rw [hvi]; simp [hm])
  have hset : Settled ((v.sliceWrite i f).slice i) := by
    refine ⟨hqueues.park.trans hpk, ?_⟩
    rw [hqueues.miss, hms, hvi]
    simp [hm]
  have hq := sliceTake_settles hserve (hqueues.nacked.trans hnk) hset
  refine ⟨?_, hq.lineRow.trans hrow, ?_⟩
  · rw [hq.flits, hflits, hc.flits]
    rfl
  · rw [hq.mem, hspad, hc.mem]
    rfl

end

end Sys2Proof.Proofs
end

section
/-! PROOFS. The arrival of a line that a home slice waits for. -/

namespace Sys2Proof.Proofs

open Sys2Proof Sys2Proof.Machine Sys2Proof.Laws

-- In order, one proof at a time: proofs elaborated side by side would exceed the limits of the check.
set_option Elab.async false

variable {s t : State} {i : Nat} {f : Flit} {m : Miss}

/-! ### The line's data -/

/-- Where a slice holds no copy of a line there is none to write back. -/
theorem cleanOthers_quiet {who part l} (h : ∀ x ∈ (s.slice i).lines, x.addr ≠ l) : Quiet s (s.cleanOthers who i part l) := by
  unfold State.cleanOthers
  dsimp only
  rw [foldl_self fun x hx => by simp [h x hx]]
  refine ⟨fun j => ?_, rfl, rfl, rfl, rfl⟩
  rw [slice_updSlice]
  split
  next hj =>
    have : ∀ x ∈ (s.slice i).lines, (if x.addr == l && x.part != part && x.dirty then
        { x with row := x.shown, upset := [], dirty := false } else x) = x := fun x hx => by simp [h x hx]
    rw [List.map_congr_left this, List.map_id', hj]
  · rfl

theorem find_absent {part a} (h : ∀ x ∈ (s.slice i).lines, x.addr ≠ a) : (s.slice i).find part a = none :=
  List.find?_eq_none.mpr fun x hx => by simp [h x hx]

/-- Without a copy the slice delivers what the half-stack holds. -/
theorem lineNow_absent {part a} (h : ∀ x ∈ (s.slice i).lines, x.addr ≠ a) (ha : isFlash a 1 = false) :
    s.lineNow i part a = s.mem.dramRow a := by
  unfold State.lineNow
  rw [find_absent h]
  simp [ha]

/-- The copy of a line put into a partition that held none is what the slice delivers. -/
theorem lineNow_allocLine {who part a} (h : ∀ x ∈ (s.slice i).lines, x.addr ≠ a) (ha : isFlash a 1 = false) :
    (s.allocLine who i part a false (s.mem.dramRow a)).lineNow i part a = s.mem.dramRow a := by
  obtain ⟨w, use, l, hl, hsub⟩ | ⟨-, hs⟩ := allocLine_cases s who i part a false (s.mem.dramRow a)
  · have hold : l.find? (fun x => x.addr == a && x.part == part) = none :=
      List.find?_eq_none.mpr fun y hy => by simp [h y (hsub y hy)]
    unfold State.lineNow Slice.find
    rw [hl, List.find?_append, hold]
    simp only [Option.none_or, List.find?_cons, beq_self_eq_true, Bool.and_self]
    exact shown_eq fun _ _ => by simp [count]
  · rw [hs, if_neg (by simp), lineNow_absent h ha]

/-! ### Its requests -/

/-- A round at a slice whose one entry holds one read and has its line answers the read. -/
theorem sliceRound_answers (hm : (s.slice i).miss = [m]) (hr : m.reqs = [f]) (hf : m.filled = true) (hk : f.kind = .readReq)
    (hp : (s.slice i).park = []) (ho : (s.slice i).order = [f]) :
    (s.sliceRound i).flits = s.flits ++ [answerOf f .readReply (s.lineNow i m.part m.line) false] ∧ (s.sliceRound i).mem = s.mem ∧
      ((s.sliceRound i).slice i).miss = [] ∧ ((s.sliceRound i).slice i).park = [] := by
  have hrun : s.runEntry i m = (s.updSlice i fun c => c.perform f).inject (answerOf f .readReply (s.lineNow i m.part m.line) false) := by
    unfold State.runEntry
    dsimp only
    rw [hr]
    simp only [List.takeWhile, turn_single ho, List.head?, isWrite, hk]
    cases m.part <;> rfl
  have hfind : (s.slice i).miss.find? (fun x => x.line == m.line && x.rtag == m.rtag && x.filled && !x.reqs.isEmpty) = some m := by
    simp [hm, hf, hr]
  have hu : ∀ r, ((s.updSlice i fun c => c.perform f).inject r).slice i = (s.slice i).perform f := by
    intro r
    show (s.updSlice i fun c => c.perform f).slice i = _
    rw [slice_updSlice, if_pos rfl]
  have hmiss : ((s.slice i).perform f).miss.filter (fun m => !(m.filled && m.reqs.isEmpty)) = [] := by simp [Slice.perform, hm, hr, hf]
  have hpark : ((s.slice i).perform f).park = [] := by simp [Slice.perform, hp]
  unfold State.sliceRound
  dsimp only
  rw [hm, List.foldl_cons, List.foldl_nil, hfind]
  dsimp only
  rw [hrun]
  rw [slice_updSlice, if_pos rfl, hu, hpark, List.foldl_nil, slice_updSlice, if_pos rfl, hu]
  exact ⟨rfl, rfl, hmiss, hpark⟩

/-- The slice goes on after that, and has nothing more to do. -/
theorem sliceRun_answers (hm : (s.slice i).miss = [m]) (hr : m.reqs = [f]) (hf : m.filled = true) (hk : f.kind = .readReq)
    (hp : (s.slice i).park = []) (ho : (s.slice i).order = [f]) :
    (s.sliceRun i).flits = s.flits ++ [answerOf f .readReply (s.lineNow i m.part m.line) false] ∧ (s.sliceRun i).mem = s.mem ∧
      ((s.sliceRun i).slice i).miss = [] := by
  obtain ⟨hflits, hmem, hmiss, hpark⟩ := sliceRound_answers hm hr hf hk hp ho
  have hq : Quiet (s.sliceRound i) (s.sliceRun i) := by
    rw [State.sliceRun, sliceGo_succ]
    exact sliceGo_quiet ⟨hpark, by simp [hmiss]⟩
  exact ⟨hq.flits.trans hflits, hq.mem.trans hmem, by rw [hq.slice, hmiss]⟩

/-- The line of the only entry arrives, and no copy of it is held: its one read is answered with what the half-stack holds. -/
theorem fillMiss_answers (hm : (s.slice i).miss = [m]) (hr : m.reqs = [f]) (hf : m.filled = false) (hk : f.kind = .readReq)
    (hp : (s.slice i).park = []) (ho : (s.slice i).order = [f]) (hfl : isFlash m.line 1 = false)
    (hl : ∀ x ∈ (s.slice i).lines, x.addr ≠ m.line) :
    (s.fillMiss i m).flits = s.flits ++ [answerOf f .readReply (s.mem.dramRow m.line) false] ∧ ((s.fillMiss i m).slice i).miss = [] ∧
      (s.fillMiss i m).mem.spad = s.mem.spad := by
  unfold State.fillMiss
  extract_lets flash t u row v
  have ht : t.slice i = { s.slice i with miss := [{ m with filled := true }] } := by
    unfold t
    rw [slice_updSlice, if_pos rfl, hm]
    simp [hf]
  have hu : Quiet t u := by
    unfold u flash
    rw [hfl]
    exact (cleanOthers_quiet (by rw [ht]; exact hl)).trans readDram_quiet
  have hrow : row = s.mem.dramRow m.line := by
    unfold row flash
    rw [hfl, hu.mem]
    rfl
  have hul : ∀ x ∈ (u.slice i).lines, x.addr ≠ m.line := by
    rw [hu.slice, ht]
    exact hl
  have hv : LinesOnly u v ∧ v.lineNow i m.part m.line = s.mem.dramRow m.line := by
    have hum : u.mem.dramRow m.line = s.mem.dramRow m.line := by
      rw [hu.mem]
      rfl
    unfold v
    split
    · exact ⟨.refl, (lineNow_absent hul hfl).trans hum⟩
    · rw [hrow, ← hum]
      exact ⟨allocLine_linesOnly, lineNow_allocLine hul hfl⟩
  obtain ⟨hvl, hnow⟩ := hv
  obtain ⟨hvo, hvp, hvm, -⟩ := hvl.queues i
  rw [hu.slice, ht] at hvo hvp hvm
  obtain ⟨hflits, hmem, hmiss⟩ := sliceRun_answers hvm hr rfl hk (hvp.trans hp) (hvo.trans ho)
  refine ⟨?_, hmiss, ?_⟩
  · rw [hflits, hvl.flits, hu.flits, ← hnow]
    rfl
  · rw [hmem, hvl.spad, hu.mem]
    rfl

theorem missFill_answers (hm : (s.slice i).miss = [m]) (hr : m.reqs = [f]) (hf : m.filled = false) (hk : f.kind = .readReq)
    (hp : (s.slice i).park = []) (ho : (s.slice i).order = [f]) (hfl : isFlash m.line 1 = false)
    (hl : ∀ x ∈ (s.slice i).lines, x.addr ≠ m.line) :
    ∃ t, exec (.missFill i m.line m.rtag) s = .next t ∧ t.flits = s.flits ++ [answerOf f .readReply (s.mem.dramRow m.line) false] ∧
      (t.slice i).miss = [] ∧ t.mem.spad = s.mem.spad := by
  refine ⟨s.fillMiss i m, ?_, fillMiss_answers hm hr hf hk hp ho hfl hl⟩
  show execMissFill i m.line m.rtag s = _
  simp [execMissFill, hm, hf, hfl]

/-- Settles O33: the slice is followed from the request's arrival to its answer, in each of the four cases. -/
theorem sliceRequests : Obligations.SliceRequests := by
  refine ⟨fun i f s hd hc hr ha hi hm => ⟨fun x hx hu hp => ?_, fun hx hroom => ?_⟩,
    fun i f s hd hc hr ha hmask hh hi hm hdis hw => ?_, fun i m f s hm hreqs hf hk hp ho hfl hl => ?_,
    fun i f s hd hr ha => ⟨fun hc => ?_, fun hc => ?_, fun hc hmask => ?_⟩⟩
  · exact ⟨_, readRequest_slice hd hc hr ha, sliceTake_hit (s := s.takeFlit f) hc.1 ha hi hm hx hu hp⟩
  · exact ⟨_, readRequest_slice hd hc hr ha, sliceTake_miss (s := s.takeFlit f) hc.1 ha hi hm hx hroom⟩
  · exact ⟨_, writeRequest_slice hd hc hr ha, sliceTake_write (s := s.takeFlit f) hc.1 ha hmask hi hm hh hdis hw⟩
  · exact missFill_answers hm hreqs hf hk hp ho hfl hl
  · exact readRequest_absent hd hc hr ha
  · exact writeRequest_absent hd hc hr ha
  · exact bulk_absent hd hc hr hmask ha

end Sys2Proof.Proofs
end

section
/-! PROOFS. Number formats: what an exact value is encoded as, and the conversions between F16, F19, F32 and block elements. -/

namespace Sys2Proof.Proofs

open Sys2Proof Sys2Proof.Machine Sys2Proof.Laws

/-! ### Exact values as rational numbers (R47) -/

/-- The magnitude m · 2^e. -/
def mag (m : Nat) (e : Int) : ℚ := m * 2 ^ e

theorem mag_scale (m : Nat) {e f : Int} (h : f ≤ e) : mag (m * 2 ^ (e - f).toNat) f = mag m e := by
  have hp : (2 : ℚ) ^ (e - f).toNat = 2 ^ (e - f) := by
    rw [← zpow_natCast, Int.toNat_of_nonneg (by omega)]
  unfold mag
  rw [Nat.cast_mul, Nat.cast_pow, Nat.cast_ofNat, hp, mul_assoc, ← zpow_add₀ (by norm_num), sub_add_cancel]

theorem mag_inj {m n : Nat} {e : Int} (h : mag m e = mag n e) : m = n := by
  have := mul_right_cancel₀ (zpow_ne_zero e (by norm_num : (2 : ℚ) ≠ 0)) h
  exact_mod_cast this

/-- Two finite values are the same where their signs and magnitudes are. -/
theorem same_fin_iff {a b : Bool} {m n : Nat} {e f : Int} : (Fp.fin a m e).same (.fin b n f) ↔ a = b ∧ mag m e = mag n f := by
  rw [← mag_scale m (min_le_left e f), ← mag_scale n (min_le_right e f)]
  exact and_congr_right fun _ => ⟨fun h => congrArg (mag · _) h, mag_inj⟩

/-- The leading bit of a magnitude. -/
theorem bitLen_le_iff {m k : Nat} : bitLen m ≤ k ↔ m < 2 ^ k := by
  rw [bitLen]
  split
  · rename_i h; simp [h]
  · rename_i h
    rw [Nat.succ_le_iff, Nat.log2_lt h]

theorem two_pow_bitLen_le {m : Nat} (h : m ≠ 0) : 2 ^ (bitLen m - 1) ≤ m := by
  rw [bitLen, if_neg h]
  exact Nat.log2_self_le h

theorem lt_two_pow_bitLen (m : Nat) : m < 2 ^ bitLen m := bitLen_le_iff.mp le_rfl

theorem mag_lt_iff {m : Nat} {e k : Int} (hm : m ≠ 0) : mag m e < 2 ^ k ↔ e + bitLen m ≤ k := by
  have hb : 1 ≤ bitLen m := by simp [bitLen, hm]
  have hle : (2 : ℚ) ^ (e + bitLen m - 1) ≤ mag m e := by
    have h : ((2 ^ (bitLen m - 1) : Nat) : ℚ) ≤ m := by exact_mod_cast two_pow_bitLen_le hm
    calc (2 : ℚ) ^ (e + bitLen m - 1) = ((2 ^ (bitLen m - 1) : Nat) : ℚ) * 2 ^ e := by
          rw [Nat.cast_pow, Nat.cast_ofNat, ← zpow_natCast, ← zpow_add₀ (by norm_num), Nat.cast_sub hb]
          congr 1
          push_cast
          ring
      _ ≤ mag m e := mul_le_mul_of_nonneg_right h (by positivity)
  have hlt : mag m e < 2 ^ (e + bitLen m) := by
    have h : (m : ℚ) < ((2 ^ bitLen m : Nat) : ℚ) := by exact_mod_cast lt_two_pow_bitLen m
    calc mag m e < ((2 ^ bitLen m : Nat) : ℚ) * 2 ^ e := mul_lt_mul_of_pos_right h (by positivity)
      _ = 2 ^ (e + bitLen m) := by
          rw [Nat.cast_pow, Nat.cast_ofNat, ← zpow_natCast, ← zpow_add₀ (by norm_num), add_comm]
  constructor
  · intro h
    have := (zpow_lt_zpow_iff_right₀ (by norm_num : (1 : ℚ) < 2)).mp (hle.trans_lt h)
    omega
  · exact fun h => hlt.trans_le (zpow_le_zpow_right₀ (by norm_num) h)

theorem mag_eq_zero_iff {m : Nat} {e : Int} : mag m e = 0 ↔ m = 0 := by
  unfold mag
  rw [mul_eq_zero, Nat.cast_eq_zero]
  exact or_iff_left (zpow_ne_zero e (by norm_num))

/-- The place of the leading bit belongs to the magnitude. -/
theorem leading_eq {m n : Nat} {e f : Int} (hm : m ≠ 0) (h : mag m e = mag n f) : e + bitLen m = f + bitLen n := by
  have hn : n ≠ 0 := fun hn => hm (mag_eq_zero_iff.mp (h.trans (mag_eq_zero_iff.mpr hn)))
  refine le_antisymm ?_ ?_
  · rw [← mag_lt_iff hm, h, mag_lt_iff hn]
  · rw [← mag_lt_iff hn, ← h, mag_lt_iff hm]

/-! ### Rounding what needs none -/

theorem roundUp_zero {mode : Rnd} (hmode : mode = .rne ∨ mode = .rtz) (q k : Nat) : roundUp mode q 0 k = false := by
  have : (2 : Nat) ^ k ≠ 0 := by positivity
  obtain rfl | rfl := hmode
  · simp [roundUp, this.symm]
  · rfl

section

variable {f : Fmt} {mode : Rnd} {m m₀ : Nat} {e e₀ : Int}

/-- Zero is rounded to zero. -/
theorem round_zero (hmode : mode = .rne ∨ mode = .rtz) : (f.round mode 0 e).1 = 0 := by
  unfold Fmt.round
  dsimp only
  split
  · simp
  · simp [roundUp_zero hmode]

/-- A magnitude that lies on the format's grid is rounded to itself: a significand of at most mb + 1 bits, and of exactly so many above
the subnormal spacing. -/
theorem round_exact (hmode : mode = .rne ∨ mode = .rtz) (hm : m ≠ 0) (h : mag m e = mag m₀ e₀) (h₀ : m₀ < 2 ^ (f.mb + 1))
    (he₀ : f.qmin ≤ e₀) :
    ∃ q qe, f.round mode m e = (q, qe, false) ∧ mag q qe = mag m e ∧ q < 2 ^ (f.mb + 1) ∧ f.qmin ≤ qe ∧
      (f.qmin < qe → 2 ^ f.mb ≤ q) := by
  have hlead := leading_eq hm h
  have hb₀ := bitLen_le_iff.mpr h₀
  generalize hqe : max (e + bitLen m - (f.mb + 1 : Nat)) f.qmin = qe
  have hqe₀ : qe ≤ e₀ := by omega
  suffices hr : ∃ q, f.round mode m e = (q, qe, false) ∧ mag q qe = mag m e by
    obtain ⟨q, hr, hq⟩ := hr
    have hq0 : q ≠ 0 := fun h0 => hm (mag_eq_zero_iff.mp (hq.symm.trans (mag_eq_zero_iff.mpr h0)))
    have hlq := leading_eq hq0 hq
    refine ⟨q, qe, hr, hq, bitLen_le_iff.mp (by omega), by omega, fun hlt => ?_⟩
    rw [show f.mb = bitLen q - 1 by omega]
    exact two_pow_bitLen_le hq0
  unfold Fmt.round
  dsimp only
  rw [hqe]
  split
  · rename_i hle
    exact ⟨_, rfl, mag_scale m hle⟩
  · rename_i hle
    have hn : mag (m₀ * 2 ^ (e₀ - qe).toNat) qe = mag m e := (mag_scale m₀ hqe₀).trans h.symm
    generalize m₀ * 2 ^ (e₀ - qe).toNat = n at hn
    have hmn : m = n * 2 ^ (qe - e).toNat := mag_inj (e := e) (by rw [mag_scale n (by omega), hn])
    have hmod : m % 2 ^ (qe - e).toNat = 0 := by rw [hmn, Nat.mul_mod_left]
    have hdiv : m / 2 ^ (qe - e).toNat = n := by rw [hmn, Nat.mul_div_cancel _ (by positivity)]
    exact ⟨n, by rw [hmod, hdiv, roundUp_zero hmode]; rfl, hn⟩

/-! ### Encodings and what they decode to (R45, R47, R49) -/

/-- The value of a sign and a magnitude code. -/
theorem decode_signBit (neg : Bool) {c : Nat} (hc : c < 2 ^ (f.eb + f.mb)) :
    f.decode (f.signBit neg + c) =
      if c ≤ f.maxCode then .fin neg (f.magnitude c).1 (f.magnitude c).2
      else if f.spec = .ieee ∧ c = f.maxCode + 1 then .inf neg else .nan := by
  have hneg : ((f.signBit neg + c) / 2 ^ (f.eb + f.mb) % 2 == 1) = neg := by
    cases neg
    · simp [Fmt.signBit, Nat.div_eq_of_lt hc]
    · simp [Fmt.signBit, Nat.add_div_left, Nat.div_eq_of_lt hc]
  have hmag : (f.signBit neg + c) % 2 ^ (f.eb + f.mb) = c := by
    cases neg
    · simp [Fmt.signBit, Nat.mod_eq_of_lt hc]
    · simp [Fmt.signBit, Nat.mod_eq_of_lt hc]
  unfold Fmt.decode
  dsimp only
  rw [hneg, hmag]

/-- The code of a significand at its exponent is read back as both. -/
theorem magnitude_code {q : Nat} {qe : Int} (hq : q < 2 ^ (f.mb + 1)) (hmin : f.qmin ≤ qe) (hnorm : f.qmin < qe → 2 ^ f.mb ≤ q) :
    f.magnitude (q + (qe - f.qmin).toNat * 2 ^ f.mb) = (q, qe) := by
  have hp : 0 < 2 ^ f.mb := by positivity
  have hp' : 2 ^ (f.mb + 1) = 2 * 2 ^ f.mb := by ring
  unfold Fmt.magnitude
  dsimp only
  rw [Nat.add_mul_div_right _ _ hp, Nat.add_mul_mod_self_right]
  obtain hlt | hge := Nat.lt_or_ge q (2 ^ f.mb)
  · have hqe : qe = f.qmin := by omega
    simp [Nat.div_eq_of_lt hlt, Nat.mod_eq_of_lt hlt, hqe]
  · have hdiv : q / 2 ^ f.mb = 1 := Nat.div_eq_of_lt_le (by omega) (by omega)
    have hmod : q % 2 ^ f.mb = q - 2 ^ f.mb := by rw [Nat.mod_eq_sub_mod hge, Nat.mod_eq_of_lt (by omega)]
    rw [hdiv, hmod, if_neg (by omega)]
    ext
    · show 2 ^ f.mb + (q - 2 ^ f.mb) = q
      omega
    · show f.qmin + ((1 + (qe - f.qmin).toNat : Nat) : Int) - 1 = qe
      omega

/-- One more than the exponent of the largest finite value: the first power of two beyond it. -/
def topExp (f : Fmt) : Int := 2 ^ f.eb - 1 - f.bias

theorem maxCode_succ (hs : f.spec = .ieee) (heb : 1 ≤ f.eb) : f.maxCode + 1 = (2 ^ f.eb - 1) * 2 ^ f.mb := by
  have he : 2 ^ 1 ≤ 2 ^ f.eb := Nat.pow_le_pow_right (by decide) heb
  have hp : 0 < (2 ^ f.eb - 1) * 2 ^ f.mb := Nat.mul_pos (by omega) (by positivity)
  simp only [Fmt.maxCode, hs]
  omega

theorem maxCode_succ_lt (hs : f.spec = .ieee) (heb : 1 ≤ f.eb) : f.maxCode + 1 < 2 ^ (f.eb + f.mb) := by
  rw [maxCode_succ hs heb, pow_add]
  exact Nat.mul_lt_mul_of_pos_right (Nat.sub_lt (by positivity) (by decide)) (by positivity)

/-- The code of a significand at its exponent is a finite value's where the magnitude lies below the top. -/
theorem code_le_maxCode_iff (hs : f.spec = .ieee) (heb : 1 ≤ f.eb) {q : Nat} {qe : Int} (hq : q < 2 ^ (f.mb + 1))
    (hmin : f.qmin ≤ qe) (hnorm : f.qmin < qe → 2 ^ f.mb ≤ q) :
    q + (qe - f.qmin).toNat * 2 ^ f.mb ≤ f.maxCode ↔ qe + bitLen q ≤ topExp f := by
  have hp : 0 < 2 ^ f.mb := by positivity
  have hp' : 2 ^ (f.mb + 1) = 2 * 2 ^ f.mb := by ring
  have he : 2 ^ 1 ≤ 2 ^ f.eb := Nat.pow_le_pow_right (by decide) heb
  have hmax := maxCode_succ hs heb
  have htop : topExp f = (2 ^ f.eb - 1 : Nat) + f.qmin + f.mb - 1 := by
    unfold topExp Fmt.qmin Fmt.emin
    push_cast [Nat.cast_sub (by omega : 1 ≤ 2 ^ f.eb)]
    ring
  have hE1 : 1 ≤ 2 ^ f.eb - 1 := by omega
  generalize 2 ^ f.eb - 1 = E at hmax htop hE1
  rw [← Nat.lt_succ_iff, Nat.succ_eq_add_one, hmax, htop]
  have hlen : bitLen q ≤ f.mb + 1 := bitLen_le_iff.mpr hq
  generalize hN : (qe - f.qmin).toNat = N
  obtain hlt | hge := Nat.lt_or_ge q (2 ^ f.mb)
  · have hqe : qe = f.qmin := by omega
    have hshort : bitLen q ≤ f.mb := bitLen_le_iff.mpr hlt
    have hE : 1 * 2 ^ f.mb ≤ E * 2 ^ f.mb := Nat.mul_le_mul_right _ (by omega)
    have hN0 : N = 0 := by omega
    refine iff_of_true ?_ (by omega)
    rw [hN0, Nat.zero_mul]
    omega
  · have hlong : ¬ bitLen q ≤ f.mb := fun h => absurd (bitLen_le_iff.mp h) (by omega)
    have hiff : qe + bitLen q ≤ E + f.qmin + f.mb - 1 ↔ N + 2 ≤ E := by omega
    rw [hiff]
    constructor
    · intro h
      by_contra hE
      have : E * 2 ^ f.mb ≤ (N + 1) * 2 ^ f.mb := Nat.mul_le_mul_right _ (by omega)
      rw [Nat.add_mul] at this
      omega
    · intro hE
      have : (N + 2) * 2 ^ f.mb ≤ E * 2 ^ f.mb := Nat.mul_le_mul_right _ hE
      rw [Nat.add_mul] at this
      omega

/-- A magnitude on the grid of an IEEE 754 format and below its top is encoded as the finite value that it is. -/
theorem encode_exact (hs : f.spec = .ieee) (heb : 1 ≤ f.eb) (hmode : mode = .rne ∨ mode = .rtz) {sat neg : Bool}
    (htop : m = 0 ∨ e + bitLen m ≤ topExp f) (h : mag m e = mag m₀ e₀) (h₀ : m₀ < 2 ^ (f.mb + 1)) (he₀ : f.qmin ≤ e₀) :
    ∃ c, (f.encode mode sat neg m e).1 = f.signBit neg + c ∧ c ≤ f.maxCode ∧ mag (f.magnitude c).1 (f.magnitude c).2 = mag m e := by
  by_cases hm : m = 0
  · subst hm
    refine ⟨0, ?_, Nat.zero_le _, ?_⟩
    · unfold Fmt.encode
      dsimp only
      rw [if_pos (round_zero hmode), Nat.add_zero]
    · simp [Fmt.magnitude, mag]
  · obtain ⟨q, qe, hr, hq, hlt, hmin, hnorm⟩ := round_exact hmode hm h h₀ he₀
    have hq0 : q ≠ 0 := fun h0 => hm (mag_eq_zero_iff.mp (hq.symm.trans (mag_eq_zero_iff.mpr h0)))
    have hle : q + (qe - f.qmin).toNat * 2 ^ f.mb ≤ f.maxCode := by
      rw [code_le_maxCode_iff hs heb hlt hmin hnorm, leading_eq hq0 hq]
      exact htop.resolve_left hm
    refine ⟨_, ?_, hle, ?_⟩
    · unfold Fmt.encode
      rw [hr]
      dsimp only
      rw [if_neg hq0, if_pos hle]
    · rw [magnitude_code hlt hmin hnorm, hq]

/-- At or beyond the top it is encoded as an infinity, rounded to nearest. -/
theorem encode_over (hs : f.spec = .ieee) (heb : 1 ≤ f.eb) {neg : Bool} (hm : m ≠ 0) (htop : topExp f < e + bitLen m)
    (h : mag m e = mag m₀ e₀) (h₀ : m₀ < 2 ^ (f.mb + 1)) (he₀ : f.qmin ≤ e₀) :
    (f.encode .rne false neg m e).1 = f.signBit neg + (f.maxCode + 1) := by
  obtain ⟨q, qe, hr, hq, hlt, hmin, hnorm⟩ := round_exact (.inl rfl) hm h h₀ he₀
  have hq0 : q ≠ 0 := fun h0 => hm (mag_eq_zero_iff.mp (hq.symm.trans (mag_eq_zero_iff.mpr h0)))
  have hgt : ¬ q + (qe - f.qmin).toNat * 2 ^ f.mb ≤ f.maxCode := by
    rw [code_le_maxCode_iff hs heb hlt hmin hnorm, leading_eq hq0 hq]
    omega
  unfold Fmt.encode
  rw [hr]
  dsimp only
  rw [if_neg hq0, if_neg hgt, if_neg Bool.false_ne_true, if_neg (by simp)]

/-- A finite value's significand has at most mb + 1 bits, and its exponent lies between the subnormal spacing's and the top's. -/
theorem decode_fin {bits : Nat} {neg : Bool} (h : f.decode bits = .fin neg m e) :
    m < 2 ^ (f.mb + 1) ∧ f.qmin ≤ e ∧ e < f.qmin + 2 ^ f.eb := by
  have hp : 0 < 2 ^ f.mb := by positivity
  have hp' : 2 ^ (f.mb + 1) = 2 * 2 ^ f.mb := by ring
  have hmag : f.magnitude (bits % 2 ^ (f.eb + f.mb)) = (m, e) := by
    unfold Fmt.decode at h
    dsimp only at h
    split at h
    · injection h with _ hm he
      rw [← hm, ← he]
    · split at h
      · cases h
      · cases h
  have hE : bits % 2 ^ (f.eb + f.mb) / 2 ^ f.mb < 2 ^ f.eb := by
    rw [Nat.div_lt_iff_lt_mul hp, ← pow_add]
    exact Nat.mod_lt _ (by positivity)
  have hM := Nat.mod_lt (bits % 2 ^ (f.eb + f.mb)) hp
  have hE' : ((bits % 2 ^ (f.eb + f.mb) / 2 ^ f.mb : Nat) : Int) < 2 ^ f.eb := by exact_mod_cast hE
  unfold Fmt.magnitude at hmag
  dsimp only at hmag
  generalize bits % 2 ^ (f.eb + f.mb) / 2 ^ f.mb = E at hmag hE'
  generalize (2 : Int) ^ f.eb = T at hE' ⊢
  split at hmag
  · obtain ⟨rfl, rfl⟩ := Prod.mk.inj hmag
    omega
  · obtain ⟨rfl, rfl⟩ := Prod.mk.inj hmag
    omega

theorem signBit_add_lt {c : Nat} (neg : Bool) (hc : c < 2 ^ (f.eb + f.mb)) : f.signBit neg + c < 2 ^ f.width := by
  have hw : 2 ^ f.width = 2 * 2 ^ (f.eb + f.mb) := by
    rw [Fmt.width, Nat.add_assoc, Nat.add_comm, pow_succ]
    ring
  cases neg
  · simp [Fmt.signBit]
    omega
  · simp [Fmt.signBit]
    omega

/-- What is on the grid and below the top is read back as it was. -/
theorem decode_encode (hs : f.spec = .ieee) (heb : 1 ≤ f.eb) (hmode : mode = .rne ∨ mode = .rtz) {sat neg : Bool}
    (htop : m = 0 ∨ e + bitLen m ≤ topExp f) (h : mag m e = mag m₀ e₀) (h₀ : m₀ < 2 ^ (f.mb + 1)) (he₀ : f.qmin ≤ e₀) :
    (f.encode mode sat neg m e).1 < 2 ^ f.width ∧
      ∃ q qe, f.decode (f.encode mode sat neg m e).1 = .fin neg q qe ∧ mag q qe = mag m e := by
  obtain ⟨c, hc, hle, hmag⟩ := encode_exact (sat := sat) (neg := neg) hs heb hmode htop h h₀ he₀
  have hlt : c < 2 ^ (f.eb + f.mb) := by
    have := maxCode_succ_lt hs heb
    omega
  rw [hc]
  exact ⟨signBit_add_lt neg hlt, _, _, by rw [decode_signBit neg hlt, if_pos hle], hmag⟩

/-- What lies at or beyond the top is read back as an infinity. -/
theorem decode_encode_over (hs : f.spec = .ieee) (heb : 1 ≤ f.eb) {neg : Bool} (hm : m ≠ 0) (htop : topExp f < e + bitLen m)
    (h : mag m e = mag m₀ e₀) (h₀ : m₀ < 2 ^ (f.mb + 1)) (he₀ : f.qmin ≤ e₀) :
    (f.encode .rne false neg m e).1 < 2 ^ f.width ∧ f.decode (f.encode .rne false neg m e).1 = .inf neg := by
  have hlt := maxCode_succ_lt hs heb
  rw [encode_over hs heb hm htop h h₀ he₀]
  exact ⟨signBit_add_lt neg hlt, by rw [decode_signBit neg hlt, if_neg (by omega), if_pos ⟨hs, rfl⟩]⟩

end

/-! ### F32, F16 and F19 (R46, R48, R49) -/

theorem f32_ofNat {n : Nat} (h : n < 2 ^ fmtF32.width) : f32 (BitVec.ofNat 32 n) = fmtF32.decode n := by
  rw [f32, BitVec.toNat_ofNat]
  exact congrArg _ (Nat.mod_eq_of_lt h)

theorem topExp_f32 : topExp fmtF32 = 128 := by decide

theorem topExp_f19 : topExp fmtF19 = 128 := by decide

theorem qmin_f32 : fmtF32.qmin = -149 := by decide

theorem qmin_f19 : fmtF19.qmin = -136 := by decide

theorem qmin_f16 : fmtF16.qmin = -24 := by decide

/-- A value of up to 24 bits, no finer than the subnormal spacing and below 2^128, is an F32's. -/
theorem f32_f32Encode {mode : Rnd} {n : Bool} {m : Nat} {e : Int} (hmode : mode = .rne ∨ mode = .rtz) (hm : m < 2 ^ 24) (he : -149 ≤ e)
    (htop : m = 0 ∨ e + bitLen m ≤ 128) : ∃ q qe, f32 (f32Encode mode n m e).1 = .fin n q qe ∧ mag q qe = mag m e := by
  obtain ⟨hlt, hdec⟩ := decode_encode (f := fmtF32) (sat := false) (neg := n) rfl (by decide) hmode (by rwa [topExp_f32]) rfl hm
    (by rwa [qmin_f32])
  rwa [← f32_ofNat hlt] at hdec

/-- One of 2^128 or more is infinity. -/
theorem f32_f32Encode_over {n : Bool} {m : Nat} {e : Int} (hm0 : m ≠ 0) (hm : m < 2 ^ 24) (he : -149 ≤ e)
    (htop : 128 < e + bitLen m) : f32 (f32Encode .rne n m e).1 = .inf n := by
  obtain ⟨hlt, hdec⟩ := decode_encode_over (f := fmtF32) (neg := n) rfl (by decide) hm0 (by rwa [topExp_f32]) rfl hm
    (by rwa [qmin_f32])
  rwa [← f32_ofNat hlt] at hdec

theorem f32_canonNan : f32 canonNan = .nan := by decide

theorem f32_f32Inf (n : Bool) : f32 (f32Inf n) = .inf n := by
  cases n
  · decide
  · decide

/-- The magnitude code of an F19, as an F32's, is the same magnitude's. -/
theorem magnitude_f19_as_f32 (g : Nat) :
    fmtF32.magnitude (g * 2 ^ 13) = ((fmtF19.magnitude g).1 * 2 ^ 13, (fmtF19.magnitude g).2 - 13) := by
  have hE : g * 2 ^ 13 / 2 ^ 23 = g / 2 ^ 10 := by omega
  have hM : g * 2 ^ 13 % 2 ^ 23 = g % 2 ^ 10 * 2 ^ 13 := by omega
  unfold Fmt.magnitude
  dsimp only
  rw [qmin_f32, qmin_f19, show fmtF32.mb = 23 from rfl, show fmtF19.mb = 10 from rfl, hE, hM]
  split
  · rfl
  · ext
    · show 2 ^ 23 + g % 2 ^ 10 * 2 ^ 13 = (2 ^ 10 + g % 2 ^ 10) * 2 ^ 13
      omega
    · show (-149 : Int) + (g / 2 ^ 10 : Nat) - 1 = -136 + (g / 2 ^ 10 : Nat) - 1 - 13
      omega

/-- The bits of a finite F19, as an F32's, are the same value's. -/
theorem decode_f19_as_f32 {c q : Nat} {n : Bool} {qe : Int} (h : fmtF19.decode c = .fin n q qe) :
    fmtF32.decode (c * 2 ^ 13) = .fin n (q * 2 ^ 13) (qe - 13) := by
  have hneg : c * 2 ^ 13 / 2 ^ 31 % 2 = c / 2 ^ 18 % 2 := by omega
  have hmag : c * 2 ^ 13 % 2 ^ 31 = c % 2 ^ 18 * 2 ^ 13 := by omega
  unfold Fmt.decode at h ⊢
  dsimp only at h ⊢
  rw [show fmtF19.eb + fmtF19.mb = 18 from rfl, show fmtF19.maxCode = 255 * 2 ^ 10 - 1 by decide] at h
  rw [show fmtF32.eb + fmtF32.mb = 31 from rfl, show fmtF32.maxCode = 255 * 2 ^ 23 - 1 by decide, hneg, hmag, magnitude_f19_as_f32]
  split at h
  · rename_i hle
    injection h with hn hm he
    rw [if_pos (by omega), hn, hm, he]
  · split at h
    · cases h
    · cases h

/-- A value of up to 11 bits that an F32 holds is an F19's. -/
theorem f32ToF19_exact {mode : Rnd} {w : W32} {n : Bool} {m m₀ : Nat} {e e₀ : Int} (hmode : mode = .rne ∨ mode = .rtz)
    (hw : f32 w = .fin n m e) (h : mag m e = mag m₀ e₀) (hm₀ : m₀ < 2 ^ 11) (he₀ : -136 ≤ e₀)
    (htop : m₀ = 0 ∨ e₀ + bitLen m₀ ≤ 128) :
    (f32ToF19 mode w).1.toNat % 2 ^ 13 = 0 ∧ (f32 (f32ToF19 mode w).1).same (.fin n m₀ e₀) := by
  have htop' : m = 0 ∨ e + bitLen m ≤ topExp fmtF19 := by
    rw [topExp_f19, or_iff_not_imp_left]
    intro hm
    rw [leading_eq hm h]
    exact htop.resolve_left fun h0 => hm (mag_eq_zero_iff.mp (h.trans (mag_eq_zero_iff.mpr h0)))
  obtain ⟨hlt, q, qe, hdec, hq⟩ := decode_encode (f := fmtF19) (sat := false) (neg := n) rfl (by decide) hmode htop' h hm₀
    (by rwa [qmin_f19])
  have hw19 : (f32ToF19 mode w).1 = BitVec.ofNat 32 ((fmtF19.encode mode false n m e).1 * 2 ^ 13) := by
    simp only [f32ToF19, hw]
  generalize (fmtF19.encode mode false n m e).1 = c at hlt hdec hw19
  have hc : c * 2 ^ 13 < 2 ^ fmtF32.width := by
    have : c < 2 ^ 19 := hlt
    show c * 2 ^ 13 < 2 ^ 32
    omega
  rw [hw19]
  refine ⟨?_, ?_⟩
  · rw [BitVec.toNat_ofNat]
    omega
  · rw [f32_ofNat hc, decode_f19_as_f32 hdec, same_fin_iff]
    have hs := mag_scale q (e := qe) (f := qe - 13) (by omega)
    rw [show (qe - (qe - 13)).toNat = 13 by omega] at hs
    exact ⟨rfl, hs.trans (hq.trans h)⟩

/-- An F16 widened and narrowed to an F19 container keeps its value. -/
theorem f19_of_f16 {h : Nat} {mode : Rnd} (hmode : mode = .rne ∨ mode = .rtz) :
    (f32ToF19 mode (f16ToF32 h).1).1.toNat % 2 ^ 13 = 0 ∧ (f32 (f32ToF19 mode (f16ToF32 h).1).1).same (fmtF16.decode h) ∧
      (fmtF16.decode h = .nan → (f32ToF19 mode (f16ToF32 h).1).1 = canonNan) := by
  cases hd : fmtF16.decode h with
  | nan =>
    have hw : (f32ToF19 mode (f16ToF32 h).1).1 = canonNan := by simp only [f16ToF32, hd, f32ToF19, f32_canonNan]
    rw [hw, f32_canonNan]
    exact ⟨by decide, trivial, fun _ => rfl⟩
  | inf n =>
    have hw : (f32ToF19 mode (f16ToF32 h).1).1 = f32Inf n := by simp only [f16ToF32, hd, f32Of, f32ToF19, f32_f32Inf]
    rw [hw, f32_f32Inf]
    refine ⟨?_, rfl, fun h => by cases h⟩
    cases n
    · decide
    · decide
  | fin n m e =>
    obtain ⟨hm, he, he'⟩ := decode_fin hd
    rw [qmin_f16] at he he'
    have he'' : e < -24 + 2 ^ 5 := he'
    have hlen : bitLen m ≤ 11 := bitLen_le_iff.mpr hm
    have hm' : m < 2 ^ 11 := hm
    obtain ⟨q, qe, hq, hmag⟩ := f32_f32Encode (mode := .rne) (n := n) (.inl rfl) (show m < 2 ^ 24 by omega) (show -149 ≤ e by omega)
      (.inr (by omega))
    have hw : (f16ToF32 h).1 = (f32Encode .rne n m e).1 := by simp only [f16ToF32, hd, f32Of]
    obtain ⟨hlow, hsame⟩ := f32ToF19_exact hmode (hw ▸ hq) hmag hm' (by omega) (.inr (by omega))
    exact ⟨hlow, hsame, fun h => by cases h⟩

/-! ### Block elements (R51, R52) -/

section

variable {fmt : Nat} (h1 : 1 ≤ fmt) (h5 : fmt ≤ 5)
include h1 h5

theorem blockFmt_mb : (blockFmt fmt).mb ≤ 3 := by
  interval_cases fmt
  all_goals decide

theorem blockFmt_qmin : -16 ≤ (blockFmt fmt).qmin := by
  interval_cases fmt
  all_goals decide

/-- A finite element, scaled by 2^(X − 127), is a value of up to four bits no finer than an F32's subnormal spacing. -/
theorem block_fin {code m : Nat} {n : Bool} {e : Int} (hd : (blockFmt fmt).decode code = .fin n m e) (X : Nat) :
    m < 2 ^ 24 ∧ -149 ≤ e + X - 127 := by
  obtain ⟨hm, he, -⟩ := decode_fin hd
  have hmb : 2 ^ ((blockFmt fmt).mb + 1) ≤ 2 ^ 24 := Nat.pow_le_pow_right (by decide) (by have := blockFmt_mb h1 h5; omega)
  have hq := blockFmt_qmin h1 h5
  exact ⟨by omega, by omega⟩

end

theorem blockToF32_nan (fmt code : Nat) : (blockToF32 fmt 255 code).1 = canonNan := rfl

theorem blockToF32_scaled {fmt X code : Nat} (hX : X < 255) : (blockToF32 fmt X code).1 =
    match (blockFmt fmt).decode code with
    | .nan => canonNan
    | .inf n => f32Inf n
    | .fin n m e => (f32Encode .rne n m (e + X - 127)).1 := by
  unfold blockToF32
  rw [if_neg (by omega)]
  cases (blockFmt fmt).decode code
  all_goals rfl

/-- An element's value as a matrix operand takes it: a significand brought to 11 bits, and the unbiased exponent with the scale (R57). -/
def operandFp (mb X : Nat) : Fp → Fp
  | .fin n m e => .fin n (m * 2 ^ (10 - mb)) (e + mb + X - 127)
  | v => v

theorem mmaOperand_nan {fmt : Nat} {rne : Bool} {w : W32} (h1 : 1 ≤ fmt) (hX : w.toNat / 256 % 256 = 255) :
    mmaOperand fmt rne w = .nan := by
  simp only [mmaOperand, if_neg (show fmt ≠ 0 by omega), if_pos hX]

theorem mmaOperand_scaled {fmt : Nat} {rne : Bool} {w : W32} (h1 : 1 ≤ fmt) (hX : w.toNat / 256 % 256 < 255) :
    mmaOperand fmt rne w =
      operandFp (blockFmt fmt).mb (w.toNat / 256 % 256) ((blockFmt fmt).decode (w.toNat % 2 ^ (blockFmt fmt).width)) := by
  simp only [mmaOperand, if_neg (show fmt ≠ 0 by omega), if_neg (show w.toNat / 256 % 256 ≠ 255 by omega)]
  cases (blockFmt fmt).decode (w.toNat % 2 ^ (blockFmt fmt).width)
  all_goals rfl

/-- The operand's significand stands ten bits above its exponent. -/
theorem mag_operand {m mb X : Nat} {e : Int} (hmb : mb ≤ 10) :
    mag (m * 2 ^ (10 - mb)) (e + mb + X - 127 - 10) = mag m (e + X - 127) := by
  have h := mag_scale m (e := e + X - 127) (f := e + mb + X - 127 - 10) (by omega)
  rwa [show (e + X - 127 - (e + mb + X - 127 - 10)).toNat = 10 - mb by omega] at h

/-- Settles O8: each conversion is exact, for its values lie on the grid of the format that they go to. -/
theorem formatConversions : Obligations.FormatConversions := by
  refine ⟨fun h mode _ hmode => f19_of_f16 hmode, fun fmt X code h1 h5 => ⟨blockToF32_nan fmt code, fun hX => ?_⟩,
    fun fmt rne w h1 h5 => ⟨fun hX => ?_, fun hX => ?_⟩⟩
  · rw [blockToF32_scaled hX]
    cases hd : (blockFmt fmt).decode code with
    | nan => rfl
    | inf n => exact f32_f32Inf n
    | fin n m e =>
      obtain ⟨hm, he⟩ := block_fin h1 h5 hd X
      refine ⟨fun htop => ?_, fun hm0 htop => f32_f32Encode_over hm0 hm he htop⟩
      obtain ⟨q, qe, hq, hmag⟩ := f32_f32Encode (n := n) (.inl rfl) hm he htop
      show (f32 (f32Encode .rne n m (e + X - 127)).1).same _
      rw [hq, same_fin_iff]
      exact ⟨rfl, hmag⟩
  · exact mmaOperand_nan h1 hX
  · rw [mmaOperand_scaled h1 hX]
    cases hd : (blockFmt fmt).decode (w.toNat % 2 ^ (blockFmt fmt).width) with
    | nan => rfl
    | inf n => rfl
    | fin n m e => exact ⟨_, _, rfl, same_fin_iff.mpr ⟨rfl, mag_operand (by have := blockFmt_mb h1 h5; omega)⟩⟩

end Sys2Proof.Proofs
end

section
/-! PROOFS. Reductions: the row that one writes, lane by lane, and what it leaves in its context. -/

namespace Sys2Proof.Proofs

open Sys2Proof Sys2Proof.Machine Sys2Proof.Laws

/-! ### The lanes of a row, one by one -/

/-- A map over the numbered lanes of a row is one over the lanes' numbers. -/
theorem map_zipIdx_lanes {α : Type} (r : Row) (g : Ln × Nat → α) :
    r.lanes.zipIdx.map g = (List.range 32).map fun j => g ((r.lane j, r.mark j), j) :=
  List.ext_getElem (by simp) fun j _ _ => by simp [Row.lanes]

theorem lane_ofLanes_map (g : Nat → Ln) {j : Nat} (h : j < 32) : (Row.ofLanes ((List.range 32).map g)).lane j = (g j).1 := by
  rw [lane_ofLanes _ (0, false) (by simp) j h]
  simp [List.getD_eq_getElem?_getD, h]

theorem mark_ofLanes_map (g : Nat → Ln) {j : Nat} (h : j < 32) :
    (Row.ofLanes ((List.range 32).map g)).mark j = ((g (2 * (j / 2))).2 || (g (2 * (j / 2) + 1)).2) := by
  have h0 : 2 * (j / 2) < 32 := by omega
  have h1 : 2 * (j / 2) + 1 < 32 := by omega
  rw [mark_ofLanes _ (0, false) (by simp) j h]
  simp [List.getD_eq_getElem?_getD, h0, h1]

theorem column_map {n : Nat} (g : Nat → Nat → Ln) {j : Nat} (h : j < n) :
    column ((List.range n).map fun r => (List.range n).map (g r)) j = (List.range n).map fun r => g r j := by
  simp [column, List.getD_eq_getElem?_getD, h]

/-! ### Reductions (R67, R95, R126) -/

section

variable (x : Ctx) (o : RedOp) (f : RedF)

/-- What lane `r` of a reduction comes to: the tree's result with its events. -/
def redLane (r : Nat) : W32 × Ev := redTree o x.rnd f.ty.toNat ((x.redSlots o f r).map (·.1))

/-- The row that a reduction writes. -/
def redRow : Row :=
  Row.ofLanes ((List.range 32).map fun r => ((redLane x o f r).1, (x.redSlots o f r).any (·.2) || x.maskPoison f.pred))

/-- The events of a reduction. -/
def redEvents : Ev := (List.range 32).foldl (fun e r => e ||| (redLane x o f r).2) 0

/-- The sets of slots that a reduction takes, one for each lane: the tile's rows, or its columns (R95). -/
theorem red_sets :
    (let src := if f.src.toNat = 0x20 then fwdCode x.imem true x.pc else f.src.toNat
     let cell := fun (j : Nat) (l : Ln) => if x.mask f.pred f.pneg j then l else (redIdentity o f.ty.toNat, false)
     let rows := (List.range 32).map fun r => (x.regRow src r).lanes.zipIdx.map fun p => cell p.2 p.1
     if f.axis = 0 then rows else (List.range 32).map (column rows)) = (List.range 32).map (x.redSlots o f) := by
  simp only [map_zipIdx_lanes]
  by_cases ha : f.axis = 0
  · rw [if_pos ha]
    exact List.map_congr_left fun r _ => by simp only [if_pos ha, Ctx.redSlots]
  · rw [if_neg ha]
    refine List.map_congr_left fun j hj => ?_
    rw [column_map _ (List.mem_range.mp hj)]
    simp only [if_neg ha, Ctx.redSlots]

/-- A reduction writes DST and adds its events. -/
theorem red_eq : x.red o f = (x.setVReg f.dst.toNat (redRow x o f)).lateEv (redEvents x o f) := by
  have hsets := red_sets x o f
  unfold Ctx.red
  dsimp only at hsets ⊢
  rw [hsets]
  simp only [List.map_map, List.foldl_map, redRow, redEvents, redLane, Function.comp_def]

end

theorem exec_red {o : RedOp} {u : Nat} {f : RedF} {s : State} :
    exec (o.cmd u f) s = issueCtx u (.red o f) (fun x => x.redUse f) (fun x => x.red o f) s := by
  cases o
  all_goals rfl

/-- An instruction that writes one V register and adds events, as its context stands after its end. -/
theorem advance_lateEv_setVReg {x y z : Ctx} {c : Nat} {r : Row} {e : Ev} (hy : y = ({ x with waitTo := none }.setVReg c r).lateEv e)
    (hz : z = y.advance) :
    x.advanced z ∧ z.vReg c = r ∧ z.late = x.late ||| e ∧ (∀ k, k ≠ c → z.vReg k = x.vReg k) ∧
      (∀ k i, z.tRow k i = x.tRow k i) ∧
      z = { x with v := z.v, late := z.late, pc := z.pc, l := z.l, waitTo := none } := by
  obtain ⟨hl, hpc⟩ := advance_congr y x (by rw [hy]; rfl) (by rw [hy]; rfl) (by rw [hy]; rfl)
  have hrest := advance_rest y
  rw [← hz] at hl hpc hrest
  subst hy
  have hv : z.v = (x.setVReg c r).v := by rw [hrest]; rfl
  refine ⟨⟨hpc, hl⟩, ?_, by rw [hrest]; rfl, fun k hk => ?_, fun k i => by rw [hrest]; rfl, by rw [hrest]; rfl⟩
  · rw [Ctx.vReg, hv]
    exact get_set_same _ _ _ _
  · rw [Ctx.vReg, hv]
    exact get_set_ne _ _ _ hk

/-- Settles O14: the reduction's row, lane by lane, in a context that is otherwise as it was. -/
theorem reductionLanes : Obligations.ReductionLanes := by
  intro o u k f s hi hw
  obtain ⟨t, hex, honly, ht⟩ := issueCtx_go (use := fun x => x.redUse f) (f := fun x => x.red o f) hi hw
  obtain ⟨hadv, hdst, hlate, hother, htile, hrest⟩ := advance_lateEv_setVReg (red_eq (issued s u k) o f) ht
  refine ⟨t, exec_red.trans hex, honly, hadv, fun r hr => ?_, fun r hr => ?_, hlate, fun c i hc _ => ?_, hrest⟩
  · rw [hdst, redRow, lane_ofLanes_map _ hr]
    rfl
  · rw [hdst, redRow, mark_ofLanes_map _ hr]
    exact (sup_sup_distrib_right (α := Bool) _ _ _).symm
  · unfold Ctx.regRow
    split
    · exact hother c hc
    · exact htile _ i

end Sys2Proof.Proofs
end

section
/-! PROOFS. The end of an mma's shift: the accumulator's rows, one by one, and the array that it leaves free. -/

namespace Sys2Proof.Proofs

open Sys2Proof Sys2Proof.Machine Sys2Proof.Laws

/-! ### The rows of one shift (R59–R61, R83, R84) -/

section

variable (x : Ctx) (f : MmaF) (rows : List Row) (n : Nat)

/-- What a shift makes of the accumulator's element in row `i` and column `j`: an element outside the n columns stays. -/
def shiftCell (i j : Nat) (old : Ln) : Ln × Ev :=
  if j < f.n then
    mmaCell (operandRow f.afmt.toNat (f.aconv == 1) (x.aRows f rows i))
      ((List.range 32).map fun kk => operandRow f.bfmt.toNat (f.bconv == 1) (x.tRow f.b.toNat kk)) j f.k (f.groups n)
      (if f.zc == 1 && n == 0 then (0, false) else old)
  else (old, 0)

/-- What a shift makes of the accumulator's row `i`. -/
def shiftRow (i : Nat) (old : Row) : Row :=
  Row.ofLanes ((List.range 32).map fun j => (shiftCell x f rows n i j (old.lane j, old.mark j)).1)

/-- One row of a shift: it is written, and its events are recorded. -/
def shiftStep (y : Ctx) (i : Nat) : Ctx :=
  let old := y.tRow f.c.toNat i
  (y.setTRow f.c.toNat i (shiftRow x f rows n i old)).flagEv
    ((List.range 32).foldl (fun e j => e ||| (shiftCell x f rows n i j (old.lane j, old.mark j)).2) 0)

theorem mmaShift_eq (m : Nat) : x.mmaShift f rows m n = (List.range m).foldl (shiftStep x f rows n) x := by
  unfold Ctx.mmaShift
  simp only [map_zipIdx_lanes, List.map_map, List.foldl_map, Function.comp_def]
  rfl

/-- The context is as it was but for the T registers and ASTAT. -/
def TileOnly (x y : Ctx) : Prop := y = { x with t := y.t, astat := y.astat }

theorem TileOnly.trans {x y z : Ctx} (h : TileOnly x y) (k : TileOnly y z) : TileOnly x z :=
  Eq.trans k (by conv_lhs => rw [show y = _ from h])

theorem flagEv_setTRow_tileOnly (y : Ctx) (c i : Nat) (r : Row) (e : Ev) : TileOnly y ((y.setTRow c i r).flagEv e) := rfl

theorem tRow_flagEv (y : Ctx) (e : Ev) (c i : Nat) : (y.flagEv e).tRow c i = y.tRow c i := rfl

/-- A shift changes the accumulator's rows below m, each from what it held, and leaves every other row; the context is otherwise as it
was. -/
theorem mmaShift_rows {m : Nat} (hm : m ≤ 32) :
    TileOnly x (x.mmaShift f rows m n) ∧ ∀ c i, i < 32 → (x.mmaShift f rows m n).tRow c i =
      if c = f.c.toNat ∧ i < m then shiftRow x f rows n i (x.tRow c i) else x.tRow c i := by
  rw [mmaShift_eq]
  induction m with
  | zero => exact ⟨rfl, fun c i _ => by simp⟩
  | succ m ih =>
    obtain ⟨hrest, hrows⟩ := ih (by omega)
    rw [List.range_succ, List.foldl_append, List.foldl_cons, List.foldl_nil]
    generalize (List.range m).foldl (shiftStep x f rows n) x = y at hrest hrows ⊢
    refine ⟨hrest.trans (flagEv_setTRow_tileOnly _ _ _ _ _), fun c i hi => ?_⟩
    unfold shiftStep
    rw [tRow_flagEv, tRow_setTRow _ _ _ _ _ _ (by omega) hi, hrows _ m (by omega), hrows c i hi]
    by_cases hc : c = f.c.toNat
    · obtain him | him | him := Nat.lt_trichotomy i m
      · simp [hc, him, show i ≠ m by omega, show i < m + 1 by omega]
      · simp [hc, him]
      · simp [hc, show i ≠ m by omega, show ¬ i < m by omega, show ¬ i < m + 1 by omega]
    · simp [hc]

end

/-! ### The array after its last shift (R83, R88, R106) -/

theorem takeSaved_eq_none {x : Ctx} (hr : x.rem = none) (hq : x.que = none) : x.takeSaved = none := by
  simp [Ctx.takeSaved, hr, hq]

/-- An ended context with nothing that waits has nothing to take. -/
theorem takeSaved_of_endedWaiting {c : Cu} {j : Nat} (h : c.endedWaiting = false) (hj : j < 4) (hd : (c.ctxAt j).st = .done) :
    (c.ctxAt j).takeSaved = none := by
  have hs := List.any_eq_false.mp h j (List.mem_range.mpr hj)
  simp only [hd, Ctx.savedRuns, beq_self_eq_true, Bool.true_and, Bool.not_eq_true', Bool.not_eq_false, List.isEmpty_iff,
    List.append_eq_nil_iff, Option.toList_eq_nil_iff] at hs
  obtain ⟨⟨hr, hq⟩, -⟩ := hs
  exact takeSaved_eq_none hr hq

/-- Where neither an ended context nor the active one has an mma that waits, none takes a free place. -/
theorem fillPlace_none {c : Cu} (hend : ∀ j, j < 4 → (c.ctxAt j).st = .done → (c.ctxAt j).takeSaved = none)
    (hact : ∀ k, c.active = some k → (c.ctxAt k).takeSaved = none) : c.fillPlace = c := by
  have hd : ((List.range 4).findSome? fun k => if (c.ctxAt k).st = .done then
      (c.ctxAt k).takeSaved.map fun z => (z.1, c.setCtx k z.2) else none) = none := by
    rw [List.findSome?_eq_none_iff]
    intro j hj
    split
    · rename_i h
      rw [hend j (List.mem_range.mp hj) h]
      rfl
    · rfl
  have ha : (c.active.bind fun k => (c.ctxAt k).takeSaved.map fun z => (z.1, c.setCtx k z.2)) = none := by
    cases h : c.active with
    | none => rfl
    | some k => simp [hact k h]
  have hs : c.takeSaved = none := by
    unfold Cu.takeSaved
    dsimp only
    rw [hd, ha]
  unfold Cu.fillPlace
  rw [hs]
  split
  · rfl
  · rfl

/-- With an empty array and nothing that takes its place, nothing moves up. -/
theorem promote_none {c : Cu} (ha : c.arr = none) (hq : c.que = none) (hf : c.fillPlace = c) : c.promote = c := by
  unfold Cu.promote
  rw [ha, hq]
  dsimp only
  rw [hf, hf]

/-- An empty array takes no token. -/
theorem pumpMma_none {s : State} {u : Nat} (h : (s.cu u).arr = none) : s.pumpMma u = s := by
  unfold State.pumpMma
  dsimp only
  rw [h]

/-- The end of the one shift of an mma whose context runs on, with nothing that waits for the array, frees the array. -/
theorem execShiftEnd_last {s : State} {u k : Nat} {f : MmaF} (harr : (s.cu u).arr = some ⟨k, f, none, 0, [], none⟩) (ha : f.asrc = 0)
    (hs : f.shifts = 1) (hq : (s.cu u).que = none) (hact : (s.cu u).active = some k) (hst : (s.cx u k).st = .active)
    (hrem : (s.cx u k).rem = none) (hque : (s.cx u k).que = none) (hend : (s.cu u).endedWaiting = false) :
    execShiftEnd u s = .next (s.setCu u { (s.cu u).setCtx k ((s.cx u k).mmaShift f [] f.m 0) with arr := none }) := by
  have hx : TileOnly _ _ := (mmaShift_rows (s.cx u k) f [] 0 (m := f.m) f.mm1.isLt).1
  have hshift : (s.cx u k).runShift ⟨k, f, none, 0, [], none⟩ = (s.cx u k).mmaShift f [] f.m 0 := rfl
  generalize (s.cx u k).mmaShift f [] f.m 0 = y at hx hshift ⊢
  have hyst : y.st = .active := by rw [hx]; exact hst
  have hy : y.takeSaved = none := takeSaved_eq_none (by rw [hx]; exact hrem) (by rw [hx]; exact hque)
  generalize hc : ({ (s.cu u).setCtx k y with arr := none } : Cu) = c
  have hctx : ∀ j, c.ctxAt j = if j = k then y else (s.cu u).ctxAt j := by
    intro j
    rw [← hc]
    exact ctxAt_setCtx _ _ _ _
  have hfill : c.fillPlace = c := by
    refine fillPlace_none (fun j hj hd => ?_) fun i hi => ?_
    · rw [hctx] at hd ⊢
      split at hd
      · simp [hyst] at hd
      · rename_i hjk
        rw [if_neg hjk]
        exact takeSaved_of_endedWaiting hend hj hd
    · obtain rfl : k = i := Option.some.inj (hact.symm.trans (by rw [← hi, ← hc]; rfl))
      rw [hctx, if_pos rfl, hy]
  have hcarr : c.arr = none := by rw [← hc]
  have hprom : c.promote = c := promote_none hcarr (by rw [← hc]; exact hq) hfill
  have hpump : (s.setCu u c).pumpMma u = s.setCu u c := pumpMma_none (by rw [cu_setCu_same, hcarr])
  have hfq : f.fromQ = false := by simp [MmaF.fromQ, ha]
  have hlast : MmaRun.last ⟨k, f, none, 0, [], none⟩ = true := by simp [MmaRun.last, hs]
  have hrun : ¬ (c.ctxAt k).st = .ready := by simp [hctx, hyst]
  have hnone : c.arr.isNone = true := by rw [hcarr]; rfl
  unfold execShiftEnd
  dsimp only
  rw [harr]
  dsimp only
  rw [hfq, hlast, ← State.cx, hshift, Bool.false_and, Bool.false_and, if_neg Bool.false_ne_true, if_pos rfl, hc, if_neg hrun,
    if_pos hnone, hprom, hpump]

/-- Settles O24: the accumulator row by row and element by element, in a unit whose array is then free. -/
theorem shiftWritesAccumulator : Obligations.ShiftWritesAccumulator := by
  intro u k f s harr ha hs _ _ hq hact hst hrem hque hend
  obtain ⟨hrest, hrows⟩ := mmaShift_rows (s.cx u k) f [] 0 (m := f.m) f.mm1.isLt
  have hex := execShiftEnd_last harr ha hs hq hact hst hrem hque hend
  generalize (s.cx u k).mmaShift f [] f.m 0 = y at hrest hrows hex
  generalize ht : s.setCu u { (s.cu u).setCtx k y with arr := none } = t at hex
  have hcu : t.cu u = { (s.cu u).setCtx k y with arr := none } := by rw [← ht, cu_setCu_same]
  have hcx : t.cx u k = y := by
    rw [State.cx, hcu]
    exact ctxAt_setCtx_same _ _ _
  refine ⟨t, hex, by rw [← ht]; rfl, fun v hv => by rw [← ht, cu_setCu, if_neg hv], by rw [hcu], ?_, ?_, by rw [hcx]; exact hrest⟩
  · rw [hcx]
    refine ⟨fun i j hi hj => ?_, fun i j hi hj hout => ?_⟩
    · rw [hrows _ i (by have := f.mm1.isLt; unfold MmaF.m at hi; omega), if_pos ⟨rfl, hi⟩, shiftRow,
        lane_ofLanes_map _ (by have := f.nm1.isLt; unfold MmaF.n at hj; omega), shiftCell, if_pos hj]
      simp [Ctx.aRows, MmaF.fromQ, ha]
    · rw [hrows _ i hi]
      split
      · rw [shiftRow, lane_ofLanes_map _ hj, shiftCell, if_neg (by omega)]
      · rfl
  · intro c i hc hi
    rw [hcx]
    unfold Ctx.regRow
    split
    · rw [Ctx.vReg, hrest]
      rfl
    · rw [hrows _ i hi, if_neg (by omega)]

end Sys2Proof.Proofs
end

section
/-! PROOFS. A compare-and-count: its only row, from the scratchpad to the result that it delivers, and what it counts. -/

namespace Sys2Proof.Proofs

open Sys2Proof Sys2Proof.Machine Sys2Proof.Laws

variable {s t v : State} {m e : Nat}

/-! ### What the counters of a read leave alone (R451, R467, R525) -/

/-- Only registers, the error log and the regions differ. -/
def Tallied (s t : State) : Prop := t = { s with regs := t.regs, log := t.log, rgns := t.rgns }

theorem Tallied.refl : Tallied s s := rfl

theorem Tallied.trans (h : Tallied s t) (k : Tallied t v) : Tallied s v := Eq.trans k (by conv_lhs => rw [show t = _ from h])

theorem ite_tallied {c : Prop} [Decidable c] {a b : State} (ha : Tallied s a) (hb : Tallied s b) : Tallied s (if c then a else b) := by
  split
  · exact ha
  · exact hb

theorem countErr_tallied {src k} : Tallied s (s.countErr src k) := ite_tallied rfl .refl

theorem logRec_tallied {src kind synd whr own} : Tallied s (s.logRec src kind synd whr own) := ite_tallied rfl rfl

theorem addCtr_tallied {r w p n} : Tallied s (s.addCtr r w p n) := rfl

theorem addUnitCtr_tallied {u w p n} : Tallied s (s.addUnitCtr u w p n) := by
  unfold State.addUnitCtr
  split
  · exact addCtr_tallied
  · exact .refl

theorem progressAt_tallied {u} : Tallied s (s.progressAt u) := by
  unfold State.progressAt
  split
  · rfl
  · exact .refl

theorem countWord_tallied {src u poi whr own} : Tallied s (s.countWord src u poi whr own) := by
  unfold State.countWord
  extract_lets ecc
  have he : ∀ t p, Tallied t (ecc t p) := by
    intro t p
    unfold ecc
    split
    · exact addCtr_tallied
    · exact .refl
  exact ite_tallied (countErr_tallied.trans (he _ 0)) (ite_tallied (countErr_tallied.trans (he _ 0))
    (ite_tallied ((countErr_tallied.trans logRec_tallied).trans (he _ 1)) (ite_tallied (countErr_tallied.trans (he _ 1)) .refl)))

theorem decodeSpad_tallied {o n} : Tallied s (s.decodeSpad m o n) :=
  foldl_keeps (Tallied s) _ _ _ (ite_tallied .refl addUnitCtr_tallied) fun _ _ h => h.trans countWord_tallied

/-! ### A scratchpad row written (R154) -/

theorem addUnitCtr_rest (s : State) (u w p n : Nat) : s.addUnitCtr u w p n = { s with rgns := (s.addUnitCtr u w p n).rgns } := by
  unfold State.addUnitCtr
  split
  · rfl
  · rfl

/-- A granted write is counted and may mark the output rows of requests. -/
theorem spadWritten_rest (s : State) (m o n : Nat) :
    s.spadWritten m o n = { s with rgns := (s.spadWritten m o n).rgns, feed := (s.spadWritten m o n).feed } := by
  obtain ⟨g, hq⟩ : ∃ g, (if n = 0 then s else s.addUnitCtr m 5 0 n) = { s with rgns := g } := by
    split
    · exact ⟨s.rgns, rfl⟩
    · exact ⟨_, addUnitCtr_rest _ _ _ _ _⟩
  unfold State.spadWritten
  dsimp only
  rw [hq]
  split
  · rfl
  · rfl

theorem writeSpadRow_mem (s : State) (m n : Nat) (r : Row) : (s.writeSpadRow m n r).mem = (s.putSpadRow m (128 * n) r fullMask).mem := by
  rw [State.writeSpadRow, spadWritten_rest]

theorem writeSpadRow_mus (s : State) (m n : Nat) (r : Row) : (s.writeSpadRow m n r).mus = s.mus := by
  rw [State.writeSpadRow, spadWritten_rest]
  rfl

theorem putSpadRow_mem_congr {o : Nat} {r : Row} {mask : BitVec 16} (h : t.mem = s.mem) :
    (t.putSpadRow m o r mask).mem = (s.putSpadRow m o r mask).mem := by
  simp [State.putSpadRow, State.updMem, h]

/-! ### The engine in hand -/

theorem eng_congr (h : t.mus = s.mus) : t.eng m e = s.eng m e := by
  unfold State.eng State.mu
  rw [h]

theorem eng_updEng {f} : (s.updEng m e f).eng m e = f (s.eng m e) := by simp [State.eng, updEng_eq]

theorem eng_updMu {f} : (s.updMu m f).eng m e = (f (s.mu m)).engAt e := by simp [State.eng, updMu_eq]

theorem mu_updEng {f} : (s.updEng m e f).mu m = (s.mu m).setEng e (f (s.eng m e)) := by simp [State.eng, updEng_eq]

theorem Tallied.eng (h : Tallied s t) : t.eng m e = s.eng m e := by rw [h]; rfl

/-- An engine without rows in flight, which can send no token, forms its next row. -/
theorem engMove_forms (hj : (s.eng m e).jobs = []) (hw : (s.eng m e).wq = []) (ho : s.settleOut m e = none) :
    s.engMove m e = s.formNext m e := by
  have h1 : s.settleWrite m e = none := by simp [State.settleWrite, hj]
  have h2 : s.settleRead m e = none := by simp [State.settleRead, hj]
  have h3 : s.sendWrite m e = none := by simp [State.sendWrite, State.nextWrite, hw]
  simp only [State.engMove, h1, ho, h2, h3]

theorem atOnlyRow_outbuf {g : Eng} {a : Nat} {d : Desc} (h : g.atOnlyRow a d) : g.outbuf = [] := by
  obtain ⟨-, -, -, -, -, -, hout, -⟩ := h
  exact hout

theorem settleOut_empty (h : (s.eng m e).outbuf = []) : s.settleOut m e = none := by simp [State.settleOut, h]

theorem formNext_none (h : (s.eng m e).desc = none) : s.formNext m e = (s, false) := by simp [State.formNext, h]

/-- An engine that moves once, and then no more, runs to where that move leads. -/
theorem engRun_once {n : Nat} (h : s.engMove m e = (t, true)) (ht : t.engMove m e = (t, false)) : s.engRun m e (n + 2) = t := by
  simp [State.engRun, h, ht]

/-! ### The row of a compare-and-count (R166, R184) -/

/-- The row that the engine compares, as its bytes give it, with its events. -/
def cmpLoad (s : State) (m e : Nat) (d : Desc) (x : RowAddr) : Row × Ev :=
  loadRow d (s.spadBytes m (128 * winLo (s.eng m e).win + x.a.toNat) (dElemBytes d x.lanes)) [] x.lanes

/-- The reads of that row, counted. -/
def cmpRead (s : State) (m e : Nat) (d : Desc) (x : RowAddr) : State :=
  (s.decodeSpad m (128 * winLo (s.eng m e).win + x.a.toNat) (dElemBytes d x.lanes)).decodeSpad m
    (128 * winLo (s.eng m e).win + x.b.toNat) (dScaleBytes d)

theorem cmpRead_tallied {d x} : Tallied s (cmpRead s m e d x) := decodeSpad_tallied.trans decodeSpad_tallied

/-- The engine after a row of `n` lanes has been compared. -/
def cmpEng (d : Desc) (z : Row × Ev) (n : Nat) (g : Eng) : Eng :=
  { g with sstat := g.sstat ||| z.2, cmp := g.cmp.map fun c => c.row d (z.1.lanes.take n) }

/-- The only row of a compare-and-count is formed: its bytes are read, its lanes compared, and the row is counted. -/
theorem formNext_cmp {a : Nat} {d : Desc} {x : RowAddr} (hk : dKind d = 6) (hb : dBlock d = false) (hat : (s.eng m e).atOnlyRow a d)
    (hf : s.formRow m (s.eng m e) d 0 = .row x) (hx : 0 < x.lanes) :
    s.formNext m e = ((((cmpRead s m e d x).updEng m e (cmpEng d (cmpLoad s m e d x) x.lanes)).addRc m e 1).rowDone m e d, true) := by
  obtain ⟨hd, hst, hrow, hrows, hmark, hjobs, hout, -, -, -⟩ := hat
  have hscales : s.spadBytes m (128 * winLo (s.eng m e).win + x.b.toNat) (dScaleBytes d) = [] := by simp [dScaleBytes, hb, State.spadBytes]
  have hahead : (s.eng m e).fillsAhead = false := by simp [Eng.fillsAhead, hjobs]
  have hfree : (s.eng m e).outFree d = true := by simp [Eng.outFree, hjobs, hout, outRoom]
  have htakes : ¬ dTakes d = true := by simp [dTakes, hk]
  have hdev : ¬ dFromDev d = true := by simp [dFromDev, hk]
  have hlanes : x.lanes ≠ 0 := by omega
  unfold State.formNext
  dsimp only
  rw [hd]
  dsimp only
  rw [hst, hrow, hrows, hmark, hahead, hfree, hf]
  dsimp only
  rw [hk, if_neg (by decide), if_neg (by decide), if_neg (by simp), if_neg htakes, if_neg (by decide), if_neg hdev, if_neg (by decide),
    if_neg (by simp), if_neg hlanes, if_neg hlanes, hscales]
  rfl

/-! ### Its result (R163, R185) -/

/-- The unit is given up and the result delivered: as a token with END, or to its scratchpad row. -/
def cmpDeliver (s : State) (m e : Nat) (d : Desc) (r : Row) : State :=
  let q := s.updMu m fun x => { x with cmpOwner := none }
  if dRdst d then q.pushOut m e d ⟨r, true⟩ else q.writeSpadRow m (winLo (s.eng m e).win + dResrow d) r

/-- The descriptor leaves the engine, and with it the list where it is the last. -/
def closeDesc (s : State) (m e : Nat) (d : Desc) : State :=
  let s := s.updEng m e fun g => { g with desc := none, row := 0, passed0 := false, passed1 := false, cmp := none }
  if dLast d then s.updEng m e fun g => { g with started := false, queue := [], burst := none, burstAsk := none } else s

theorem endDesc_cmp {d : Desc} {c : CmpAcc} (hk : dKind d = 6) (hb : resBeyond (s.eng m e).win d = false) (hc : (s.eng m e).cmp = some c) :
    s.endDesc m e d = closeDesc (cmpDeliver s m e d c.result) m e d := by
  unfold State.endDesc
  dsimp only
  rw [hb, hc, show (dKind d == 6) = true by simp [hk], if_neg Bool.false_ne_true, if_neg (show ¬ dKind d = 4 by omega)]
  rfl

theorem closeDesc_rest (s : State) (m e : Nat) (d : Desc) : closeDesc s m e d = { s with mus := (closeDesc s m e d).mus } := by
  unfold closeDesc
  dsimp only
  split
  · rfl
  · rfl

theorem mu_setEng_cmpOwner {x : Mu} {g : Eng} : (x.setEng e g).cmpOwner = x.cmpOwner := rfl

theorem closeDesc_cmpOwner {d : Desc} : ((closeDesc s m e d).mu m).cmpOwner = (s.mu m).cmpOwner := by
  unfold closeDesc
  dsimp only
  split
  · simp only [mu_updEng, mu_setEng_cmpOwner]
  · simp only [mu_updEng, mu_setEng_cmpOwner]

theorem closeDesc_eng {d : Desc} :
    ((closeDesc s m e d).eng m e).desc = none ∧ ((closeDesc s m e d).eng m e).jobs = (s.eng m e).jobs ∧
    ((closeDesc s m e d).eng m e).wq = (s.eng m e).wq ∧ ((closeDesc s m e d).eng m e).outbuf = (s.eng m e).outbuf ∧
    ((closeDesc s m e d).eng m e).cnt = (s.eng m e).cnt := by
  unfold closeDesc
  dsimp only
  split
  · simp only [eng_updEng, and_self]
  · simp only [eng_updEng, and_self]

/-! ### The run of the command (R184, R185) -/

/-- The machine once the row has been formed, and before its result is delivered. -/
def cmpFormed (s : State) (m e : Nat) (d : Desc) (x : RowAddr) : State :=
  (((cmpRead s m e d x).updEng m e (cmpEng d (cmpLoad s m e d x) x.lanes)).addRc m e 1).nextRow m e

theorem addRc_one_eng : (s.addRc m e 1).eng m e = { s.eng m e with rc := ((s.eng m e).rc + 1) % 2 ^ 32 } := by
  rw [State.addRc, if_neg (by decide), progressAt_tallied.eng, eng_updEng]

theorem cmpFormed_eng {d : Desc} {x : RowAddr} : (cmpFormed s m e d x).eng m e =
    { cmpEng d (cmpLoad s m e d x) x.lanes (s.eng m e) with
      rc := ((s.eng m e).rc + 1) % 2 ^ 32, st := .run, row := (s.eng m e).row + 1 } := by
  rw [cmpFormed, State.nextRow, eng_updEng, addRc_one_eng, eng_updEng, cmpRead_tallied.eng]
  rfl

/-- The memory and the links stand as they did. -/
def SameWires (s t : State) : Prop := t.mem = s.mem ∧ t.fab = s.fab ∧ t.cfg = s.cfg

theorem Tallied.sameWires (h : Tallied s t) : SameWires s t := by
  rw [h]
  exact ⟨rfl, rfl, rfl⟩

theorem SameWires.trans (h : SameWires s t) (k : SameWires t v) : SameWires s v :=
  ⟨k.1.trans h.1, k.2.1.trans h.2.1, k.2.2.trans h.2.2⟩

theorem cmpFormed_sameWires {d : Desc} {x : RowAddr} : SameWires s (cmpFormed s m e d x) := by
  have hr : SameWires s (cmpRead s m e d x) := cmpRead_tallied.sameWires
  have hu : ∀ (q : State) (f : Eng → Eng), SameWires q (q.updEng m e f) := fun _ _ => ⟨rfl, rfl, rfl⟩
  have ha : ∀ q : State, SameWires q (q.addRc m e 1) := fun q => by
    rw [State.addRc, if_neg (by decide)]
    exact (hu _ _).trans progressAt_tallied.sameWires
  exact ((hr.trans (hu _ _)).trans (ha _)).trans (hu _ _)

theorem regionOf_congr (hc : t.cfg = s.cfg) (u : Nat) : t.regionOf u = s.regionOf u := by
  unfold State.regionOf
  rw [hc]

theorem SameWires.credit (h : SameWires s t) (link chan : Nat) : t.credit m link chan = s.credit m link chan := by
  obtain ⟨-, hf, hc⟩ := h
  have hfab : t.fabric = s.fabric := by
    funext u
    unfold State.fabric
    rw [hf]
  have hfen : t.fenced m link = s.fenced m link := by
    unfold State.fenced
    simp only [regionOf_congr hc]
  unfold State.credit State.capacity
  rw [hfab, hfen]

section

variable {a : Nat} {d : Desc} {x : RowAddr} {c : CmpAcc}

/-- What the counters come to with the row. -/
def cmpAfter (s : State) (m e : Nat) (d : Desc) (x : RowAddr) (c : CmpAcc) : CmpAcc := c.row d ((cmpLoad s m e d x).1.lanes.take x.lanes)

/-- The machine after a compare-and-count's only row. -/
def cmpDone (s : State) (m e : Nat) (d : Desc) (x : RowAddr) (c : CmpAcc) : State :=
  closeDesc (cmpDeliver (cmpFormed s m e d x) m e d (cmpAfter s m e d x c).result) m e d

/-- What delivery leaves of the engine: the token waits in its output buffer, or nothing does. -/
theorem cmpDeliver_eng {r : Row} :
    (cmpDeliver s m e d r).eng m e = (if dRdst d then { s.eng m e with
      outbuf := (s.eng m e).outbuf ++ [⟨r, true⟩], cnt := FMap.set 0 (s.eng m e).cnt 10 (4 * dLink d + dChan d) } else s.eng m e) := by
  unfold cmpDeliver
  dsimp only
  split
  · rw [State.pushOut, eng_updEng, eng_updMu]
    rfl
  · rw [eng_congr (writeSpadRow_mus _ _ _ _), eng_updMu]
    rfl

theorem cmpDeliver_cmpOwner {r : Row} : ((cmpDeliver s m e d r).mu m).cmpOwner = none := by
  unfold cmpDeliver
  dsimp only
  split
  · rw [State.pushOut, mu_updEng, mu_setEng_cmpOwner, updMu_eq, mu_setMu_same]
  · rw [State.mu, writeSpadRow_mus, ← State.mu, updMu_eq, mu_setMu_same]

theorem cmpDone_eng :
    ((cmpDone s m e d x c).eng m e).desc = none ∧ ((cmpDone s m e d x c).eng m e).jobs = (s.eng m e).jobs ∧
    ((cmpDone s m e d x c).eng m e).wq = (s.eng m e).wq ∧
    ((cmpDone s m e d x c).eng m e).outbuf =
      (s.eng m e).outbuf ++ (if dRdst d then [⟨(cmpAfter s m e d x c).result, true⟩] else []) ∧
    (dRdst d = true → count ((cmpDone s m e d x c).eng m e).cnt 10 = 4 * dLink d + dChan d) := by
  have hdel := cmpDeliver_eng (s := cmpFormed s m e d x) (m := m) (e := e) (d := d) (r := (cmpAfter s m e d x c).result)
  rw [cmpFormed_eng] at hdel
  obtain ⟨hdesc, hj, hw, ho, hn⟩ := closeDesc_eng (s := cmpDeliver (cmpFormed s m e d x) m e d (cmpAfter s m e d x c).result) (m := m)
    (e := e) (d := d)
  rw [← cmpDone] at hdesc hj hw ho hn
  rw [hdel] at hj hw ho hn
  refine ⟨hdesc, hj.trans ?_, hw.trans ?_, ho.trans ?_, fun hr => ?_⟩
  · split <;> rfl
  · split <;> rfl
  · split
    · rfl
    · exact (List.append_nil _).symm
  · rw [hn, if_pos hr]
    exact get_set_same _ _ _ _

/-- Delivered as a row, the result is the one change of the memory. -/
theorem cmpDone_mem_row (hr : dRdst d = false) : (cmpDone s m e d x c).mem =
    (s.writeSpadRow m (winLo (s.eng m e).win + dResrow d) (cmpAfter s m e d x c).result).mem := by
  have hq : ∀ q : State, (closeDesc q m e d).mem = q.mem := fun q => by rw [closeDesc_rest]
  have hwin : ((cmpFormed s m e d x).eng m e).win = (s.eng m e).win := by
    rw [cmpFormed_eng]
    rfl
  rw [cmpDone, hq, cmpDeliver, hr, if_neg Bool.false_ne_true, hwin, writeSpadRow_mem, writeSpadRow_mem]
  exact putSpadRow_mem_congr cmpFormed_sameWires.1

/-- Delivered as a token, it leaves the memory and the links alone. -/
theorem cmpDone_sameWires (hr : dRdst d = true) : SameWires s (cmpDone s m e d x c) := by
  have hq : ∀ q : State, SameWires q (closeDesc q m e d) := fun q => by
    rw [closeDesc_rest]
    exact ⟨rfl, rfl, rfl⟩
  have hd : ∀ (q : State) (r : Row), SameWires q (cmpDeliver q m e d r) := fun q r => by
    rw [cmpDeliver, if_pos hr]
    exact ⟨rfl, rfl, rfl⟩
  exact (cmpFormed_sameWires.trans (hd _ _)).trans (hq _)

theorem cmpDone_cmpOwner : ((cmpDone s m e d x c).mu m).cmpOwner = none := by
  rw [cmpDone, closeDesc_cmpOwner, cmpDeliver_cmpOwner]

/-- A token waits where its link has no credit. -/
theorem settleOut_held {link chan : Nat} (hch : chan < 4) (hn : count (s.eng m e).cnt 10 = 4 * link + chan)
    (h : s.credit m link chan = false) : s.settleOut m e = none := by
  have hl : (4 * link + chan) / 4 = link := by omega
  have hc : (4 * link + chan) % 4 = chan := by omega
  unfold State.settleOut
  dsimp only
  rw [hn, hl, hc, h]
  split
  · rfl
  · rfl

section

variable (hk : dKind d = 6) (hb : dBlock d = false) (hat : (s.eng m e).atOnlyRow a d) (hc : (s.eng m e).cmp = some c)
  (hf : s.formRow m (s.eng m e) d 0 = .row x) (hx : 0 < x.lanes)
include hk hb hat hc hf hx

/-- The engine forms its only row, delivers, and where no token of it can leave does nothing further. -/
theorem compareAndCount_runs (hres : resBeyond (s.eng m e).win d = false) (hheld : (cmpDone s m e d x c).settleOut m e = none) :
    exec (.compareAndCount m e) s = .next (cmpDone s m e d x c) := by
  have hform := formNext_cmp hk hb hat hf hx
  obtain ⟨hd, hst, hrow, hrows, hmark, hjobs, hout, hwq, -, -⟩ := hat
  have heng := cmpFormed_eng (s := s) (m := m) (e := e) (d := d) (x := x)
  have hend : (((cmpRead s m e d x).updEng m e (cmpEng d (cmpLoad s m e d x) x.lanes)).addRc m e 1).rowDone m e d =
      cmpDone s m e d x c := by
    unfold State.rowDone
    dsimp only
    rw [← cmpFormed, if_pos, endDesc_cmp hk (c := cmpAfter s m e d x c)]
    · rfl
    · rw [heng]
      exact hres
    · rw [heng]
      simp only [cmpEng, hc]
      rfl
    · rw [heng]
      exact (show (s.eng m e).rows d ≤ (s.eng m e).row + 1 by omega)
  have hmove : s.engMove m e = (cmpDone s m e d x c, true) := by
    rw [engMove_forms hjobs hwq (settleOut_empty hout), hform, hend]
  obtain ⟨hdesc, hdj, hdw, -⟩ := cmpDone_eng (s := s) (m := m) (e := e) (d := d) (x := x) (c := c)
  have hstop : (cmpDone s m e d x c).engMove m e = (cmpDone s m e d x c, false) := by
    rw [engMove_forms (hdj.trans hjobs) (hdw.trans hwq) hheld, formNext_none hdesc]
  have hfuel : (s.eng m e).fuel = 38 + 2 := by simp [Eng.fuel, hd, hrows, hjobs, hout, hwq]
  show Host.Outcome.next (s.stream m e 6) = _
  have hrun : s.stream m e 6 = s.engGo m e := by simp [State.stream, hd, hk]
  rw [hrun, State.engGo, hfuel, engRun_once hmove hstop]

/-- The result is written to its scratchpad row, and the descriptor is done. -/
theorem compareAndCount_row (hr : dRdst d = false) (hres : resBeyond (s.eng m e).win d = false) :
    ∃ t, exec (.compareAndCount m e) s = .next t ∧ (t.mu m).cmpOwner = none ∧ (t.eng m e).desc = none ∧
      t.mem = (s.writeSpadRow m (winLo (s.eng m e).win + dResrow d) (cmpAfter s m e d x c).result).mem := by
  obtain ⟨hdesc, -, -, hout, -⟩ := cmpDone_eng (s := s) (m := m) (e := e) (d := d) (x := x) (c := c)
  refine ⟨_, compareAndCount_runs hk hb hat hc hf hx hres (settleOut_empty ?_), cmpDone_cmpOwner, hdesc, cmpDone_mem_row hr⟩
  rw [hout, atOnlyRow_outbuf hat, hr]
  rfl

/-- The result waits as a token with END where its link has no credit. -/
theorem compareAndCount_token (hr : dRdst d = true) (hcr : s.credit m (dLink d) (dChan d) = false) :
    ∃ t, exec (.compareAndCount m e) s = .next t ∧ t.mem = s.mem ∧ (t.mu m).cmpOwner = none ∧
      (t.eng m e).outbuf = [⟨(cmpAfter s m e d x c).result, true⟩] := by
  obtain ⟨-, -, -, hout, hlink⟩ := cmpDone_eng (s := s) (m := m) (e := e) (d := d) (x := x) (c := c)
  have hsame := cmpDone_sameWires (s := s) (m := m) (e := e) (x := x) (c := c) hr
  have hheld : (cmpDone s m e d x c).settleOut m e = none :=
    settleOut_held (Nat.mod_lt _ (by decide)) (hlink hr) ((hsame.credit _ _).trans hcr)
  refine ⟨_, compareAndCount_runs hk hb hat hc hf hx (by simp [resBeyond, hr]) hheld, hsame.1, cmpDone_cmpOwner, ?_⟩
  rw [hout, atOnlyRow_outbuf hat, if_pos hr]
  rfl

end

end

/-! ### What is counted (R66, R184) -/

theorem fpLe_nan_left (y : Fp) : fpLe .nan y = false := rfl

theorem fpLe_nan_right (x : Fp) : fpLe x .nan = false := by
  cases x
  all_goals rfl

/-- A NaN satisfies "not equal" alone. -/
theorem cmpHit_nan {w t : W32} {op : Nat} (hw : f32IsNan w = true) (hop : op < 7) : cmpHit false op w t = true ↔ op = 5 := by
  have hv : cmpVal false w = .nan := beq_iff_eq.mp hw
  have hv' : (if op = 6 then fpAbs (cmpVal false w) else cmpVal false w) = .nan := by
    rw [hv]
    split
    · rfl
    · rfl
  unfold cmpHit
  dsimp only
  rw [hv', fpLe_nan_left, fpLe_nan_right]
  interval_cases op
  all_goals simp

theorem length_filter_fst (p : W32 → Bool) (l : List Ln) : ((l.map (·.1)).filter p).length = (l.filter fun w => p w.1).length := by
  rw [List.filter_map, List.length_map]
  rfl

/-- Settles O30: the engine's run from the row to its result, and the counters of one row. -/
theorem compareDelivers : Obligations.CompareDelivers := by
  refine ⟨fun m e a d x c s hk hb hat hc hf hx => ⟨fun hr hres => ?_, fun hr hcr => ?_⟩,
    fun c d l => ⟨rfl, ?_, fun hi => ?_, fun w t hw op hop => cmpHit_nan hw hop⟩⟩
  · exact compareAndCount_row hk hb hat hc hf hx hr hres
  · exact compareAndCount_token hk hb hat hc hf hx hr hcr
  · exact congrArg (c.count + ·) (length_filter_fst _ l)
  · have hn : (fun w : W32 => !(dRfmt d == 2) && f32IsNan w) = f32IsNan := by
      funext w
      simp [hi]
    show c.nan + ((l.map (·.1)).filter fun w => !(dRfmt d == 2) && f32IsNan w).length = _
    rw [hn, length_filter_fst]

end Sys2Proof.Proofs
end

section
/-! PROOFS. The predicate class: the bits that a compare writes, and what the predicate operations write. -/

namespace Sys2Proof.Proofs

open Sys2Proof Sys2Proof.Machine Sys2Proof.Laws

/-! ### The end of an instruction that leaves PC and the loop counters -/

/-- An instruction that changes neither PC nor a loop counter ends where any other would. -/
theorem advanced_advance {x y z : Ctx} (hz : z = y.advance) (hi : y.imem = x.imem) (hp : y.pc = x.pc) (hl : y.l = x.l) :
    x.advanced z ∧ z = { y with l := z.l, pc := z.pc } := by
  obtain ⟨hal, hap⟩ := advance_congr y x hi hp hl
  rw [hz]
  exact ⟨⟨hap, hal⟩, advance_rest y⟩

/-! ### The bits of a compare (R77, R124, R134) -/

theorem testBit_foldr_bits (f : Nat → Bool) (l : List Nat) (i : Nat) :
    (l.foldr (fun j n => (if f j then 1 else 0) + 2 * n) 0).testBit i = (l.map f).getD i false := by
  induction l generalizing i with
  | nil => simp
  | cons a l ih =>
    have hbit : ∀ n, (if f a then 1 else 0) + 2 * n = Nat.bit (f a) n := fun n => by
      cases f a <;> simp [Nat.bit, Nat.add_comm]
    rw [List.foldr_cons, hbit]
    cases i with
    | zero => simp
    | succ i => rw [Nat.testBit_bit_succ, ih, List.map_cons, List.getD_cons_succ]

theorem getLsbD_maskWord (f : Nat → Bool) {j : Nat} (h : j < 32) : (maskWord f).getLsbD j = f j := by
  rw [maskWord, BitVec.getLsbD_ofNat, testBit_foldr_bits]
  simp [List.getD_eq_getElem?_getD, h]

/-- Events gathered lane by lane, from what was there before. -/
theorem foldl_or_from (on : Nat → Bool) (ev : Nat → Ev) (l : List Nat) (e : Ev) :
    l.foldl (fun e j => if on j then e ||| ev j else e) e = e ||| l.foldl (fun e j => if on j then e ||| ev j else e) 0 := by
  induction l generalizing e with
  | nil => simp
  | cons a l ih =>
    rw [List.foldl_cons, List.foldl_cons, ih, ih (if on a then 0 ||| ev a else 0)]
    cases on a <;> simp [BitVec.or_assoc]

/-- A write of a P register changes the P registers alone. -/
theorem setPReg_rest (x : Ctx) (k : Nat) (v : Scal) : x.setPReg k v = { x with p := (x.setPReg k v).p } := by
  unfold Ctx.setPReg
  split
  all_goals rfl

section

variable (x : Ctx) (o : PredOp) (f : PredF)

/-- Lane `j` of a compare: its bit and its events. -/
def compareLane (j : Nat) : Bool × Ev := cmpLane o f.ty.toNat (x.cmpSource f f.sa j).1 (x.cmpSource f f.sb j).1

/-- What a compare writes to PD. -/
def compareWord : Scal :=
  ⟨maskWord fun j => if x.mask f.pred f.pneg j then (compareLane x o f j).1 else (x.pReg f.pd.toNat).val.getLsbD j,
    ((List.range 32).any fun j => x.mask f.pred f.pneg j && ((x.cmpSource f f.sa j).2 || (x.cmpSource f f.sb j).2)) ||
      x.maskPoison f.pred || (((List.range 32).any fun j => !(x.mask f.pred f.pneg j)) && (x.pReg f.pd.toNat).poi)⟩

/-- The events of a compare, beside those still on their way. -/
def compareEvents (e : Ev) : Ev :=
  (List.range 32).foldl (fun e j => if x.mask f.pred f.pneg j then e ||| (compareLane x o f j).2 else e) e

theorem cmp_eq : x.cmp o f = (x.setPReg f.pd.toNat (compareWord x o f)).lateEv (compareEvents x o f 0) := rfl

theorem compareWord_bit {j : Nat} (h : j < 32) : (compareWord x o f).val.getLsbD j =
    if x.mask f.pred f.pneg j then (compareLane x o f j).1 else (x.pReg f.pd.toNat).val.getLsbD j := getLsbD_maskWord _ h

theorem compareWord_poi : (compareWord x o f).poi = true ↔
    (∃ j, j < 32 ∧ x.mask f.pred f.pneg j = true ∧ ((x.cmpSource f f.sa j).2 = true ∨ (x.cmpSource f f.sb j).2 = true)) ∨
      x.maskPoison f.pred = true ∨ ((∃ j, j < 32 ∧ x.mask f.pred f.pneg j = false) ∧ (x.pReg f.pd.toNat).poi = true) := by
  simp [compareWord, or_assoc]

theorem cmp_late : (x.cmp o f).late = compareEvents x o f x.late := by
  rw [cmp_eq, setPReg_rest]
  exact (foldl_or_from _ _ _ _).symm

end

/-- A P register after a write: P0 keeps all ones. -/
theorem pReg_setPReg_ne (x : Ctx) {k q : Nat} (v : Scal) (h : q ≠ k ∨ q = 0) : (x.setPReg k v).pReg q = x.pReg q := by
  by_cases hk : k = 0
  · rw [hk, setPReg_zero]
  · rw [pReg_setPReg x k q v hk, if_neg (by omega)]

theorem pReg_zero (x : Ctx) : x.pReg 0 = ⟨0xffffffff, false⟩ := rfl

theorem exec_compare {o : PredOp} {u : Nat} {f : PredF} {s : State} (h : o.compares = true) :
    exec (o.cmd u f) s = issueCtx u (.pred o f) (fun x => x.cmpUse f) (fun x => x.cmp o f) s := by
  cases o
  case eq | ne | lt | le | gt | ge => rfl
  all_goals cases h

theorem exec_predOp {o : PredOp} {u : Nat} {f : PredF} {s : State} (h : o.compares = false) :
    exec (o.cmd u f) s = issueCtx u (.pred o f) (fun _ => ⟨[], []⟩) (fun x => x.predOp o f) s := by
  cases o
  case eq | ne | lt | le | gt | ge => cases h
  all_goals rfl

/-- Settles O12: PD's bits and poison lane by lane, in a context that is otherwise as it was. -/
theorem compareBits : Obligations.CompareBits := by
  intro o u k f s ho hi hw
  obtain ⟨t, hex, honly, ht⟩ := issueCtx_go (use := fun x => x.cmpUse f) (f := fun x => x.cmp o f) hi hw
  have hcmp := cmp_eq (issued s u k) o f
  have hlate := cmp_late (issued s u k) o f
  have hkeep := setPReg_rest (issued s u k) f.pd.toNat (compareWord (issued s u k) o f)
  have hy : (issued s u k).cmp o f =
      { issued s u k with p := ((issued s u k).cmp o f).p, late := ((issued s u k).cmp o f).late } := by
    rw [hcmp, hkeep]; rfl
  obtain ⟨hadv, hrest⟩ := advanced_advance (x := s.cx u k) ht (by rw [hy]; rfl) (by rw [hy]; rfl) (by rw [hy]; rfl)
  have hp : ∀ q, (t.cx u k).pReg q = ((issued s u k).setPReg f.pd.toNat (compareWord (issued s u k) o f)).pReg q := fun q => by
    rw [hrest, hcmp]; rfl
  have hpd : f.pd ≠ 0 → (t.cx u k).pReg f.pd.toNat = compareWord (issued s u k) o f := fun h0 => by
    rw [hp, pReg_setPReg _ _ _ _ (fun h => h0 (BitVec.eq_of_toNat_eq h)), if_pos rfl]
  refine ⟨t, (exec_compare ho).trans hex, honly, fun h0 j hj => ?_, fun h0 => ?_, pReg_zero _, fun q hq => ?_, ?_, hadv, ?_⟩
  · rw [hpd h0]
    exact compareWord_bit _ o f hj
  · rw [hpd h0]
    exact compareWord_poi _ o f
  · rw [hp]
    exact pReg_setPReg_ne _ _ (.inl hq)
  · rw [hrest]
    exact hlate
  · rw [hrest, hy]; rfl

/-! ### The predicate operations (R77, R124, R134) -/

/-- What a predicate operation writes to PD: S[SS], or the two registers combined with the poison of either. -/
def predResult (x : Ctx) (o : PredOp) (f : PredF) : Scal :=
  let a := x.pReg f.pa.toNat
  let b := x.pReg f.pb.toNat
  if o = .pset then x.sReg f.ss.toNat
  else ⟨if o = .pand then a.val &&& b.val else if o = .por then a.val ||| b.val else if o = .pxor then a.val ^^^ b.val
        else a.val &&& ~~~b.val, a.poi || b.poi⟩

theorem predOp_eq (x : Ctx) {o : PredOp} (f : PredF) (h : o.compares = false) :
    x.predOp o f = if o = .pget then x.setSReg f.ss.toNat (x.pReg f.pa.toNat) else x.setPReg f.pd.toNat (predResult x o f) := by
  cases o
  case eq | ne | lt | le | gt | ge => cases h
  all_goals rfl

/-- An instruction that names no V or T register meets no hazard. -/
theorem hazard_no_use (c : Cu) (k : Nat) : c.hazard k ⟨[], []⟩ = .go := by simp [Cu.hazard, Cu.hazardRows]

/-- Settles O13: PGET writes its S register alone, each other operation PD alone. -/
theorem predicateOperations : Obligations.PredicateOperations := by
  intro o u k f s ho hi
  obtain ⟨t, hex, honly, ht⟩ :=
    issueCtx_go (use := fun _ => ⟨[], []⟩) (f := fun x => x.predOp o f) hi (hazard_no_use _ _)
  have hop := predOp_eq (issued s u k) f ho
  by_cases hg : o = .pget
  · rw [if_pos hg] at hop
    rw [hop] at ht
    obtain ⟨hadv, hrest⟩ := advanced_advance (x := s.cx u k) ht rfl rfl rfl
    have hs : ∀ q, (t.cx u k).sReg q = if q = f.ss.toNat then (s.cx u k).pReg f.pa.toNat else (s.cx u k).sReg q := fun q => by
      rw [hrest]
      exact sReg_setSReg _ _ _ _
    refine ⟨t, (exec_predOp ho).trans hex, honly, hadv, ⟨fun h => absurd hg h, fun _ => ?_⟩, fun q _ => ?_, fun q hq => ?_, ?_⟩
    · rw [hs, if_pos rfl]
    · rw [hrest]; rfl
    · rw [hs, if_neg (hq.resolve_right (not_not_intro hg))]
    · rw [hrest]; rfl
  · rw [if_neg hg, setPReg_rest] at hop
    rw [hop] at ht
    obtain ⟨hadv, hrest⟩ := advanced_advance (x := s.cx u k) ht rfl rfl rfl
    have hp : ∀ q, (t.cx u k).pReg q = ((issued s u k).setPReg f.pd.toNat (predResult (issued s u k) o f)).pReg q := fun q => by
      rw [hrest]; rfl
    refine ⟨t, (exec_predOp ho).trans hex, honly, hadv, ⟨fun _ h0 => ?_, fun h => absurd h hg⟩, fun q hq => ?_, fun q _ => ?_, ?_⟩
    · rw [hp, pReg_setPReg _ _ _ _ (fun h => h0 (BitVec.eq_of_toNat_eq h)), if_pos rfl]
      rfl
    · rw [hp]
      exact pReg_setPReg_ne _ _ (hq.imp id fun h => h.resolve_right hg)
    · rw [hrest]; rfl
    · rw [hrest]; rfl

end Sys2Proof.Proofs
end

section
/-! PROOFS. When a unit instruction does not issue, and what is counted then. -/

namespace Sys2Proof.Proofs

open Sys2Proof Sys2Proof.Machine Sys2Proof.Laws

/-! ### What keeps an instruction from issuing (R107, R140, R455) -/

section

variable {s : State} {u k : Nat} {z : Zelux} {wait : Cu → Nat → Ctx → Wait} {go : Nat → Cu → Ctx → State → State}

theorem issue_stopped (hz : z.legal = true) (h : s.stoppedAt u = true) : issue u z wait go s = .next s := by
  simp [issue, hz, h]

theorem issue_idle (hz : z.legal = true) (h : (s.cu u).active = none) : issue u z wait go s = .next s := by
  simp [issue, hz, h]

/-- One that the active context does not stand at does not issue, where no hold finds its port empty and the word decodes. -/
theorem issue_away (hz : z.legal = true) (ha : (s.cu u).active = some k) (hst : (s.cx u k).standsAt z = false)
    (hh : (s.cx u k).hold = none ∨ (s.cu u).heldEmpty z = false) (hw : count (s.cx u k).upset (s.cx u k).pc ≠ 3) :
    issue u z wait go s = .next s := by
  unfold State.cx at hst hh hw
  obtain hh | hh := hh
  · simp [issue, hz, ha, hst, hh, hw]
  · simp [issue, hz, ha, hst, hh, hw]

theorem issue_waits (hz : z.legal = true) (hs : s.stoppedAt u = false) (ha : (s.cu u).active = some k)
    (hst : (s.cx u k).standsAt z = true) (hw : (s.cx u k).waits s.time.now = true) :
    issue u z wait go s = .next (s.setCu u ((s.cu u).setCtx k { s.cx u k with stalls := bump (s.cx u k).stalls 6 1 })) := by
  unfold State.cx at hst hw ⊢
  simp [issue, hz, hs, ha, hst, hw]

theorem standsAt_of_hold {x : Ctx} (h : x.hold.isSome = true) : x.standsAt z = false := by
  cases hx : x.hold with
  | none => simp [hx] at h
  | some g => simp [Ctx.standsAt, hx]

theorem standsAt_of_upset {x : Ctx} (h : count x.upset x.pc = 3) : x.standsAt z = false := by simp [Ctx.standsAt, h]

theorem issue_held (hz : z.legal = true) (hs : s.stoppedAt u = false) (ha : (s.cu u).active = some k) (hact : (s.cx u k).st = .active)
    (hh : (s.cx u k).hold.isSome = true) (hi : (s.cx u k).imem[(s.cx u k).pc]? = some (encodeZelux z)) (he : (s.cu u).heldEmpty z = true) :
    issue u z wait go s = .next (s.setCu u ((s.cu u).setCtx k { s.cx u k with stalls := bump (s.cx u k).stalls 0 1 })) := by
  have hst := standsAt_of_hold (z := z) hh
  unfold State.cx at hst hact hh hi ⊢
  simp [issue, hz, hs, ha, hst, hact, hh, hi, he]

theorem issue_upset (hz : z.legal = true) (hs : s.stoppedAt u = false) (ha : (s.cu u).active = some k) (hact : (s.cx u k).st = .active)
    (hh : (s.cx u k).hold = none) (hu : count (s.cx u k).upset (s.cx u k).pc = 3) :
    issue u z wait go s = .next (s.readInstr u k) := by
  have hst := standsAt_of_upset (z := z) hu
  unfold State.cx at hst hact hh hu
  simp [issue, hz, hs, ha, hst, hact, hh, hu]

/-- A cycle that is counted at a context changes that context alone. -/
theorem onlyCtx_setCtx (x : Ctx) : OnlyCtx s (s.setCu u ((s.cu u).setCtx k x)) u k where
  rest := rfl
  units v hv := by rw [cu_setCu, if_neg hv]
  regions _ := rfl
  unit := by rw [cu_setCu_same]; rfl
  others j hj := by rw [State.cx, cu_setCu_same, ctxAt_setCtx, if_neg hj]; rfl

theorem cx_setCtx (x : Ctx) : (s.setCu u ((s.cu u).setCtx k x)).cx u k = x := by rw [State.cx, cu_setCu_same, ctxAt_setCtx_same]

end

/-! ### An uncorrectable instruction word (R455, R468) -/

theorem ins_ne_nil {α : Type} (m : FMap α) (k : Nat) (v : α) : FMap.ins m k v ≠ [] := by
  cases m with
  | nil => simp [FMap.ins]
  | cons e m =>
    unfold FMap.ins
    split
    · simp
    · split
      · simp
      · simp

section

variable (s : State) (src kind synd whr : Nat) (own : Option (Nat × Nat))

/-- A record changes the log and its head register alone, and stands in the log. -/
theorem logRec_rest : s.logRec src kind synd whr own =
    { s with log := (s.logRec src kind synd whr own).log, regs := (s.logRec src kind synd whr own).regs } := by
  unfold State.logRec
  dsimp only
  split
  all_goals rfl

theorem logRec_log : (s.logRec src kind synd whr own).log ≠ [] := by
  unfold State.logRec
  dsimp only
  split
  · exact ins_ne_nil _ _ _
  · exact ins_ne_nil _ _ _

theorem logRec_reg {o : Nat} (h : o ≠ aMemLoghead) : (s.logRec src kind synd whr own).reg o = s.reg o := by
  have hset : ∀ (t : State) (hi lo n : Nat), (t.setRegBits aMemLoghead hi lo n).reg o = t.reg o := fun t hi lo n => by
    rw [setRegBits_eq, reg_setReg, if_neg h]
  unfold State.logRec
  dsimp only
  split
  · rw [State.setRegBit, hset, hset, hset]; rfl
  · rw [hset, hset]; rfl

end

section

variable {s : State} {u k : Nat}

/-- A read of an uncorrectable word: it is counted, logged, and marked as logged. -/
theorem readInstr_upset (h : count (s.cx u k).upset (s.cx u k).pc = 3) : ∃ synd whr own,
    s.readInstr u k = ((s.countErr (48 + unitDie u) 2).logRec (48 + unitDie u) 5 synd whr own).updCtx u k fun x =>
      { x with upset := FMap.set 0 x.upset x.pc 4 } := by
  unfold State.cx at h
  simp only [State.readInstr, h]
  exact ⟨_, _, _, rfl⟩

theorem readInstr_counts (h : count (s.cx u k).upset (s.cx u k).pc = 3) :
    s.readInstr u k = { s with cus := (s.readInstr u k).cus, regs := (s.readInstr u k).regs, log := (s.readInstr u k).log } ∧
      (∀ v, v ≠ u → (s.readInstr u k).cu v = s.cu v) ∧
      (s.readInstr u k).cx u k = { s.cx u k with upset := FMap.set 0 (s.cx u k).upset (s.cx u k).pc 4 } ∧ (s.readInstr u k).log ≠ [] ∧
      (unitDie u < 16 → (s.readInstr u k).reg (aMemCnt (48 + unitDie u) 2) = s.reg (aMemCnt (48 + unitDie u) 2) + 1) := by
  obtain ⟨synd, whr, own, hr⟩ := readInstr_upset h
  generalize s.readInstr u k = t at hr ⊢
  generalize ha : s.countErr (48 + unitDie u) 2 = a at hr
  have hcount : a = { s with regs := a.regs } := by
    rw [← ha]
    unfold State.countErr
    split
    all_goals rfl
  have hlog := logRec_rest a (48 + unitDie u) 5 synd whr own
  have hne := logRec_log a (48 + unitDie u) 5 synd whr own
  have hreg := logRec_reg a (48 + unitDie u) 5 synd whr own (o := aMemCnt (48 + unitDie u) 2) (by unfold aMemCnt aMemLoghead; omega)
  generalize a.logRec (48 + unitDie u) 5 synd whr own = b at hr hlog hne hreg
  have hcu : ∀ v, b.cu v = s.cu v := fun v => by rw [hlog, hcount]; rfl
  refine ⟨by rw [hr, hlog, hcount]; rfl, fun v hv => ?_, ?_, by rw [hr]; exact hne, fun hd => ?_⟩
  · rw [hr, updCtx_eq, cu_setCu, if_neg hv, hcu]
  · rw [hr, updCtx_eq, cx_setCtx, hcu]; rfl
  · rw [show t.reg _ = b.reg _ by rw [hr]; rfl, hreg, ← ha, State.countErr, if_pos (by omega), State.addReg, reg_setReg_same]
    rfl

end

/-- Settles O7: by what issue does where the context does not stand at the instruction, waits, holds, or cannot read its word. -/
theorem instructionsHeld : Obligations.InstructionsHeld := by
  refine ⟨fun z u s hz h => ?_, fun z u k s hz hs ha => ?_⟩
  · obtain ⟨wait, go, hex, -⟩ := exec_cmd_issued (s := s) (z := z) (u := u)
    rw [hex]
    obtain h | h | ⟨k, ha, hst, hh, hw⟩ := h
    · exact issue_stopped hz h
    · exact issue_idle hz h
    · exact issue_away hz ha hst hh hw
  · obtain ⟨wait, go, hex, -⟩ := exec_cmd_issued (s := s) (z := z) (u := u)
    rw [hex]
    refine ⟨fun hst hw => ?_, fun hact hh hi he => ?_, fun hact hh hu => ?_⟩
    · exact ⟨_, issue_waits hz hs ha hst hw, onlyCtx_setCtx _, cx_setCtx _, rfl⟩
    · exact ⟨_, issue_held hz hs ha hact hh hi he, onlyCtx_setCtx _, cx_setCtx _, rfl⟩
    · exact ⟨_, issue_upset hz hs ha hact hh hu, readInstr_counts hu⟩

end Sys2Proof.Proofs
end

section
/-! PROOFS. pop and drop: the tokens that one takes, cycle by cycle, and where their rows go. -/

namespace Sys2Proof.Proofs

open Sys2Proof Sys2Proof.Machine Sys2Proof.Laws

/-! ### What a command that works at one unit leaves -/

section

variable {s t v : State} {u : Nat}

theorem onlyUnit_setCu (s : State) (u : Nat) (c : Cu) : OnlyUnit s (s.setCu u c) u where
  rest := rfl
  units v hv := by rw [cu_setCu, if_neg hv]
  regions _ := rfl

theorem onlyUnit_progressAt (s : State) (u : Nat) : OnlyUnit s (s.progressAt u) u where
  rest := by rw [progressAt_rest]
  units v _ := progressAt_cu s u v
  regions r := progressAt_rgn s u r

theorem onlyUnit_trans (h : OnlyUnit s t u) (k : OnlyUnit t v u) : OnlyUnit s v u where
  rest := Eq.trans k.rest (by conv_lhs => rw [h.rest])
  units w hw := (k.units w hw).trans (h.units w hw)
  regions r := Eq.trans (k.regions r) (by conv_lhs => rw [h.regions r])

theorem cx_progressAt (s : State) (u v k : Nat) : (s.progressAt u).cx v k = s.cx v k := by rw [State.cx, progressAt_cu]; rfl

end

@[simp] theorem qTokens_setCtx (c : Cu) (k p : Nat) (x : Ctx) : (c.setCtx k x).qTokens p = c.qTokens p := rfl
@[simp] theorem ctxAt_setQ (c : Cu) (p k : Nat) (l : List Token) : (c.setQ p l).ctxAt k = c.ctxAt k := rfl
theorem qTokens_setQ (c : Cu) (p q : Nat) (l : List Token) : (c.setQ p l).qTokens q = if q = p then l else c.qTokens q := get_set _ _ _ _ _

theorem count_bump (g : FMap Nat) (p q n : Nat) : count (bump g p n) q = if q = p then count g p + n else count g q := get_set _ _ _ _ _

/-! ### The ports of a pop and the registers that it fills (R127) -/

theorem maskPorts_nodup (m : BitVec 4) : (maskPorts m).Nodup := List.nodup_range.filter _

theorem maskPorts_ne_nil {m : BitVec 4} (h : 1 ≤ popcount4 m) : maskPorts m ≠ [] := by
  revert m
  decide

theorem mem_popTargets {f : MoveF} {c : Nat} : c ∈ popTargets f ↔ ∃ j p : Nat, (maskPorts f.pmask)[j]? = some p ∧ c = f.reg.toNat + j := by
  simp only [popTargets, List.mem_map, List.mem_range]
  constructor
  · rintro ⟨j, hj, rfl⟩
    exact ⟨j, _, List.getElem?_eq_getElem hj, rfl⟩
  · rintro ⟨j, p, hj, rfl⟩
    exact ⟨j, (List.getElem?_eq_some_iff.mp hj).1, rfl⟩

/-! ### The cycles of a pop or drop (R128) -/

section

variable (c₀ : Cu) (x₀ : Ctx) (drop : Bool) (f : MoveF) (got rest : Nat → List Token)

/-- The tokens that each named port is to give: m of them, with END on the last (R102). -/
def WholeTokens : Prop := ∀ p ∈ maskPorts f.pmask, (got p).length = f.mm1.toNat + 1 ∧
  ∀ i, i < (got p).length → ((got p).getD i ⟨Row.zero, false⟩).fin = decide (i = f.mm1.toNat)

/-- The unit and the context after port `p` has given its first `d p` tokens. -/
structure Taken (d : Nat → Nat) (c : Cu) (x : Ctx) (g : FMap Nat) : Prop where
  counts : ∀ p ∈ maskPorts f.pmask, count g p = d p
  named : ∀ p ∈ maskPorts f.pmask, c.qTokens p = (got p).drop (d p) ++ rest p
  unnamed : ∀ p, p ∉ maskPorts f.pmask → c.qTokens p = c₀.qTokens p
  unit : c = { c₀ with qbuf := c.qbuf }
  ctx : x = { x₀ with t := x.t, v := x.v }
  filled : ∀ j p i, (maskPorts f.pmask)[j]? = some p → drop = false → i < 32 → x.regRow (f.reg.toNat + j) i =
    if i < d p then ((got p).getD i ⟨Row.zero, false⟩).row else x₀.regRow (f.reg.toNat + j) i
  others : ∀ r i, i < 32 → (drop = true ∨ r ∉ popTargets f) → x.regRow r i = x₀.regRow r i

/-- One port's part in a cycle. -/
def popOne (m : Nat) (acc : Cu × Ctx × FMap Nat × Option (Nat × Nat × Bool)) (p : Nat × Nat) :
    Cu × Ctx × FMap Nat × Option (Nat × Nat × Bool) :=
  let n := count acc.2.2.1 p.1 + 1
  if m < n then acc
  else match acc.1.qTokens p.1 with
    | [] => acc
    | t :: ts =>
      let c := acc.1.setQ p.1 ts
      if tokenBad n m t then (c, acc.2.1, acc.2.2.1, acc.2.2.2.orElse fun _ => some (p.1, n, decide (n = m)))
      else (c, (if drop then acc.2.1 else acc.2.1.setRegRow (f.reg.toNat + p.2) (n - 1) t.row), bump acc.2.2.1 p.1 1, acc.2.2.2)

theorem popCycle_eq (c : Cu) (x : Ctx) (m : Nat) (g : FMap Nat) :
    popCycle c x drop f.reg.toNat (maskPorts f.pmask) m g = (maskPorts f.pmask).zipIdx.foldl (popOne drop f m) (c, x, g, none) := rfl

end

section

variable {c₀ c : Cu} {x₀ x : Ctx} {drop : Bool} {f : MoveF} {got rest : Nat → List Token} {d : Nat → Nat} {g : FMap Nat}

theorem Taken.start (hq : ∀ p ∈ maskPorts f.pmask, c₀.qTokens p = got p ++ rest p) :
    Taken c₀ x₀ drop f got rest (fun _ => 0) c₀ x₀ [] where
  counts _ _ := rfl
  named := hq
  unnamed _ _ := rfl
  unit := rfl
  ctx := rfl
  filled _ _ _ _ _ _ := rfl
  others _ _ _ _ := rfl

theorem Taken.congr {e : Nat → Nat} (h : Taken c₀ x₀ drop f got rest d c x g) (hd : ∀ p ∈ maskPorts f.pmask, e p = d p) :
    Taken c₀ x₀ drop f got rest e c x g where
  counts p hp := by rw [h.counts p hp, hd p hp]
  named p hp := by rw [h.named p hp, hd p hp]
  unnamed := h.unnamed
  unit := h.unit
  ctx := h.ctx
  filled j p i hj hn hi := by rw [h.filled j p i hj hn hi, hd p (List.mem_of_getElem? hj)]
  others := h.others

/-- A token in its place is no offence. -/
theorem tokenBad_whole {p i : Nat} (hw : WholeTokens f got) (hp : p ∈ maskPorts f.pmask) (hi : i < f.mm1.toNat + 1) :
    tokenBad (i + 1) (f.mm1.toNat + 1) ((got p).getD i ⟨Row.zero, false⟩) = false := by
  obtain ⟨hlen, hfin⟩ := hw p hp
  have := hfin i (by omega)
  unfold tokenBad
  rw [this]
  split
  · simp; omega
  · simp; omega

/-- A port gives its next token: it leaves the port, and its row enters the port's register. -/
theorem popOne_taken {j p : Nat} (hw : WholeTokens f got) (hreg : drop = false → 16 ≤ f.reg.toNat)
    (h : Taken c₀ x₀ drop f got rest d c x g) (hj : (maskPorts f.pmask)[j]? = some p) (hd : d p < f.mm1.toNat + 1) :
    ∃ c' x', popOne drop f (f.mm1.toNat + 1) (c, x, g, none) (p, j) = (c', x', bump g p 1, none) ∧
      Taken c₀ x₀ drop f got rest (Function.update d p (d p + 1)) c' x' (bump g p 1) := by
  have hp := List.mem_of_getElem? hj
  obtain ⟨hlen, -⟩ := hw p hp
  have hget : (got p).drop (d p) = (got p).getD (d p) ⟨Row.zero, false⟩ :: (got p).drop (d p + 1) := by
    rw [List.drop_eq_getElem_cons (by omega), List.getD_eq_getElem _ _ (by omega)]
  have hbad := tokenBad_whole hw hp hd
  generalize htok : (got p).getD (d p) ⟨Row.zero, false⟩ = tok at hget hbad
  have hq : c.qTokens p = tok :: ((got p).drop (d p + 1) ++ rest p) := by rw [h.named p hp, hget]; rfl
  have hm : d p < 32 := by have := f.mm1.isLt; omega
  refine ⟨c.setQ p ((got p).drop (d p + 1) ++ rest p), if drop then x else x.setRegRow (f.reg.toNat + j) (d p) tok.row, ?_, ?_⟩
  · have hn : ¬ f.mm1.toNat + 1 < d p + 1 := by omega
    simp [popOne, h.counts p hp, hn, hq, hbad]
  · refine ⟨fun q hq => ?_, fun q hq => ?_, fun q hq => ?_, ?_, ?_, fun i q r hi hn hr => ?_, fun r i hi ho => ?_⟩
    · rw [count_bump, Function.update_apply]
      split
      · rw [h.counts p hp]
      · exact h.counts q hq
    · rw [qTokens_setQ, Function.update_apply]
      split
      · rename_i e
        rw [e]
      · exact h.named q hq
    · rw [qTokens_setQ, if_neg (ne_of_mem_of_not_mem hp hq).symm]
      exact h.unnamed q hq
    · rw [h.unit]; rfl
    · cases drop with
      | true => exact h.ctx
      | false =>
        rw [if_neg Bool.false_ne_true, Ctx.setRegRow]
        split
        · rw [h.ctx]; rfl
        · rw [h.ctx]; rfl
    · subst hn
      rw [if_neg Bool.false_ne_true, regRow_setRegRow _ _ _ _ _ _ hm hr (by have := hreg rfl; omega), Function.update_apply]
      by_cases hij : i = j
      · subst hij
        obtain rfl : p = q := Option.some.inj (hj.symm.trans hi)
        rw [h.filled i p r hj rfl hr, if_pos rfl]
        by_cases hrd : r = d p
        · subst hrd
          rw [if_pos ⟨rfl, .inr rfl⟩, if_pos (by omega), htok]
        · have := hreg rfl
          rw [if_neg (by omega)]
          exact if_congr (by omega) rfl rfl
      · have hqp : q ≠ p := by
          rintro rfl
          exact hij ((List.getElem?_inj (List.getElem?_eq_some_iff.mp hi).1 (maskPorts_nodup _)).mp (hi.trans hj.symm))
        rw [if_neg (by omega), if_neg hqp]
        exact h.filled i q r hi rfl hr
    · cases drop with
      | true => exact h.others r i hi ho
      | false =>
        have hr : r ∉ popTargets f := ho.resolve_left Bool.false_ne_true
        rw [if_neg Bool.false_ne_true, regRow_setRegRow _ _ _ _ _ _ hm hi (by have := hreg rfl; omega),
          if_neg (fun e => hr (mem_popTargets.mpr ⟨j, p, hj, e.1⟩))]
        exact h.others r i hi ho

/-- Each of the listed ports gives its next token. -/
theorem popOnes_taken (hw : WholeTokens f got) (hreg : drop = false → 16 ≤ f.reg.toNat) {l : List (Nat × Nat)}
    (hl : ∀ q ∈ l, (maskPorts f.pmask)[q.2]? = some q.1) (hnd : (l.map Prod.fst).Nodup) (hd : ∀ q ∈ l, d q.1 < f.mm1.toNat + 1)
    (h : Taken c₀ x₀ drop f got rest d c x g) :
    ∃ c' x' g', l.foldl (popOne drop f (f.mm1.toNat + 1)) (c, x, g, none) = (c', x', g', none) ∧
      Taken c₀ x₀ drop f got rest (fun p => if p ∈ l.map Prod.fst then d p + 1 else d p) c' x' g' := by
  induction l generalizing c x g d with
  | nil => exact ⟨c, x, g, rfl, h.congr fun p _ => by simp⟩
  | cons a l ih =>
    obtain ⟨p, j⟩ := a
    obtain ⟨c₁, x₁, hone, h₁⟩ := popOne_taken hw hreg h (hl _ List.mem_cons_self) (hd _ List.mem_cons_self)
    obtain ⟨hpl, hnl⟩ := List.nodup_cons.mp hnd
    have hne : ∀ q ∈ l, q.1 ≠ p := fun q hq e => hpl (List.mem_map.mpr ⟨q, hq, e⟩)
    obtain ⟨c', x', g', hfold, h'⟩ := ih (fun q hq => hl q (List.mem_cons_of_mem _ hq)) hnl
      (fun q hq => by rw [Function.update_of_ne (hne q hq)]; exact hd q (List.mem_cons_of_mem _ hq)) h₁
    refine ⟨c', x', g', by rw [List.foldl_cons, hone, hfold], h'.congr fun q _ => ?_⟩
    by_cases hq : q = p
    · subst hq
      rw [if_neg hpl, Function.update_self, if_pos (by simp)]
    · rw [Function.update_of_ne hq]
      exact if_congr (List.mem_cons.trans (or_iff_right hq)) rfl rfl

/-- A cycle before the last token: every named port gives one. -/
theorem popCycle_taken {n : Nat} (hw : WholeTokens f got) (hreg : drop = false → 16 ≤ f.reg.toNat) (hn : n < f.mm1.toNat + 1)
    (h : Taken c₀ x₀ drop f got rest (fun _ => n) c x g) :
    ∃ c' x' g', popCycle c x drop f.reg.toNat (maskPorts f.pmask) (f.mm1.toNat + 1) g = (c', x', g', none) ∧
      Taken c₀ x₀ drop f got rest (fun _ => n + 1) c' x' g' := by
  have hfst : (maskPorts f.pmask).zipIdx.map Prod.fst = maskPorts f.pmask := List.zipIdx_map_fst _ _
  obtain ⟨c', x', g', hfold, h'⟩ := popOnes_taken hw hreg (l := (maskPorts f.pmask).zipIdx)
    (fun q hq => List.mem_zipIdx_iff_getElem?.mp hq) (by rw [hfst]; exact maskPorts_nodup _) (fun _ _ => hn) h
  exact ⟨c', x', g', by rw [popCycle_eq, hfold], h'.congr fun p hp => by rw [hfst, if_pos hp]⟩

/-- A cycle after the last token changes nothing. -/
theorem popCycle_full (h : Taken c₀ x₀ drop f got rest (fun _ => f.mm1.toNat + 1) c x g) :
    popCycle c x drop f.reg.toNat (maskPorts f.pmask) (f.mm1.toNat + 1) g = (c, x, g, none) := by
  rw [popCycle_eq]
  refine List.foldlRecOn (motive := fun acc => acc = (c, x, g, none)) _ _ rfl fun acc hacc q hq => ?_
  have hp : q.1 ∈ maskPorts f.pmask := List.mem_of_getElem? (List.mem_zipIdx_iff_getElem?.mp hq)
  rw [hacc]
  simp [popOne, h.counts _ hp]

/-- Tokens taken from a named port are counted. -/
theorem Taken.counted {n m : Nat} {c' : Cu} {x' : Ctx} {g' : FMap Nat} (hne : maskPorts f.pmask ≠ [])
    (h : Taken c₀ x₀ drop f got rest (fun _ => n) c x g) (h' : Taken c₀ x₀ drop f got rest (fun _ => m) c' x' g') (hnm : n ≠ m) :
    g' ≠ g := by
  obtain ⟨p, hp⟩ := List.exists_mem_of_ne_nil _ hne
  rintro rfl
  exact hnm ((h.counts p hp).symm.trans (h'.counts p hp))

/-- The cycles go on until every named port has given its m tokens. -/
theorem popCycles_taken {n fuel : Nat} (hw : WholeTokens f got) (hreg : drop = false → 16 ≤ f.reg.toNat) (hne : maskPorts f.pmask ≠ [])
    (hn : n ≤ f.mm1.toNat + 1) (hfuel : f.mm1.toNat + 1 - n < fuel) (h : Taken c₀ x₀ drop f got rest (fun _ => n) c x g) :
    ∃ c' x' g', popCycles c x drop f.reg.toNat (maskPorts f.pmask) (f.mm1.toNat + 1) g fuel = (c', x', g', none) ∧
      Taken c₀ x₀ drop f got rest (fun _ => f.mm1.toNat + 1) c' x' g' := by
  induction fuel generalizing c x g n with
  | zero => omega
  | succ fuel ih =>
    obtain rfl | hlt := Nat.eq_or_lt_of_le hn
    · refine ⟨c, x, g, ?_, h⟩
      simp [popCycles, popCycle_full h]
    · obtain ⟨c₁, x₁, g₁, hcyc, h₁⟩ := popCycle_taken hw hreg hlt h
      obtain ⟨c', x', g', hrest, h'⟩ := ih hlt (by omega) h₁
      refine ⟨c', x', g', ?_, h'⟩
      have hg := h.counted hne h₁ (by omega)
      simp [popCycles, hcyc, hg, hrest]

/-- A pop or drop whose tokens are all there takes them, and its context goes on. -/
theorem pumpPop_taken {s : State} {u k : Nat} (hw : WholeTokens f got) (hreg : drop = false → 16 ≤ f.reg.toNat)
    (hne : maskPorts f.pmask ≠ []) (hq : ∀ p ∈ maskPorts f.pmask, (s.cu u).qTokens p = got p ++ rest p)
    (hh : (s.cx u k).hold = some ⟨[]⟩) :
    ∃ c x g, OnlyUnit s (s.pumpPop u k f drop) u ∧ Taken (s.cu u) (s.cx u k) drop f got rest (fun _ => f.mm1.toNat + 1) c x g ∧
      (∀ p, ((s.pumpPop u k f drop).cu u).qTokens p = c.qTokens p) ∧
      (s.pumpPop u k f drop).cx u k = { x with hold := none }.advance ∧ ∀ j, j ≠ k → (s.pumpPop u k f drop).cx u j = s.cx u j := by
  have h₀ := Taken.start hq (x₀ := s.cx u k) (drop := drop)
  obtain ⟨c, x, g, hcyc, h⟩ := popCycles_taken (fuel := 33) hw hreg hne (Nat.zero_le _) (by have := f.mm1.isLt; omega) h₀
  have hg : g ≠ [] := h₀.counted hne h (by omega)
  have hall : ((maskPorts f.pmask).all fun p => decide (f.mm1.toNat + 1 ≤ count g p)) = true :=
    List.all_eq_true.mpr fun p hp => by rw [h.counts p hp]; exact decide_eq_true le_rfl
  generalize hv : (s.setCu u (c.setCtx k { x with hold := some ⟨g⟩ })).progressAt u = v
  have hpump : s.pumpPop u k f drop = v.updCtx u k fun x => { x with hold := none }.advance := by
    have hcyc' := hcyc
    unfold State.cx at hh hcyc'
    simp only [State.pumpPop, hh, hcyc', hall, ← hv]
    simp [hg]
  have hcu : v.cu u = c.setCtx k { x with hold := some ⟨g⟩ } := by rw [← hv, progressAt_cu, cu_setCu_same]
  refine ⟨c, x, g, ?_, h, fun p => ?_, ?_, fun j hj => ?_⟩
  · rw [hpump, ← hv, updCtx_eq]
    exact onlyUnit_trans (onlyUnit_trans (onlyUnit_setCu _ _ _) (onlyUnit_progressAt _ _)) (onlyUnit_setCu _ _ _)
  · rw [hpump, updCtx_eq, cu_setCu_same, hcu]
    rfl
  · rw [hpump, updCtx_eq, State.cx, cu_setCu_same, ctxAt_setCtx_same, hcu, ctxAt_setCtx_same]
  · rw [hpump, updCtx_eq, State.cx, cu_setCu_same, ctxAt_setCtx, if_neg hj, hcu, ctxAt_setCtx, if_neg hj, h.unit]
    rfl

end

/-! ### The two forms of pop, and drop (R127, R128) -/

/-- A pop of one row takes the oldest token of its port into its V register. -/
theorem pop_vreg {s : State} {u k p : Nat} {f : MoveF} {h : Token} {rest : List Token} (hi : Issues s u k (.move .pop f))
    (hv : isVreg f.reg = true) (hp : maskPorts f.pmask = [p]) (hw : (s.cu u).hazard k ⟨[], [f.reg.toNat]⟩ = .go)
    (hq : (s.cu u).qTokens p = h :: rest) :
    ∃ t, exec (.pop u f) s = .next t ∧ OnlyUnit s t u ∧
      t.cu u = (((s.cu u).setCtx k (issued s u k)).setQ p rest).setCtx k ((issued s u k).setVReg f.reg.toNat h.row).advance := by
  have hex : exec (.pop u f) s = execPop u f s := rfl
  rw [hex, execPop, issue_go hi (by simp [hp, hv, hw, hq])]
  simp only [hp, hv, List.headD_cons, if_true, qTokens_setCtx, hq]
  exact ⟨_, rfl, onlyUnit_trans (onlyUnit_trans (onlyUnit_setCu _ _ _) (onlyUnit_setCu _ _ _)) (onlyUnit_progressAt _ _), by
    rw [progressAt_cu, cu_setCu_same]⟩

/-- The unit once context `k` holds issue with no token taken (R120, R128). -/
def holding (s : State) (u k : Nat) : State :=
  (s.setCu u ((s.cu u).setCtx k (issued s u k))).setCu u
    (((s.cu u).setCtx k (issued s u k)).setCtx k { issued s u k with hold := some ⟨[]⟩ })

section

variable {s : State} {u k : Nat}

theorem onlyUnit_holding : OnlyUnit s (holding s u k) u := onlyUnit_trans (onlyUnit_setCu _ _ _) (onlyUnit_setCu _ _ _)

theorem holding_qTokens (p : Nat) : ((holding s u k).cu u).qTokens p = (s.cu u).qTokens p := by
  rw [holding, cu_setCu_same]
  rfl

theorem holding_cx_same : (holding s u k).cx u k = { issued s u k with hold := some ⟨[]⟩ } := by
  rw [holding, State.cx, cu_setCu_same, ctxAt_setCtx_same]

theorem holding_cx_ne {j : Nat} (h : j ≠ k) : (holding s u k).cx u j = s.cx u j := by
  rw [holding, State.cx, cu_setCu_same, ctxAt_setCtx, if_neg h, ctxAt_setCtx, if_neg h]
  rfl

/-- A tile pop and a drop begin to hold issue, and take what tokens are there. -/
theorem exec_tileMove {o : MoveOp} {f : MoveF} (ho : o = .pop ∨ o = .drop) (hi : Issues s u k (.move o f))
    (hpop : o = .pop → isTreg f.reg = true ∧ (s.cu u).hazard k ⟨[], popTargets f⟩ = .go) :
    exec ((Zelux.move o f).cmd u) s = .next (((holding s u k).pumpPop u k f (o == .drop)).progressAt u) := by
  obtain rfl | rfl := ho
  · obtain ⟨ht, hw⟩ := hpop rfl
    have hv : isVreg f.reg = false := by
      simp only [isTreg, isVreg, Bool.and_eq_true, decide_eq_true_eq, decide_eq_false_iff_not] at ht ⊢
      omega
    have hex : exec (.pop u f) s = execPop u f s := rfl
    rw [Zelux.cmd, hex, execPop, issue_go hi (by simp [hv, hw])]
    simp only [hv, Bool.false_eq_true, if_false]
    rfl
  · have hex : exec (.drop u f) s = execDrop u f s := rfl
    rw [Zelux.cmd, hex, execDrop, issue_go hi rfl]
    rfl

end

theorem legal_pop (f : MoveF) : (Zelux.move .pop f).legal = (f.pred == 0 && f.pneg == 0 &&
    ((isTreg f.reg && decide (f.reg.toNat + popcount4 f.pmask ≤ 24) && decide (1 ≤ popcount4 f.pmask)) ||
      (isVreg f.reg && popcount4 f.pmask == 1 && f.mm1 == 0))) := rfl

theorem legal_drop (f : MoveF) : (Zelux.move .drop f).legal = (f.pred == 0 && f.pneg == 0 &&
    (popcount4 f.pmask == 1 && (isTreg f.reg || (isVreg f.reg && f.mm1 == 0)))) := rfl

theorem legal_names_port {o : MoveOp} {f : MoveF} (ho : o = .pop ∨ o = .drop) (h : (Zelux.move o f).legal = true) :
    maskPorts f.pmask ≠ [] := by
  refine maskPorts_ne_nil ?_
  obtain rfl | rfl := ho
  · rw [legal_pop] at h
    simp only [Bool.and_eq_true, Bool.or_eq_true, decide_eq_true_eq, beq_iff_eq] at h
    omega
  · rw [legal_drop] at h
    simp only [Bool.and_eq_true, beq_iff_eq] at h
    omega

theorem sixteen_le_of_isTreg {c : BitVec 6} (h : isTreg c = true) : 16 ≤ c.toNat := by
  simp only [isTreg, Bool.and_eq_true, decide_eq_true_eq] at h
  exact h.1

/-- An instruction that writes V and T registers alone, as its context stands after its end. -/
theorem regRow_advance {x y z : Ctx} (hz : z = y.advance) (hy : y = { x with t := y.t, v := y.v, waitTo := none, hold := none }) :
    x.advanced z ∧ z.hold = none ∧ ∀ c i, z.regRow c i = y.regRow c i := by
  obtain ⟨hadv, hrest⟩ := advanced_advance (x := x) hz (by rw [hy]) (by rw [hy]) (by rw [hy])
  exact ⟨hadv, by rw [hrest, hy], fun c i => by rw [hrest]; rfl⟩

/-- Settles O19: a V register's pop by its one token, the other forms by the cycles that take every port's m tokens. -/
theorem popAndDrop : Obligations.PopAndDrop := by
  refine ⟨fun u k p f s h rest hi hv hp hw hq => ?_, fun o u k f s got rest ho hi hpop hgot => ?_⟩
  · obtain ⟨t, hex, honly, hcu⟩ := pop_vreg hi hv hp hw hq
    have hcx : t.cx u k = ((issued s u k).setVReg f.reg.toNat h.row).advance := by rw [State.cx, hcu, ctxAt_setCtx_same]
    obtain ⟨hadv, hrest⟩ := advanced_advance (x := s.cx u k) hcx rfl rfl rfl
    have hreg : ∀ c i, (t.cx u k).regRow c i = ((issued s u k).setVReg f.reg.toNat h.row).regRow c i := fun c i => by rw [hrest]; rfl
    refine ⟨t, hex, honly, hadv, ?_, ?_, fun q hqp => ?_, fun c i hc hi32 => ?_, fun j hj => ?_⟩
    · rw [hcu, qTokens_setCtx, qTokens_setQ, if_pos rfl]
    · rw [hrest]
      exact get_set_same _ _ _ _
    · rw [hcu, qTokens_setCtx, qTokens_setQ, if_neg hqp, qTokens_setCtx]
    · rw [hreg, Ctx.regRow, Ctx.regRow, vReg_setVReg, if_neg hc]
      rfl
    · rw [State.cx, hcu, ctxAt_setCtx, if_neg hj, ctxAt_setQ, ctxAt_setCtx, if_neg hj]
      rfl
  · have hdrop : (o == .drop) = false → o = .pop := fun h => ho.resolve_right fun e => by simp [e] at h
    obtain ⟨c, x, g, hpump, htaken, hports, hnow, hother⟩ := pumpPop_taken (drop := o == .drop) (s := holding s u k)
      (fun p hp => (hgot p hp).2) (fun h => sixteen_le_of_isTreg (hpop (hdrop h)).1) (legal_names_port ho hi.legal)
      (fun p hp => (holding_qTokens p).trans (hgot p hp).1) (by rw [holding_cx_same])
    rw [holding_cx_same] at htaken
    obtain ⟨hadv, hhold, hreg⟩ := regRow_advance (x := s.cx u k) hnow (by rw [htaken.ctx]; rfl)
    refine ⟨_, exec_tileMove ho hi hpop, onlyUnit_trans (onlyUnit_trans onlyUnit_holding hpump) (onlyUnit_progressAt _ _), ?_⟩
    rw [cx_progressAt, progressAt_cu]
    refine ⟨hadv, hhold, fun p hp => ?_, fun p hp => ?_, fun n p i hn hi1 ho1 => ?_, fun r i hi32 hr => ?_, fun j hj => ?_⟩
    · rw [hports, htaken.named p hp, List.drop_eq_nil_of_le (hgot p hp).2.1.le, List.nil_append]
    · rw [hports, htaken.unnamed p hp, holding_qTokens]
    · rw [hreg]
      exact (htaken.filled n p i hn (by rw [ho1]; rfl) (by have := f.mm1.isLt; omega)).trans (if_pos (by omega))
    · rw [hreg]
      by_cases hkeep : (o == .drop) = true ∨ r ∉ popTargets f
      · exact htaken.others r i hi32 hkeep
      · obtain ⟨hd, hmem⟩ := not_or.mp hkeep
        obtain ⟨n, p, hn, rfl⟩ := mem_popTargets.mp (not_not.mp hmem)
        have hbeyond : f.mm1.toNat < i := (hr.resolve_left fun e => hd (by rw [e]; rfl)).resolve_left hmem
        exact (htaken.filled n p i hn (Bool.not_eq_true _ ▸ hd) hi32).trans (if_neg (by omega))
    · rw [cx_progressAt, hother j hj, holding_cx_ne hj]

end Sys2Proof.Proofs
end

section
/-! PROOFS. How an mma enters the array, queues, pairs, or holds for its port. -/

namespace Sys2Proof.Proofs

open Sys2Proof Sys2Proof.Machine Sys2Proof.Laws

/-! ### The issue of an mma (R85, R116–R120) -/

section

variable {s : State} {u k : Nat} {f : MmaF}

/-- The unit as an mma that goes finds it. -/
def issuedCu (s : State) (u k : Nat) : Cu := (s.cu u).setCtx k (issued s u k)

theorem enterRun_free {r : MmaRun} (h : (s.cu u).arr = none) :
    (issuedCu s u k).enterRun r = { issuedCu s u k with arr := some r, latch := some (r.ctx, r.f) } := by
  rw [Cu.enterRun, show (issuedCu s u k).arr = none from h]

theorem enterRun_busy {r : MmaRun} (h : (s.cu u).arr.isSome = true) :
    (issuedCu s u k).enterRun r = { issuedCu s u k with que := some r } := by
  unfold Cu.enterRun
  split
  · rename_i e
    rw [show (s.cu u).arr = none from e] at h
    cases h
  · rfl

/-- The context as an mma that goes on leaves it, with the flagged mma `fl`. -/
def pastMma (s : State) (u k : Nat) (fl : Option MmaRun) : Ctx := { issued s u k with flag := fl }.advance

/-- The state after an mma that leaves the unit `c` and its context `x`. -/
def afterMma (s : State) (u k : Nat) (c : Cu) (x : Ctx) : State :=
  ((s.setCu u (issuedCu s u k)).setCu u (c.setCtx k x)).progressAt u

theorem onlyUnit_afterMma (c : Cu) (x : Ctx) : OnlyUnit s (afterMma s u k c x) u :=
  onlyUnit_trans (onlyUnit_trans (onlyUnit_setCu _ _ _) (onlyUnit_setCu _ _ _)) (onlyUnit_progressAt _ _)

theorem afterMma_cu (c : Cu) (x : Ctx) : (afterMma s u k c x).cu u = c.setCtx k x := by rw [afterMma, progressAt_cu, cu_setCu_same]

theorem afterMma_cx (c : Cu) (x : Ctx) : (afterMma s u k c x).cx u k = x := by rw [State.cx, afterMma_cu, ctxAt_setCtx_same]

/-- An mma that has not yet begun its shifts, without a partner. -/
def loneRun (k : Nat) (f : MmaF) : MmaRun := ⟨k, f, none, 0, [], none⟩

/-- The unit as an mma that holds issue for its port leaves it. -/
def heldMma (s : State) (u k : Nat) (f : MmaF) : State :=
  (s.setCu u (issuedCu s u k)).setCu u (((issuedCu s u k).enterRun (loneRun k f)).setCtx k { issued s u k with flag := none, hold := some ⟨[]⟩ })

section

variable (hi : Issues s u k (.mma f)) (hw : mmaWait f (s.cu u) k (s.cx u k) = .go)

include hi hw

theorem exec_mma_pairs {r : MmaRun} (hfl : (s.cx u k).flag = some r) : exec (.mma u f) s =
    .next (afterMma s u k ((issuedCu s u k).enterRun { r with partner := some f }) (pastMma s u k none)) := by
  have hex : exec (.mma u f) s = execMma u f s := rfl
  rw [hex, execMma, issue_go hi hw]
  dsimp only
  rw [show (issued s u k).flag = some r from hfl]
  rfl

theorem exec_mma_flagged (hfl : (s.cx u k).flag = none) (hp : f.pair = 1) :
    exec (.mma u f) s = .next (afterMma s u k (issuedCu s u k) (pastMma s u k (some (loneRun k f)))) := by
  have hex : exec (.mma u f) s = execMma u f s := rfl
  rw [hex, execMma, issue_go hi hw]
  dsimp only
  rw [show (issued s u k).flag = none from hfl]
  dsimp only
  rw [if_pos hp]
  rfl

theorem exec_mma_holds (hfl : (s.cx u k).flag = none) (hp : f.pair = 0) (hq : f.fromQ = true) :
    exec (.mma u f) s = .next (((heldMma s u k f).pumpMma u).progressAt u) := by
  have hex : exec (.mma u f) s = execMma u f s := rfl
  rw [hex, execMma, issue_go hi hw]
  dsimp only
  rw [show (issued s u k).flag = none from hfl]
  dsimp only
  rw [if_neg (by simp [hp]), if_pos hq]
  rfl

theorem exec_mma_enters (hfl : (s.cx u k).flag = none) (hp : f.pair = 0) (hq : f.fromQ = false) :
    exec (.mma u f) s = .next (afterMma s u k ((issuedCu s u k).enterRun (loneRun k f)) (pastMma s u k none)) := by
  have hex : exec (.mma u f) s = execMma u f s := rfl
  have hpast : pastMma s u k none = (issued s u k).advance := by rw [← hfl]; rfl
  rw [hex, execMma, issue_go hi hw, hpast]
  dsimp only
  rw [show (issued s u k).flag = none from hfl]
  dsimp only
  rw [if_neg (by simp [hp]), if_neg (by simp [hq])]
  rfl

end

/-- An mma that does not hold issue goes on, with its context's registers as they were. -/
theorem afterMma_advanced (c : Cu) (fl : Option MmaRun) :
    (s.cx u k).advanced ((afterMma s u k c (pastMma s u k fl)).cx u k) ∧
      (s.cx u k).sameRegs ((afterMma s u k c (pastMma s u k fl)).cx u k) ∧
      ((afterMma s u k c (pastMma s u k fl)).cx u k).flag = fl := by
  rw [afterMma_cx]
  obtain ⟨hadv, hrest⟩ := advanced_advance (x := s.cx u k) (y := { issued s u k with flag := fl }) (z := pastMma s u k fl) rfl rfl rfl rfl
  exact ⟨hadv, fun c i => by rw [hrest]; rfl, by rw [hrest]⟩

theorem afterMma_cx_ne {c : Cu} {x : Ctx} {j : Nat} (hc : c.ctx = (issuedCu s u k).ctx) (h : j ≠ k) :
    (afterMma s u k c x).cx u j = s.cx u j := by
  rw [State.cx, afterMma_cu, ctxAt_setCtx, if_neg h, Cu.ctxAt, hc]
  exact (ctxAt_setCtx _ _ _ _).trans (if_neg h)

/-- A Q-sourced mma whose port is empty takes no row. -/
theorem pumpMma_empty {s : State} {run : MmaRun} (ha : (s.cu u).arr = some run) 
    (hq : (s.cu u).qTokens (run.f.a.toNat % 4) = []) : s.pumpMma u = s := by
  have htake : (s.cu u).takeRows 33 = (s.cu u, false, none) := by
    unfold Cu.takeRows
    rw [ha]
    dsimp only
    rw [hq]
    split
    · rfl
    · rfl
  simp [State.pumpMma, ha, htake]

end

/-- Settles O23: by where the flagged mma and the array stand as the mma goes. -/
theorem mmaEntersArray : Obligations.MmaEntersArray := by
  refine ⟨fun u k f s hi hw ha => ?_, fun u k f s hi hw ha hfl hp harr hq => ?_⟩
  · have hfq : f.fromQ = false := by simp [MmaF.fromQ, ha]
    refine ⟨fun hp hfl harr => ?_, fun hp hfl harr => ?_, fun hp hfl => ?_, fun r hfl => ?_⟩
    · obtain ⟨hadv, hregs, hflag⟩ := afterMma_advanced (s := s) (u := u) (k := k) ((issuedCu s u k).enterRun (loneRun k f)) none
      refine ⟨_, exec_mma_enters hi hw hfl hp hfq, onlyUnit_afterMma _ _, hadv, hregs, ?_, ?_, hflag, fun j hj => afterMma_cx_ne ?_ hj⟩
      · rw [afterMma_cu, enterRun_free harr]; rfl
      · rw [afterMma_cu, enterRun_free harr]; rfl
      · rw [enterRun_free harr]
    · obtain ⟨hadv, hregs, -⟩ := afterMma_advanced (s := s) (u := u) (k := k) ((issuedCu s u k).enterRun (loneRun k f)) none
      refine ⟨_, exec_mma_enters hi hw hfl hp hfq, onlyUnit_afterMma _ _, hadv, hregs, ?_, ?_⟩
      · rw [afterMma_cu, enterRun_busy harr]; rfl
      · rw [afterMma_cu, enterRun_busy harr]; rfl
    · obtain ⟨hadv, hregs, hflag⟩ := afterMma_advanced (s := s) (u := u) (k := k) (issuedCu s u k) (some (loneRun k f))
      exact ⟨_, exec_mma_flagged hi hw hfl hp, onlyUnit_afterMma _ _, hadv, hregs, hflag, by rw [afterMma_cu]; rfl,
        by rw [afterMma_cu]; rfl⟩
    · obtain ⟨hadv, -, hflag⟩ := afterMma_advanced (s := s) (u := u) (k := k)
        ((issuedCu s u k).enterRun { r with partner := some f }) none
      refine ⟨_, exec_mma_pairs hi hw hfl, onlyUnit_afterMma _ _, hadv, hflag, fun harr => ?_, fun harr => ⟨?_, ?_⟩⟩
      · rw [afterMma_cu, enterRun_free harr]; rfl
      · rw [afterMma_cu, enterRun_busy harr]; rfl
      · rw [afterMma_cu, enterRun_busy harr]; rfl
  · have hcu : (heldMma s u k f).cu u = ((issuedCu s u k).enterRun (loneRun k f)).setCtx k { issued s u k with flag := none, hold := some ⟨[]⟩ } := by
      rw [heldMma, cu_setCu_same]
    rw [enterRun_free harr] at hcu
    have hpump : (heldMma s u k f).pumpMma u = heldMma s u k f :=
      pumpMma_empty (run := loneRun k f) (by rw [hcu]; rfl) (by rw [hcu]; exact hq)
    have hcx : (heldMma s u k f).cx u k = { issued s u k with flag := none, hold := some ⟨[]⟩ } := by rw [State.cx, hcu, ctxAt_setCtx_same]
    refine ⟨_, exec_mma_holds hi hw hfl hp (by simp [MmaF.fromQ, ha]), ?_, ?_⟩
    · rw [hpump]
      exact onlyUnit_trans (onlyUnit_trans (onlyUnit_setCu _ _ _) (onlyUnit_setCu _ _ _)) (onlyUnit_progressAt _ _)
    · rw [hpump, cx_progressAt, progressAt_cu, hcx, hcu]
      exact ⟨rfl, rfl, rfl, fun c i => rfl⟩

end Sys2Proof.Proofs
end

section
/-! PROOFS. Tokens and credits on the neighbour links. -/

namespace Sys2Proof.Proofs

open Sys2Proof Sys2Proof.Machine Sys2Proof.Laws

/-! ### What a token's way changes (R97–R100) -/

section

variable {s t : State} {u p link chan : Nat} {x : Token}

/-- The state is as it was but for what the regions hold. -/
def RegionsOnly (s t : State) : Prop := t = { s with rgns := t.rgns }

theorem RegionsOnly.eq (h : RegionsOnly s t) : t = { s with rgns := t.rgns } := h

theorem RegionsOnly.trans {v : State} (h : RegionsOnly s t) (k : RegionsOnly t v) : RegionsOnly s v :=
  Eq.trans k (by conv_lhs => rw [h.eq])

theorem RegionsOnly.sameWires (h : RegionsOnly s t) : SameWires s t := by
  rw [h.eq]
  exact ⟨rfl, rfl, rfl⟩

theorem RegionsOnly.eng (h : RegionsOnly s t) (m e : Nat) : t.eng m e = s.eng m e := by rw [h.eq]; rfl

theorem latchEdge_regionsOnly {r d : Nat} {b : Bool} : RegionsOnly s (s.latchEdge r d b) := by
  unfold State.latchEdge
  generalize (if b = true then 2 else 1) = n
  dsimp only
  split
  · rfl
  · rfl

theorem latchWhere_regionsOnly {r : Nat} {f : W64 → Bool} {b : Bool} : RegionsOnly s (s.latchWhere r f b) :=
  List.foldlRecOn (motive := RegionsOnly s) _ _ rfl fun _ h _ _ => h.trans latchEdge_regionsOnly

theorem levelEdge_regionsOnly {m e old new : Nat} : RegionsOnly s (s.levelEdge m e old new) := by
  unfold State.levelEdge
  split
  · rfl
  · exact latchWhere_regionsOnly.trans latchWhere_regionsOnly

theorem addUnitCtr_regionsOnly {w q n : Nat} : RegionsOnly s (s.addUnitCtr u w q n) := addUnitCtr_rest s u w q n

/-! ### Places and credits (R98) -/

theorem entry_updFab {f : Fabric → Fabric} (h : (f (s.fabric u)).route = (s.fabric u).route) (v l c : Nat) :
    ((s.updFab u f).fabric v).entry l c = (s.fabric v).entry l c := by
  unfold Fabric.entry
  rw [fabric_updFab]
  split
  · rename_i e
    rw [h, e]
  · rfl

theorem capacity_updFab {f : Fabric → Fabric} (h : (f (s.fabric u)).route = (s.fabric u).route) :
    (s.updFab u f).capacity u link chan = s.capacity u link chan := by
  have hfen : (s.updFab u f).fenced u link = s.fenced u link := by
    unfold State.fenced
    simp only [regionOf_congr (t := s.updFab u f) (s := s) rfl]
  unfold State.capacity
  simp only [entry_updFab h, hfen]

/-- The state is as it was but for the link side of units and the wires. -/
def LinksOnly (s t : State) : Prop := t = { s with fab := t.fab, wires := t.wires }

theorem LinksOnly.eq (h : LinksOnly s t) : t = { s with fab := t.fab, wires := t.wires } := h

theorem LinksOnly.trans {v : State} (h : LinksOnly s t) (k : LinksOnly t v) : LinksOnly s v :=
  Eq.trans k (by conv_lhs => rw [h.eq])

theorem sendToken_linksOnly : LinksOnly s (s.sendToken u link chan x) := rfl

/-- Tokens sent onward from a pass-through register leave the rest of the state. -/
theorem pumpPass_linksOnly {n : Nat} : LinksOnly s (s.pumpPass u link chan n) := by
  induction n generalizing s with
  | zero => rfl
  | succ n ih =>
    unfold State.pumpPass
    split
    · rfl
    · split
      · have hpass : ∀ f, LinksOnly s (s.updFab u f) := fun _ => rfl
        exact ((hpass _).trans sendToken_linksOnly).trans ih
      · rfl

theorem pumpPass_empty {n : Nat} (h : FMap.get ([] : List Token) (s.fabric u).pass (4 * link + chan) = []) :
    s.pumpPass u link chan n = s := by
  cases n with
  | zero => rfl
  | succ n => simp [State.pumpPass, h]

theorem pumpPass_noCredit {n : Nat} (h : s.credit u link chan = false) : s.pumpPass u link chan n = s := by
  cases n with
  | zero => rfl
  | succ n =>
    unfold State.pumpPass
    split
    · rfl
    · rw [if_neg (by simp [h])]

/-- Nothing goes on at a unit where no mma has the array and no context holds issue. -/
theorem pumpHold_none (ha : (s.cu u).arr = none) (hh : ∀ k, k < 4 → (s.cx u k).hold = none) : s.pumpHold u = s := by
  unfold State.pumpHold
  rw [pumpMma_none ha]
  refine List.foldlRecOn (motive := fun t => t = s) _ _ rfl fun t ht k hk => ?_
  have hk' := hh k (List.mem_range.mp hk)
  unfold State.cx at hk'
  rw [ht]
  simp [hk']

/-- An engine with nothing in hand does not move. -/
theorem engGo_idle {m e : Nat} (hd : (s.eng m e).desc = none) (hc : (s.eng m e).clear) : s.engGo m e = s := by
  obtain ⟨hj, ho, hw, -, -⟩ := hc
  have hmove : s.engMove m e = (s, false) := by rw [engMove_forms hj hw (settleOut_empty ho), formNext_none hd]
  have hfuel : (s.eng m e).fuel = 31 + 1 := by simp [Eng.fuel, hd, hj, ho, hw]
  rw [State.engGo, hfuel, State.engRun, hmove]
  rfl

theorem addUnitCtr_cu (s : State) (u w p n v : Nat) : (s.addUnitCtr u w p n).cu v = s.cu v := by rw [addUnitCtr_rest]; rfl

theorem deliver_port (hu : isMu u = false) (hl : ((s.cu u).qTokens p).length < 8) (ha : (s.cu u).arr = none)
    (hh : ∀ k, k < 4 → (s.cx u k).hold = none) :
    s.deliver u p x = (s.setCu u ((s.cu u).setQ p ((s.cu u).qTokens p ++ [x]))).addUnitCtr u 13 0 1 := by
  simp only [State.deliver, hu, hl, if_true, Bool.false_eq_true, if_false]
  refine pumpHold_none (by rw [addUnitCtr_cu, cu_setCu_same]; exact ha) fun k hk => ?_
  rw [State.cx, addUnitCtr_cu, cu_setCu_same]
  exact hh k hk

/-- The state once engine `p` of unit `u` has taken token `x`. -/
def engineTook (s : State) (u p : Nat) (x : Token) : State :=
  ((s.updEng u p fun g => { g with inbuf := g.inbuf ++ [x] }).addUnitCtr u 13 0 1).levelEdge u p (s.eng u p).inbuf.length
    ((s.eng u p).inbuf.length + 1)

theorem engineTook_regionsOnly : RegionsOnly (s.updEng u p fun g => { g with inbuf := g.inbuf ++ [x] }) (engineTook s u p x) :=
  addUnitCtr_regionsOnly.trans levelEdge_regionsOnly

theorem engineTook_eng : (engineTook s u p x).eng u p = { s.eng u p with inbuf := (s.eng u p).inbuf ++ [x] } := by
  rw [engineTook_regionsOnly.eng, eng_updEng]

theorem deliver_engine (hu : isMu u = true) (hl : (s.eng u p).inbuf.length < 8) (hd : (s.eng u p).desc = none)
    (hc : (s.eng u p).clear) : s.deliver u p x = engineTook s u p x := by
  simp only [State.deliver, hu, hl, if_true]
  exact engGo_idle (s := engineTook s u p x) (by rw [engineTook_eng]; exact hd) (by rw [engineTook_eng]; exact hc)

/-! ### A token's arrival (R100, R174, R195) -/

/-- The oldest token of a channel has left its wire. -/
def offWire (s : State) (key : Nat) (rest : List Token) : State := { s with wires := FMap.set ([] : List Token) s.wires key rest }

theorem offWire_wire (key : Nat) (rest : List Token) : FMap.get ([] : List Token) (offWire s key rest).wires key = rest :=
  get_set_same _ _ _ _

theorem exec_tokenArrive {v : Nat} {rest : List Token} (hn : neighbour u link = some v) (hf : s.fenced u link = false)
    (hw : FMap.get ([] : List Token) s.wires (wireKey v (oppositeLink link) chan) = x :: rest) (b : Byte)
    (hb : (s.fabric u).entry link chan = b) (q : State) (hq : q = offWire s (wireKey v (oppositeLink link) chan) rest) :
    exec (.tokenArrive u link chan x) s = .next (if routeKind b = 1 then q.deliver u (routeTarget b) x
      else if routeKind b = 2 then q.passThrough u (routeOlink b) (routeTarget b) x
      else q.updFab u fun f => { f with disc := f.disc + 1 }) := by
  have hex : exec (.tokenArrive u link chan x) s = execTokenArrive u link chan x s := rfl
  have hfab : (q.fabric u).entry link chan = b := by rw [hq]; exact hb
  have hfen : q.fenced u link = false := by rw [hq]; exact hf
  unfold offWire at hq
  rw [hex, execTokenArrive, hn]
  simp only [hw, List.head?_cons, Option.any_some, bne_self_eq_false, Bool.false_eq_true, if_false, List.tail_cons, ← hq, hfab, hfen,
    Bool.false_or, Bool.and_eq_true, bne_iff_ne]
  by_cases h1 : routeKind b = 1
  · simp [h1]
  · by_cases h2 : routeKind b = 2
    · simp [h2]
    · simp [h1, h2]

theorem passThrough_rest (s : State) (u o c : Nat) (x : Token) : s.passThrough u o c x =
    { s with fab := (s.passThrough u o c x).fab, wires := (s.passThrough u o c x).wires, rgns := (s.passThrough u o c x).rgns } := by
  unfold State.passThrough
  dsimp only
  split
  · rw [pumpPass_linksOnly.eq, addUnitCtr_rest]
    rfl
  · rfl

/-- A token stays in its pass-through register while no credit is held. -/
theorem passThrough_noCredit {o c : Nat} (hl : (FMap.get ([] : List Token) (s.fabric u).pass (4 * o + c)).length < 2)
    (hc : s.credit u o c = false) :
    FMap.get ([] : List Token) ((s.passThrough u o c x).fabric u).pass (4 * o + c) =
      FMap.get ([] : List Token) (s.fabric u).pass (4 * o + c) ++ [x] := by
  unfold State.passThrough
  dsimp only
  rw [if_pos hl]
  generalize hq : s.updFab u _ = q
  have hcap : q.capacity u o c = s.capacity u o c := by rw [← hq]; exact capacity_updFab rfl
  have hfab : q.fabric u = { s.fabric u with
      pass := FMap.set ([] : List Token) (s.fabric u).pass (4 * o + c)
        (FMap.get ([] : List Token) (s.fabric u).pass (4 * o + c) ++ [x]) } := by
    rw [← hq, fabric_updFab, if_pos rfl]
  have hcred : q.credit u o c = false := by
    rw [State.credit, hcap, hfab]
    exact hc
  have hctr : RegionsOnly q (q.addUnitCtr u 13 0 1) := addUnitCtr_regionsOnly
  rw [pumpPass_noCredit (by rw [hctr.sameWires.credit]; exact hcred), addUnitCtr_rest]
  show FMap.get _ (q.fabric u).pass _ = _
  rw [hfab]
  exact get_set_same _ _ _ _

/-! ### A credit's return (R98, R99) -/

/-- One place fewer is known to be taken. -/
def placeFreed (s : State) (u link chan : Nat) : State :=
  s.updFab u fun f => { f with used := FMap.set 0 f.used (4 * link + chan) (count (s.fabric u).used (4 * link + chan) - 1) }

theorem placeFreed_fabric : (placeFreed s u link chan).fabric u =
    { s.fabric u with used := FMap.set 0 (s.fabric u).used (4 * link + chan) (count (s.fabric u).used (4 * link + chan) - 1) } := by
  rw [placeFreed, fabric_updFab, if_pos rfl]

theorem placeFreed_used :
    count ((placeFreed s u link chan).fabric u).used (4 * link + chan) = count (s.fabric u).used (4 * link + chan) - 1 := by
  rw [placeFreed_fabric]
  exact get_set_same _ _ _ _

theorem exec_creditReturn_none (h : count (s.fabric u).used (4 * link + chan) ≤ s.outstanding u link chan) :
    exec (.creditReturn u link chan) s = .next s := by
  have hex : exec (.creditReturn u link chan) s = execCreditReturn u link chan s := rfl
  rw [hex, execCreditReturn]
  exact if_pos h

/-- A freed place of an O port, where the pass-through register of its link is empty: the port goes on. -/
theorem exec_creditReturn_port (h : s.outstanding u link chan < count (s.fabric u).used (4 * link + chan)) (hu : isMu u = false)
    (hp : (s.cu u).oPort link chan = some p) (hpass : FMap.get ([] : List Token) (s.fabric u).pass (4 * link + chan) = []) :
    exec (.creditReturn u link chan) s = .next ((placeFreed s u link chan).pumpPort u p pumpFuel) := by
  have hex : exec (.creditReturn u link chan) s = execCreditReturn u link chan s := rfl
  have hpump : (placeFreed s u link chan).pumpPass u link chan pumpFuel = placeFreed s u link chan :=
    pumpPass_empty (by rw [placeFreed_fabric]; exact hpass)
  have hport : ((placeFreed s u link chan).cu u).oPort link chan = some p := hp
  unfold placeFreed at hpump hport ⊢
  rw [hex, execCreditReturn]
  simp only [hpump, hport, hu, if_neg (Nat.not_le.mpr h), Bool.false_eq_true, if_false]

theorem oTokens_setO (c : Cu) (p q : Nat) (l : List Token) : (c.setO p l).oTokens q = if q = p then l else c.oTokens q :=
  get_set _ _ _ _ _

theorem sendToken_used (q : State) : count ((q.sendToken u link chan x).fabric u).used (4 * link + chan) =
    count (q.fabric u).used (4 * link + chan) + 1 := by
  show count ((q.updFab u fun f => { f with used := bump f.used (4 * link + chan) 1 }).fabric u).used _ = _
  rw [fabric_updFab, if_pos rfl, count_bump, if_pos rfl]

theorem sendToken_wire (q : State) : FMap.get ([] : List Token) (q.sendToken u link chan x).wires (wireKey u link chan) =
    FMap.get ([] : List Token) q.wires (wireKey u link chan) ++ [x] := by
  show FMap.get [] (FMap.upd [] q.wires (wireKey u link chan) (· ++ [x])) (wireKey u link chan) = _
  rw [get_upd, if_pos rfl]

theorem portFill_none (h : (s.cu u).waitingPush p = none) : s.portFill u p = none := by
  simp [State.portFill, h]

/-- A port that holds nothing, with no push that waits, stays as it is. -/
theorem pumpPort_idle {n : Nat} (ho : (s.cu u).oTokens p = []) (hw : (s.cu u).waitingPush p = none) : s.pumpPort u p n = s := by
  cases n with
  | zero => rfl
  | succ n => simp [State.pumpPort, State.portStep, ho, portFill_none hw]

theorem wire_of_oPort {c : Cu} (h : c.oPort link chan = some p) : (FMap.get PortBind.free c.obind p).wire = some (link, chan) := by
  simpa using List.find?_some h

/-- A port whose one token has a credit sends it. -/
theorem pumpPort_sends {n : Nat} (hp : (s.cu u).oPort link chan = some p) (ho : (s.cu u).oTokens p = [x])
    (hw : (s.cu u).waitingPush p = none) (hc : s.credit u link chan = true) :
    s.pumpPort u p (n + 1) = (s.updCu u fun c => c.setO p []).sendToken u link chan x := by
  have hstep : s.portStep u p = some ((s.updCu u fun c => c.setO p []).sendToken u link chan x) := by
    simp [State.portStep, wire_of_oPort hp, ho, hc]
  have hcu : ((s.updCu u fun c => c.setO p []).sendToken u link chan x).cu u = (s.cu u).setO p [] := cu_setCu_same _ _ _
  rw [State.pumpPort, hstep]
  exact pumpPort_idle (by rw [hcu, oTokens_setO, if_pos rfl]) (by rw [hcu]; exact hw)

end

/-- Settles O26: each kind of route by its lemma, and a freed place by what waits at the port for it. -/
theorem neighbourLinks : Obligations.NeighbourLinks := by
  refine ⟨fun u v link chan x rest s hn hf hw => ?_, fun u link chan p s hu hp ho hwait hpass => ?_,
    fun u link chan p x s hu hp ho hwait hpass hused hcap => ?_⟩
  · have hex := exec_tokenArrive hn hf hw _ rfl _ rfl
    have hrest := offWire_wire (s := s) (wireKey v (oppositeLink link) chan) rest
    generalize hq : offWire s (wireKey v (oppositeLink link) chan) rest = q at hex hrest
    refine ⟨fun hu hk hl harr hh => ?_, fun hu hk hl hd hc => ?_, fun hk hl => ?_, fun h1 h2 => ?_⟩
    · rw [if_pos hk, deliver_port hu (by rw [← hq]; exact hl) (by rw [← hq]; exact harr) (by rw [← hq]; exact hh)] at hex
      refine ⟨_, hex, ?_, ?_, ?_, fun k => ?_⟩
      · rw [addUnitCtr_rest, ← hq]
        rfl
      · rw [addUnitCtr_cu, cu_setCu_same, qTokens_setQ, if_pos rfl, ← hq]
        rfl
      · rw [addUnitCtr_rest]
        exact hrest
      · rw [State.cx, addUnitCtr_cu, cu_setCu_same, ← hq]
        rfl
    · have heng : q.eng u = s.eng u := by rw [← hq]; rfl
      rw [if_pos hk, deliver_engine hu (by rw [heng]; exact hl) (by rw [heng]; exact hd) (by rw [heng]; exact hc)] at hex
      refine ⟨_, hex, ?_, by rw [engineTook_eng, heng], ?_⟩
      · rw [engineTook_regionsOnly.eq, ← hq]
        rfl
      · rw [engineTook_regionsOnly.eq]
        exact hrest
    · rw [if_neg (by omega), if_pos hk] at hex
      refine ⟨_, hex, ?_, fun hc => ?_⟩
      · rw [passThrough_rest, ← hq]
        rfl
      · rw [passThrough_noCredit (by rw [← hq]; exact hl) (by rw [← hq]; exact hc), ← hq]
        rfl
    · rw [if_neg h1, if_neg h2] at hex
      refine ⟨_, hex, by rw [← hq]; rfl, ?_, hrest⟩
      rw [fabric_updFab, if_pos rfl, ← hq]
      rfl
  · refine ⟨fun h => ?_, fun h => exec_creditReturn_none h⟩
    have hex := exec_creditReturn_port h hu hp hpass
    rw [pumpPort_idle (s := placeFreed s u link chan) ho hwait] at hex
    exact ⟨_, hex, rfl, placeFreed_used⟩
  · have hcred : (placeFreed s u link chan).credit u link chan = true := by
      rw [State.credit, placeFreed_used, placeFreed, capacity_updFab rfl]
      exact decide_eq_true (by omega)
    have hex := exec_creditReturn_port (hused ▸ hcap) hu hp hpass
    rw [show pumpFuel = 63 + 1 from rfl, pumpPort_sends (s := placeFreed s u link chan) hp ho hwait hcred] at hex
    refine ⟨_, hex, ?_, ?_, ?_, ?_⟩
    · rw [sendToken_linksOnly.eq]
      rfl
    · show ((((placeFreed s u link chan).updCu u fun c => c.setO p []).sendToken u link chan x).cu u).oTokens p = []
      rw [show (((placeFreed s u link chan).updCu u fun c => c.setO p []).sendToken u link chan x).cu u = (s.cu u).setO p [] from
        cu_setCu_same _ _ _, oTokens_setO, if_pos rfl]
    · rw [sendToken_used]
      show count ((placeFreed s u link chan).fabric u).used _ + 1 = _
      rw [placeFreed_used]
      omega
    · rw [sendToken_wire]
      rfl

end Sys2Proof.Proofs
end

section
/-! PROOFS. The start actions of a schedule entry: contexts, lists, releases and fences. -/

namespace Sys2Proof.Proofs

open Sys2Proof Sys2Proof.Machine Sys2Proof.Laws

/-! ### A no-op that is counted (R266, R525) -/

theorem noopSched_count (s : State) (r : Nat) :
    s.noopSched r = { s with rgns := (s.noopSched r).rgns } ∧
      count ((s.noopSched r).rgn r).ctr (ctrKey 25 0) = count (s.rgn r).ctr (ctrKey 25 0) + 1 := by
  refine ⟨rfl, ?_⟩
  rw [State.noopSched, addCtr_eq, rgn_updRgn, if_pos rfl, count_bump, if_pos rfl]

/-! ### CTXSTART (R81, R103, R104) -/

section

variable {s : State} {f : Fire} {u k : Nat}

theorem exec_ctxStart (hu : (s.rectUnits f.region f.op).filter (fun u => !(isMu u)) = [u]) :
    exec (.ctxStart f) s = .next (s.startCtx f.region u (f.op.bits 25 24)) := by
  have hex : exec (.ctxStart f) s = .next (s.actCtx f) := rfl
  rw [hex, State.actCtx, hu]
  rfl

/-- A context as it stands once it is ACTIVE: one that was DONE begins at its entry point. -/
def startedCtx (x : Ctx) : Ctx := { x with st := .active, pc := if x.st = .done then x.entry else x.pc }

/-- The unit once context `k` is ACTIVE, where nothing waits for the array. -/
def startedCu (c : Cu) (k : Nat) : Cu := { c.setCtx k (startedCtx (c.ctxAt k)) with active := some k, latch := none }

theorem startedCu_ctxAt (c : Cu) (k j : Nat) : (startedCu c k).ctxAt j = if j = k then startedCtx (c.ctxAt k) else c.ctxAt j :=
  ctxAt_setCtx c k j (startedCtx (c.ctxAt k))

theorem startedCu_promote {c : Cu} (ha : c.arr = none) (hq : c.que = none) (hrem : (c.ctxAt k).rem = none)
    (hque : (c.ctxAt k).que = none) (hend : c.endedWaiting = false) : (startedCu c k).promote = startedCu c k := by
  refine promote_none ha hq (fillPlace_none (fun j hj hd => ?_) fun i hi => ?_)
  · rw [startedCu_ctxAt] at hd ⊢
    split at hd
    · cases hd
    · rename_i hjk
      rw [if_neg hjk]
      exact takeSaved_of_endedWaiting hend hj hd
  · obtain rfl : k = i := Option.some.inj hi
    rw [startedCu_ctxAt, if_pos rfl]
    exact takeSaved_eq_none hrem hque

theorem start_eq {c : Cu} (hst : (c.ctxAt k).st = .ready ∨ (c.ctxAt k).st = .done) : c.start k = (startedCu c k).promote := by
  obtain h | h := hst
  · simp [Cu.start, startedCu, startedCtx, h]
  · simp [Cu.start, startedCu, startedCtx, h]

/-- A start action on a free unit makes its context ACTIVE. -/
theorem startCtx_free {r : Nat} (hst : (s.cx u k).st = .ready ∨ (s.cx u k).st = .done) (hact : (s.cu u).active = none)
    (hsw : (s.cu u).pendSw = none) (ha : (s.cu u).arr = none) (hq : (s.cu u).que = none) (hrem : (s.cx u k).rem = none)
    (hque : (s.cx u k).que = none) (hend : (s.cu u).endedWaiting = false) (hh : ∀ j, j < 4 → (s.cx u j).hold = none)
    (hf : (s.cu u).faultAt ≠ some s.time.now) : s.startCtx r u k =
      s.setCu u { startedCu (s.cu u) k with startMark := some ⟨s.time.now, k, (s.cx u k).st, (s.cx u k).pc⟩ } := by
  have hst' : ((s.cu u).ctxAt k).st = .ready ∨ ((s.cu u).ctxAt k).st = .done := hst
  have hidle : s.startCtx r u k = s.startIdle u k (s.cu u) := by
    obtain h | h := hst'
    · simp [State.startCtx, hf, h, hact, hsw]
    · simp [State.startCtx, hf, h, hact, hsw]
  rw [hidle, State.startIdle, hq, start_eq hst', startedCu_promote ha hq hrem hque hend]
  refine pumpHold_none (by rw [cu_setCu_same]; exact ha) fun j hj => ?_
  rw [State.cx, cu_setCu_same]
  show ((startedCu (s.cu u) k).ctxAt j).hold = none
  rw [startedCu_ctxAt]
  split
  · rename_i e
    exact e ▸ hh j hj
  · exact hh j hj

/-- One on a busy unit requests a switch. -/
theorem startCtx_busy {r j : Nat} (hst : (s.cx u k).st = .ready ∨ (s.cx u k).st = .done) (hact : (s.cu u).active = some j)
    (hjk : j ≠ k) (hsw : (s.cu u).pendSw = none) (hf : (s.cu u).faultAt ≠ some s.time.now)
    (hm : ∀ m, (s.cu u).startMark = some m → m.time ≠ s.time.now) :
    s.startCtx r u k = s.setCu u { s.cu u with pendSw := some k, swByAction := true } := by
  unfold State.cx at hst
  cases hmark : (s.cu u).startMark with
  | none =>
    obtain h | h := hst
    · simp [State.startCtx, hf, h, hact, hsw, hjk, hmark]
    · simp [State.startCtx, hf, h, hact, hsw, hjk, hmark]
  | some m =>
    obtain h | h := hst
    · simp [State.startCtx, hf, h, hact, hsw, hjk, hmark, hm m hmark]
    · simp [State.startCtx, hf, h, hact, hsw, hjk, hmark, hm m hmark]

theorem startCtx_noop {r : Nat} (hst : (s.cx u k).st = .empty ∨ (s.cx u k).st = .faulted) (hf : (s.cu u).faultAt ≠ some s.time.now) :
    s.startCtx r u k = s.noopSched r := by
  unfold State.cx at hst
  obtain h | h := hst
  · simp [State.startCtx, hf, h]
  · simp [State.startCtx, hf, h]

end

/-! ### LISTSTART (R163, R164, R189, R213) -/

section

variable {s : State} {f : Fire} {r m e l b : Nat}

theorem exec_listStart (hm : (s.rectUnits f.region f.op).filter isMu = [m]) : exec (.listStart f) s =
    .next (s.startList f.region m (f.op.bits 25 24) (f.op.bits 29 26) (s.bankFor f.region f.inst)) := by
  have hex : exec (.listStart f) s = .next (s.actList f) := rfl
  rw [hex, State.actList, hm]
  rfl

theorem eng_updEng_ne {h : Eng → Eng} {j : Nat} (hj : j ≠ e) : (s.updEng m e h).eng m j = s.eng m j := by
  rw [State.eng, mu_updEng, engAt_setEng, if_neg hj]
  rfl

/-- The engine as a LISTSTART of list `l` leaves it: the staged list runs, another's first burst is sent for. -/
def startedEng (s : State) (m l b : Nat) (g : Eng) : Eng :=
  if l = g.staged then { g with st := .run, started := true, list := l, bank := b }
  else { g.sendBurst (s.muFenced m) (s.listStart m g l) with
    st := .wait, started := true, list := l, staged := l, bank := b, queue := [] }

theorem startedEng_other {g : Eng} (h : l ≠ g.staged) : (startedEng s m l b g).st = .wait ∧ (startedEng s m l b g).list = l ∧
    (startedEng s m l b g).bank = b ∧ (s.muFenced m = false → (startedEng s m l b g).burst = some (s.listStart m g l)) ∧
    (s.muFenced m = true → (startedEng s m l b g).burst = none ∧ (startedEng s m l b g).burstAsk = some (s.listStart m g l)) := by
  rw [startedEng, if_neg h]
  cases s.muFenced m with
  | true => exact ⟨rfl, rfl, rfl, fun h => Bool.noConfusion h, fun _ => ⟨rfl, rfl⟩⟩
  | false => exact ⟨rfl, rfl, rfl, fun _ => rfl, fun h => Bool.noConfusion h⟩

theorem startList_starts (hst : (s.eng m e).st = .idle) (hr : (s.eng m e).resume = false) (hl : l < (s.eng m e).lists.length)
    (hb : FMap.get ([] : List W64) (s.eng m e).banks b ≠ []) :
    s.startList r m e l b = s.updEng m e (startedEng s m l b) := by
  have hready : (decide ((s.eng m e).lists.length ≤ l) || (FMap.get ([] : List W64) (s.eng m e).banks b).isEmpty) = false := by
    simpa [hl] using hb
  have hrun : ((s.eng m e).st != EngState.idle) = false := by simp [hst]
  have heq : s.startList r m e l b = s.updEng m e fun g => if l = (s.eng m e).staged then
      { g with st := .run, started := true, list := l, bank := b }
      else { g.sendBurst (s.muFenced m) (s.listStart m (s.eng m e) l) with
        st := .wait, started := true, list := l, staged := l, bank := b, queue := [] } := by
    unfold State.startList
    dsimp only
    rw [hrun, hr, hready, if_neg Bool.false_ne_true, if_neg Bool.false_ne_true, if_neg Bool.false_ne_true]
    split
    · rfl
    · rfl
  rw [heq, updEng_eq, updEng_eq]
  rfl

theorem startList_resumes (hst : (s.eng m e).st = .idle) (hr : (s.eng m e).resume = true) :
    s.startList r m e l b = s.updEng m e fun g => { g with st := .run, started := true, resume := false } := by
  simp [State.startList, hst, hr]

theorem startList_noop (hst : (s.eng m e).st ≠ .idle) : s.startList r m e l b = s.noopSched r := by
  simp [State.startList, hst]

end

/-! ### RELEASE (R179) -/

theorem mem_cons (l : NatSet) (a i : Nat) : NatSet.mem (a :: l) i = true ↔ i = a ∨ NatSet.mem l i = true := by
  unfold NatSet.mem
  rw [List.any_cons, Bool.or_eq_true, beq_iff_eq, eq_comm]

theorem mem_ins (l : NatSet) (k i : Nat) : NatSet.mem (NatSet.ins l k) i = true ↔ i = k ∨ NatSet.mem l i = true := by
  induction l with
  | nil => exact mem_cons [] k i
  | cons a l ih =>
    unfold NatSet.ins
    split
    · rename_i e
      rw [mem_cons, e, or_self_left]
    · split
      · exact mem_cons _ k i
      · rw [mem_cons, ih, mem_cons, or_left_comm]

/-- The state is as it was but for the memory units and what the regions hold. -/
def EnginesOnly (s t : State) : Prop := t = { s with mus := t.mus, rgns := t.rgns }

theorem EnginesOnly.trans {s t v : State} (h : EnginesOnly s t) (k : EnginesOnly t v) : EnginesOnly s v :=
  Eq.trans k (by conv_lhs => rw [show t = _ from h])

section

variable {s : State} {r m id e : Nat}

/-- The part of a release at one engine. -/
def releaseEng (r m id : Nat) (s : State) (e : Nat) : State :=
  let g := s.eng m e
  let mark := g.desc.bind fun d => g.markAt d.2
  let held := g.st == .hold && mark.any fun p => p.2.bits 25 24 == 1 && p.2.bits 39 32 == id
  if g.st == .empty then s
  else if held then (s.updEng m e fun g => { (g.pass ((mark.map (·.1)).getD 0)) with st := .run }).engGo m e
  else if NatSet.mem g.latches id then s.noopSched r
  else s.updEng m e fun g => { g with latches := NatSet.ins g.latches id }

theorem releaseMu_eq : s.releaseMu r m id = (List.range 4).foldl (releaseEng r m id) s := rfl

theorem exec_release {f : Fire} (hm : (s.rectUnits f.region f.op).filter isMu = [m]) :
    exec (.release f) s = .next ((List.range 4).foldl (releaseEng f.region m (f.op.bits 31 24)) s) := by
  have hex : exec (.release f) s = .next (s.actRelease f) := rfl
  rw [hex, State.actRelease, hm, List.foldl_cons, List.foldl_nil, releaseMu_eq]

/-- An engine after a release that it does not wait for: one with a task latches the id. -/
def Latched (id : Nat) (g h : Eng) : Prop := h = { g with latches := h.latches } ∧ (g.st = .empty → h = g) ∧
  (g.st ≠ .empty → ∀ i, NatSet.mem h.latches i = true ↔ i = id ∨ NatSet.mem g.latches i = true)

theorem releaseEng_latches (hh : (s.eng m e).st ≠ .hold) :
    EnginesOnly s (releaseEng r m id s e) ∧
      Latched id (s.eng m e) ((releaseEng r m id s e).eng m e) ∧ ∀ j, j ≠ e → (releaseEng r m id s e).eng m j = s.eng m j := by
  have hheld : ((s.eng m e).st == EngState.hold) = false := by simp [hh]
  unfold releaseEng
  dsimp only
  rw [hheld, Bool.false_and, if_neg Bool.false_ne_true]
  split
  · rename_i hst
    exact ⟨rfl, ⟨rfl, fun _ => rfl, fun h => absurd (beq_iff_eq.mp hst) h⟩, fun _ _ => rfl⟩
  · rename_i hst
    have hne : (s.eng m e).st ≠ .empty := fun h => hst (by rw [h]; rfl)
    split
    · rename_i hmem
      exact ⟨rfl, ⟨rfl, fun h => absurd h hne, fun _ i => ⟨.inr, fun h => h.elim (fun h => h ▸ hmem) fun h => h⟩⟩, fun _ _ => rfl⟩
    · exact ⟨rfl, ⟨by rw [eng_updEng], fun h => absurd h hne, fun _ i => by rw [eng_updEng]; exact mem_ins _ _ _⟩,
        fun j hj => eng_updEng_ne hj⟩

/-- The engines in turn: those below `n` have latched the id, the others are as they were. -/
theorem releaseEngs_latch {n : Nat} (hh : ∀ e, e < n → (s.eng m e).st ≠ .hold) :
    EnginesOnly s ((List.range n).foldl (releaseEng r m id) s) ∧
      ∀ e, if e < n then Latched id (s.eng m e) (((List.range n).foldl (releaseEng r m id) s).eng m e)
        else ((List.range n).foldl (releaseEng r m id) s).eng m e = s.eng m e := by
  induction n with
  | zero => exact ⟨rfl, fun e => rfl⟩
  | succ n ih =>
    obtain ⟨hrest, heng⟩ := ih fun e he => hh e (by omega)
    rw [List.range_succ, List.foldl_append, List.foldl_cons, List.foldl_nil]
    generalize (List.range n).foldl (releaseEng r m id) s = t at hrest heng ⊢
    have hn := heng n
    rw [if_neg (by omega)] at hn
    obtain ⟨hrest', hlatch, hother⟩ := releaseEng_latches (s := t) (r := r) (id := id) (m := m) (e := n) (by rw [hn]; exact hh n (by omega))
    refine ⟨hrest.trans hrest', fun e => ?_⟩
    have he := heng e
    obtain h | rfl | h := Nat.lt_trichotomy e n
    · rw [if_pos h] at he
      rw [if_pos (by omega), hother e (by omega)]
      exact he
    · rw [if_pos (by omega), ← hn]
      exact hlatch
    · rw [if_neg (by omega)] at he
      rw [if_neg (by omega), hother e (by omega)]
      exact he

end

/-- Settles O36: each action by the lemma of what it does at the one unit or engine that it names. -/
theorem startActions : Obligations.StartActions := by
  refine ⟨fun f s => rfl, fun f u s hu => ?_, fun f m s hm => ?_, fun f m s hm hh => ?_, fun f s => ?_⟩
  · have hex := exec_ctxStart hu
    refine ⟨fun hst hact hsw ha hq hrem hque hend hh hf => ?_, fun j hst hact hjk hsw hf hmark => ?_, fun hst hf => ?_⟩
    · rw [startCtx_free hst hact hsw ha hq hrem hque hend hh hf] at hex
      generalize ht : s.setCu u _ = t at hex
      have hcu : t.cu u = { startedCu (s.cu u) (f.op.bits 25 24) with
          startMark := some ⟨s.time.now, f.op.bits 25 24, (s.cx u (f.op.bits 25 24)).st, (s.cx u (f.op.bits 25 24)).pc⟩ } := by
        rw [← ht, cu_setCu_same]
      have hcx : t.cx u (f.op.bits 25 24) = startedCtx (s.cx u (f.op.bits 25 24)) := by
        rw [State.cx, hcu]
        exact (startedCu_ctxAt _ _ _).trans (if_pos rfl)
      refine ⟨t, hex, by rw [← ht]; rfl, by rw [hcu]; rfl, ?_⟩
      rw [hcx]
      exact ⟨rfl, rfl, fun _ _ => rfl, fun v hv => by rw [← ht, cu_setCu, if_neg hv]⟩
    · rw [startCtx_busy hst hact hjk hsw hf hmark] at hex
      exact ⟨_, hex, rfl, cu_setCu_same _ _ _, fun v hv => by rw [cu_setCu, if_neg hv]⟩
    · rw [startCtx_noop hst hf] at hex
      exact ⟨_, hex, noopSched_count _ _⟩
  · have hex := exec_listStart hm
    refine ⟨fun hst hr hl hb => ?_, fun hst hr => ?_, fun hst => ?_⟩
    · rw [startList_starts hst hr hl hb] at hex
      refine ⟨_, hex, rfl, fun j hj => eng_updEng_ne hj, fun hs => ?_, fun hs => ?_⟩
      · rw [eng_updEng, startedEng, if_pos hs]
      · rw [eng_updEng]
        exact startedEng_other hs
    · rw [startList_resumes hst hr] at hex
      exact ⟨_, hex, rfl, fun j hj => eng_updEng_ne hj, eng_updEng⟩
    · rw [startList_noop hst] at hex
      exact ⟨_, hex, noopSched_count _ _⟩
  · obtain ⟨hrest, heng⟩ := releaseEngs_latch (r := f.region) (id := f.op.bits 31 24) hh
    refine ⟨_, exec_release hm, hrest, fun e he => ?_⟩
    have h := heng e
    rw [if_pos he] at h
    exact h
  · refine ⟨_, rfl, rfl, ?_, fun q hq => ?_⟩
    · exact (rgn_updRgn _ _ _ _).trans (if_pos rfl)
    · exact (rgn_updRgn _ _ _ _).trans (if_neg hq)

end Sys2Proof.Proofs
end

section
/-! PROOFS. LOAD, from its command to its verdict and its windows, and UNLOAD. -/

namespace Sys2Proof.Proofs

open Sys2Proof Sys2Proof.Machine Sys2Proof.Laws

variable {s t v : State} {h : W64} {c : Cmd}

/-! ### The command that a handle names (R355) -/

theorem cmd_congr (hh : t.host = s.host) : t.cmd h = s.cmd h := by rw [State.cmd, hh]; rfl

theorem handle_of_cmd (hc : s.cmd h = some c) : c.handle = h := by
  have := List.find?_some hc
  simpa using this

/-- Changes of the commands that leave every handle alone: a handle still names what became of its command. -/
theorem find?_map_handle {g : Cmd → Cmd} (hg : ∀ c, (g c).handle = c.handle) (l : List Cmd) :
    (l.map g).find? (fun c => c.handle == h) = (l.find? fun c => c.handle == h).map g := by
  have hp : (fun c : Cmd => c.handle == h) ∘ g = fun c => c.handle == h := funext fun c => by rw [Function.comp_apply, hg]
  rw [List.find?_map, hp]

theorem cmd_updCmd {f : Cmd → Cmd} (hc : s.cmd h = some c) (hf : ∀ c, (f c).handle = c.handle := by exact fun _ => rfl) :
    (s.updCmd h f).cmd h = some (f c) := by
  have hm : (s.updCmd h f).cmd h = (s.cmd h).map fun c => if c.handle == h then f c else c := by
    refine find?_map_handle (fun c => ?_) s.host.cmds
    split
    · exact hf c
    · rfl
  simp [hm, hc, handle_of_cmd hc]

theorem cmd_due (hc : s.cmd h = some c) (status detail : Nat) :
    (s.due h status detail).cmd h = some { c with phase := .due, status := status, detail := BitVec.ofNat 64 (detail % 2 ^ 63) } :=
  cmd_updCmd hc

theorem cmd_begin (hc : s.cmd h = some c) : (s.begin h).cmd h = some { c with phase := .running } := cmd_updCmd hc

theorem cmd_keep (hc : s.cmd h = some c) (k v : Nat) : (s.keep h k v).cmd h = some { c with aux := FMap.set 0 c.aux k v } :=
  cmd_updCmd hc

theorem at_of_aux_eq_set {a : FMap Nat} {k v : Nat} (ha : c.aux = FMap.set 0 a k v) : c.at k = v := by
  rw [Cmd.at, ha]
  exact get_set_same _ _ _ _

theorem cmd_of_openCmd {op : Nat} (hc : s.openCmd h op = some c) : s.cmd h = some c := (Option.filter_eq_some_iff.mp hc).1

/-! ### What reads through the slices, and copies, leave alone (R206, R290, R455) -/

/-- Only registers, the error log, the regions, the memories and the slices differ; the scratchpads and the flash window are as they
were, and each region holds an image where it held one. -/
structure LineWork (s t : State) : Prop where
  rest : t = { s with regs := t.regs, log := t.log, rgns := t.rgns, mem := t.mem, slices := t.slices }
  spad : t.mem.spad = s.mem.spad
  flash : t.mem.flash = s.mem.flash
  img : ∀ r, (t.rgn r).img.isSome = (s.rgn r).img.isSome

theorem LineWork.refl : LineWork s s := ⟨rfl, rfl, rfl, fun _ => rfl⟩

theorem LineWork.trans (a : LineWork s t) (b : LineWork t v) : LineWork s v where
  rest := Eq.trans b.rest (by conv_lhs => rw [a.rest])
  spad := b.spad.trans a.spad
  flash := b.flash.trans a.flash
  img r := (b.img r).trans (a.img r)

theorem LineWork.host (a : LineWork s t) : t.host = s.host := by rw [a.rest]

theorem ite_lineWork {p : Prop} [Decidable p] {a b : State} (ha : LineWork s a) (hb : LineWork s b) : LineWork s (if p then a else b) := by
  split
  · exact ha
  · exact hb

theorem foldl_lineWork {α : Type} {g : State → α → State} {l : List α} (hg : ∀ t x, LineWork t (g t x)) :
    LineWork s (l.foldl g s) :=
  foldl_keeps (LineWork s) g l s .refl fun _ _ a => a.trans (hg _ _)

/-- A change of a region that leaves it with an image where it had one. -/
theorem updRgn_lineWork {r : Nat} {g : Region → Region} (hg : (g (s.rgn r)).img.isSome = (s.rgn r).img.isSome) :
    LineWork s (s.updRgn r g) where
  rest := rfl
  spad := rfl
  flash := rfl
  img q := by
    rw [rgn_updRgn]
    split
    next e => rw [e, hg]
    · rfl

theorem updSlice_lineWork {i : Nat} {g : Slice → Slice} : LineWork s (s.updSlice i g) := ⟨rfl, rfl, rfl, fun _ => rfl⟩

theorem setReg_lineWork {o : Nat} {x : W64} : LineWork s (s.setReg o x) := ⟨rfl, rfl, rfl, fun _ => rfl⟩

theorem setRegBits_lineWork {o hi lo x : Nat} : LineWork s (s.setRegBits o hi lo x) := setReg_lineWork

theorem addRegSat_lineWork {o hi lo n : Nat} : LineWork s (s.addRegSat o hi lo n) := setReg_lineWork

theorem addReg_lineWork {o n : Nat} : LineWork s (s.addReg o n) := setReg_lineWork

theorem updCopy_lineWork {dom sheet : Nat} {g : Copy → Copy} : LineWork s (s.updCopy dom sheet g) := ⟨rfl, rfl, rfl, fun _ => rfl⟩

theorem addCtr_lineWork {r w p n : Nat} : LineWork s (s.addCtr r w p n) := updRgn_lineWork rfl

theorem countErr_lineWork {src k : Nat} : LineWork s (s.countErr src k) := ite_lineWork addReg_lineWork .refl

theorem countT_lineWork {r w n : Nat} : LineWork s (s.countT r w n) := ite_lineWork addCtr_lineWork .refl

theorem countHs_lineWork {a w n : Nat} : LineWork s (s.countHs a w n) := ite_lineWork addReg_lineWork .refl

theorem logRec_lineWork {src kind synd whr : Nat} {own : Option (Nat × Nat)} : LineWork s (s.logRec src kind synd whr own) :=
  ite_lineWork ⟨rfl, rfl, rfl, fun _ => rfl⟩ ⟨rfl, rfl, rfl, fun _ => rfl⟩

theorem countWord_lineWork {src u : Nat} {poi : Bool} {whr : Nat} {own : Option (Nat × Nat)} :
    LineWork s (s.countWord src u poi whr own) := by
  unfold State.countWord
  extract_lets ecc
  have he : ∀ t p, LineWork t (ecc t p) := by
    intro t p
    unfold ecc
    split
    · exact addCtr_lineWork
    · exact .refl
  exact ite_lineWork (countErr_lineWork.trans (he _ 0)) (ite_lineWork (countErr_lineWork.trans (he _ 0))
    (ite_lineWork ((countErr_lineWork.trans logRec_lineWork).trans (he _ 1)) (ite_lineWork (countErr_lineWork.trans (he _ 1)) .refl)))

theorem writeBack_lineWork {who a : Nat} {r : Row} {mask : BitVec 16} : LineWork s (s.writeBack who a r mask) := by
  have hm : LineWork s (s.updMem fun m => m.putDramRow a r mask) := ⟨rfl, rfl, rfl, fun _ => rfl⟩
  exact (hm.trans countHs_lineWork).trans countT_lineWork

theorem readDram_lineWork {who l : Nat} : LineWork s (s.readDram who l) :=
  ((foldl_lineWork fun _ _ => countWord_lineWork).trans countHs_lineWork).trans countT_lineWork

theorem cleanOthers_lineWork {who i l : Nat} {part : Option Nat} : LineWork s (s.cleanOthers who i part l) := by
  unfold State.cleanOthers
  exact (foldl_lineWork fun _ _ => ite_lineWork writeBack_lineWork .refl).trans updSlice_lineWork

theorem dropOthers_lineWork {who i l : Nat} {part : Option Nat} : LineWork s (s.dropOthers who i part l) :=
  cleanOthers_lineWork.trans updSlice_lineWork

theorem allocLine_lineWork {who i a : Nat} {part : Option Nat} {dirty : Bool} {row : Row} :
    LineWork s (s.allocLine who i part a dirty row) := by
  unfold State.allocLine
  dsimp only
  split
  · exact updSlice_lineWork
  · split
    · exact ite_lineWork writeBack_lineWork .refl
    · exact (ite_lineWork writeBack_lineWork .refl).trans updSlice_lineWork

theorem lookWay_lineWork {i set w : Nat} : LineWork s (s.lookWay i set w) := by
  unfold State.lookWay
  extract_lets k x src put counted p q whr
  have hc : ∀ t o, LineWork t (counted t o) := fun _ _ => ite_lineWork .refl countErr_lineWork
  have hp : LineWork s p := hc _ _
  have hq : LineWork p q := hc _ _
  refine ite_lineWork .refl (ite_lineWork (hp.trans updSlice_lineWork) (ite_lineWork ((hp.trans hq).trans updSlice_lineWork) ?_))
  exact (((hp.trans hq).trans updSlice_lineWork).trans logRec_lineWork).trans updSlice_lineWork

theorem lookTags_lineWork {i set : Nat} : LineWork s (s.lookTags i set) := foldl_lineWork fun _ _ => lookWay_lineWork

theorem lookLine_lineWork {who i a : Nat} {part : Option Nat} : LineWork s (s.lookLine who i part a).1 := by
  unfold State.lookLine
  extract_lets t src drop k gone
  have ht : LineWork s t := lookTags_lineWork
  refine ht.trans ?_
  split
  · exact countT_lineWork
  next l _ =>
    extract_lets decoded
    have hd : LineWork t (decoded t) := foldl_lineWork fun _ _ => countWord_lineWork
    split
    · refine .trans (.trans (countErr_lineWork.trans (foldl_lineWork fun _ _ => ?_)) updSlice_lineWork) countT_lineWork
      exact ite_lineWork countErr_lineWork (ite_lineWork countErr_lineWork .refl)
    · split
      · have hg : LineWork ((drop (decoded t)).countT who 6 128) (((drop (decoded t)).countT who 6 128).updMem gone) :=
          ⟨rfl, rfl, rfl, fun _ => rfl⟩
        exact ((hd.trans updSlice_lineWork).trans countT_lineWork).trans hg
      · exact (hd.trans updSlice_lineWork).trans countT_lineWork

theorem readLine_lineWork {who l : Nat} {part : Option Nat} {alloc : Bool} : LineWork s (s.readLine who part alloc l) := by
  unfold State.readLine
  dsimp only
  split
  · exact lookLine_lineWork
  · exact lookLine_lineWork.trans (cleanOthers_lineWork.trans (readDram_lineWork.trans (ite_lineWork allocLine_lineWork .refl)))

theorem hubRead_lineWork {who a n : Nat} : LineWork s (s.hubRead who a n) := foldl_lineWork fun _ _ => readLine_lineWork

/-! ### LOAD begins (R237, R349) -/

/-- Commands and what reads through the slices change differ. -/
structure ReadsOnly (s t : State) : Prop where
  rest : t = { s with host := t.host, regs := t.regs, log := t.log, rgns := t.rgns, mem := t.mem, slices := t.slices }
  spad : t.mem.spad = s.mem.spad
  flash : t.mem.flash = s.mem.flash

theorem ReadsOnly.trans (a : ReadsOnly s t) (b : ReadsOnly t v) : ReadsOnly s v where
  rest := Eq.trans b.rest (by conv_lhs => rw [a.rest])
  spad := b.spad.trans a.spad
  flash := b.flash.trans a.flash

theorem LineWork.readsOnly (a : LineWork s t) : ReadsOnly s t where
  rest := Eq.trans a.rest (by rw [a.host])
  spad := a.spad
  flash := a.flash

theorem updCmd_readsOnly {f : Cmd → Cmd} : ReadsOnly s (s.updCmd h f) := ⟨rfl, rfl, rfl⟩

theorem cmd_keepWords (hc : s.cmd h = some c) (ws : List W64) : ∃ a, (s.keepWords h ws).cmd h = some { c with aux := a } :=
  ⟨_, cmd_updCmd hc⟩

/-- An image in device memory is read, and the command waits for its verdict. -/
theorem loadRead_reads {d : Cmd} (hd : s.cmd c.handle = some d) (hw : isHostWin (c.word 1).toNat 1 = false) (ep : Bool) :
    ReadsOnly s (s.loadRead c ep) ∧ ∃ (a : FMap Nat) (z : Nat × Nat), (s.loadRead c ep).cmd c.handle =
      some { d with aux := FMap.set 0 a readStage 2, status := z.1, detail := BitVec.ofNat 64 z.2 } := by
  unfold State.loadRead
  extract_lets n a ws marked t z w
  have ht : LineWork s t := by
    unfold t
    rw [hw]
    exact hubRead_lineWork
  obtain ⟨aux, hk⟩ := cmd_keepWords ((cmd_congr ht.host).trans hd) ws
  refine ⟨ht.readsOnly.trans (updCmd_readsOnly.trans (updCmd_readsOnly.trans updCmd_readsOnly)), aux, z, ?_⟩
  exact cmd_updCmd (cmd_keep hk readStage 2)

/-- A LOAD of any form whose turn has come. -/
theorem loadBegin_eq {form : Cmd → Bool} (hc : s.openCmd h 1 = some c) (hf : form c = true) (ht : s.loadTurn c = true)
    (hr : s.loadReady c.region = true) :
    s.loadBegin h form = if isHostWin (c.word 1).toNat 1 then (s.begin h).keep h readStage 1 else (s.begin h).loadRead c false := by
  simp [State.loadBegin, hc, Option.filter_some, hf, ht, hr]

/-- Its image is read, or asked of the host. -/
theorem loadBegin_reads {form : Cmd → Bool} (hc : s.openCmd h 1 = some c) (hf : form c = true) (ht : s.loadTurn c = true)
    (hr : s.loadReady c.region = true) :
    ReadsOnly s (s.loadBegin h form) ∧ ∃ d, (s.loadBegin h form).cmd h = some d ∧ d.phase = .running ∧
      d.at readStage = if isHostWin (c.word 1).toNat 1 then 1 else 2 := by
  have hb := cmd_begin (cmd_of_openCmd hc)
  rw [loadBegin_eq hc hf ht hr]
  cases hw : isHostWin (c.word 1).toNat 1 with
  | true => exact ⟨updCmd_readsOnly.trans updCmd_readsOnly, _, cmd_keep hb readStage 1, rfl, at_of_aux_eq_set rfl⟩
  | false =>
    obtain rfl := handle_of_cmd (cmd_of_openCmd hc)
    obtain ⟨hread, a, z, hd⟩ := loadRead_reads hb hw false
    exact ⟨updCmd_readsOnly.trans hread, _, hd, rfl, at_of_aux_eq_set rfl⟩

/-- Each form of LOAD begins by its own instruction. -/
theorem exec_load_form (h : W64) (c : Cmd) : ∃ form : Cmd → Bool, form c = true ∧ ∀ s : State,
    exec (if (c.word 0).bit 18 then .loadGuest h else if (c.word 0).bit 17 then .loadResume h else .load h) s =
      .next (s.loadBegin h form) := by
  cases hg : (c.word 0).bit 18 with
  | true => exact ⟨fun c => (c.word 0).bit 18, hg, fun _ => rfl⟩
  | false =>
    cases hr : (c.word 0).bit 17 with
    | true => exact ⟨fun c => (c.word 0).bit 17 && !(c.word 0).bit 18, by simp [hg, hr], fun _ => rfl⟩
    | false => exact ⟨fun c => !(c.word 0).bit 17 && !(c.word 0).bit 18, by simp [hg, hr], fun _ => rfl⟩

/-! ### Pins and fetches (R290, R298, R302) -/

theorem makeRoom_lineWork {dom q need a n : Nat} (hm : s.makeRoom dom q need a n = some t) : LineWork s t := by
  induction n generalizing s with
  | zero => cases hm
  | succ n ih =>
    rw [State.makeRoom] at hm
    split at hm
    · cases hm
      exact .refl
    · split at hm
      · exact updCopy_lineWork.trans (ih hm)
      · cases hm

theorem startFetch_lineWork {dom sheet prio a : Nat} : LineWork s (s.startFetch dom sheet prio a).1 := by
  unfold State.startFetch
  dsimp only
  split
  · exact .refl
  · split
    · dsimp only
      exact updCopy_lineWork
    · split
      · exact .refl
      · split
        next t hm =>
          dsimp only
          exact (makeRoom_lineWork hm).trans updCopy_lineWork
        · exact ⟨rfl, rfl, rfl, fun _ => rfl⟩

theorem pinSheet_lineWork {r pin prio sheet : Nat} : LineWork s (s.pinSheet r pin prio sheet).1 :=
  updCopy_lineWork.trans startFetch_lineWork

theorem unpinBy_lineWork {p : Nat → Bool} : LineWork s (s.unpinBy p) := ⟨rfl, rfl, rfl, fun _ => rfl⟩

theorem pinWin_lineWork {r w : Nat} : LineWork s (s.pinWin r w) :=
  foldl_lineWork fun _ _ => ite_lineWork (pinSheet_lineWork.trans addRegSat_lineWork) pinSheet_lineWork

theorem showWres_lineWork {r : Nat} : LineWork s (s.showWres r) := ite_lineWork .refl setRegBits_lineWork

theorem pinAhead_lineWork {r : Nat} : LineWork s (s.pinAhead r) :=
  (unpinBy_lineWork.trans (foldl_lineWork fun _ _ => pinWin_lineWork)).trans showWres_lineWork

theorem countT2_lineWork {dom sheet w n : Nat} : LineWork s (s.countT2 dom sheet w n) :=
  (ite_lineWork addReg_lineWork .refl).trans countT_lineWork

theorem fillT1_lineWork {dom sheet : Nat} : LineWork s (s.fillT1 dom sheet) :=
  countT2_lineWork.trans (foldl_lineWork fun _ _ => ite_lineWork .refl allocLine_lineWork)

theorem formWindows_lineWork {r : Nat} : LineWork s (s.formWindows r) := by
  unfold State.formWindows
  split
  · exact .refl
  next i hi => exact addRegSat_lineWork.trans (updRgn_lineWork (congrArg Option.isSome hi).symm)

theorem pinShadows_lineWork {r : Nat} : LineWork s (s.pinShadows r) := by
  refine foldl_lineWork fun t sheet => ?_
  dsimp only
  split
  · exact pinSheet_lineWork.trans (updCopy_lineWork.trans addRegSat_lineWork)
  · exact ite_lineWork (pinSheet_lineWork.trans fillT1_lineWork) pinSheet_lineWork

theorem repin_lineWork {r : Nat} : LineWork s (s.repin r) :=
  ((setReg_lineWork.trans formWindows_lineWork).trans pinShadows_lineWork).trans (ite_lineWork pinAhead_lineWork showWres_lineWork)

/-! ### An image is written (R235) -/

theorem foldl_host {α : Type} {g : State → α → State} {l : List α} (hg : ∀ t x, (g t x).host = t.host) :
    (l.foldl g s).host = s.host :=
  foldl_keeps (fun t => t.host = s.host) g l s rfl fun _ _ e => (hg _ _).trans e

theorem dropGuests_host (s : State) (r : Nat) : (s.dropGuests r).host = s.host := foldl_host fun _ _ => foldl_host fun _ _ => rfl

theorem loadRoutes_host (s : State) (r : Nat) (m : Image) : (s.loadRoutes r m).host = s.host := by
  unfold State.loadRoutes
  refine (foldl_host ?_).trans (foldl_host ?_)
  · exact fun _ _ => rfl
  · exact fun _ _ => rfl

theorem loadBuf_host (s : State) (x : Sec) : (s.loadBuf x).host = s.host := by
  unfold State.loadBuf
  split
  · exact foldl_host fun _ _ => rfl
  · rfl

theorem setRange_host (s : State) (r bank : Nat) (l : List (W64 × W64)) : (s.setRange r bank l).host = s.host := foldl_host fun _ _ => rfl

theorem loadSched_host (s : State) (r : Nat) (l : List (W64 × W64)) : (s.loadSched r l).host = s.host := by
  unfold State.loadSched
  split
  · exact (setRange_host _ _ _ _).trans (setRange_host _ _ _ _)
  · exact setRange_host _ _ _ _

theorem touchLine_lineWork {i a : Nat} {part : Option Nat} : LineWork s (s.touchLine i part a) := updSlice_lineWork

theorem writeLine_lineWork {who i l : Nat} {part : Option Nat} {alloc : Bool} {r : Row} {mask : BitVec 16} :
    LineWork s (s.writeLine who i part alloc l r mask) := by
  unfold State.writeLine
  extract_lets t
  have ht : LineWork s t := lookTags_lineWork.trans dropOthers_lineWork
  refine ht.trans ?_
  split
  · exact updSlice_lineWork.trans touchLine_lineWork
  · exact ite_lineWork writeBack_lineWork (ite_lineWork allocLine_lineWork allocLine_lineWork)

theorem putLineFor_lineWork {who a : Nat} {r : Row} {mask : BitVec 16} : LineWork s (s.putLineFor who a r mask) := by
  unfold State.putLineFor
  exact (countT_lineWork.trans (ite_lineWork .refl readDram_lineWork)).trans writeLine_lineWork

theorem putDevWord_lineWork {a : Nat} {w : W64} {p : Bool} : LineWork s (s.putDevWord a w p) := by
  unfold State.putDevWord State.putLine
  exact putLineFor_lineWork

theorem putDevWords_lineWork {a : Nat} {l : List W64} : LineWork s (s.putDevWords a l) := by
  unfold State.putDevWords
  induction l generalizing s a with
  | nil => exact .refl
  | cons w l ih =>
    rw [putWords]
    exact putDevWord_lineWork.trans ih

theorem updRgn_host (s : State) (r : Nat) (f : Region → Region) : (s.updRgn r f).host = s.host := rfl

theorem writeImage_host (s : State) (r : Nat) (m : Image) : (s.writeImage r m).host = s.host := by
  unfold State.writeImage
  extract_lets s1 s2 s3 s4 s5 s6 s7
  have h2 : s2.host = s.host := (loadRoutes_host _ _ _).trans (dropGuests_host _ _)
  have h5 : s5.host = s2.host := calc
    s5.host = s4.host := foldl_host loadBuf_host
    _ = s3.host := foldl_host fun _ _ => rfl
    _ = s2.host := foldl_host fun _ _ => rfl
  have h6 : s6.host = s5.host := by
    unfold s6
    split
    · rfl
    · exact loadSched_host _ _ _
  have h7 : s7.host = s6.host := putDevWords_lineWork.host
  rw [updRgn_host, h7, h6, h5, h2]

theorem writeImage_img (s : State) (r : Nat) (m : Image) : ((s.writeImage r m).rgn r).img.isSome = true := by
  unfold State.writeImage
  extract_lets s1 s2 s3 s4 s5 s6 s7
  clear_value s7
  rw [rgn_updRgn, if_pos rfl]
  rfl

/-- A LOAD of the plain form leaves its region with an image, and touches no command. -/
theorem loadWrite_plain {m : Image} (hr : (c.word 0).bit 17 = false) (hg : (c.word 0).bit 18 = false) :
    (s.loadWrite c m).host = s.host ∧ ((s.loadWrite c m).rgn c.region).img.isSome = true := by
  have hw : LineWork (s.writeImage c.region m) (s.loadWrite c m) := by
    simp only [State.loadWrite, hr, hg, Bool.false_eq_true, if_false]
    exact unpinBy_lineWork.trans repin_lineWork
  exact ⟨hw.host.trans (writeImage_host _ _ _), (hw.img _).trans (writeImage_img _ _ _)⟩

/-! ### The verdict, and the wait for shadows (R235, R237, R302) -/

section

variable (hc : s.cmd h = some c) (hop : c.opcode = 1) (hrun : c.phase = .running)
include hc hop hrun

theorem loadVerifyDone_refused (hread : c.at readStage = 2) (hpin : c.at pinStage = 0) (hst : c.status ≠ 0)
    (hdet : c.detail.toNat < 2 ^ 63) :
    exec (.loadVerifyDone h) s = .next (s.due h c.status c.detail.toNat) ∧
      (s.due h c.status c.detail.toNat).cmd h = some { c with phase := .due } := by
  refine ⟨?_, ?_⟩
  · change execLoadVerifyDone h s = _
    simp [execLoadVerifyDone, hc, Option.filter_some, hop, hrun, hread, hpin, hst]
  · rw [cmd_due hc, Nat.mod_eq_of_lt hdet, BitVec.ofNat_toNat, BitVec.setWidth_eq]

theorem loadVerifyDone_accepted (hread : c.at readStage = 2) (hpin : c.at pinStage = 0) (hst : c.status = 0)
    (hr : (c.word 0).bit 17 = false) (hg : (c.word 0).bit 18 = false) (hcopy : (s.rgn c.region).copying = false)
    (hbad : firstBad (s.badTarget c.fn c.region (imageOf (c.kept (c.imageLen / 8)) c.imageLen) false) = none) :
    ∃ t d, exec (.loadVerifyDone h) s = .next t ∧ (t.rgn c.region).img.isSome = true ∧ t.cmd h = some d ∧
      (d.phase = .due ∧ d.status = 0 ∨ d.at pinStage = 1) := by
  obtain ⟨hhost, himg⟩ := loadWrite_plain (s := s) (m := imageOf (c.kept (c.imageLen / 8)) c.imageLen) hr hg
  generalize hu : s.loadWrite c (imageOf (c.kept (c.imageLen / 8)) c.imageLen) = u at hhost himg
  have hex : exec (.loadVerifyDone h) s = .next (if u.shadowsWait c.region then u.keep h pinStage 1 else u.due h 0 0) := by
    change execLoadVerifyDone h s = _
    simp [execLoadVerifyDone, hc, Option.filter_some, hop, hrun, hread, hpin, hst, hcopy, hg, hbad, hu]
  have hcu := (cmd_congr hhost).trans hc
  rw [hex]
  split
  · exact ⟨_, _, rfl, himg, cmd_keep hcu pinStage 1, .inr (at_of_aux_eq_set rfl)⟩
  · exact ⟨_, _, rfl, himg, cmd_due hcu 0 0, .inl ⟨rfl, rfl⟩⟩

theorem exec_shadowPinDone (hpin : c.at pinStage = 1) :
    exec (.shadowPinDone h) s = .next (if s.shadowsWait c.region then s else s.due h 0 0) := by
  change execShadowPinDone h s = _
  simp [execShadowPinDone, hc, Option.filter_some, hop, hrun, hpin]

end

/-! ### UNLOAD (R81, R241, R349, R353) -/

/-- The compute units, the commands, and the bytes of DRAM and of the scratchpads are as they were. -/
structure UnitsKept (s t : State) : Prop where
  cus : t.cus = s.cus
  host : t.host = s.host
  dram : t.mem.dram = s.mem.dram
  spad : t.mem.spad = s.mem.spad

theorem UnitsKept.refl : UnitsKept s s := ⟨rfl, rfl, rfl, rfl⟩

theorem UnitsKept.trans (a : UnitsKept s t) (b : UnitsKept t v) : UnitsKept s v :=
  ⟨b.cus.trans a.cus, b.host.trans a.host, b.dram.trans a.dram, b.spad.trans a.spad⟩

theorem Tallied.unitsKept (a : Tallied s t) : UnitsKept s t := by
  rw [show t = _ from a]
  exact ⟨rfl, rfl, rfl, rfl⟩

theorem ite_unitsKept {p : Prop} [Decidable p] {a b : State} (ha : UnitsKept s a) (hb : UnitsKept s b) :
    UnitsKept s (if p then a else b) := by
  split
  · exact ha
  · exact hb

theorem foldl_unitsKept {α : Type} {g : State → α → State} {l : List α} (hg : ∀ t x, UnitsKept t (g t x)) :
    UnitsKept s (l.foldl g s) :=
  foldl_keeps (UnitsKept s) g l s .refl fun _ _ a => a.trans (hg _ _)

theorem updMu_unitsKept {m : Nat} {f : Mu → Mu} : UnitsKept s (s.updMu m f) := ⟨rfl, rfl, rfl, rfl⟩

theorem serveRld_unitsKept {m : Nat} {f : Flit} : UnitsKept s (s.serveRld m f) := by
  have hr : UnitsKept (s.decodeSpad m (lineOf f.addr) 128) ((s.decodeSpad m (lineOf f.addr) 128).reply f (s.spadRow m f.addr)) :=
    ⟨rfl, rfl, rfl, rfl⟩
  exact (decodeSpad_tallied.unitsKept.trans hr).trans addUnitCtr_tallied.unitsKept

theorem unpark_unitsKept {m : Nat} : UnitsKept s (s.unpark m) := by
  unfold State.unpark
  exact updMu_unitsKept.trans (foldl_unitsKept fun _ _ => serveRld_unitsKept)

theorem forgetNacked_unitsKept {r : Nat} : UnitsKept s (s.forgetNacked r) := by
  unfold State.forgetNacked
  refine .trans (foldl_unitsKept fun _ _ => ite_unitsKept .refl ?_) (foldl_unitsKept fun _ _ => ite_unitsKept .refl ?_)
  · exact ⟨rfl, rfl, rfl, rfl⟩
  · exact ⟨rfl, rfl, rfl, rfl⟩

/-- A unit as the reset of its region leaves it. -/
def emptiedCu (c : Cu) : Cu := { Cu.empty with noops := c.noops, cancelled := c.cancelled, shiftStall := c.shiftStall }

/-- The units of a list emptied, one after another. -/
def emptyCus (s : State) (l : List Nat) : State := l.foldl (fun s u => s.updCu u emptiedCu) s

theorem emptyCus_host (s : State) (l : List Nat) : (emptyCus s l).host = s.host := foldl_host fun _ _ => rfl

theorem emptyCus_mem (s : State) (l : List Nat) : (emptyCus s l).mem = s.mem :=
  foldl_keeps (fun t : State => t.mem = s.mem) _ _ _ rfl fun _ _ e => e

theorem cx_updCu_emptiedCu (s : State) (u w k : Nat) : (s.updCu w emptiedCu).cx u k = if u = w then Ctx.empty else s.cx u k := by
  rw [State.cx, updCu_eq, cu_setCu]
  split
  · rfl
  · rfl

theorem cx_emptyCus {l : List Nat} {u : Nat} (hu : u ∈ l) (k : Nat) : (emptyCus s l).cx u k = Ctx.empty := by
  induction l generalizing s with
  | nil => cases hu
  | cons w l ih =>
    by_cases hl : u ∈ l
    · exact ih hl
    · obtain rfl : u = w := by simpa [hl] using hu
      refine foldl_keeps (fun t => t.cx u k = Ctx.empty) (fun t w => t.updCu w emptiedCu) l (s.updCu u emptiedCu) ?_ fun t w e => ?_
      · rw [cx_updCu_emptiedCu, if_pos rfl]
      · rw [cx_updCu_emptiedCu, e, ite_self]

theorem newGens_unitsKept {u : Nat} : UnitsKept s (s.newGens u) := by
  unfold State.newGens
  exact ⟨rfl, rfl, rfl, rfl⟩

theorem updFab_unitsKept {u : Nat} {f : Fabric → Fabric} : UnitsKept s (s.updFab u f) := ⟨rfl, rfl, rfl, rfl⟩

theorem clearBank_unitsKept {r bank : Nat} : UnitsKept s (s.clearBank r bank) := ⟨rfl, rfl, rfl, rfl⟩

theorem updRgn_unitsKept {r : Nat} {f : Region → Region} : UnitsKept s (s.updRgn r f) := ⟨rfl, rfl, rfl, rfl⟩

/-- The reset of a region empties its units; the rest of it touches no unit. -/
theorem emptyRegion_unitsKept (s : State) (r : Nat) : UnitsKept (emptyCus s (s.regionCus r)) (s.emptyRegion r) := by
  unfold State.emptyRegion
  extract_lets src s1 s2 s3 s4 s5 s6 s7 s8
  have h2 : UnitsKept s1 s2 := foldl_unitsKept fun _ _ => newGens_unitsKept
  have h3 : UnitsKept s2 s3 := foldl_unitsKept fun _ _ => updMu_unitsKept
  have h4 : UnitsKept s3 s4 := foldl_unitsKept fun _ _ => updFab_unitsKept
  have h5 : UnitsKept s4 s5 := ⟨rfl, rfl, rfl, rfl⟩
  have h6 : UnitsKept s5 s6 := clearBank_unitsKept.trans clearBank_unitsKept
  have h7 : UnitsKept s6 s7 := foldl_unitsKept fun _ _ => unpark_unitsKept
  have h8 : UnitsKept s7 s8 := forgetNacked_unitsKept
  clear_value s8 s7 s6 s5 s4 s3 s2
  exact (h2.trans (h3.trans (h4.trans (h5.trans (h6.trans (h7.trans h8)))))).trans updRgn_unitsKept

/-- The units of an unloaded region are as its reset leaves them. -/
theorem unloadRegion_unitsKept (s : State) (r : Nat) : UnitsKept (emptyCus s (s.regionCus r)) (s.unloadRegion r) := by
  have hu : UnitsKept (s.emptyRegion r) (s.unloadRegion r) := by
    unfold State.unloadRegion
    generalize s.emptyRegion r = t
    exact ⟨rfl, rfl, rfl, rfl⟩
  exact (emptyRegion_unitsKept s r).trans hu

theorem unloadRegion_img (s : State) (r : Nat) : ((s.unloadRegion r).rgn r).img = none := by
  unfold State.unloadRegion
  generalize s.emptyRegion r = t
  rw [rgn_updRgn, if_pos rfl]

/-- The end of a region's runs may end the command as well: only its phase, its status and its DETAIL change. -/
theorem cmd_stopRuns (hc : s.cmd h = some c) (r status : Nat) :
    ∃ p x d, (s.stopRuns r status).cmd h = some { c with phase := p, status := x, detail := d } := by
  unfold State.cmd State.stopRuns
  dsimp only
  rw [find?_map_handle, show s.host.cmds.find? (fun c => c.handle == h) = some c from hc, Option.map_some]
  · split
    · exact ⟨_, _, _, rfl⟩
    · exact ⟨_, _, _, rfl⟩
  · intro c
    split
    · rfl
    · rfl

theorem exec_unload (hc : s.openCmd h 2 = some c) :
    exec (.unload h) s = .next (((s.stopRuns c.region 2).unloadRegion c.region).due h 0 0) := by
  change execUnload h s = _
  simp [execUnload, hc]

theorem unload_empties (hc : s.openCmd h 2 = some c) :
    ∃ t, exec (.unload h) s = .next t ∧ (t.rgn c.region).img = none ∧ t.cmd h = some { c with phase := .due, status := 0, detail := 0 } ∧
      t.mem.dram = s.mem.dram ∧ t.mem.spad = s.mem.spad ∧ ∀ u k, u ∈ s.regionCus c.region → t.cx u k = Ctx.empty := by
  obtain ⟨p, x, d, hd⟩ := cmd_stopRuns (cmd_of_openCmd hc) c.region 2
  have himg := unloadRegion_img (s.stopRuns c.region 2) c.region
  obtain ⟨hcus, hhost, hdram, hspad⟩ := unloadRegion_unitsKept (s.stopRuns c.region 2) c.region
  rw [emptyCus_mem] at hdram hspad
  rw [emptyCus_host] at hhost
  rw [exec_unload hc]
  generalize (s.stopRuns c.region 2).unloadRegion c.region = t at hcus hhost hdram hspad himg
  refine ⟨_, rfl, himg, cmd_due ((cmd_congr hhost).trans hd) 0 0, hdram, hspad, fun u k hu => ?_⟩
  have hcx : (t.due h 0 0).cx u k = (emptyCus (s.stopRuns c.region 2) ((s.stopRuns c.region 2).regionCus c.region)).cx u k := by
    change ((FMap.get Cu.empty t.cus u).ctxAt k) = _
    rw [hcus]
    rfl
  rw [hcx]
  exact cx_emptyCus hu k

/-- Settles O43: a LOAD's image is read, or asked of the host, and its verdict delivered or its image written; UNLOAD empties the units
of the region, and the rest of the region's reset leaves them and the memories alone. -/
theorem loadsAndUnload : Obligations.LoadsAndUnload := by
  refine ⟨?_, ?_, ?_, fun h c s hc => unload_empties hc⟩
  · intro h c i s hi hc ht hr
    obtain ⟨form, hf, hex⟩ := exec_load_form h c
    obtain ⟨⟨hrest, hspad, hflash⟩, d, hd, hrun, hread⟩ := loadBegin_reads hc hf ht hr
    exact ⟨_, d, hi ▸ hex s, hrest, hspad, hflash, hd, hrun, hread⟩
  · intro h c s hc hop hrun hread hpin
    refine ⟨fun hst hdet => ?_, fun hst hr hg hcopy hbad => loadVerifyDone_accepted hc hop hrun hread hpin hst hr hg hcopy hbad⟩
    obtain ⟨hex, hcmd⟩ := loadVerifyDone_refused hc hop hrun hread hpin hst hdet
    exact ⟨_, hex, rfl, hcmd⟩
  · intro h c s hc hop hrun hpin
    have hex := exec_shadowPinDone hc hop hrun hpin
    refine ⟨fun hw => ⟨s.due h 0 0, ?_, rfl, cmd_due hc 0 0⟩, fun hw => ?_⟩
    · rw [hex, hw]
      rfl
    · rw [hex, hw]
      rfl

end Sys2Proof.Proofs
end

section
/-! PROOFS. The words of unit instructions: the fields of a word, and the round trips of encoding and decoding. -/

namespace Sys2Proof.Proofs

open Sys2Proof Sys2Proof.Machine Sys2Proof.Laws

/-! ### Fields of a word (R110, R111) -/

/-- A field in the upper part of a joined word. -/
theorem extractLsb'_append_high {m n : Nat} (x : BitVec m) (y : BitVec n) {lo len : Nat} (h : n ≤ lo) :
    (x ++ y).extractLsb' lo len = x.extractLsb' (lo - n) len := by
  ext i hi
  simp only [BitVec.getElem_extractLsb', BitVec.getLsbD_append]
  rw [if_neg (by omega), show lo + i - n = lo - n + i by omega]

/-- A field in the lower part of a joined word. -/
theorem extractLsb'_append_low {m n : Nat} (x : BitVec m) (y : BitVec n) {lo len : Nat} (h : lo + len ≤ n) :
    (x ++ y).extractLsb' lo len = y.extractLsb' lo len := by
  ext i hi
  simp only [BitVec.getElem_extractLsb', BitVec.getLsbD_append]
  rw [if_pos (by omega)]

theorem flagBit_beq_one (b : Bool) : (flagBit b == 1#1) = b := by cases b <;> rfl

theorem lowZero_iff (w : W64) (n : Nat) : lowZero w n = true ↔ fld w 0 n = 0#n := by simp [lowZero, ← BitVec.toNat_inj]

section

variable {w : W64}

theorem flagBit_getLsbD (i : Nat) : flagBit (w.getLsbD i) = fld w i 1 := by
  have h : ∀ x : BitVec 1, flagBit (x == 1#1) = x := by decide
  rw [BitVec.getLsbD_eq_extractLsb', h]

/-- A field and the one below it, as one. -/
theorem fld_append_fld {hi lo m n : Nat} (h : hi = lo + n) : fld w hi m ++ fld w lo n = fld w lo (m + n) :=
  BitVec.extractLsb'_append_extractLsb'_eq_extractLsb' h

theorem fld_of_toNat {lo n k : Nat} (h : (fld w lo n).toNat = k) : fld w lo n = BitVec.ofNat n k := by
  rw [← h, BitVec.ofNat_toNat, BitVec.setWidth_eq]

/-- CLASS and OP as the upper ten bits of a word. -/
theorem classOp_eq_fld {a : BitVec 4} {b : BitVec 6} (ha : fld w 60 4 = a) (hb : fld w 54 6 = b) : a ++ b = fld w 54 10 := by
  rw [← ha, ← hb, fld_append_fld (hi := 60) rfl]

/-- CLASS and OP with the four bits below them, PRED and PNEG or reserved ones. -/
theorem head_eq_fld {a c : BitVec 4} {b : BitVec 6} (ha : fld w 60 4 = a) (hb : fld w 54 6 = b) (hc : fld w 50 4 = c) :
    a ++ b ++ c = fld w 50 14 := by
  rw [classOp_eq_fld ha hb, ← hc, fld_append_fld (hi := 54) rfl]

/-! ### CLASS and OP (R111, R112) -/

theorem decodeZelux_sync (h : fld w 60 4 = 0#4) : decodeZelux w = decodeSync w := by rw [decodeZelux, h]; rfl

theorem decodeZelux_mma (h : fld w 60 4 = 1#4) : decodeZelux w = decodeMma w := by rw [decodeZelux, h]; rfl

theorem decodeZelux_red (h : fld w 60 4 = 4#4) : decodeZelux w = decodeRed w := by rw [decodeZelux, h]; rfl

theorem decodeZelux_vec {t : Bool} (h : fld w 60 4 = if t then 3#4 else 2#4) : decodeZelux w = decodeVec t w := by
  rw [decodeZelux, h]
  cases t
  all_goals rfl

theorem vecOp_ofCode_code (o : VecOp) : VecOp.ofCode o.code = some o := by cases o <;> rfl
theorem predOp_ofCode_code (o : PredOp) : PredOp.ofCode o.code = some o := by cases o <;> rfl
theorem redOp_ofCode_code (o : RedOp) : RedOp.ofCode o.code = some o := by cases o <;> rfl
theorem moveOp_ofCode_code (o : MoveOp) : MoveOp.ofCode o.code = some o := by cases o <;> rfl
theorem scalOp_ofCode_code (o : ScalOp) : ScalOp.ofCode o.code = some o := by cases o <;> rfl
theorem scalOp_code_ne_zero (o : ScalOp) : o.code ≠ 0#6 := by cases o <;> decide

theorem vecOp_code_of_ofCode {c : BitVec 6} {o : VecOp} : VecOp.ofCode c = some o → o.code = c := by revert c o; decide
theorem predOp_code_of_ofCode {c : BitVec 6} {o : PredOp} : PredOp.ofCode c = some o → o.code = c := by revert c o; decide
theorem redOp_code_of_ofCode {c : BitVec 6} {o : RedOp} : RedOp.ofCode c = some o → o.code = c := by revert c o; decide
theorem moveOp_code_of_ofCode {c : BitVec 6} {o : MoveOp} : MoveOp.ofCode c = some o → o.code = c := by revert c o; decide
theorem scalOp_code_of_ofCode {c : BitVec 6} {o : ScalOp} : ScalOp.ofCode c = some o → o.code = c := by revert c o; decide

/-! ### From an instruction to its word and back (R110, R111) -/

/-- Settles O4: the class decodes first; then each field of the joined word reads back as the operand that was put there. -/
theorem decodeOfEncode : Obligations.DecodeOfEncode := by
  intro z
  cases z
  case vec o f =>
    rw [decodeZelux_vec (t := f.tform)]
    all_goals simp (discharger := decide) only [encodeZelux, decodeVec, extractLsb'_append_high, extractLsb'_append_low, lowZero_iff,
      Nat.reduceSub, BitVec.extractLsb'_eq_self, vecOp_ofCode_code, Option.map_some, if_true]
  all_goals simp (discharger := decide) only [encodeZelux, decodeZelux, decodeSync, decodeMma, decodeRed, decodeMove, decodePred,
    decodeScal, decodeModeClass, extractLsb'_append_high, extractLsb'_append_low, lowZero_iff, BitVec.getLsbD_eq_extractLsb',
    flagBit_beq_one, Nat.reduceSub, BitVec.extractLsb'_eq_self, BitVec.ofNat_eq_ofNat, BitVec.reduceToNat, BitVec.reduceExtractLsb',
    redOp_ofCode_code, moveOp_ofCode_code, predOp_ofCode_code, scalOp_ofCode_code, scalOp_code_ne_zero, Option.map_some, ne_eq, not_true,
    if_false, if_true, and_self]

/-! ### From a word to its instruction and back (R111, R112) -/

variable {z : Zelux}

theorem encode_decodeVec {t : Bool} (hc : fld w 60 4 = if t then 3#4 else 2#4) (h : decodeVec t w = some z) : encodeZelux z = w := by
  rw [decodeVec, Option.ite_none_right_eq_some, lowZero_iff, Option.map_eq_some_iff] at h
  obtain ⟨hz, o, ho, rfl⟩ := h
  rw [encodeZelux, ← hc, vecOp_code_of_ofCode ho, ← hz]
  simp (discharger := decide) only [fld_append_fld, BitVec.extractLsb'_eq_self]

theorem encode_decodeRed (hc : fld w 60 4 = 4#4) (h : decodeRed w = some z) : encodeZelux z = w := by
  rw [decodeRed, Option.ite_none_right_eq_some, lowZero_iff, Option.map_eq_some_iff] at h
  obtain ⟨hz, o, ho, rfl⟩ := h
  rw [encodeZelux, ← hc, redOp_code_of_ofCode ho, ← hz]
  simp (discharger := decide) only [fld_append_fld, BitVec.extractLsb'_eq_self]

theorem encode_decodeMove (hc : fld w 60 4 = 5#4) (h : decodeMove w = some z) : encodeZelux z = w := by
  rw [decodeMove, Option.ite_none_right_eq_some, lowZero_iff, Option.map_eq_some_iff] at h
  obtain ⟨hz, o, ho, rfl⟩ := h
  rw [encodeZelux, ← hc, moveOp_code_of_ofCode ho, ← hz]
  simp (discharger := decide) only [fld_append_fld, BitVec.extractLsb'_eq_self]

theorem encode_decodePred (hc : fld w 60 4 = 6#4) (h : decodePred w = some z) : encodeZelux z = w := by
  rw [decodePred, Option.ite_none_right_eq_some, lowZero_iff, Option.map_eq_some_iff] at h
  obtain ⟨hz, o, ho, rfl⟩ := h
  rw [encodeZelux, ← hc, predOp_code_of_ofCode ho, ← hz]
  simp (discharger := decide) only [fld_append_fld, BitVec.extractLsb'_eq_self]

theorem encode_decodeMma (hc : fld w 60 4 = 1#4) (h : decodeMma w = some z) : encodeZelux z = w := by
  rw [decodeMma, Option.ite_none_right_eq_some, lowZero_iff, Option.some.injEq] at h
  obtain ⟨⟨h50, h54, hz⟩, rfl⟩ := h
  rw [encodeZelux, head_eq_fld (b := 0#6) (c := 0#4) hc h54 h50, ← hz]
  simp (discharger := decide) only [fld_append_fld, BitVec.extractLsb'_eq_self]

theorem encode_decodeScal (hc : fld w 60 4 = 7#4) (h : decodeScal w = some z) : encodeZelux z = w := by
  rw [decodeScal, Option.ite_none_left_eq_some, ne_eq, not_not] at h
  obtain ⟨h50, h⟩ := h
  split at h
  · next h54 =>
    rw [Option.ite_none_right_eq_some, lowZero_iff, Option.some.injEq] at h
    obtain ⟨hz, rfl⟩ := h
    rw [encodeZelux, head_eq_fld (b := 0#6) (c := 0#4) hc h54 h50, ← hz]
    simp (discharger := decide) only [fld_append_fld, BitVec.extractLsb'_eq_self]
  · rw [Option.ite_none_right_eq_some, Option.map_eq_some_iff] at h
    obtain ⟨h32, o, ho, rfl⟩ := h
    rw [encodeZelux, scalOp_code_of_ofCode ho, head_eq_fld (c := 0#4) hc rfl h50, ← show fld w 32 2 = 0#2 from h32]
    simp (discharger := decide) only [fld_append_fld, BitVec.extractLsb'_eq_self]

theorem encode_decodeSync (hc : fld w 60 4 = 0#4) (h : decodeSync w = some z) : encodeZelux z = w := by
  rw [decodeSync, Option.ite_none_left_eq_some, ne_eq, not_not] at h
  obtain ⟨h50, h⟩ := h
  split at h
  case h_8 => cases h
  all_goals rw [Option.ite_none_right_eq_some, lowZero_iff, Option.some.injEq] at h
  case h_3 hop | h_4 hop | h_5 hop | h_7 hop =>
    obtain ⟨hz, rfl⟩ := h
    rw [encodeZelux, head_eq_fld (c := 0#4) hc (fld_of_toNat hop) h50, ← hz]
    simp (discharger := decide) only [flagBit_getLsbD, fld_append_fld, BitVec.extractLsb'_eq_self]
  all_goals
    next hop =>
    obtain ⟨hz, rfl⟩ := h
    rw [encodeZelux, classOp_eq_fld hc (fld_of_toNat hop), ← hz]
    simp (discharger := decide) only [fld_append_fld, BitVec.extractLsb'_eq_self]

theorem encode_decodeModeClass (hc : fld w 60 4 = 8#4) (h : decodeModeClass w = some z) : encodeZelux z = w := by
  rw [decodeModeClass, Option.ite_none_left_eq_some, ne_eq, not_not] at h
  obtain ⟨h50, h⟩ := h
  split at h
  case h_3 => cases h
  all_goals
    next hop =>
    rw [Option.ite_none_right_eq_some, lowZero_iff, Option.some.injEq] at h
    obtain ⟨hz, rfl⟩ := h
    rw [encodeZelux, head_eq_fld (c := 0#4) hc (fld_of_toNat hop) h50, ← hz]
    simp (discharger := decide) only [fld_append_fld, BitVec.extractLsb'_eq_self]

/-- Settles O5: the class of the word says how the rest decoded, and the fields of the word, joined again, are the word. -/
theorem encodeOfDecode : Obligations.EncodeOfDecode := by
  intro w z h
  unfold decodeZelux at h
  split at h
  case h_1 hc => exact encode_decodeSync (fld_of_toNat hc) h
  case h_2 hc => exact encode_decodeMma (fld_of_toNat hc) h
  case h_3 hc => exact encode_decodeVec (t := false) (fld_of_toNat hc) h
  case h_4 hc => exact encode_decodeVec (t := true) (fld_of_toNat hc) h
  case h_5 hc => exact encode_decodeRed (fld_of_toNat hc) h
  case h_6 hc => exact encode_decodeMove (fld_of_toNat hc) h
  case h_7 hc => exact encode_decodePred (fld_of_toNat hc) h
  case h_8 hc => exact encode_decodeScal (fld_of_toNat hc) h
  case h_9 hc => exact encode_decodeModeClass (fld_of_toNat hc) h
  case h_10 => cases h

/-! ### Words that decode to nothing (R111, R112) -/

theorem bits_eq_fld {hi lo n : Nat} (h : hi + 1 = lo + n) : w.bits hi lo = (fld w lo n).toNat := by
  rw [W64.bits, show hi + 1 - lo = n by omega, BitVec.extractLsb'_toNat]

theorem lowZero_eq_false {n : Nat} (h : w.toNat % 2 ^ n ≠ 0) : lowZero w n = false := by rwa [lowZero, beq_eq_false_iff_ne]

theorem vecOp_ofCode_none {c : BitVec 6} (h : c.toNat = 6 ∨ 0x23 ≤ c.toNat) : VecOp.ofCode c = none := by revert c; decide

theorem redOp_ofCode_none {c : BitVec 6} (h : 3 ≤ c.toNat) : RedOp.ofCode c = none := by revert c; decide

theorem decodeZelux_reserved (h : 9 ≤ w.bits 63 60) : decodeZelux w = none := by
  rw [bits_eq_fld (n := 4) rfl] at h
  unfold decodeZelux
  split
  case h_10 => rfl
  all_goals omega

theorem decodeSync_reserved (h : 7 ≤ w.bits 59 54) : decodeSync w = none := by
  rw [bits_eq_fld (n := 6) rfl] at h
  unfold decodeSync
  split
  · rfl
  · split
    case h_8 => rfl
    all_goals omega

theorem decodeVec_reserved {t : Bool} (h : w.bits 59 54 = 6 ∨ 0x23 ≤ w.bits 59 54 ∨ w.bits 17 0 ≠ 0) : decodeVec t w = none := by
  rw [bits_eq_fld (n := 6) rfl, ← or_assoc] at h
  rw [decodeVec]
  rcases h with hop | hlow
  · rw [vecOp_ofCode_none hop, Option.map_none, ite_self]
  · rw [lowZero_eq_false hlow, if_neg Bool.false_ne_true]

theorem decodeMma_reserved (h : w.bits 59 50 ≠ 0 ∨ w.bits 14 0 ≠ 0) : decodeMma w = none := by
  rw [decodeMma, if_neg]
  rintro ⟨h50, h54, hlow⟩
  rcases h with h | h
  · apply h
    rw [bits_eq_fld (n := 6 + 4) rfl, ← fld_append_fld (hi := 54) (m := 6) (n := 4) rfl, h54, h50]
    rfl
  · rw [lowZero_eq_false h] at hlow
    cases hlow

theorem decodeRed_reserved (h : 3 ≤ w.bits 59 54 ∨ w.bits 33 0 ≠ 0) : decodeRed w = none := by
  rw [bits_eq_fld (n := 6) rfl] at h
  rw [decodeRed]
  rcases h with hop | hlow
  · rw [redOp_ofCode_none hop, Option.map_none, ite_self]
  · rw [lowZero_eq_false hlow, if_neg Bool.false_ne_true]

end

/-- Settles O6: the words written out evaluate; a reserved CLASS or OP and a set reserved bit are found by the decoder of the class. -/
theorem wordsDecode : Obligations.WordsDecode := by
  refine ⟨rfl, rfl, rfl, rfl, rfl, rfl, rfl, rfl, fun w => decodeZelux_reserved, fun w hc hop => ?_, fun w hc h => ?_, fun w hc h => ?_,
    fun w hc h => ?_⟩
  · rw [decodeZelux_sync (fld_of_toNat hc), decodeSync_reserved hop]
  · rcases hc with hc | hc
    · rw [decodeZelux_vec (t := false) (fld_of_toNat hc), decodeVec_reserved h]
    · rw [decodeZelux_vec (t := true) (fld_of_toNat hc), decodeVec_reserved h]
  · rw [decodeZelux_mma (fld_of_toNat hc), decodeMma_reserved h]
  · rw [decodeZelux_red (fld_of_toNat hc), decodeRed_reserved h]

end Sys2Proof.Proofs
end

section
/-! PROOFS. Scalar operations and loops. -/

namespace Sys2Proof.Proofs

open Sys2Proof Sys2Proof.Machine Sys2Proof.Laws

/-! ### Scalar operations (R133, R134) -/

/-- Operand b of a scalar operation: IMM32, or S[SB]. -/
def scalSource (x : Ctx) (o : ScalOp) (f : ScalF) : Scal := if o = .sli ∨ f.bimm = 1 then ⟨f.imm, false⟩ else x.sReg f.sb.toNat

/-- What a scalar operation writes to SD. -/
def scalResult (x : Ctx) (o : ScalOp) (f : ScalF) : Scal :=
  ⟨scalLane o (x.sReg f.sa.toNat).val (scalSource x o f).val, (decide (o ≠ .sli) && (x.sReg f.sa.toNat).poi) || (scalSource x o f).poi⟩

theorem scal_eq (x : Ctx) (o : ScalOp) (f : ScalF) : x.scal o f = x.setSReg f.sd.toNat (scalResult x o f) := by
  have hb : (if (decide (o = .sli) || decide (f.bimm = 1)) = true then (⟨f.imm, false⟩ : Scal) else x.sReg f.sb.toNat) = scalSource x o f := by
    simp [scalSource]
  have hp : (if o = .sli then false else (x.sReg f.sa.toNat).poi) = (decide (o ≠ .sli) && (x.sReg f.sa.toNat).poi) := by
    by_cases h : o = .sli <;> simp [h]
  unfold Ctx.scal
  dsimp only
  rw [hb, hp]
  rfl

theorem exec_scal {o : ScalOp} {u : Nat} {f : ScalF} {s : State} :
    exec (o.cmd u f) s = issueCtx u (.scal o f) (fun _ => ⟨[], []⟩) (fun x => x.scal o f) s := by
  cases o
  all_goals rfl

theorem toNat_sub_wrap (a b : W32) : (a - b).toNat = (a.toNat + 2 ^ 32 - b.toNat) % 2 ^ 32 := by
  rw [BitVec.toNat_sub]
  congr 1
  omega

theorem toNat_shl (a : W32) (n : Nat) : (a <<< n).toNat = if 32 ≤ n then 0 else a.toNat * 2 ^ n % 2 ^ 32 := by
  split
  next h => rw [BitVec.shiftLeft_eq_zero h]; rfl
  · rw [BitVec.toNat_shiftLeft, Nat.shiftLeft_eq]

theorem toNat_shr (a : W32) (n : Nat) : (a >>> n).toNat = if 32 ≤ n then 0 else a.toNat / 2 ^ n := by
  rw [BitVec.toNat_ushiftRight, Nat.shiftRight_eq_div_pow]
  split
  next h => exact Nat.div_eq_of_lt (a.isLt.trans_le (Nat.pow_le_pow_right (by omega) h))
  · rfl

theorem toInt_sar (a : W32) (n : Nat) :
    (a.sshiftRight n).toInt = if 32 ≤ n then (if a.toInt < 0 then -1 else 0) else a.toInt / 2 ^ n := by
  rw [BitVec.toInt_sshiftRight, Int.shiftRight_eq_div_pow]
  split
  next h =>
    have hlo := BitVec.le_toInt a
    have hhi := BitVec.toInt_lt (x := a)
    have hp : (2 : Int) ^ 32 ≤ ((2 ^ n : Nat) : Int) := by exact_mod_cast Nat.pow_le_pow_right (by omega) h
    split
    next hn => exact Int.ediv_eq_neg_one_of_neg_of_le hn (by omega)
    next hn => exact Int.ediv_eq_zero_of_lt (by omega) (by omega)
  · norm_cast

/-- Settles O15: the operation of each lane by the library's facts about words, in a context that is otherwise as it was. -/
theorem scalarOperations : Obligations.ScalarOperations := by
  intro o u k f s hi
  obtain ⟨t, hex, honly, ht⟩ := issueCtx_go (use := fun _ => ⟨[], []⟩) (f := fun x => x.scal o f) hi (hazard_no_use _ _)
  rw [scal_eq] at ht
  obtain ⟨hadv, hrest⟩ := advanced_advance (x := s.cx u k) ht rfl rfl rfl
  have hs : ∀ q, (t.cx u k).sReg q = if q = f.sd.toNat then scalResult (s.cx u k) o f else (s.cx u k).sReg q := fun q => by
    rw [hrest]
    exact sReg_setSReg _ _ _ _
  refine ⟨t, exec_scal.trans hex, honly, hadv, ?_, fun q hq => by rw [hs, if_neg hq], by rw [hrest]; rfl⟩
  rw [hs, if_pos rfl]
  refine ⟨rfl, ?_⟩
  cases o
  case sshl => exact toNat_shl _ _
  case sshr => exact toNat_shr _ _
  case ssar => exact toInt_sar _ _
  case sadd => exact BitVec.toNat_add _ _
  case ssub => exact toNat_sub_wrap _ _
  case smul => exact BitVec.toNat_mul _ _
  case smin => exact (apply_ite BitVec.toInt _ _ _).trans (min_def _ _).symm
  case smax => exact (apply_ite BitVec.toInt _ _ _).trans (max_def _ _).symm
  all_goals rfl
end Sys2Proof.Proofs
end

section
/-! PROOFS. Vector instructions: the rows that one writes, one after another and lane by lane, and what it leaves. -/

namespace Sys2Proof.Proofs

open Sys2Proof Sys2Proof.Machine Sys2Proof.Laws

/-! ### One row (R121–R123) -/

section

variable (x : Ctx) (o : VecOp) (f : VecF)

/-- The row that a vector instruction writes as row `r`. -/
def vecOutRow (r : Nat) : Row := Row.ofLanes ((List.range 32).map fun j => (x.vecLaneAt o f r j).1)

/-- The events of one row, beside those still on their way. -/
def vecEvents (r : Nat) (e : Ev) : Ev := (List.range 32).foldl (fun e j => e ||| (x.vecLaneAt o f r j).2) e

theorem vecRow_eq (r : Nat) : x.vecRow o f r = (vecOutRow x o f r, vecEvents x o f r 0) := by
  have hlane : ∀ j ∈ List.range 32, ((x.regRow f.dst.toNat r).lanes.getD j (0, false)) =
      ((x.regRow f.dst.toNat r).lane j, (x.regRow f.dst.toNat r).mark j) := fun j hj => lanes_getD _ j (List.mem_range.mp hj) _
  unfold Ctx.vecRow
  dsimp only
  rw [List.map_congr_left (g := fun j => x.vecLaneAt o f r j) fun j hj => by rw [hlane j hj]; rfl, List.map_map, List.foldl_map]
  rfl

/-- One row of a vector instruction. -/
def vecStep (y : Ctx) (r : Nat) : Ctx := (y.setRegRow f.dst.toNat r (vecOutRow y o f r)).lateEv (vecEvents y o f r 0)

theorem vec_eq : x.vec o f = f.rows.foldl (vecStep o f) x := by simp only [Ctx.vec, vecRow_eq]; rfl

theorem vecEvents_from (r : Nat) (e : Ev) : vecEvents x o f r e = e ||| vecEvents x o f r 0 := by
  simpa only [if_true, vecEvents] using foldl_or_from (fun _ => true) (fun j => (x.vecLaneAt o f r j).2) (List.range 32) e

end

section

variable {x y : Ctx} {o : VecOp} {f : VecF}

theorem source_congr {r : Nat} (hr : ∀ c, y.regRow c r = x.regRow c r) (hs : y.sr = x.sr) (fwd sidx code : Nat) :
    y.source fwd sidx code r = x.source fwd sidx code r := by simp only [Ctx.source, Ctx.sReg, hr, hs]

/-- Only V and T registers and the events on their way differ. -/
def VectorOnly (x y : Ctx) : Prop := y = { x with v := y.v, t := y.t, late := y.late }

theorem VectorOnly.trans {z : Ctx} (h : VectorOnly x y) (k : VectorOnly y z) : VectorOnly x z :=
  Eq.trans k (by conv_lhs => rw [show y = _ from h])

theorem setRegRow_late (x : Ctx) (c i : Nat) (r : Row) : (x.setRegRow c i r).late = x.late := by
  unfold Ctx.setRegRow
  split
  all_goals rfl

theorem setRegRow_vectorOnly (c i : Nat) (r : Row) (e : Ev) : VectorOnly x ((x.setRegRow c i r).lateEv e) := by
  unfold VectorOnly Ctx.setRegRow
  split
  all_goals rfl

/-- A lane depends on its own row of the registers alone. -/
theorem vecLaneAt_congr {r : Nat} (h : VectorOnly x y) (hr : ∀ c, y.regRow c r = x.regRow c r) (j : Nat) :
    y.vecLaneAt o f r j = x.vecLaneAt o f r j := by
  have hs : y.sr = x.sr := by rw [h]
  have hi : y.imem = x.imem := by rw [h]
  have hp : y.pc = x.pc := by rw [h]
  have hm : y.mode = x.mode := by rw [h]
  have hq : y.p = x.p := by rw [h]
  simp only [Ctx.vecLaneAt, source_congr hr hs, hi, hp, hr, Ctx.rnd, hm, Ctx.mask, Ctx.maskPoison, Ctx.pReg, hq]

/-- The first `n` rows of a vector instruction are written. -/
structure VecUpTo (x : Ctx) (o : VecOp) (f : VecF) (n : Nat) (y : Ctx) : Prop where
  rest : VectorOnly x y
  written : ∀ r, r < n → y.regRow f.dst.toNat r = vecOutRow x o f r
  kept : ∀ c i, i < 32 → (c = f.dst.toNat → n ≤ i ∧ (c < 16 → n = 0)) → y.regRow c i = x.regRow c i
  late : y.late = (List.range n).foldl (fun e r => vecEvents x o f r e) x.late

theorem vecStep_upTo {n : Nat} (h : VecUpTo x o f n y) (hn : n < 32) (hv : f.dst.toNat < 16 → n = 0) :
    VecUpTo x o f (n + 1) (vecStep o f y n) := by
  have hlane := vecLaneAt_congr (o := o) (f := f) h.rest fun c => h.kept c n hn fun hc => ⟨le_rfl, fun hlt => hv (hc ▸ hlt)⟩
  have hrow : vecOutRow y o f n = vecOutRow x o f n := by simp only [vecOutRow, hlane]
  have hev : vecEvents y o f n 0 = vecEvents x o f n 0 := by simp only [vecEvents, hlane]
  have hreg : ∀ c i, i < 32 → (vecStep o f y n).regRow c i =
      if c = f.dst.toNat ∧ (f.dst.toNat < 16 ∨ i = n) then vecOutRow x o f n else y.regRow c i := fun c i hi => by
    rw [vecStep, hrow]
    exact regRow_setRegRow y _ n c i _ hn hi hv
  refine ⟨h.rest.trans (setRegRow_vectorOnly _ _ _ _), fun r hr => ?_, fun c i hi hc => ?_, ?_⟩
  · rw [hreg _ r (by omega)]
    split
    next hd => rw [show r = n by omega]
    next hd => exact h.written r (by omega)
  · rw [hreg c i hi, if_neg (fun hd => by have := hc hd.1; omega)]
    exact h.kept c i hi fun hd => by have := hc hd; omega
  · rw [List.range_succ, List.foldl_append, List.foldl_cons, List.foldl_nil, ← h.late, vecEvents_from, ← hev]
    exact congrArg (· ||| vecEvents y o f n 0) (setRegRow_late y _ _ _)

theorem vecSteps_upTo (x : Ctx) {n : Nat} (hn : n ≤ 32) (hv : f.dst.toNat < 16 → n ≤ 1) :
    VecUpTo x o f n ((List.range n).foldl (vecStep o f) x) := by
  induction n with
  | zero =>
    rw [List.range_zero, List.foldl_nil]
    exact ⟨rfl, fun r hr => absurd hr (Nat.not_lt_zero r), fun _ _ _ _ => rfl, rfl⟩
  | succ n ih =>
    rw [List.range_succ, List.foldl_append]
    exact vecStep_upTo (ih (by omega) fun h => by have := hv h; omega) (by omega) fun h => by have := hv h; omega

theorem rows_eq_range (f : VecF) : f.rows = List.range (if f.tform then 32 else 1) := by
  rw [VecF.rows]
  split
  all_goals rfl

theorem legal_vec (o : VecOp) (f : VecF) : (Zelux.vec o f).legal = (o.types f.ty.toNat && (if f.tform then isTreg f.dst else isVreg f.dst) &&
    (if f.tform then tSource f.sa else vSource f.sa) && (if f.tform then tSource f.sb else vSource f.sb) &&
    (if o == .fma then (if f.tform then tSource f.sc else vSource f.sc) else f.sc == 0)) := rfl

theorem dst_of_legal (h : (Zelux.vec o f).legal = true) : if f.tform then 16 ≤ f.dst.toNat else f.dst.toNat < 16 := by
  simp only [legal_vec, Bool.and_eq_true] at h
  obtain ⟨⟨⟨⟨_, hd⟩, _⟩, _⟩, _⟩ := h
  split at hd
  next ht => rw [if_pos ht]; exact sixteen_le_of_isTreg hd
  next ht => rw [if_neg ht]; exact of_decide_eq_true hd

/-- A legal vector instruction writes each of its rows. -/
theorem vec_upTo (x : Ctx) (h : (Zelux.vec o f).legal = true) : VecUpTo x o f (if f.tform then 32 else 1) (x.vec o f) := by
  have hd := dst_of_legal h
  rw [vec_eq, rows_eq_range]
  split
  next ht =>
    rw [if_pos ht] at hd
    exact vecSteps_upTo x le_rfl (by omega)
  · exact vecSteps_upTo x (by omega) fun _ => le_rfl

end

theorem exec_vec {o : VecOp} {u : Nat} {f : VecF} {s : State} :
    exec (o.cmd u f) s = issueCtx u (.vec o f) (fun x => x.vecUse o f) (fun x => x.vec o f) s := by
  cases o
  all_goals rfl

/-- Settles O10: the rows one after another, and each row's lanes, in a context that is otherwise as it was. -/
theorem vectorLanes : Obligations.VectorLanes := by
  intro o u k f s hi hw
  obtain ⟨t, hex, honly, ht⟩ := issueCtx_go (use := fun x => x.vecUse o f) (f := fun x => x.vec o f) hi hw
  have hvec := vec_upTo (issued s u k) hi.legal
  obtain ⟨hadv, hrest⟩ := advanced_advance (x := s.cx u k) ht (by rw [hvec.rest]; rfl) (by rw [hvec.rest]; rfl) (by rw [hvec.rest]; rfl)
  have hreg : ∀ c i, (t.cx u k).regRow c i = ((issued s u k).vec o f).regRow c i := fun c i => by rw [hrest]; rfl
  refine ⟨t, exec_vec.trans hex, honly, fun r hr j hj => ?_, fun c i hc hi => ?_, ?_, hadv, ?_⟩
  · rw [rows_eq_range, List.mem_range] at hr
    rw [hreg, hvec.written r hr, vecOutRow, lane_ofLanes_map _ hj, mark_ofLanes_map _ hj]
    exact ⟨rfl, rfl⟩
  · rw [hreg, hvec.kept c i hi fun h => absurd h hc]
    rfl
  · rw [hrest, rows_eq_range]
    exact hvec.late
  · rw [hrest, hvec.rest]
    rfl

end Sys2Proof.Proofs
end

section
/-! PROOFS. A unit fault: the context that takes it, and what its record and its status leave alone. -/

namespace Sys2Proof.Proofs

open Sys2Proof Sys2Proof.Machine Sys2Proof.Laws

/-! ### A place of the array that is filled again (R88, R104, R106) -/

section

variable {c d : Cu}

/-- The array's places and what its contexts keep for them differ. -/
structure PlacesOnly (c d : Cu) : Prop where
  rest : d = { c with arr := d.arr, que := d.que, latch := d.latch, ctx := d.ctx }
  ctx : ∀ j, d.ctxAt j = { c.ctxAt j with rem := (d.ctxAt j).rem, que := (d.ctxAt j).que }

theorem PlacesOnly.refl : PlacesOnly c c := ⟨rfl, fun _ => rfl⟩

theorem PlacesOnly.trans {e : Cu} (h : PlacesOnly c d) (k : PlacesOnly d e) : PlacesOnly c e where
  rest := Eq.trans k.rest (by conv_lhs => rw [h.rest])
  ctx j := (k.ctx j).trans (by conv_lhs => rw [h.ctx j])

theorem takeSaved_ctx {x y : Ctx} {r : MmaRun} (h : x.takeSaved = some (r, y)) : y = { x with rem := y.rem, que := y.que } := by
  unfold Ctx.takeSaved at h
  split at h
  · cases h; rfl
  · cases h; rfl
  · cases h

theorem takeSaved_placesOnly {z : MmaRun × Cu} (h : c.takeSaved = some z) : PlacesOnly c z.2 := by
  have hof : ∀ k, ((c.ctxAt k).takeSaved.map fun w => (w.1, c.setCtx k w.2)) = some z → PlacesOnly c z.2 := by
    intro k hk
    obtain ⟨⟨r, y⟩, hy, rfl⟩ := Option.map_eq_some_iff.mp hk
    refine ⟨rfl, fun j => ?_⟩
    rw [ctxAt_setCtx]
    split
    next hj => rw [hj]; exact takeSaved_ctx hy
    · rfl
  unfold Cu.takeSaved at h
  dsimp only at h
  split at h
  next w hw =>
    obtain ⟨k, -, hk⟩ := List.exists_of_findSome?_eq_some hw
    split at hk
    · exact hof k (hk.trans h)
    · cases hk
  · obtain ⟨k, -, hk⟩ := Option.bind_eq_some_iff.mp h
    exact hof k hk

theorem enterRun_placesOnly (r : MmaRun) : PlacesOnly c (c.enterRun r) := by
  unfold Cu.enterRun
  split
  all_goals exact ⟨rfl, fun _ => rfl⟩

theorem fillPlace_placesOnly : PlacesOnly c c.fillPlace := by
  unfold Cu.fillPlace
  split
  · exact .refl
  · split
    next z hz => exact (takeSaved_placesOnly hz).trans (enterRun_placesOnly _)
    · exact .refl

theorem promote_placesOnly : PlacesOnly c c.promote := by
  unfold Cu.promote
  dsimp only
  refine PlacesOnly.trans ?_ (fillPlace_placesOnly.trans fillPlace_placesOnly)
  split
  · exact ⟨rfl, fun _ => rfl⟩
  · exact .refl

end

/-! ### The context that takes a fault (R142, R143) -/

section

variable {x : Ctx}

theorem mmaShift_tileOnly (f : MmaF) (rows : List Row) (m n : Nat) : TileOnly x (x.mmaShift f rows m n) :=
  foldl_keeps (TileOnly x) _ _ x rfl fun _ _ h => h.trans (flagEv_setTRow_tileOnly _ _ _ _ _)

theorem runShift_tileOnly (r : MmaRun) : TileOnly x (x.runShift r) := by
  unfold Ctx.runShift
  dsimp only
  split
  · exact (mmaShift_tileOnly _ _ _ _).trans (mmaShift_tileOnly _ _ _ _)
  · exact mmaShift_tileOnly _ _ _ _

theorem finishRun_tileOnly (r : MmaRun) : TileOnly x (x.finishRun r) := by
  unfold Ctx.finishRun
  dsimp only
  split
  · exact runShift_tileOnly r
  · exact (runShift_tileOnly r).trans (runShift_tileOnly _)

/-- A context after a fault: FAULTED where it stood, its V registers and what it awaits from MUs as they were. -/
structure FaultedCtx (x y : Ctx) : Prop where
  st : y.st = .faulted
  pc : y.pc = x.pc
  v : y.v = x.v
  remote : y.remote = x.remote

theorem FaultedCtx.places {c d : Cu} {k : Nat} (h : FaultedCtx x (c.ctxAt k)) (hp : PlacesOnly c d) : FaultedCtx x (d.ctxAt k) := by
  rw [hp.ctx]
  exact ⟨h.st, h.pc, h.v, h.remote⟩

end

/-- The CU whose context `k` is FAULTED, its mmas run to their end. -/
def finishedCu (c : Cu) (k : Nat) : Cu :=
  (c.finishAll k).setCtx k { ((c.finishAll k).ctxAt k).settle with st := .faulted, hold := none, waitTo := none }

/-- The CU whose context `k` takes a fault of a cause at a device time, before the array's places are filled again. -/
def faultCu (c : Cu) (k cause now : Nat) : Cu :=
  let on := c.active == some k
  let d := finishedCu c k
  if on then { d with active := none, pendSw := none, swByAction := false, faultAt := if cause = 4 then some now else d.faultAt,
                      cancelled := d.cancelled + (if (if on then c.pendSw else none).isSome && d.swByAction then 1 else 0) } else d

theorem finishAll_ctxAt (c : Cu) (k : Nat) :
    ∃ y, TileOnly { c.ctxAt k with rem := none, que := none, flag := none } y ∧ (c.finishAll k).ctxAt k = y := by
  refine ⟨_, ?_, (ctxAt_setCtx_same c k _)⟩
  exact foldl_keeps (TileOnly _) _ _ _ rfl fun _ _ h => h.trans (finishRun_tileOnly _)

theorem faultCu_active {c : Cu} {k cause now : Nat} (h : c.active = some k) : (faultCu c k cause now).active = none := by
  simp [faultCu, h]

theorem finishedCu_ctxAt (c : Cu) (k : Nat) : FaultedCtx (c.ctxAt k) ((finishedCu c k).ctxAt k) := by
  obtain ⟨y, ht, hc⟩ := finishAll_ctxAt c k
  rw [finishedCu, ctxAt_setCtx_same, hc, show y = _ from ht]
  exact ⟨rfl, rfl, rfl, rfl⟩

theorem faultCu_ctxAt (c : Cu) (k cause now : Nat) : FaultedCtx (c.ctxAt k) ((faultCu c k cause now).ctxAt k) := by
  have hctx : (faultCu c k cause now).ctxAt k = (finishedCu c k).ctxAt k := by
    unfold faultCu
    dsimp only
    split
    all_goals rfl
  rw [hctx]
  exact finishedCu_ctxAt c k

/-! ### The record of a fault and its status (R141, R144–R146) -/

section

variable {s t : State}

theorem foldl_rgns {α : Type} {g : State → α → State} {l : List α} (hg : ∀ t x, (g t x).rgns = t.rgns) : (l.foldl g s).rgns = s.rgns :=
  foldl_keeps (fun t => t.rgns = s.rgns) g l s rfl fun t x h => (hg t x).trans h

theorem ite_rgns {p : Prop} [Decidable p] {a b : State} (ha : a.rgns = s.rgns) (hb : b.rgns = s.rgns) : (if p then a else b).rgns = s.rgns := by
  split
  · exact ha
  · exact hb

theorem countErr_rgns (src k : Nat) : (s.countErr src k).rgns = s.rgns := ite_rgns rfl rfl

theorem countHs_rgns (a w n : Nat) : (s.countHs a w n).rgns = s.rgns := ite_rgns rfl rfl

theorem logRec_rgns (src kind synd whr : Nat) (own : Option (Nat × Nat)) : (s.logRec src kind synd whr own).rgns = s.rgns := by
  unfold State.logRec
  dsimp only
  split
  · rfl
  · rfl

theorem countWord_rgns (src up : Nat) (poi : Bool) (whr : Nat) : (s.countWord src up poi whr none).rgns = s.rgns :=
  ite_rgns (countErr_rgns _ _) (ite_rgns (countErr_rgns _ _) (ite_rgns ((logRec_rgns _ _ _ _ _).trans (countErr_rgns _ _))
    (ite_rgns (countErr_rgns _ _) rfl)))

theorem lookTags_rgns (i set : Nat) : (s.lookTags i set).rgns = s.rgns := by
  refine foldl_rgns fun t w => ?_
  unfold State.lookWay
  extract_lets k x src put counted p q whr
  have hc : ∀ t o, (counted t o).rgns = t.rgns := fun _ _ => ite_rgns rfl (countErr_rgns _ _)
  have hp : p.rgns = t.rgns := hc _ _
  have hq : q.rgns = t.rgns := (hc _ _).trans hp
  refine ite_rgns rfl (ite_rgns ((updSlice_rgns _ _ _).trans hp) (ite_rgns ((updSlice_rgns _ _ _).trans hq) ?_))
  exact (updSlice_rgns _ _ _).trans ((logRec_rgns _ _ _ _ _).trans ((updSlice_rgns _ _ _).trans hq))

/-! A write of the hub on behalf of no region counts for none. -/

theorem countT_none (w n : Nat) : s.countT 256 w n = s := if_neg (lt_irrefl 256)

theorem tagOwner_none : s.tagOwner 256 = none := if_neg (lt_irrefl 256)

theorem writeBack_rgns (a : Nat) (r : Row) (mask : BitVec 16) : (s.writeBack 256 a r mask).rgns = s.rgns := by
  rw [State.writeBack, countT_none, countHs_rgns]
  rfl

theorem readDram_rgns (l : Nat) : (s.readDram 256 l).rgns = s.rgns := by
  rw [State.readDram, countT_none, countHs_rgns, tagOwner_none]
  exact foldl_rgns fun _ _ => countWord_rgns _ _ _ _

theorem dropOthers_rgns (i : Nat) (part : Option Nat) (l : Nat) : (s.dropOthers 256 i part l).rgns = s.rgns := by
  unfold State.dropOthers State.cleanOthers
  exact foldl_rgns (s := s) fun _ _ => ite_rgns (writeBack_rgns _ _ _) rfl

theorem allocLine_rgns (i a : Nat) (part : Option Nat) (dirty : Bool) (row : Row) : (s.allocLine 256 i part a dirty row).rgns = s.rgns := by
  unfold State.allocLine
  dsimp only
  split
  · rfl
  · split
    · exact ite_rgns (writeBack_rgns _ _ _) rfl
    · exact ite_rgns (writeBack_rgns _ _ _) rfl

theorem writeLine_rgns (i l : Nat) (part : Option Nat) (alloc : Bool) (r : Row) (mask : BitVec 16) :
    (s.writeLine 256 i part alloc l r mask).rgns = s.rgns := by
  unfold State.writeLine
  extract_lets t
  have ht : t.rgns = s.rgns := (dropOthers_rgns _ _ _).trans (lookTags_rgns _ _)
  refine Eq.trans ?_ ht
  split
  · exact (updSlice_rgns _ _ _).trans (updSlice_rgns _ _ _)
  · exact ite_rgns (writeBack_rgns _ _ _) (ite_rgns (allocLine_rgns _ _ _ _ _) (allocLine_rgns _ _ _ _ _))

theorem putDevWord_rgns (a : Nat) (w : W64) (p : Bool) : (s.putDevWord a w p).rgns = s.rgns := by
  unfold State.putDevWord State.putLine State.putLineFor
  rw [writeLine_rgns, State.countWrite, countT_none]
  exact ite_rgns rfl (readDram_rgns _)

theorem putDevWords_rgns (a : Nat) (l : List W64) : (s.putDevWords a l).rgns = s.rgns := by
  unfold State.putDevWords
  induction l generalizing s a with
  | nil => rfl
  | cons w l ih => rw [putWords, ih, putDevWord_rgns]

/-- Nothing of the units, the fabric or the flits differs, and no region's counts of causes. -/
structure Recorded (s t : State) : Prop where
  rest : t = { s with regs := t.regs, log := t.log, rgns := t.rgns, mem := t.mem, slices := t.slices, traces := t.traces, feed := t.feed,
                      host := t.host }
  causes : ∀ r p, p < 8 → count (t.rgn r).ctr (ctrKey 21 p) = count (s.rgn r).ctr (ctrKey 21 p)

theorem Recorded.trans {v : State} (h : Recorded s t) (k : Recorded t v) : Recorded s v where
  rest := Eq.trans k.rest (by conv_lhs => rw [h.rest])
  causes r p hp := (k.causes r p hp).trans (h.causes r p hp)

theorem updRgn_recorded {r : Nat} {g : Region → Region}
    (hg : ∀ p, p < 8 → count (g (s.rgn r)).ctr (ctrKey 21 p) = count (s.rgn r).ctr (ctrKey 21 p)) :
    Recorded s (s.updRgn r g) where
  rest := rfl
  causes q p hp := by
    rw [rgn_updRgn]
    split
    next e => rw [hg p hp, e]
    · rfl

theorem putDevWords_recorded (a : Nat) (l : List W64) : Recorded s (s.putDevWords a l) where
  rest := by rw [(putDevWords_lineWork (s := s) (a := a) (l := l)).rest]
  causes r p _ := by rw [State.rgn, putDevWords_rgns]; rfl

theorem emitTrace_recorded (r d kind x y ce data : Nat) (h : Option W64) : Recorded s (s.emitTrace r d kind x y ce data h) := by
  unfold State.emitTrace
  split
  · dsimp only
    split
    · exact ⟨rfl, fun _ _ _ => rfl⟩
    · refine .trans (updRgn_recorded fun _ _ => rfl) (updRgn_recorded fun p hp => ?_)
      rw [count_bump, if_neg (by simp only [ctrKey]; omega)]
  · exact ⟨rfl, fun _ _ _ => rfl⟩

theorem faultRecord_recorded (r u ce w2 w3 w4 w5 w7 : Nat) : Recorded s (s.faultRecord r u ce w2 w3 w4 w5 w7).2 := by
  unfold State.faultRecord
  dsimp only
  refine .trans (.trans ?_ (updRgn_recorded fun _ _ => rfl)) (emitTrace_recorded _ _ _ _ _ _ _ _)
  split
  · exact putDevWords_recorded _ _
  · exact ⟨rfl, fun _ _ _ => rfl⟩

theorem regionFault_recorded (r status seq : Nat) : Recorded s (s.regionFault r status seq) := by
  unfold State.regionFault
  dsimp only
  split
  · split
    · exact ⟨rfl, fun _ _ _ => rfl⟩
    · exact updRgn_recorded fun _ _ => rfl
  · exact ⟨rfl, fun _ _ _ => rfl⟩

end

/-! ### A fault as a whole -/

section

variable {s : State} {u k cause : Nat}

theorem cuFault_none (hr : s.regionOf u = none) (detail : Nat) :
    s.cuFault u k cause detail = s.setCu u (faultCu (s.cu u) k cause s.time.now).promote := by
  unfold State.cuFault
  dsimp only
  rw [show ∀ c, (s.setCu u c).regionOf u = none from fun _ => hr]
  rfl

/-- A fault in a region is counted once under its cause; besides, only what a record and a status change differs. -/
theorem cuFault_some {r : Nat} (hr : s.regionOf u = some r) (detail : Nat) : ∃ a : State,
    Recorded (s.setCu u (faultCu (s.cu u) k cause s.time.now).promote) a ∧ Recorded (a.addCtr r 21 (cause - 1) 1) (s.cuFault u k cause detail) := by
  unfold State.cuFault
  dsimp only
  rw [show ∀ c, (s.setCu u c).regionOf u = some r from fun _ => hr]
  exact ⟨_, faultRecord_recorded _ _ _ _ _ _ _ _, .trans (updRgn_recorded fun _ _ => rfl) (regionFault_recorded _ _ _)⟩

theorem cuFault_units (detail : Nat) : ∃ d, PlacesOnly (faultCu (s.cu u) k cause s.time.now) d ∧ (s.cuFault u k cause detail).cu u = d ∧
    (s.cuFault u k cause detail).flits = s.flits := by
  refine ⟨_, promote_placesOnly, ?_⟩
  cases hr : s.regionOf u with
  | none => rw [cuFault_none hr]; exact ⟨cu_setCu_same _ _ _, rfl⟩
  | some r =>
    obtain ⟨a, ha, hb⟩ := cuFault_some (k := k) (cause := cause) hr detail
    rw [State.cu, hb.rest]
    change FMap.get Cu.empty a.cus u = _ ∧ a.flits = _
    rw [ha.rest]
    exact ⟨cu_setCu_same _ _ _, rfl⟩

end

/-- The state in which an instruction that issued has taken a fault. -/
def afterFault (s : State) (u k cause detail : Nat) : State := ((s.setCu u (issuedCu s u k)).cuFault u k cause detail).progressAt u

/-- An instruction that issues and takes a fault: where its context stands then, and that no request has left. -/
theorem afterFault_faulted {s : State} {u k cause : Nat} (ha : (s.cu u).active = some k) (hc : cause ≤ 8) (detail : Nat) :
    Faulted s (afterFault s u k cause detail) u k cause ∧ FaultedCtx (s.cx u k) ((afterFault s u k cause detail).cx u k) ∧
      (afterFault s u k cause detail).flits = s.flits := by
  have hcu : (s.setCu u (issuedCu s u k)).cu u = issuedCu s u k := cu_setCu_same _ _ _
  have hctx : (issuedCu s u k).ctxAt k = issued s u k := ctxAt_setCtx_same _ _ _
  have hact : (issuedCu s u k).active = some k := ha
  obtain ⟨d, hd, hdu, hflits⟩ := cuFault_units (s := s.setCu u (issuedCu s u k)) (u := u) (k := k) (cause := cause) detail
  rw [hcu] at hd
  have hfc : FaultedCtx (s.cx u k) (d.ctxAt k) := by
    refine FaultedCtx.places ?_ hd
    have h := faultCu_ctxAt (issuedCu s u k) k cause (s.setCu u (issuedCu s u k)).time.now
    rw [hctx] at h
    exact ⟨h.st, h.pc, h.v, h.remote⟩
  have hcx : (afterFault s u k cause detail).cx u k = d.ctxAt k := by rw [afterFault, cx_progressAt, State.cx, hdu]
  refine ⟨⟨?_, ?_, ?_, fun r hr => ?_⟩, ?_, ?_⟩
  · rw [hcx, hfc.st]
  · rw [afterFault, progressAt_cu, hdu, hd.rest]
    exact faultCu_active hact
  · rw [hcx, hfc.pc]
  · rw [afterFault, progressAt_rgn]
    obtain ⟨a, ha, hb⟩ := cuFault_some (s := s.setCu u (issuedCu s u k)) (k := k) (cause := cause) hr detail
    have hstep := hb.causes r (cause - 1) (by omega)
    have hbefore := ha.causes r (cause - 1) (by omega)
    rw [addCtr_eq, rgn_updRgn, if_pos rfl, count_bump, if_pos rfl, hbefore] at hstep
    exact hstep
  · rw [hcx]
    exact hfc
  · rw [afterFault, progressAt_rest]
    exact hflits

end Sys2Proof.Proofs
end

section
/-! PROOFS. Loops, the mode class and the sync class. -/

namespace Sys2Proof.Proofs

open Sys2Proof Sys2Proof.Machine Sys2Proof.Laws

/-! ### An instruction that goes on with its context changed (R114) -/

section

variable {s : State} {u k : Nat} {z : Zelux} {wait : Cu → Nat → Ctx → Wait} {go : Nat → Cu → Ctx → State → State}

/-- The state after an instruction that leaves its context `x` and nothing else changed. -/
abbrev afterCtx (s : State) (u k : Nat) (x : Ctx) : State := afterMma s u k (issuedCu s u k) x

theorem onlyCtx_afterCtx (x : Ctx) : OnlyCtx s (afterCtx s u k x) u k where
  toOnlyUnit := onlyUnit_afterMma _ _
  unit := by rw [afterMma_cu]; rfl
  others _ hj := afterMma_cx_ne rfl hj

theorem issue_stall {n : Nat} (h : Issues s u k z) (hw : wait (s.cu u) k (issued s u k) = .stall n) :
    issue u z wait go s =
      .next (s.setCu u ((s.cu u).setCtx k { issued s u k with stalls := bump (s.cx u k).stalls n 1 })) := by
  obtain ⟨h1, h2, h3, h4, h5, h6⟩ := h
  simp only [State.cx] at h4 h5 h6
  simp only [issued, State.cx] at hw ⊢
  simp [issue, h1, h2, h3, h4, h5, hw]

end

/-! ### Loops (R131, R134) -/

section

variable {x : Ctx} {f : LoopF} {c : Nat}

theorem loop_rest (x : Ctx) (f : LoopF) (c : Nat) : x.loop f c = { x with l := (x.loop f c).l, pc := (x.loop f c).pc } := by
  unfold Ctx.loop
  dsimp only
  split
  · rfl
  · rw [closeLoops_rest]
    rfl

theorem loop_enters (x : Ctx) (f : LoopF) (hc : 0 < c) :
    x.loop f c = { x.setLReg f.l.toNat (BitVec.ofNat 16 c) with pc := x.pc + 1 } := if_pos hc

/-- At count 0 the loop that alone closes there is left behind. -/
theorem loop_leaves (hl : loopsAt x.imem f.endpc.toNat = [(f.l.toNat, x.pc + 1)]) :
    x.loop f 0 = { x.setLReg f.l.toNat 0 with pc := f.endpc.toNat + 1 } := by
  unfold Ctx.loop
  dsimp only
  rw [if_neg (Nat.lt_irrefl 0), show (x.setLReg f.l.toNat (BitVec.ofNat 16 0)).imem = x.imem from rfl, hl, Ctx.closeLoops, if_pos rfl,
    Ctx.closeLoops]
  rfl

theorem advance_repeats {c first : Nat} (hl : loopsAt x.imem x.pc = [(c, first)]) (hc : 1 < (x.lReg c).toNat) :
    x.advance = { x.setLReg c (x.lReg c - 1) with pc := first } := by
  rw [Ctx.advance, hl, Ctx.closeLoops, if_neg (by simp), if_pos hc]

theorem advance_leaves {c first : Nat} (hl : loopsAt x.imem x.pc = [(c, first)]) (hc : (x.lReg c).toNat ≤ 1) :
    x.advance = { x.setLReg c 0 with pc := x.pc + 1 } := by
  rw [Ctx.advance, hl, Ctx.closeLoops, if_neg (by simp), if_neg (by omega), Ctx.closeLoops]

theorem lReg_of_setLReg {y : Ctx} {c : Nat} {v : BitVec 16} (h : y.l = (x.setLReg c v).l) :
    y.lReg c = v ∧ ∀ q, q ≠ c → y.lReg q = x.lReg q := by
  have hq : ∀ q, y.lReg q = if q = c then v else x.lReg q := fun q => by
    rw [Ctx.lReg, h]
    exact lReg_setLReg _ _ _ _
  exact ⟨by rw [hq, if_pos rfl], fun q hne => by rw [hq, if_neg hne]⟩

end

section

variable {s : State} {u k : Nat} {f : LoopF}

theorem exec_loop (hi : Issues s u k (.loop f)) (hn : ¬(f.csrc = 1 ∧ ((s.cx u k).sReg f.sidx.toNat).poi = true)) :
    exec (.loop u f) s = .next (afterCtx s u k ((issued s u k).loop f ((s.cx u k).loopCount f))) := by
  change execLoop u f s = _
  rw [execLoop, issue_go hi rfl]
  dsimp only
  rw [if_neg (by rwa [Bool.and_eq_true, decide_eq_true_eq])]
  rfl

theorem exec_loop_poisoned (hi : Issues s u k (.loop f)) (hc : f.csrc = 1) (hn : ((s.cx u k).sReg f.sidx.toNat).poi = true) :
    exec (.loop u f) s = .next (afterFault s u k 1 (f.sidx.toNat * 8)) := by
  change execLoop u f s = _
  rw [execLoop, issue_go hi rfl]
  dsimp only
  rw [if_pos (by rw [Bool.and_eq_true, decide_eq_true_eq]; exact ⟨hc, hn⟩)]
  rfl

end

/-- Settles O16: entry, exit and fault of loop by the context's count, and the loop back by the counter. -/
theorem loopIssues : Obligations.LoopIssues := by
  refine ⟨fun u k f s hi => ⟨fun hn => ?_, fun hc hp => ?_⟩, fun x c first hl => ?_⟩
  · have hrest := loop_rest (issued s u k) f ((s.cx u k).loopCount f)
    refine ⟨_, exec_loop hi hn, onlyCtx_afterCtx _, ?_, fun hpos => ?_, fun h0 hl => ?_⟩
    · rw [afterMma_cx, hrest]
      rfl
    · rw [afterMma_cx, loop_enters _ f hpos]
      exact ⟨rfl, lReg_of_setLReg rfl⟩
    · rw [afterMma_cx, h0, loop_leaves (x := issued s u k) hl]
      exact ⟨rfl, lReg_of_setLReg rfl⟩
  · obtain ⟨hf, -, -⟩ := afterFault_faulted hi.active (cause := 1) (by omega) (f.sidx.toNat * 8)
    exact ⟨_, exec_loop_poisoned hi hc hp, hf⟩
  · refine ⟨fun hc => ?_, fun hc => ?_, ?_, ?_⟩
    · rw [advance_repeats hl hc]
      obtain ⟨hq, -⟩ := lReg_of_setLReg (x := x) (y := { x.setLReg c (x.lReg c - 1) with pc := first }) rfl
      refine ⟨rfl, ?_⟩
      rw [hq]
      bv_omega
    · rw [advance_leaves hl hc]
      exact ⟨rfl, (lReg_of_setLReg (x := x) (v := 0) rfl).1⟩
    · rcases Nat.lt_or_ge 1 (x.lReg c).toNat with hc | hc
      · rw [advance_repeats hl hc]
        exact (lReg_of_setLReg rfl).2
      · rw [advance_leaves hl hc]
        exact (lReg_of_setLReg (x := x) (v := 0) rfl).2
    · rw [advance_rest]

end Sys2Proof.Proofs
end

section
/-! PROOFS. The mode class: setmode, getstat and nop. -/

namespace Sys2Proof.Proofs

open Sys2Proof Sys2Proof.Machine Sys2Proof.Laws

/-! ### Events that occur late (R137; log entry 72) -/

section

variable {s : State} {u k : Nat} {x : Ctx}

/-- A draw moves the counter of free values, and only where an event is on its way. -/
theorem lateDraw_free (s : State) (x : Ctx) : ∃ n, (s.lateDraw x).2 = { s with free := n } ∧ (x.late = 0 → n = s.free) := by
  unfold State.lateDraw
  split
  · exact ⟨s.free, rfl, fun _ => rfl⟩
  next h => exact ⟨_, rfl, fun h0 => absurd h0 h⟩

/-- What is on its way after some events have occurred was so before. -/
theorem land_late_bit {v : W64} {i : Nat} (h : (x.land v).late.getLsbD i = true) : x.late.getLsbD i = true := by
  rw [Ctx.land, BitVec.getLsbD_and, Bool.and_eq_true] at h
  exact h.1

theorem land_late_none (v : W64) (h : x.late = 0) : (x.land v).late = 0 := by
  rw [Ctx.land, h]
  exact BitVec.zero_and

/-- An instruction that draws which events have occurred, and changes its context alone besides. -/
theorem issue_draw {z : Zelux} {f : W64 → Ctx → Ctx} (hi : Issues s u k z)
    (hf : ∀ v y, (f v y).imem = y.imem ∧ (f v y).pc = y.pc ∧ (f v y).l = y.l) : ∃ t v,
    issue u z (fun _ _ _ => .go) (fun k c x s => (s.lateDraw x).2.setCu u (c.setCtx k (f (s.lateDraw x).1 x).advance)) s = .next t ∧
      OnlyCtx { s with free := t.free } t u k ∧ ((s.cx u k).late = 0 → t.free = s.free) ∧ (s.cx u k).advanced (t.cx u k) ∧
      t.cx u k = { f v (issued s u k) with l := (t.cx u k).l, pc := (t.cx u k).pc } := by
  obtain ⟨n, hn, h0⟩ := lateDraw_free (s.setCu u (issuedCu s u k)) (issued s u k)
  let v := ((s.setCu u (issuedCu s u k)).lateDraw (issued s u k)).1
  have honly := onlyCtx_afterCtx (s := { s with free := n }) (u := u) (k := k) (f v (issued s u k)).advance
  have hfree : (afterCtx { s with free := n } u k (f v (issued s u k)).advance).free = n := by rw [honly.rest]
  obtain ⟨hi', hp, hl⟩ := hf v (issued s u k)
  obtain ⟨hadv, hrest⟩ := advanced_advance (x := s.cx u k) rfl hi' hp hl
  refine ⟨afterCtx { s with free := n } u k (f v (issued s u k)).advance, v, ?_, ?_, fun hz => hfree.trans (h0 hz), ?_, ?_⟩
  · rw [issue_go hi rfl]
    change Host.Outcome.next (((((s.setCu u (issuedCu s u k)).lateDraw (issued s u k)).2).setCu u _).progressAt u) = _
    rw [hn]
    rfl
  · rw [hfree]
    exact honly
  · rw [afterMma_cx]
    exact hadv
  · rw [afterMma_cx]
    exact hrest

end

/-! ### The mode class (R136–R138) -/

/-- The context as setmode leaves it before its end, with the events that the open value says. -/
def modeSet (mask value aclr : BitVec 8) (v : W64) (x : Ctx) : Ctx :=
  { x.land v with mode := ((x.land v).mode &&& ~~~mask) ||| (value &&& mask), astat := (x.land v).astat &&& ~~~aclr }

/-- The context as getstat leaves it before its end. -/
def statGot (sd : BitVec 5) (v : W64) (x : Ctx) : Ctx :=
  (x.land v).setSReg sd.toNat ⟨BitVec.ofNat 32 ((x.land v).mode.toNat * 256 + (x.land v).astat.toNat), false⟩

theorem masked_bit (old mask value : BitVec 8) (i : Nat) : ((old &&& ~~~mask) ||| (value &&& mask)).getLsbD i =
    if mask.getLsbD i then value.getLsbD i else old.getLsbD i := by
  simp only [BitVec.getLsbD_or, BitVec.getLsbD_and, BitVec.getLsbD_not]
  by_cases hi : i < 8
  · cases mask.getLsbD i <;> simp [hi]
  · simp [BitVec.getLsbD_of_ge _ i (Nat.le_of_not_lt hi)]

theorem ofNat_mode_astat (m a : BitVec 8) : BitVec.ofNat 32 (m.toNat * 256 + a.toNat) = 0#16 ++ m ++ a := by
  have hm := m.isLt
  have ha := a.isLt
  apply BitVec.eq_of_toNat_eq
  rw [BitVec.toNat_append, BitVec.toNat_append, ← Nat.shiftLeft_add_eq_or_of_lt ha]
  simp only [BitVec.toNat_ofNat, Nat.shiftLeft_eq, Nat.zero_mod, Nat.zero_mul, Nat.zero_or]
  omega

/-- Settles O17: each instruction by the context that it leaves, with the draw of what has occurred. -/
theorem modeClass : Obligations.ModeClass := by
  refine ⟨fun u k mask value aclr s hi => ?_, fun u k sd s hi => ?_, fun u k s hi => ?_⟩
  · obtain ⟨t, v, hex, honly, hfree, hadv, hrest⟩ := issue_draw (f := modeSet mask value aclr) hi fun _ _ => ⟨rfl, rfl, rfl⟩
    refine ⟨t, v.extractLsb' 0 8, hex, honly, hadv, fun h0 => ⟨hfree h0, ?_⟩, fun i => ?_, fun i hi => ?_, fun i => ?_, ?_⟩
    all_goals rw [hrest]
    · exact land_late_none v h0
    · exact masked_bit _ _ _ _
    · change (((s.cx u k).astat ||| ((s.cx u k).late &&& v.extractLsb' 0 8)) &&& ~~~aclr).getLsbD i = _
      rw [BitVec.getLsbD_and, BitVec.getLsbD_or, BitVec.getLsbD_and, BitVec.getLsbD_not, decide_eq_true hi, Bool.true_and]
    · exact land_late_bit
    · rfl
  · obtain ⟨t, v, hex, honly, hfree, hadv, hrest⟩ := issue_draw (f := statGot sd) hi fun _ _ => ⟨rfl, rfl, rfl⟩
    have hs : ∀ q, (t.cx u k).sReg q = if q = sd.toNat then
        ⟨0#16 ++ (s.cx u k).mode ++ ((s.cx u k).land v).astat, false⟩ else (s.cx u k).sReg q := fun q => by
      rw [hrest, ← ofNat_mode_astat]
      exact sReg_setSReg _ _ _ _
    refine ⟨t, v.extractLsb' 0 8, hex, honly, hadv, fun h0 => ⟨hfree h0, ?_⟩, ?_, ?_, ?_, fun q hq => ?_, ?_⟩
    · rw [hrest]
      exact land_late_none v h0
    · rw [hrest]
      rfl
    · rw [hs, if_pos rfl, hrest]
      rfl
    · rw [hs, if_pos rfl]
    · rw [hs, if_neg hq]
    · rw [hrest]
      rfl
  · obtain ⟨t, hex, honly, ht⟩ := issueCtx_go (use := fun _ => ⟨[], []⟩) (f := fun x => x) hi (hazard_no_use _ _)
    obtain ⟨hadv, hrest⟩ := advanced_advance (x := s.cx u k) ht rfl rfl rfl
    exact ⟨t, hex, honly, hadv, hrest⟩

end Sys2Proof.Proofs
end

section
/-! PROOFS. The sync class: end, yield, the waits and mark. -/

namespace Sys2Proof.Proofs

open Sys2Proof Sys2Proof.Machine Sys2Proof.Laws

theorem sameRegs_of {x y : Ctx} (hv : y.v = x.v) (ht : y.t = x.t) : x.sameRegs y := fun c i => by
  unfold Ctx.regRow Ctx.vReg Ctx.tRow
  rw [hv, ht]

section

variable {s : State} {u k : Nat}

/-! ### A sync instruction that goes on (R138, R140) -/

/-- An instruction that changes neither PC nor loop counters nor registers goes on from where it stood. -/
theorem afterCtx_advanced {y : Ctx} (hi : y.imem = (s.cx u k).imem) (hp : y.pc = (s.cx u k).pc) (hl : y.l = (s.cx u k).l)
    (hv : y.v = (s.cx u k).v) (ht : y.t = (s.cx u k).t) :
    (s.cx u k).advanced ((afterCtx s u k y.advance).cx u k) ∧ (s.cx u k).sameRegs ((afterCtx s u k y.advance).cx u k) := by
  obtain ⟨hadv, hrest⟩ := advanced_advance (x := s.cx u k) (z := y.advance) rfl hi hp hl
  rw [afterMma_cx]
  exact ⟨hadv, sameRegs_of (by rw [hrest]; exact hv) (by rw [hrest]; exact ht)⟩

theorem exec_waitStep {count : BitVec 16} (hi : Issues s u k (.waitStep count)) : exec (.waitStep u count) s = .next (afterCtx s u k
    { (issued s u k).advance with waitTo := some ((s.time.now / s.stepDt + count.toNat) * s.stepDt) }) := by
  change execWaitStep u count s = _
  rw [execWaitStep, issue_go hi rfl]
  rfl

theorem exec_waitSb {ld st : Bool} (hi : Issues s u k (.waitSb ld st)) (hld : ld = true → (s.cx u k).remote.all (fun r => !r.load) = true)
    (hst : st = true → (s.cx u k).remote.all (·.load) = true) :
    exec (.waitSb u ld st) s = .next (afterCtx s u k (issued s u k).advance) := by
  have hno : ((ld && (s.cx u k).remote.any (·.load)) || (st && (s.cx u k).remote.any fun r => !r.load)) = false := by
    rw [Bool.or_eq_false_iff, Bool.and_eq_false_imp, Bool.and_eq_false_imp]
    refine ⟨fun h => ?_, fun h => ?_⟩
    · simpa [List.any_eq_false, List.all_eq_true] using hld h
    · simpa [List.any_eq_false, List.all_eq_true] using hst h
  change execWaitSb u ld st s = _
  rw [execWaitSb, issue_go hi (if_neg (by rw [Bool.not_eq_true]; exact hno))]
  rfl

theorem exec_waitSb_stands {ld st : Bool} (hi : Issues s u k (.waitSb ld st))
    (h : ((ld && (s.cx u k).remote.any (·.load)) || (st && (s.cx u k).remote.any fun r => !r.load)) = true) : exec (.waitSb u ld st) s =
      .next (s.setCu u ((s.cu u).setCtx k { issued s u k with stalls := bump (s.cx u k).stalls 6 1 })) := by
  change execWaitSb u ld st s = _
  rw [execWaitSb, issue_stall hi (if_pos h)]

theorem exec_waitDrain (hi : Issues s u k .waitDrain) (hr : (s.cu u).runsOf k = []) (hp : (s.cx u k).pushes = [])
    (hm : (s.cx u k).remote = []) : exec (.waitDrain u) s = .next (afterCtx s u k (issued s u k).settle.advance) := by
  change execWaitDrain u s = _
  rw [execWaitDrain, issue_go hi]
  · rfl
  · rw [hr, show (issued s u k).pushes = [] from hp, show (issued s u k).remote = [] from hm]
    rfl

theorem exec_waitDrain_stands (hi : Issues s u k .waitDrain)
    (h : (s.cu u).runsOf k ≠ [] ∨ (s.cx u k).pushes ≠ [] ∨ (s.cx u k).remote ≠ []) : exec (.waitDrain u) s =
      .next (s.setCu u ((s.cu u).setCtx k { issued s u k with stalls := bump (s.cx u k).stalls 6 1 })) := by
  have hout : (!((s.cu u).runsOf k).isEmpty || !(s.cx u k).pushes.isEmpty || !(s.cx u k).remote.isEmpty) = true := by
    simpa [List.isEmpty_iff, or_assoc] using h
  change execWaitDrain u s = _
  rw [execWaitDrain, issue_stall hi (if_pos hout)]

theorem exec_mark {tag : BitVec 16} (hi : Issues s u k (.mark tag)) (hm : (s.cx u k).mode.getLsbD 2 = false) :
    exec (.mark u tag) s = .next (afterCtx s u k (issued s u k).advance) := by
  change execMark u tag s = _
  rw [execMark, issue_go hi rfl]
  dsimp only
  rw [if_neg (by rw [show (issued s u k).mode = (s.cx u k).mode from rfl, hm]; exact Bool.false_ne_true)]
  rfl

/-! ### end (R138, R139) -/

theorem unflag_rest (x : Ctx) : x.unflag = { x with rem := x.unflag.rem, que := x.unflag.que, flag := x.unflag.flag } := by
  unfold Ctx.unflag
  split
  · rfl
  · split
    · rfl
    · rfl

/-- The unit whose context `k` has ended, before the array's places are filled again. -/
def endedCu (s : State) (u k : Nat) : Cu := { (issuedCu s u k).setCtx k { (issued s u k).unflag with st := .done } with active := none }

theorem exec_endProg (hi : Issues s u k .endp) :
    exec (.endProg u) s = .next (((s.setCu u (issuedCu s u k)).setCu u (endedCu s u k).promote).progressAt u) := by
  change execEndProg u s = _
  rw [execEndProg, issue_go hi rfl]
  rfl

theorem endedCu_ctxAt (j : Nat) :
    (endedCu s u k).ctxAt j = if j = k then { (issued s u k).unflag with st := .done } else s.cx u j := by
  change (((s.cu u).setCtx k (issued s u k)).setCtx k { (issued s u k).unflag with st := .done }).ctxAt j = _
  rw [ctxAt_setCtx]
  split
  · rfl
  next h => rw [ctxAt_setCtx, if_neg h]; rfl

theorem onlyUnit_setCu_twice (c d : Cu) : OnlyUnit s (((s.setCu u c).setCu u d).progressAt u) u :=
  onlyUnit_trans (onlyUnit_trans (onlyUnit_setCu _ _ _) (onlyUnit_setCu _ _ _)) (onlyUnit_progressAt _ _)

/-! ### yield (R138, R139, R151) -/

/-- The unit whose context `k` has yielded, before its successor is asked for. -/
def idleCu (s : State) (u k : Nat) : Cu := { (issuedCu s u k).setCtx k { (issued s u k).advance with st := .ready } with active := none }

/-- The unit as yield leaves it: its context READY, and its successor asked for where SV is 1. -/
def yieldedCu (s : State) (u k : Nat) (sv : Bool) (succ : BitVec 2) : Cu :=
  let c := idleCu s u k
  let v := succ.toNat
  if !sv then c
  else match c.pendSw with
    | some w => if w = v then c else { c with noops := c.noops + 1 }
    | none =>
      if v == k || (c.ctxAt v).st == .empty || (c.ctxAt v).st == .faulted then { c with noops := c.noops + 1 }
      else { c with pendSw := some v, swByAction := false }

theorem exec_yieldCtx {sv : Bool} {succ : BitVec 2} (hi : Issues s u k (.yld sv succ)) : exec (.yieldCtx u sv succ) s =
    .next (((s.setCu u (issuedCu s u k)).setCu u (yieldedCu s u k sv succ)).progressAt u) := by
  change execYieldCtx u sv succ s = _
  rw [execYieldCtx, issue_go hi rfl]
  rfl

theorem idleCu_ctxAt (j : Nat) : (idleCu s u k).ctxAt j = if j = k then { (issued s u k).advance with st := .ready } else s.cx u j := by
  change (((s.cu u).setCtx k (issued s u k)).setCtx k { (issued s u k).advance with st := .ready }).ctxAt j = _
  rw [ctxAt_setCtx]
  split
  · rfl
  next h => rw [ctxAt_setCtx, if_neg h]; rfl

/-- A request for a successor changes neither the contexts nor which one is active. -/
theorem yieldedCu_ctx (sv : Bool) (succ : BitVec 2) :
    (yieldedCu s u k sv succ).ctx = (idleCu s u k).ctx ∧ (yieldedCu s u k sv succ).active = none := by
  unfold yieldedCu
  dsimp only
  split
  · exact ⟨rfl, rfl⟩
  · split
    · split
      · exact ⟨rfl, rfl⟩
      · exact ⟨rfl, rfl⟩
    · split
      · exact ⟨rfl, rfl⟩
      · exact ⟨rfl, rfl⟩

theorem yieldedCu_quiet (succ : BitVec 2) : yieldedCu s u k false succ = idleCu s u k := rfl

theorem yieldedCu_asks {succ : BitVec 2} (hp : (s.cu u).pendSw = none) (hk : succ.toNat ≠ k) : yieldedCu s u k true succ =
    if (s.cx u succ.toNat).st = .empty ∨ (s.cx u succ.toNat).st = .faulted then { idleCu s u k with noops := (s.cu u).noops + 1 }
    else { idleCu s u k with pendSw := some succ.toNat, swByAction := false } := by
  have hc : (idleCu s u k).ctxAt succ.toNat = s.cx u succ.toNat := by rw [idleCu_ctxAt, if_neg hk]
  unfold yieldedCu
  dsimp only
  rw [if_neg (by simp), show (idleCu s u k).pendSw = none from hp, hc]
  dsimp only
  rw [beq_eq_false_iff_ne.mpr hk]
  simp only [Bool.false_or, Bool.or_eq_true, beq_iff_eq]
  rfl

end

theorem endProg_ends {s : State} {u k : Nat} (hi : Issues s u k .endp) :
    ∃ t, exec (.endProg u) s = .next t ∧ OnlyUnit s t u ∧ (t.cu u).active = none ∧ (t.cx u k).st = .done ∧
      (s.cx u k).sameRegs (t.cx u k) ∧ (t.cx u k).pc = (s.cx u k).pc ∧
      ∀ j, j ≠ k → t.cx u j = { s.cx u j with rem := (t.cx u j).rem, que := (t.cx u j).que } := by
  have hp : PlacesOnly (endedCu s u k) (endedCu s u k).promote := promote_placesOnly
  have hctx : ∀ j, (((s.setCu u (issuedCu s u k)).setCu u (endedCu s u k).promote).progressAt u).cx u j = (endedCu s u k).promote.ctxAt j :=
    fun j => by rw [cx_progressAt, State.cx, cu_setCu_same]
  refine ⟨_, exec_endProg hi, onlyUnit_setCu_twice _ _, ?_, ?_, ?_, ?_, fun j hj => ?_⟩
  · rw [progressAt_cu, cu_setCu_same, hp.rest]
    rfl
  · rw [hctx, hp.ctx, endedCu_ctxAt, if_pos rfl]
  · rw [hctx, hp.ctx, endedCu_ctxAt, if_pos rfl, unflag_rest]
    exact sameRegs_of rfl rfl
  · rw [hctx, hp.ctx, endedCu_ctxAt, if_pos rfl, unflag_rest]
    rfl
  · rw [hctx, hp.ctx, endedCu_ctxAt, if_neg hj]

theorem yieldCtx_yields {s : State} {u k : Nat} {sv : Bool} {succ : BitVec 2} (hi : Issues s u k (.yld sv succ)) :
    ∃ t, exec (.yieldCtx u sv succ) s = .next t ∧ OnlyUnit s t u ∧ (t.cu u).active = none ∧ (t.cx u k).st = .ready ∧
      (s.cx u k).advanced (t.cx u k) ∧ (s.cx u k).sameRegs (t.cx u k) ∧ (∀ j, j ≠ k → t.cx u j = s.cx u j) ∧
      (sv = false → (t.cu u).pendSw = (s.cu u).pendSw ∧ (t.cu u).noops = (s.cu u).noops) ∧
      (sv = true → (s.cu u).pendSw = none → succ.toNat ≠ k →
        ((s.cx u succ.toNat).st = .ready ∨ (s.cx u succ.toNat).st = .done → (t.cu u).pendSw = some succ.toNat) ∧
        ((s.cx u succ.toNat).st = .empty ∨ (s.cx u succ.toNat).st = .faulted →
          (t.cu u).pendSw = none ∧ (t.cu u).noops = (s.cu u).noops + 1)) := by
  obtain ⟨hc, ha⟩ := yieldedCu_ctx (s := s) (u := u) (k := k) sv succ
  obtain ⟨hadv, hrest⟩ := advanced_advance (x := s.cx u k) (y := issued s u k) (z := (issued s u k).advance) rfl rfl rfl rfl
  have hcu : (((s.setCu u (issuedCu s u k)).setCu u (yieldedCu s u k sv succ)).progressAt u).cu u = yieldedCu s u k sv succ := by
    rw [progressAt_cu, cu_setCu_same]
  have hctx : ∀ j, (((s.setCu u (issuedCu s u k)).setCu u (yieldedCu s u k sv succ)).progressAt u).cx u j =
      if j = k then { (issued s u k).advance with st := .ready } else s.cx u j := fun j => by
    rw [← idleCu_ctxAt, State.cx, hcu, Cu.ctxAt, hc]
    rfl
  refine ⟨_, exec_yieldCtx hi, onlyUnit_setCu_twice _ _, by rw [hcu, ha], ?_, ?_, ?_, fun j hj => by rw [hctx, if_neg hj], ?_, ?_⟩
  · rw [hctx, if_pos rfl]
  · rw [hctx, if_pos rfl]
    exact hadv
  · rw [hctx, if_pos rfl, hrest]
    exact sameRegs_of rfl rfl
  · rintro rfl
    rw [hcu, yieldedCu_quiet]
    exact ⟨rfl, rfl⟩
  · rintro rfl hp hk
    rw [hcu, yieldedCu_asks hp hk]
    refine ⟨fun h => ?_, fun h => ?_⟩
    · rw [if_neg]
      rcases h with h | h
      all_goals simp [h]
    · rw [if_pos h]
      exact ⟨hp, rfl⟩

/-- Settles O22: each instruction by the context or unit that it leaves. -/
theorem syncClass : Obligations.SyncClass := by
  refine ⟨⟨fun u k s hi => endProg_ends hi, fun u k sv succ s hi => yieldCtx_yields hi, fun u k count s hi => ?_,
    fun u k ld st s hi hld hst => ?_, fun u k s hi hr hp hm => ?_, fun u k tag s hi hm => ?_⟩, fun u k ld st s hi h => ?_, fun u k s hi h => ?_⟩
  · obtain ⟨hadv, hrest⟩ := advanced_advance (x := s.cx u k) (y := issued s u k) (z := (issued s u k).advance) rfl rfl rfl rfl
    refine ⟨_, exec_waitStep hi, onlyCtx_afterCtx _, ?_⟩
    rw [afterMma_cx]
    exact ⟨hadv, rfl, sameRegs_of (by rw [hrest]; rfl) (by rw [hrest]; rfl)⟩
  · exact ⟨_, exec_waitSb hi hld hst, onlyCtx_afterCtx _, afterCtx_advanced rfl rfl rfl rfl rfl⟩
  · obtain ⟨hadv, hregs⟩ := afterCtx_advanced (s := s) (u := u) (k := k) (y := (issued s u k).settle) rfl rfl rfl rfl rfl
    refine ⟨_, exec_waitDrain hi hr hp hm, onlyCtx_afterCtx _, hadv, hregs, ?_⟩
    rw [afterMma_cx, advance_rest]
    exact ⟨rfl, rfl⟩
  · exact ⟨_, exec_mark hi hm, onlyCtx_afterCtx _, afterCtx_advanced rfl rfl rfl rfl rfl⟩
  · exact ⟨_, exec_waitSb_stands hi h, onlyCtx_setCtx _, rfl, by rw [cx_setCtx]; rfl⟩
  · exact ⟨_, exec_waitDrain_stands hi h, onlyCtx_setCtx _, rfl, by rw [cx_setCtx]; rfl⟩

end Sys2Proof.Proofs
end

section
/-! PROOFS. One lane or one row moved, and the rows of remote loads and stores. -/

namespace Sys2Proof.Proofs

open Sys2Proof Sys2Proof.Machine Sys2Proof.Laws

/-! ### One lane of a row (R80, R134) -/

theorem setLane_getD (r : Row) (j i : Nat) (w : Ln) (hj : j < 32) (hi : i < 32) :
    (r.lanes.set j w).getD i (0, false) = if i = j then w else (r.lane i, r.mark i) := by
  rw [List.getD_eq_getElem?_getD, List.getElem?_set]
  by_cases h : i = j
  · rw [if_pos h.symm, if_pos (by rw [lanes_length]; exact hj), if_pos h]
    rfl
  · rw [if_neg (Ne.symm h), if_neg h, ← List.getD_eq_getElem?_getD]
    exact lanes_getD r i hi _

theorem lane_setLane (r : Row) {j i : Nat} (w : Ln) (hj : j < 32) (hi : i < 32) :
    (r.setLane j w).lane i = if i = j then w.1 else r.lane i := by
  rw [Row.setLane, lane_ofLanes _ (0, false) (by simp) i hi, setLane_getD r j i w hj hi]
  split
  all_goals rfl

theorem mark_setLane (r : Row) {j : Nat} {w : Ln} (hj : j < 32) (hw : w.2 = true) : (r.setLane j w).mark j = true := by
  rw [Row.setLane, mark_ofLanes _ (0, false) (by simp) j hj, setLane_getD r j _ w hj (by omega), setLane_getD r j _ w hj (by omega)]
  rcases Nat.mod_two_eq_zero_or_one j with h | h
  · rw [if_pos (show 2 * (j / 2) = j by omega), hw, Bool.true_or]
  · rw [if_pos (show 2 * (j / 2) + 1 = j by omega), hw, Bool.or_true]

theorem regRow_setVReg_ne (x : Ctx) {k c : Nat} (r : Row) (h : c ≠ k) (i : Nat) : (x.setVReg k r).regRow c i = x.regRow c i := by
  unfold Ctx.regRow
  split
  · rw [vReg_setVReg, if_neg h]
  · rfl

section

variable {s : State} {u k : Nat} {f : MoveF}

/-! ### lget and lput (R127, R134) -/

/-- The context as lget leaves it before its end. -/
def laneGot (f : MoveF) (x : Ctx) : Ctx :=
  x.setSReg f.sa.toNat ⟨(x.vReg f.reg.toNat).lane f.imm.toNat, (x.vReg f.reg.toNat).mark f.imm.toNat⟩

/-- The context as lput leaves it before its end. -/
def lanePut (f : MoveF) (x : Ctx) : Ctx :=
  x.setVReg f.reg.toNat ((x.vReg f.reg.toNat).setLane f.imm.toNat ((x.sReg f.sa.toNat).val, (x.sReg f.sa.toNat).poi))

theorem exec_lget : exec (.lget u f) s = issueCtx u (.move .lget f) (fun _ => ⟨[f.reg.toNat], []⟩) (laneGot f) s := rfl

theorem exec_lput : exec (.lput u f) s = issueCtx u (.move .lput f) (fun _ => ⟨[], [f.reg.toNat]⟩) (lanePut f) s := rfl

/-! ### rowget and rowput (R115, R127, R134) -/

/-- The row that rowput writes: the lanes of V where the predicate lets them, the tile's own elsewhere. -/
def rowPut (x : Ctx) (f : MoveF) : Row :=
  Row.ofLanes ((List.range 32).map fun j =>
    if x.mask f.pred f.pneg j then
      (((x.vReg f.pmask.toNat).lanes.getD j (0, false)).1, ((x.vReg f.pmask.toNat).lanes.getD j (0, false)).2 || x.maskPoison f.pred)
    else ((x.regRow f.reg.toNat (x.rowIndex f)).lane j, (x.regRow f.reg.toNat (x.rowIndex f)).mark j))

theorem rowPut_lane (x : Ctx) (f : MoveF) {j : Nat} (hj : j < 32) : (rowPut x f).lane j =
    if x.mask f.pred f.pneg j then (x.vReg f.pmask.toNat).lane j else (x.regRow f.reg.toNat (x.rowIndex f)).lane j := by
  rw [rowPut, lane_ofLanes_map _ hj]
  split
  · rw [lanes_getD _ j hj]
  · rfl

theorem rowIndex_lt (x : Ctx) (f : MoveF) : x.rowIndex f < 32 := by
  unfold Ctx.rowIndex
  split
  · exact Nat.mod_lt _ (by omega)
  · exact f.imm.isLt

theorem legal_rowput (f : MoveF) : (Zelux.move .rowput f).legal = (true && (isTreg f.reg && f.mm1 == 0)) := rfl

theorem exec_rowget (hi : Issues s u k (.move .rowget f))
    (hw : (s.cu u).hazardRows k ⟨[f.reg.toNat], [f.pmask.toNat]⟩ (· == (s.cx u k).rowIndex f) = .go) :
    exec (.rowget u f) s = .next (if (s.cx u k).rowIndexPoison f then afterFault s u k 1 (3 + 8 * f.sa.toNat)
      else afterCtx s u k ((issued s u k).setVReg f.pmask.toNat ((s.cx u k).regRow f.reg.toNat ((s.cx u k).rowIndex f))).advance) := by
  change execRowget u f s = _
  rw [execRowget, issue_go hi hw]
  rw [show (issued s u k).rowIndexPoison f = (s.cx u k).rowIndexPoison f from rfl]
  split
  all_goals rfl

theorem exec_rowput (hi : Issues s u k (.move .rowput f)) (hw : (s.cu u).hazard k ⟨[f.pmask.toNat], [f.reg.toNat]⟩ = .go) :
    exec (.rowput u f) s = .next (if (s.cx u k).rowIndexPoison f then afterFault s u k 1 (3 + 8 * f.sa.toNat)
      else afterCtx s u k ((issued s u k).setRegRow f.reg.toNat ((s.cx u k).rowIndex f) (rowPut (s.cx u k) f)).advance) := by
  change execRowput u f s = _
  rw [execRowput, issue_go hi hw]
  rw [show (issued s u k).rowIndexPoison f = (s.cx u k).rowIndexPoison f from rfl]
  dsimp only
  rw [map_zipIdx_lanes]
  split
  all_goals rfl

theorem setRegRow_tile (x : Ctx) {c : Nat} (i : Nat) (r : Row) (h : 16 ≤ c) : x.setRegRow c i r = x.setTRow (c - 16) i r :=
  if_neg (Nat.not_lt.mpr h)

/-- One row of a tile written. -/
theorem regRow_setTile (x : Ctx) {c i : Nat} (r : Row) (h : 16 ≤ c) (hi : i < 32) (c' : Nat) {i' : Nat} (hi' : i' < 32) :
    (x.setTRow (c - 16) i r).regRow c' i' = if c' = c ∧ i' = i then r else x.regRow c' i' := by
  rw [← setRegRow_tile x i r h, regRow_setRegRow x c i c' i' r hi hi' (by omega)]
  simp only [Nat.not_lt.mpr h, false_or]

theorem setTRow_advanced (s : State) (u k c i : Nat) (r : Row) : (s.cx u k).advanced ((issued s u k).setTRow c i r).advance ∧
    ((issued s u k).setTRow c i r).advance = { s.cx u k with
      t := ((issued s u k).setTRow c i r).advance.t, pc := ((issued s u k).setTRow c i r).advance.pc,
      l := ((issued s u k).setTRow c i r).advance.l, waitTo := none } := by
  obtain ⟨hadv, hrest⟩ := advanced_advance (x := s.cx u k) (y := (issued s u k).setTRow c i r) rfl rfl rfl rfl
  exact ⟨hadv, by rw [hrest]; rfl⟩

theorem issued_regRow (s : State) (u k c i : Nat) : (issued s u k).regRow c i = (s.cx u k).regRow c i := rfl

theorem regRow_of_advance (y : Ctx) (c i : Nat) : y.advance.regRow c i = y.regRow c i := by
  rw [advance_rest]
  rfl

end

/-- Settles O18: each move by the register that it writes; a poisoned row index by the unit fault. -/
theorem rowAndLaneMoves : Obligations.RowAndLaneMoves := by
  refine ⟨⟨fun u k f s hi hw => ?_, fun u k f s hi hw => ?_⟩, fun u k f s hi hw hp => ?_, fun u k f s hi hw hp => ?_, ?_⟩
  · obtain ⟨t, hex, honly, ht⟩ := issueCtx_go (use := fun _ => ⟨[f.reg.toNat], []⟩) (f := laneGot f) hi hw
    obtain ⟨hadv, hrest⟩ := advanced_advance (x := s.cx u k) ht rfl rfl rfl
    have hs : ∀ q, (t.cx u k).sReg q = if q = f.sa.toNat then
        ⟨((s.cx u k).vReg f.reg.toNat).lane f.imm.toNat, ((s.cx u k).vReg f.reg.toNat).mark f.imm.toNat⟩ else (s.cx u k).sReg q := fun q => by
      rw [hrest]
      exact sReg_setSReg _ _ _ _
    exact ⟨t, exec_lget.trans hex, honly, hadv, by rw [hs, if_pos rfl], fun q hq => by rw [hs, if_neg hq], by rw [hrest]; rfl⟩
  · obtain ⟨t, hex, honly, ht⟩ := issueCtx_go (use := fun _ => ⟨[], [f.reg.toNat]⟩) (f := lanePut f) hi hw
    obtain ⟨hadv, hrest⟩ := advanced_advance (x := s.cx u k) ht rfl rfl rfl
    have hreg : (t.cx u k).vReg f.reg.toNat = ((s.cx u k).vReg f.reg.toNat).setLane f.imm.toNat
        (((s.cx u k).sReg f.sa.toNat).val, ((s.cx u k).sReg f.sa.toNat).poi) := by
      rw [hrest]
      exact (vReg_setVReg _ _ _ _).trans (if_pos rfl)
    refine ⟨t, exec_lput.trans hex, honly, hadv, ?_, fun j hj hne => ?_, fun hp => ?_, fun c i hc _ => ?_, by rw [hrest]; rfl⟩
    · rw [hreg, lane_setLane _ _ f.imm.isLt f.imm.isLt, if_pos rfl]
    · rw [hreg, lane_setLane _ _ f.imm.isLt hj, if_neg hne]
    · rw [hreg, mark_setLane _ f.imm.isLt hp]
    · rw [hrest]
      exact regRow_setVReg_ne _ _ hc i
  · have hex := exec_rowget hi hw
    rw [hp, if_neg Bool.false_ne_true] at hex
    refine ⟨_, hex, onlyCtx_afterCtx _, ?_⟩
    rw [afterMma_cx]
    obtain ⟨hadv, hrest⟩ := advanced_advance (x := s.cx u k)
      (y := (issued s u k).setVReg f.pmask.toNat ((s.cx u k).regRow f.reg.toNat ((s.cx u k).rowIndex f))) rfl rfl rfl rfl
    refine ⟨hadv, ?_, fun c i hc _ => ?_, ?_⟩
    all_goals rw [hrest]
    · exact (vReg_setVReg _ _ _ _).trans (if_pos rfl)
    · exact regRow_setVReg_ne _ _ hc i
    · rfl
  · have hex := exec_rowput hi hw
    have hreg : 16 ≤ f.reg.toNat := by
      have hl := hi.legal
      rw [legal_rowput, Bool.true_and, Bool.and_eq_true] at hl
      exact sixteen_le_of_isTreg hl.1
    rw [hp, if_neg Bool.false_ne_true, setRegRow_tile _ _ _ hreg] at hex
    refine ⟨_, hex, onlyCtx_afterCtx _, ?_⟩
    rw [afterMma_cx]
    obtain ⟨hadv, hrest⟩ := setTRow_advanced s u k (f.reg.toNat - 16) ((s.cx u k).rowIndex f) (rowPut (s.cx u k) f)
    have hrow : ∀ c r, r < 32 → ((issued s u k).setTRow (f.reg.toNat - 16) ((s.cx u k).rowIndex f) (rowPut (s.cx u k) f)).advance.regRow c r =
        if c = f.reg.toNat ∧ r = (s.cx u k).rowIndex f then rowPut (s.cx u k) f else (s.cx u k).regRow c r := fun c r hr => by
      rw [regRow_of_advance, regRow_setTile _ _ hreg (rowIndex_lt _ f) c hr, issued_regRow]
    refine ⟨hadv, ⟨fun j hj => ?_, fun c r hc hr => ?_⟩, ?_⟩
    · exact (congrArg (Row.lane · j) ((hrow _ _ (rowIndex_lt _ f)).trans (if_pos ⟨rfl, rfl⟩))).trans (rowPut_lane _ f hj)
    · rw [hrow c r hr, if_neg]
      rintro ⟨h1, h2⟩
      exact hc.elim (absurd h1) (absurd h2)
    · exact hrest
  · intro o u k f s ho hi hget hput hp
    obtain ⟨hf, hctx, -⟩ := afterFault_faulted hi.active (cause := 1) (by omega) (3 + 8 * f.sa.toNat)
    obtain rfl | rfl := ho
    · have hex := exec_rowget hi (hget rfl)
      rw [hp, if_pos rfl] at hex
      exact ⟨_, hex, hf, hctx.v⟩
    · have hex := exec_rowput hi (hput rfl)
      rw [hp, if_pos rfl] at hex
      exact ⟨_, hex, hf, hctx.v⟩

end Sys2Proof.Proofs
end

section
/-! PROOFS. rld and rst: their checks, and the requests they send. -/

namespace Sys2Proof.Proofs

open Sys2Proof Sys2Proof.Machine Sys2Proof.Laws

/-! ### The check at issue (R130, R145) -/

section

variable {s : State} {u : Nat} {x : Ctx} {f : MoveF}

theorem ite_some_eq_none {α : Type} {p : Prop} [Decidable p] {a : α} {b : Option α} : (if p then some a else b) = none ↔ ¬p ∧ b = none := by
  split
  all_goals simp [*]

theorem remoteCheck_none : s.remoteCheck u x f = none ↔
    (x.sReg f.sa.toNat).poi = false ∧ (x.sReg f.sb.toNat).poi = false ∧ (x.sReg f.sa.toNat).val.toNat < 4096 ∧
      isMu (x.sReg f.sa.toNat).val.toNat = true ∧ (s.regionOf (x.sReg f.sa.toNat).val.toNat).isSome = true ∧
      s.regionOf (x.sReg f.sa.toNat).val.toNat = s.regionOf u ∧ (x.sReg f.sb.toNat).val.toNat % 128 = 0 ∧ x.rv = true ∧
      128 * x.rowLo ≤ (x.sReg f.sb.toNat).val.toNat ∧
      (x.sReg f.sb.toNat).val.toNat + 128 * (f.mm1.toNat + 1) ≤ 128 * (x.rowHi + 1) := by
  simp only [State.remoteCheck, ite_some_eq_none]
  by_cases hid : (x.sReg f.sa.toNat).val.toNat < 4096
  · simp [Nat.mod_eq_of_lt hid, hid, ← Option.ne_none_iff_isSome, and_assoc]
  · simp [hid]

theorem remoteCheck_cause {c d : Nat} (h : s.remoteCheck u x f = some (c, d)) :
    c = if (x.sReg f.sa.toNat).poi = true ∨ (x.sReg f.sb.toNat).poi = true then 1 else 2 := by
  simp only [State.remoteCheck] at h
  split at h
  next ha => rw [if_pos (.inl ha)]; cases h; rfl
  next ha =>
    split at h
    next hb => rw [if_pos (.inr hb)]; cases h; rfl
    next hb =>
      rw [if_neg (not_or.mpr ⟨ha, hb⟩)]
      repeat' split at h
      all_goals cases h
      all_goals rfl

theorem remoteCheck_cause_le {c d : Nat} (h : s.remoteCheck u x f = some (c, d)) : c ≤ 8 := by
  rw [remoteCheck_cause h]
  split
  all_goals omega

end

/-! ### The requests (R130) -/

section

variable {s : State} {u k : Nat} {f : MoveF}

/-- The request for row `i` that an rld or rst sends. -/
def remoteRequest (s : State) (u k : Nat) (f : MoveF) (load : Bool) (i : Nat) : Flit :=
  { kind := if load then .readReq else .writeReq, rtag := (s.regionOf u).getD 256, src := .unit u,
    dst := .unit (((s.cx u k).sReg f.sa.toNat).val.toNat % 4096), addr := ((s.cx u k).sReg f.sb.toNat).val.toNat + 128 * i,
    mask := if load then 0 else fullMask, row := if load then Row.zero else (s.cx u k).regRow f.reg.toNat i,
    tag := 4 * ((s.cx u k).rtag + i) + k, gen := count s.net.gens (4 * u + k), down := false, copies := 1 }

/-- The context whose rld or rst has sent its requests, before it goes on. -/
def awaiting (s : State) (u k : Nat) (f : MoveF) (load : Bool) : Ctx :=
  { issued s u k with
    remote := (s.cx u k).remote ++ (List.range (f.mm1.toNat + 1)).map fun i => ⟨load, f.reg.toNat, i, 4 * ((s.cx u k).rtag + i) + k⟩,
    rtag := (s.cx u k).rtag + (f.mm1.toNat + 1) }

/-- The state in which an instruction that issued has sent its requests. -/
def afterRemote (s : State) (u k : Nat) (f : MoveF) (load : Bool) : State :=
  ((s.setCu u (issuedCu s u k)).sendRemote u k (issued s u k) f load).progressAt u

/-- The requests on their way, before the region counts them. -/
def requestsSent (s : State) (u k : Nat) (f : MoveF) (load : Bool) : State :=
  { (s.setCu u (issuedCu s u k)).updCtx u k fun _ => (awaiting s u k f load).advance with
    flits := s.flits ++ (List.range (f.mm1.toNat + 1)).map (remoteRequest s u k f load) }

theorem afterRemote_regionsOnly (load : Bool) : RegionsOnly (requestsSent s u k f load) (afterRemote s u k f load) :=
  addUnitCtr_regionsOnly.trans (progressAt_rest _ u)

theorem afterRemote_cx (load : Bool) : (afterRemote s u k f load).cx u k = (awaiting s u k f load).advance := by
  rw [(afterRemote_regionsOnly load).eq]
  change ((s.setCu u (issuedCu s u k)).updCtx u k fun _ => (awaiting s u k f load).advance).cx u k = _
  rw [updCtx_eq, State.cx, cu_setCu_same, ctxAt_setCtx_same]

theorem afterRemote_flits (load : Bool) : (afterRemote s u k f load).flits =
    s.flits ++ (List.range (f.mm1.toNat + 1)).map (remoteRequest s u k f load) := by
  rw [(afterRemote_regionsOnly load).eq]
  rfl

theorem afterRemote_rest (load : Bool) : afterRemote s u k f load = { s with
    cus := (afterRemote s u k f load).cus, rgns := (afterRemote s u k f load).rgns, flits := (afterRemote s u k f load).flits } := by
  have hsent : requestsSent s u k f load = { s with cus := (requestsSent s u k f load).cus, flits := (requestsSent s u k f load).flits } := rfl
  have h := (afterRemote_regionsOnly (s := s) (u := u) (k := k) (f := f) load).eq
  generalize requestsSent s u k f load = a at h hsent
  generalize afterRemote s u k f load = t at h ⊢
  rw [h]
  conv_lhs => rw [hsent]

theorem exec_rld (hi : Issues s u k (.move .rld f)) (hfence : s.fencedRegion u = false)
    (hw : (s.cu u).hazard k ⟨[], [f.reg.toNat]⟩ = .go) : exec (.rld u f) s = .next (match s.remoteCheck u (s.cx u k) f with
      | some (cause, detail) => afterFault s u k cause detail
      | none => afterRemote s u k f true) := by
  have hgo : (if s.fencedRegion u then Wait.quiet else (s.cu u).hazard k ⟨[], [f.reg.toNat]⟩) = .go :=
    (if_neg (ne_true_of_eq_false hfence)).trans hw
  change execRld u f s = _
  rw [execRld, issue_go (wait := fun c k _ => if s.fencedRegion u then .quiet else c.hazard k ⟨[], [f.reg.toNat]⟩) hi hgo]
  rw [show (s.setCu u ((s.cu u).setCtx k (issued s u k))).remoteCheck u (issued s u k) f = s.remoteCheck u (s.cx u k) f from rfl]
  cases s.remoteCheck u (s.cx u k) f with
  | none => rfl
  | some found => rfl

theorem exec_rst (hi : Issues s u k (.move .rst f)) (hfence : s.fencedRegion u = false)
    (hw : (s.cu u).hazard k ⟨[f.reg.toNat], []⟩ = .go) : exec (.rst u f) s = .next (match s.remoteCheck u (s.cx u k) f with
      | some (cause, detail) => afterFault s u k cause detail
      | none => afterRemote s u k f false) := by
  have hgo : (if s.fencedRegion u then Wait.quiet else (s.cu u).hazard k ⟨[f.reg.toNat], []⟩) = .go :=
    (if_neg (ne_true_of_eq_false hfence)).trans hw
  change execRst u f s = _
  rw [execRst, issue_go (wait := fun c k _ => if s.fencedRegion u then .quiet else c.hazard k ⟨[f.reg.toNat], []⟩) hi hgo]
  rw [show (s.setCu u ((s.cu u).setCtx k (issued s u k))).remoteCheck u (issued s u k) f = s.remoteCheck u (s.cx u k) f from rfl]
  cases s.remoteCheck u (s.cx u k) f with
  | none => rfl
  | some found => rfl

/-- What an rld or rst that issues leads to, its request being a load or a store. -/
theorem exec_remote {o : MoveOp} (ho : o = .rld ∨ o = .rst) (hi : Issues s u k (.move o f)) (hfence : s.fencedRegion u = false)
    (hw : (s.cu u).hazard k (if o = .rld then ⟨[], [f.reg.toNat]⟩ else ⟨[f.reg.toNat], []⟩) = .go) :
    ∃ load : Bool, (load = true ↔ o = .rld) ∧
      (s.remoteCheck u (s.cx u k) f = none → exec ((Zelux.move o f).cmd u) s = .next (afterRemote s u k f load)) ∧
      (∀ c d, s.remoteCheck u (s.cx u k) f = some (c, d) → exec ((Zelux.move o f).cmd u) s = .next (afterFault s u k c d)) := by
  obtain rfl | rfl := ho
  · have hex := exec_rld hi hfence hw
    exact ⟨true, by simp, fun h => by rw [h] at hex; exact hex, fun c d h => by rw [h] at hex; exact hex⟩
  · have hex := exec_rst hi hfence hw
    exact ⟨false, by simp, fun h => by rw [h] at hex; exact hex, fun c d h => by rw [h] at hex; exact hex⟩

end

/-- Settles O21: the requests by the context that awaits them, a failed check by the unit fault, and the check by its branches. -/
theorem remoteAccess : Obligations.RemoteAccess := by
  refine ⟨fun o u k f s ho hi hfence hw => ?_, fun u x f s => ⟨remoteCheck_none, fun c d => remoteCheck_cause⟩⟩
  obtain ⟨load, hload, hsend, hfail⟩ := exec_remote ho hi hfence hw
  refine ⟨fun h => ⟨_, hsend h, afterRemote_rest _, ?_⟩, fun c d h => ⟨_, hfail c d h, ?_⟩⟩
  · obtain ⟨hadv, hrest⟩ := advanced_advance (x := s.cx u k) (y := awaiting s u k f load) rfl rfl rfl rfl
    rw [afterRemote_cx, afterRemote_flits]
    refine ⟨hadv, sameRegs_of (by rw [hrest]; rfl) (by rw [hrest]; rfl), by simp, List.take_left, fun i hle => ?_,
      by rw [hrest]; simp [awaiting], by rw [hrest]; rfl⟩
    refine ⟨remoteRequest s u k f load i, ?_, rfl, rfl, rfl, rfl, ?_⟩
    · rw [List.getElem?_append_right (by omega), Nat.add_sub_cancel_left, List.getElem?_map, List.getElem?_range (by omega)]
      rfl
    · simp only [remoteRequest, hload]
  · obtain ⟨hf, hctx, hflits⟩ := afterFault_faulted hi.active (remoteCheck_cause_le h) d
    exact ⟨hf, hflits, hctx.remote.symm⟩

end Sys2Proof.Proofs
end

section
/-! PROOFS. What answers, NACKs and refused or foreign flits do where they arrive. -/

namespace Sys2Proof.Proofs

open Sys2Proof Sys2Proof.Machine Sys2Proof.Laws

section

variable {s : State} {f g : Flit} {u : Nat} {r : Remote} {kind : FlitKind} {refuse : State → State} {take : State → Out}

/-! ### The ways of a flit that its endpoint does not take (R196, R217) -/

theorem arrive_refused (hc : s.Comes kind f) (hr : s.refuses f = true) :
    s.arrive kind f refuse take = .next (refuse (s.takeFlit f)) := by
  obtain ⟨hk, ho, ht⟩ := hc
  have ht' : (s.takeFlit f).tagOk f = true := ht
  have hr' : (s.takeFlit f).refuses f = true := hr
  simp [State.arrive, hk, ho, ht', hr']

theorem arrive_foreign (hk : f.kind = kind) (ho : s.inOrder f = true) (ht : s.tagOk f = false) :
    s.arrive kind f refuse take = .next ((s.takeFlit f).addReg (aObsRtr (routerTo f.src f.dst)) 1) := by
  have ht' : (s.takeFlit f).tagOk f = false := ht
  simp [State.arrive, hk, ho, ht']

theorem reg_addReg_same (s : State) (o n : Nat) : (s.addReg o n).reg o = s.reg o + BitVec.ofNat 64 n := by
  rw [State.addReg, reg_setReg_same]

theorem dropReply_dropped : count ((s.dropReply f).net.dropped) (routerTo f.dst f.src) = count s.net.dropped (routerTo f.dst f.src) + 1 :=
  (count_bump s.net.dropped _ _ 1).trans (if_pos rfl)

/-! ### The request that an answer is for (R130, R181) -/

theorem remoteFor_some {load : Bool} (hgen : count s.net.gens (4 * u + f.tag % 4) = f.gen)
    (h : (s.cx u (f.tag % 4)).remote.find? (fun r => r.load == load && r.tag == f.tag) = some r) : s.remoteFor u load f = some r := by
  simp only [State.remoteFor, hgen, beq_self_eq_true, if_true]
  exact h

theorem remoteFor_none {load : Bool} (h : ∀ r ∈ (s.cx u (f.tag % 4)).remote, r.tag ≠ f.tag) : s.remoteFor u load f = none := by
  have hnone : (s.cx u (f.tag % 4)).remote.find? (fun r => r.load == load && r.tag == f.tag) = none :=
    List.find?_eq_none.mpr fun r hr => by simp [h r hr]
  unfold State.remoteFor
  dsimp only
  split
  · exact hnone
  · rfl

theorem current_of_load (hd : f.dst = .unit u) (hu : isMu u = false) (h : s.remoteFor u true f = some r) : s.current f = true := by
  simp [State.current, hd, hu, h]

theorem rowArrive_unit (hd : f.dst = .unit u) (hu : isMu u = false) (row : Row) : s.rowArrive f row = s.rldArrive u f row := by
  simp [State.rowArrive, hd, hu]

/-! ### An answer that its context awaits -/

/-- The context that has its row. -/
def rowTaken (x : Ctx) (r : Remote) (row : Row) : Ctx := { x.setRegRow r.reg r.row row with remote := x.remote.erase r }

/-- Ports that hold nothing and wait for no push stay as they are. -/
theorem pumpPorts_idle (h : ∀ p, p < 4 → (s.cu u).waitingPush p = none ∧ (s.cu u).oTokens p = []) : s.pumpPorts u = s := by
  refine List.foldlRecOn (motive := fun t => t = s) _ _ rfl fun t ht p hp => ?_
  obtain ⟨hw, ho⟩ := h p (List.mem_range.mp hp)
  rw [ht, pumpPort_idle ho hw]

theorem setRegRow_pushes (x : Ctx) (c i : Nat) (row : Row) : (x.setRegRow c i row).pushes = x.pushes := by
  unfold Ctx.setRegRow
  split
  · rfl
  · rfl

theorem rowTaken_pushes (x : Ctx) (r : Remote) (row : Row) : (rowTaken x r row).pushes = x.pushes := setRegRow_pushes _ _ _ _

/-- A context that keeps its pushes leaves the ports' as they are. -/
theorem waitingPush_setCtx {c : Cu} {k : Nat} {x : Ctx} (h : x.pushes = (c.ctxAt k).pushes) (p : Nat) :
    (c.setCtx k x).waitingPush p = c.waitingPush p := by
  have hpush : ∀ j, ((c.setCtx k x).ctxAt j).pushes = (c.ctxAt j).pushes := fun j => by
    rw [ctxAt_setCtx]
    split
    next hj => rw [h, hj]
    · rfl
  simp only [Cu.waitingPush, hpush]

theorem rldArrive_some (h : s.remoteFor u true f = some r)
    (hidle : ∀ p, p < 4 → (s.cu u).waitingPush p = none ∧ (s.cu u).oTokens p = []) (row : Row) :
    s.rldArrive u f row = s.setCu u ((s.cu u).setCtx (f.tag % 4) (rowTaken (s.cx u (f.tag % 4)) r row)) := by
  have hbefore : s.rldArrive u f row = (s.updCtx u (f.tag % 4) fun x => rowTaken x r row).pumpPorts u := by
    rw [State.rldArrive, h]
    rfl
  rw [hbefore, updCtx_eq, ← State.cx]
  refine pumpPorts_idle fun p hp => ?_
  obtain ⟨hw, ho⟩ := hidle p hp
  rw [cu_setCu_same]
  exact ⟨(waitingPush_setCtx (rowTaken_pushes _ _ _) p).trans hw, ho⟩

/-! ### The commands -/

theorem readReply_comes (hc : s.Comes .readReply f) (hr : s.refuses f = false) (hd : f.dst = .unit u) (hu : isMu u = false) :
    exec (.readReply f) s = .next ((s.takeFlit f).rldArrive u f f.row) := by
  change execReadReply f s = _
  rw [execReadReply, arrive_take hc hr, rowArrive_unit hd hu]

theorem acknowledgement_comes (hc : s.Comes .ack f) (hr : s.refuses f = false) (hd : f.dst = .unit u) (hu : isMu u = false) (hdown : f.down = false)
    (h : s.remoteFor u false f = some r) : exec (.acknowledgement f) s = .next ((s.takeFlit f).setCu u
      ((s.cu u).setCtx (f.tag % 4) { s.cx u (f.tag % 4) with remote := (s.cx u (f.tag % 4)).remote.erase r })) := by
  have h' : (s.takeFlit f).remoteFor u false f = some r := h
  change execAcknowledgement f s = _
  rw [execAcknowledgement, arrive_take hc hr]
  simp only [hdown, Bool.false_eq_true, if_false, State.ackArrive, hd, hu, h']
  rfl

theorem noteDown_region {q : Nat} (hd : f.dst = .unit u) (hq : s.regionOf u = some q) (hc : s.current f = true) : s.noteDown f = s.regionDown q := by
  simp [State.noteDown, hd, hq, hc]

theorem noteDown_regionsOnly : RegionsOnly s (s.noteDown f) := by
  unfold State.noteDown
  split
  · split
    · split
      · rfl
      · rfl
    · rfl
  · rfl

theorem domainDown_comes (hc : s.Comes .down f) (hr : s.refuses f = false) (hd : f.dst = .unit u) (hu : isMu u = false) :
    exec (.domainDownAnswer f) s = .next (((s.takeFlit f).noteDown f).rldArrive u f Row.down) := by
  change execDomainDownAnswer f s = _
  rw [execDomainDownAnswer, arrive_take hc hr, rowArrive_unit hd hu]

theorem remoteFor_noteDown (load : Bool) : (s.noteDown f).remoteFor u load f = s.remoteFor u load f := by
  rw [(noteDown_regionsOnly (s := s) (f := f)).eq]
  rfl

theorem countResend_rest (e : Endpoint) : s.countResend e = { s with
    rgns := (s.countResend e).rgns, mus := (s.countResend e).mus, net := (s.countResend e).net } := by
  unfold State.countResend
  split
  · split
    · rw [addUnitCtr_rest]
      rfl
    · rw [addUnitCtr_rest]
  · rfl

/-- A flit with a foreign tag is discarded where it enters, and counted there. -/
theorem foreign_discarded {c : Instr} {k : FlitKind} (hc : (c, k) ∈ [(Instr.writeRequest f, FlitKind.writeReq), (.bulk f, .bulk),
      (.controlMessage f, .control), (.readReply f, .readReply), (.acknowledgement f, .ack), (.nack f, .nack), (.domainDownAnswer f, .down)])
    (hk : f.kind = k) (ho : s.inOrder f = true) (ht : s.tagOk f = false) :
    exec c s = .next ((s.takeFlit f).addReg (aObsRtr (routerTo f.src f.dst)) 1) := by
  simp only [List.mem_cons, Prod.mk.injEq, List.not_mem_nil, or_false] at hc
  rcases hc with ⟨rfl, rfl⟩ | ⟨rfl, rfl⟩ | ⟨rfl, rfl⟩ | ⟨rfl, rfl⟩ | ⟨rfl, rfl⟩ | ⟨rfl, rfl⟩ | ⟨rfl, rfl⟩
  · exact (arrive_foreign hk ho ht : execWriteRequest f s = _)
  · exact (arrive_foreign hk ho ht : execBulk f s = _)
  · exact (arrive_foreign hk ho ht : execControlMessage f s = _)
  · exact (arrive_foreign hk ho ht : execReadReply f s = _)
  · exact (arrive_foreign hk ho ht : execAcknowledgement f s = _)
  · exact (arrive_foreign hk ho ht : execNack f s = _)
  · exact (arrive_foreign hk ho ht : execDomainDownAnswer f s = _)

end

/-! ### The unit's answers (R130, R181, R217) -/

section

variable {s : State} {f : Flit} {u : Nat} {r : Remote}

theorem readReply_brings (hd : f.dst = .unit u) (hu : isMu u = false) (hr : s.refuses f = false) (hc : s.Comes .readReply f)
    (hidle : ∀ p, p < 4 → (s.cu u).waitingPush p = none ∧ (s.cu u).oTokens p = []) (h : s.remoteFor u true f = some r) :
    ∃ t, exec (.readReply f) s = .next t ∧ t = { s with cus := t.cus, rgns := t.rgns, flits := s.flits.erase f } ∧
      t.cx u (f.tag % 4) = { (s.cx u (f.tag % 4)).setRegRow r.reg r.row f.row with remote := (s.cx u (f.tag % 4)).remote.erase r } ∧
      (∀ k, k ≠ f.tag % 4 → t.cx u k = s.cx u k) ∧ ∀ v, v ≠ u → t.cu v = s.cu v := by
  refine ⟨_, (readReply_comes hc hr hd hu).trans (congrArg _ (rldArrive_some (s := s.takeFlit f) h hidle _)), rfl, ?_,
    fun k hk => ?_, fun v hv => ?_⟩
  · rw [State.cx, cu_setCu_same, ctxAt_setCtx_same]
    rfl
  · rw [State.cx, cu_setCu_same, ctxAt_setCtx, if_neg hk]
    rfl
  · rw [cu_setCu, if_neg hv]
    rfl

theorem domainDown_brings (hd : f.dst = .unit u) (hu : isMu u = false) (hr : s.refuses f = false) (hc : s.Comes .down f)
    (hidle : ∀ p, p < 4 → (s.cu u).waitingPush p = none ∧ (s.cu u).oTokens p = []) (h : s.remoteFor u true f = some r) :
    ∃ t, exec (.domainDownAnswer f) s = .next t ∧ t = { s with cus := t.cus, rgns := t.rgns, flits := s.flits.erase f } ∧
      t.cx u (f.tag % 4) = { (s.cx u (f.tag % 4)).setRegRow r.reg r.row ⟨0, 0xffff⟩ with remote := (s.cx u (f.tag % 4)).remote.erase r } ∧
      ∀ g, s.regionOf u = some g → (t.rgn g).fstat = some (6, s.time.now) := by
  have hno := (noteDown_regionsOnly (s := s.takeFlit f) (f := f)).eq
  have hcu : ∀ v, ((s.takeFlit f).noteDown f).cu v = s.cu v := fun v => by rw [hno]; rfl
  have hx : ((s.takeFlit f).noteDown f).cx u (f.tag % 4) = s.cx u (f.tag % 4) := by rw [State.cx, hcu]; rfl
  have hcur : (s.takeFlit f).current f = true := current_of_load (r := r) hd hu h
  refine ⟨_, (domainDown_comes hc hr hd hu).trans (congrArg _ (rldArrive_some
    (s := (s.takeFlit f).noteDown f) ((remoteFor_noteDown _).trans h) (fun p hp => by rw [hcu]; exact hidle p hp) _)), ?_, ?_, fun g hg => ?_⟩
  · generalize (s.takeFlit f).noteDown f = t at hno ⊢
    rw [hno]
    rfl
  · rw [State.cx, cu_setCu_same, ctxAt_setCtx_same, hx]
    rfl
  · rw [setCu_rgn, noteDown_region (s := s.takeFlit f) hd hg hcur, State.regionDown, rgn_updRgn, if_pos rfl]
    rfl

theorem acknowledgement_ends (hd : f.dst = .unit u) (hu : isMu u = false) (hr : s.refuses f = false) (hc : s.Comes .ack f)
    (hdown : f.down = false) (h : s.remoteFor u false f = some r) :
    ∃ t, exec (.acknowledgement f) s = .next t ∧ t = { s with cus := t.cus, rgns := t.rgns, flits := s.flits.erase f } ∧
      t.cx u (f.tag % 4) = { s.cx u (f.tag % 4) with remote := (s.cx u (f.tag % 4)).remote.erase r } ∧
      ∀ k, k ≠ f.tag % 4 → t.cx u k = s.cx u k := by
  refine ⟨_, acknowledgement_comes hc hr hd hu hdown h, rfl, ?_, fun k hk => ?_⟩
  · rw [State.cx, cu_setCu_same, ctxAt_setCtx_same]
  · rw [State.cx, cu_setCu_same, ctxAt_setCtx, if_neg hk]
    rfl

theorem readReply_stale (hd : f.dst = .unit u) (hu : isMu u = false) (hr : s.refuses f = false) (hc : s.Comes .readReply f)
    (h : s.remoteFor u true f = none) : exec (.readReply f) s = .next (s.takeFlit f).stale := by
  have h' : (s.takeFlit f).remoteFor u true f = none := h
  rw [readReply_comes hc hr hd hu, State.rldArrive, h']

end

/-! ### NACKs and refusals (R199, R217) -/

section

variable {s : State} {f g : Flit}

theorem nack_kept (hc : s.Comes .nack f) (hr : s.refuses f = false) (hcur : s.current f = true) (hheld : s.nackHeld f.src (· == g) = true)
    (hsrc : g.src = f.dst) (htag : g.tag = f.tag) (hgen : g.gen = f.gen) : exec (.nack f) s = .next (s.takeFlit f) := by
  have hcur' : (s.takeFlit f).current f = true := hcur
  have hkept : (s.takeFlit f).nackHeld f.src (fun g => g.src == f.dst && g.tag == f.tag && g.gen == f.gen) = true := by
    have hmem : ∀ l : List Flit, l.any (· == g) = true →
        l.any (fun g => g.src == f.dst && g.tag == f.tag && g.gen == f.gen) = true := fun l hl => by
      obtain ⟨y, hy, hyg⟩ := List.any_eq_true.mp hl
      rw [beq_iff_eq] at hyg
      exact List.any_eq_true.mpr ⟨y, hy, by simp [hyg, hsrc, htag, hgen]⟩
    unfold State.nackHeld at hheld ⊢
    split at hheld
    · exact hmem _ hheld
    · exact hmem _ hheld
    · cases hheld
  change execNack f s = _
  rw [execNack, arrive_take hc hr, hcur', hkept]
  rfl

theorem nackResend_due (hheld : s.nackHeld f.dst (· == f) = true) (hf : f ∉ s.flits) (hn : answerOf f .nack Row.zero false ∉ s.flits)
    (hcur : s.current { f with dst := f.src } = true) : exec (.nackResend f) s = .next ((s.inject f).countResend f.src) := by
  have hn' : answerFlit f .nack Row.zero false 1 ∉ s.flits := hn
  change execNackResend f s = _
  simp [execNackResend, hheld, hf, hn', hcur]

theorem readRequest_refused (hr : s.refuses f = true) (ha : isFlash f.addr 1 = false) (hc : s.Comes .readReq f) :
    exec (.readRequest f) s = .next ((s.takeFlit f).inject (answerOf f .down ⟨0, 0xffff⟩ true)) := by
  change execReadRequest f s = _
  rw [execReadRequest, rehome_none ha]
  exact arrive_refused hc hr

theorem writeRequest_refused (hr : s.refuses f = true) (hc : s.Comes .writeReq f) :
    exec (.writeRequest f) s = .next ((s.takeFlit f).inject (answerOf f .ack Row.zero true)) := by
  change execWriteRequest f s = _
  exact arrive_refused hc hr

theorem readReply_refused (hr : s.refuses f = true) (hc : s.Comes .readReply f) : exec (.readReply f) s = .next ((s.takeFlit f).dropReply f) := by
  change execReadReply f s = _
  exact arrive_refused hc hr

end

/-- Settles O34: each answer at the unit it is for, and the ways of NACKed, refused and foreign flits. -/
theorem answersArrive : Obligations.AnswersArrive := by
  refine ⟨fun u f s hd hu hr hgen hidle => ⟨fun r h => ?_, fun r h hdown hc => ?_, fun h hc => ?_⟩,
    fun f g s hc hr hcur hheld hsrc htag hgen => ⟨_, nack_kept hc hr hcur hheld hsrc htag hgen, rfl⟩,
    fun f s hheld hf hn hcur => ⟨_, nackResend_due hheld hf hn hcur, countResend_rest _⟩,
    fun f s hr ha => ⟨fun hc => ⟨_, readRequest_refused hr ha hc, rfl⟩, fun hc => ⟨_, writeRequest_refused hr hc, rfl⟩,
      fun hc => ⟨_, readReply_refused hr hc, rfl, ?_⟩⟩,
    fun f c k s hc hk ho ht => ⟨_, foreign_discarded hc hk ho ht, rfl, ?_⟩⟩
  · have hfor : s.remoteFor u true f = some r := remoteFor_some hgen (by simpa only [beq_true] using h)
    exact ⟨fun hc => readReply_brings hd hu hr hc hidle hfor, fun hc => domainDown_brings hd hu hr hc hidle hfor⟩
  · exact acknowledgement_ends hd hu hr hc hdown (remoteFor_some hgen (by simpa only [beq_false] using h))
  · exact ⟨_, readReply_stale hd hu hr hc (remoteFor_none h), rfl, reg_addReg_same (s.takeFlit f) _ _⟩
  · exact dropReply_dropped (s := s.takeFlit f)
  · exact reg_addReg_same (s.takeFlit f) _ _

end Sys2Proof.Proofs
end

section
/-! PROOFS. A WATERMARK whose words lie in two lines, in a state that holds a copy of the first line away from its home slice. -/

namespace Sys2Proof.Proofs

open Sys2Proof Sys2Proof.Machine Sys2Proof.Laws

/-- A WATERMARK whose first word is the last of line 0, its other three the first of line 128. -/
def watermarkAcross : Cmd :=
  { handle := 0, fn := 0, sq := 0, cq := 0, seq := 0, ntfy := false, words := [0x0F, 120], phase := .fetched, status := 0, detail := 0,
    sstat := 0, stale := 0, passSkip := 0, region := 0, aux := [], text := [] }

/-- Line 0, dirty, in way 0 of the slice that holds it. -/
def strayLine : Line := { way := 0, addr := 0, part := none, dirty := true, row := Row.zero, use := 0, upset := [] }

/-- Slice 0, the home of line 0, has every way of set 0 disabled (R456), so a word of line 0 goes to the half-stack. Slice 1, the home of
line 128, has way 0 left in that set, and there stands a dirty copy of line 0: the write of line 128 evicts it, and its write-back covers
the word just written. -/
def strayCopy : State :=
  { State.reset with
    host := { State.reset.host with cmds := [watermarkAcross] }
    wmDigest := 1
    slices := [(0, { Slice.empty with disabled := List.range 16 }),
      (1, { Slice.empty with disabled := List.range' 1 15, lines := [strayLine] })] }

theorem strayCopy_open : strayCopy.openCmd 0 0x0F = some watermarkAcross := by decide +kernel

theorem strayCopy_powered : strayCopy.stackDown (watermarkAcross.word 1).toNat 32 = false := by decide +kernel

/-- The word of line 0 that the WATERMARK wrote is lost to the write-back. -/
theorem watermark_overwritten {t : State} (h : exec (.watermark 0) strayCopy = .next t) : t.devWord 120 = 0 := by
  have hword : (match exec (.watermark 0) strayCopy with | .next t => t.devWord 120 | _ => 0) = 0 := by decide +kernel
  rw [h] at hword
  exact hword

/-- Refutes O41: no premise of its WATERMARK clause keeps a dirty copy of the first destination line out of another line's slice, and in
`strayCopy` the write-back of such a copy overwrites the digest's first word (R206, R349). -/
theorem not_runsAndCounters : ¬ Obligations.RunsAndCounters := by
  rintro ⟨-, -, -, -, -, -, hwatermark⟩
  obtain ⟨t, hex, -, -, hfirst, -⟩ := hwatermark 0 watermarkAcross strayCopy strayCopy_open (by decide) (by decide) strayCopy_powered
  have hlost : t.devWord 120 = 0 := watermark_overwritten hex
  exact absurd (hlost.symm.trans hfirst) (by decide)

end Sys2Proof.Proofs
end

section
/-! PROOFS. A memory unit's remote port: reads that are answered, parked or NACKed, and rows that are written. -/

namespace Sys2Proof.Proofs

open Sys2Proof Sys2Proof.Machine Sys2Proof.Laws

/-! ### One byte of a row written (R10, R154) -/

/-- Byte `i` of word `w` of a row is byte 8 · w + i of the row. -/
theorem byte_of_word (d : BitVec 1024) (w : Nat) {i : Nat} (hi : i < 8) :
    BitVec.ofNat 8 ((d.extractLsb' (64 * w) 64).toNat / 256 ^ i) = d.extractLsb' (8 * (8 * w + i)) 8 := by
  refine BitVec.eq_of_getLsbD_eq fun j hj => ?_
  have hpow : (256 : Nat) ^ i = 2 ^ (8 * i) := by rw [pow_mul]; rfl
  have hlow : 8 * i + j < 64 := by omega
  have hat : 64 * w + (8 * i + j) = 8 * (8 * w + i) + j := by omega
  rw [BitVec.getLsbD_ofNat, hpow, Nat.testBit_div_two_pow, ← BitVec.getLsbD, BitVec.getLsbD_extractLsb', BitVec.getLsbD_extractLsb',
    Nat.add_comm j, hat]
  simp [hj, hlow]

/-- After the write of a row, each byte of a word that the mask names is the row's, and every other byte is as before. -/
theorem byte_putRow (p : Mem) (k : Nat) (r : Row) (mask : BitVec 16) (x : Nat) :
    Mem.byte (putRow p k r mask) x =
      if k ≤ x ∧ x < k + 128 ∧ mask.getLsbD ((x - k) / 8) = true then r.data.extractLsb' (8 * (x - k)) 8 else Mem.byte p x := by
  have key : ∀ (l : List Nat) (q : Mem),
      Mem.byte (l.foldl (fun q w =>
        if mask.getLsbD w then Mem.writeNat q (k + 8 * w) (r.data.extractLsb' (64 * w) 64).toNat 8 else q) q) x =
      if k ≤ x ∧ (x - k) / 8 ∈ l ∧ mask.getLsbD ((x - k) / 8) = true then r.data.extractLsb' (8 * (x - k)) 8 else Mem.byte q x := by
    intro l
    induction l with
    | nil => simp
    | cons w l ih =>
      intro q
      rw [List.foldl_cons, ih]
      by_cases hl : k ≤ x ∧ (x - k) / 8 ∈ l ∧ mask.getLsbD ((x - k) / 8) = true
      · rw [if_pos hl, if_pos ⟨hl.1, List.mem_cons_of_mem _ hl.2.1, hl.2.2⟩]
      · rw [if_neg hl]
        by_cases hw : k ≤ x ∧ (x - k) / 8 = w ∧ mask.getLsbD w = true
        · obtain ⟨hk, rfl, hm⟩ := hw
          have hi : x - (k + 8 * ((x - k) / 8)) < 8 := by omega
          rw [if_pos hm, byte_writeNat, if_pos (by omega), byte_of_word _ _ hi, if_pos ⟨hk, List.mem_cons_self, hm⟩]
          congr 1
          omega
        · have hout : ¬(k ≤ x ∧ (x - k) / 8 ∈ w :: l ∧ mask.getLsbD ((x - k) / 8) = true) := by
            rintro ⟨hk, hmem, hm⟩
            rcases List.mem_cons.mp hmem with rfl | hmem
            · exact hw ⟨hk, rfl, hm⟩
            · exact hl ⟨hk, hmem, hm⟩
          rw [if_neg hout]
          split
          next hm => rw [byte_writeNat, if_neg fun h => hw ⟨by omega, by omega, hm⟩]
          · rfl
  rw [show putRow p k r mask = (List.range 16).foldl _ p from rfl, key]
  refine if_congr (and_congr_right fun hk => ?_) rfl rfl
  rw [List.mem_range]
  exact and_congr_left fun _ => by omega

section

variable {s t : State} {m : Nat} {f : Flit}

/-! ### Reads (R157, R199) -/

theorem readRequest_unit (hd : f.dst = .unit m) (hm : isMu m = true) (hc : s.Comes .readReq f) (hr : s.refuses f = false) :
    exec (.readRequest f) s = .next ((s.takeFlit f).remoteRead m f) := by
  have hhome : s.rehome f = none := by simp [State.rehome, hd]
  change execReadRequest f s = _
  rw [execReadRequest, hhome]
  dsimp only
  rw [arrive_take hc hr, hd]
  simp [hm]

/-- An rld that is served: its row is in flight to the requester, and besides only counters differ. -/
theorem serveRld_rest (s : State) (m : Nat) (f : Flit) : s.serveRld m f =
    { s with regs := (s.serveRld m f).regs, log := (s.serveRld m f).log, rgns := (s.serveRld m f).rgns,
             flits := s.flits ++ [answerOf f .readReply (s.spadRow m f.addr) false] } := by
  have hd : Tallied s (s.decodeSpad m (lineOf f.addr) 128) := decodeSpad_tallied
  unfold State.serveRld
  rw [addUnitCtr_rest, show s.decodeSpad m (lineOf f.addr) 128 = _ from hd]
  rfl

theorem serveRld_mu (n : Nat) : (s.serveRld m f).mu n = s.mu n := by
  rw [serveRld_rest]
  rfl

theorem serveRld_flits : (s.serveRld m f).flits = s.flits ++ [answerOf f .readReply (s.spadRow m f.addr) false] := by rw [serveRld_rest]

theorem remoteRead_serves (h : s.rowPending m f.addr = false) :
    s.remoteRead m f = (s.updMu m fun x => { x with nacked := x.nacked.erase f }).serveRld m f := by
  simp [State.remoteRead, h]

theorem remoteRead_parks (h : s.rowPending m f.addr = true) (hroom : (s.mu m).park.length < 32)
    (hturn : oldestNacked (s.mu m).nacked f = true) : s.remoteRead m f =
      s.updMu m fun x => { x with park := x.park ++ [f], nacked := x.nacked.erase f, rwait := x.rwait + 1 } := by
  simp [State.remoteRead, h, hroom, hturn]

theorem remoteRead_nacks (h : s.rowPending m f.addr = true)
    (hfull : 32 ≤ (s.mu m).park.length ∨ oldestNacked (s.mu m).nacked f = false) : s.remoteRead m f =
      (s.updMu m fun x => { x with nacked := if x.nacked.contains f then x.nacked else x.nacked ++ [f] }).nack f := by
  have hno : ((s.mu m).park.length < 32 && oldestNacked (s.mu m).nacked f) = false := by
    rcases hfull with hfull | hfull
    · simp [Nat.not_lt.mpr hfull]
    · simp [hfull]
  simp [State.remoteRead, h, hno]

theorem mu_updMu_ne {g : Mu → Mu} {n : Nat} (h : n ≠ m) : (s.updMu m g).mu n = s.mu n := by rw [updMu_eq, mu_setMu, if_neg h]

theorem mu_updMu {g : Mu → Mu} : (s.updMu m g).mu m = g (s.mu m) := by rw [updMu_eq, mu_setMu_same]

theorem nack_mu (n : Nat) : (s.nack f).mu n = s.mu n := rfl

theorem mem_nackedWith (l : List Flit) (f : Flit) : f ∈ (if l.contains f then l else l ++ [f]) := by
  split
  next h => simpa using h
  · simp

/-! ### Writes (R153, R198) -/

/-- The state once the words that a write names stand in their row. -/
def portWritten (s : State) (m : Nat) (f : Flit) : State := (s.putSpadRow m f.addr f.row f.mask).spadWritten m (lineOf f.addr) 128

theorem writeAt_unit (hd : f.dst = .unit m) (hm : isMu m = true) : s.writeAt f = .next ((portWritten s m f).ack f false) := by
  simp [State.writeAt, hd, hm, portWritten]

theorem portWritten_rest (s : State) (m : Nat) (f : Flit) : portWritten s m f =
    { s with rgns := (portWritten s m f).rgns, feed := (portWritten s m f).feed, mem := (s.putSpadRow m f.addr f.row f.mask).mem } := by
  unfold portWritten
  rw [spadWritten_rest]
  rfl

/-- A write to a memory unit, as a write request or as a bulk row that names words. -/
theorem portWrite_exec {c : Instr} {k : FlitKind} (hk : (c = .writeRequest f ∧ k = .writeReq) ∨ (c = .bulk f ∧ k = .bulk ∧ f.mask ≠ 0))
    (hd : f.dst = .unit m) (hm : isMu m = true) (hc : s.Comes k f) (hr : s.refuses f = false) :
    exec c s = .next ((portWritten (s.takeFlit f) m f).ack f false) := by
  rcases hk with ⟨rfl, rfl⟩ | ⟨rfl, rfl, hmask⟩
  · change execWriteRequest f s = _
    rw [execWriteRequest, arrive_take hc hr, writeAt_unit hd hm]
  · change execBulk f s = _
    rw [execBulk, arrive_take hc hr, if_neg (by simpa using hmask), writeAt_unit hd hm]

theorem controlMessage_comes (hc : s.Comes .control f) (hr : s.refuses f = false) :
    exec (.controlMessage f) s = .next ((s.takeFlit f).ack f false) := by
  change execControlMessage f s = _
  exact arrive_take hc hr

end

/-- Settles O32: each way of a read at the remote port by its lemma, and the bytes of a row written. -/
theorem memoryUnitRequests : Obligations.MemoryUnitRequests := by
  refine ⟨fun m f s hd hm hc hr => ?_, fun m c k f s hk hd hm hc hr => ?_, fun f s hc hr => ⟨_, controlMessage_comes hc hr, rfl⟩⟩
  · have hex := readRequest_unit hd hm hc hr
    refine ⟨fun h => ?_, fun h hroom hturn => ?_, fun h hfull => ?_⟩
    · rw [remoteRead_serves (s := s.takeFlit f) h] at hex
      refine ⟨_, hex, serveRld_flits, ?_, ?_, fun n hn => ?_⟩
      · rw [serveRld_rest]; rfl
      · rw [serveRld_rest]; rfl
      · rw [serveRld_mu, mu_updMu_ne hn]; rfl
    · rw [remoteRead_parks (s := s.takeFlit f) h hroom hturn] at hex
      refine ⟨_, hex, rfl, ?_, ?_, fun n hn => mu_updMu_ne (s := s.takeFlit f) hn⟩
      · rw [mu_updMu]; rfl
      · rw [mu_updMu]; rfl
    · rw [remoteRead_nacks (s := s.takeFlit f) h hfull] at hex
      refine ⟨_, hex, rfl, rfl, ?_, ?_⟩
      · rw [nack_mu, mu_updMu]; rfl
      · rw [nack_mu, mu_updMu]
        exact mem_nackedWith _ f
  · have hex := portWrite_exec hk hd hm hc hr
    rw [portWritten_rest] at hex
    exact ⟨_, hex, rfl, rfl, rfl, rfl, rfl, fun b => byte_putRow _ _ _ _ b⟩

end Sys2Proof.Proofs
end

section
/-! PROOFS. Bursts of descriptors, the end of a list, PEER marks, and entries that retire at a memory unit's engines. -/

namespace Sys2Proof.Proofs

open Sys2Proof Sys2Proof.Machine Sys2Proof.Laws

section

variable {s t : State} {m e a : Nat} {d : Desc}

/-! ### A descriptor burst (R164, R217, R218) -/

/-- The state in which an MU of a region has read a burst. -/
def burstRead (s : State) (m a : Nat) : State :=
  match s.regionOf m with
  | some r => s.muRead r a 2048
  | none => s

theorem burstRead_lineWork : LineWork s (burstRead s m a) := by
  unfold burstRead
  split
  · exact foldl_lineWork fun _ _ => readLine_lineWork
  · exact .refl

/-- The state in which DOMAIN_DOWN has reached an MU's region. -/
def burstDown (s : State) (m : Nat) : State :=
  match s.regionOf m with
  | some r => s.regionDown r
  | none => s

theorem burstDown_regionsOnly : RegionsOnly s (burstDown s m) := by
  unfold burstDown
  split
  · rfl
  · rfl

theorem burstDown_fstat {r : Nat} (h : s.regionOf m = some r) : ((burstDown s m).rgn r).fstat = some (6, s.time.now) := by
  simp [burstDown, h, State.regionDown, rgn_updRgn]

/-- The descriptors of a burst enter an engine's queue. -/
def burstTaken (s : State) (m e : Nat) (got : Nat → Nat × List W64 × BitVec 8) : State :=
  s.updEng m e fun g => { g with burst := none, queue := g.queue ++ (List.range 32).map got }

theorem burstTaken_eng {got : Nat → Nat × List W64 × BitVec 8} : (burstTaken s m e got).eng m e =
    { s.eng m e with burst := none, queue := (s.eng m e).queue ++ (List.range 32).map got } := eng_updEng

theorem descriptorBurstArrive_read (hb : (s.eng m e).burst = some a) (hd : s.dieRefuses (s.homeDie a) = false) :
    exec (.descriptorBurstArrive m e) s =
      .next (burstTaken (burstRead s m a) m e fun i => (burstRead s m a).descAt (a + 64 * i)) := by
  change execDescriptorBurstArrive m e s = _
  unfold execDescriptorBurstArrive
  rw [hb]
  simp only [hd]
  cases hr : s.regionOf m with
  | none => simp [burstRead, burstTaken, hr]
  | some r => simp [burstRead, burstTaken, hr]

theorem descriptorBurstArrive_down (hb : (s.eng m e).burst = some a) (hd : s.dieRefuses (s.homeDie a) = true) :
    exec (.descriptorBurstArrive m e) s =
      .next (burstTaken (burstDown s m) m e fun i => (a + 64 * i, List.replicate 8 (0 : W64), BitVec.ofNat 8 255)) := by
  change execDescriptorBurstArrive m e s = _
  unfold execDescriptorBurstArrive
  rw [hb]
  simp only [hd]
  cases hr : s.regionOf m with
  | none => simp [burstDown, burstTaken, hr]
  | some r => simp [burstDown, burstTaken, hr]

/-! ### The end of a list (R163, R164) -/

theorem sendBurst_rest (g : Eng) (held : Bool) (a : Nat) :
    g.sendBurst held a = { g with burst := (g.sendBurst held a).burst, burstAsk := (g.sendBurst held a).burstAsk } := by
  unfold Eng.sendBurst
  split
  · rfl
  · rfl

/-- An engine back in IDLE, with its list's successor staged. -/
def listEnded (g : Eng) : Eng :=
  { g with st := .idle, staged := (g.lists.getD g.list (0, 0)).2, queue := [], burst := none, burstAsk := none }

/-- An engine at its list's end goes back to IDLE; sending for the successor's burst changes nothing else. -/
theorem listEnd_ends (hst : (s.eng m e).st = .run ∨ (s.eng m e).st = .wait ∨ (s.eng m e).st = .hold) (hend : (s.eng m e).atEnd = true) :
    ∃ b q, exec (.listEnd m e) s = .next (s.updEng m e fun _ => { listEnded (s.eng m e) with burst := b, burstAsk := q }) := by
  have hon : ((s.eng m e).st == .run || (s.eng m e).st == .wait || (s.eng m e).st == .hold) = true := by
    rcases hst with h | h | h
    · simp [h]
    · simp [h]
    · simp [h]
  change ∃ b q, execListEnd m e s = _
  simp only [execListEnd, hon, hend, Bool.and_self, if_true]
  split
  · rw [sendBurst_rest]
    exact ⟨_, _, rfl⟩
  · exact ⟨none, none, rfl⟩

/-! ### Hold marks (R179) -/

/-- Mark `i` of a descriptor stops its engine before a row. -/
def markHits (d : Desc) (row i : Nat) (passed : Bool) : Bool :=
  !passed && decide ((dHold d i).bits 25 24 ≠ 0) && (dHold d i).bits 23 0 == row && decide ((dHold d i).bits 23 0 < 2 ^ 24 - 1)

theorem markHits_iff {row i : Nat} {passed : Bool} : markHits d row i passed = true ↔
    passed = false ∧ (dHold d i).bits 25 24 ≠ 0 ∧ (dHold d i).bits 23 0 = row ∧ row < 2 ^ 24 - 1 := by
  simp only [markHits, Bool.and_eq_true, Bool.not_eq_true', decide_eq_true_eq, beq_iff_eq, and_assoc]
  refine and_congr_right fun _ => and_congr_right fun _ => and_congr_right fun h => ?_
  rw [h]

theorem markAt_eq (g : Eng) (d : Desc) : g.markAt d =
    if markHits d g.row 0 g.passed0 then some (0, dHold d 0) else if markHits d g.row 1 g.passed1 then some (1, dHold d 1) else none := rfl

/-- An engine that stands at its descriptor's first mark. -/
theorem markHits_of_markAt {g : Eng} {w : W64} (h : g.markAt d = some (0, w)) : markHits d g.row 0 g.passed0 = true ∧ w = dHold d 0 := by
  rw [markAt_eq] at h
  split at h
  next hh => exact ⟨hh, by simpa using h.symm⟩
  · split at h
    · simp at h
    · simp at h

/-- What the engine has in hand lets it form rows: it has a descriptor with rows left, and is neither stopped nor at rest. -/
structure FormsRows (g : Eng) (a : Nat) (d : Desc) : Prop where
  desc : g.desc = some (a, d)
  st : g.st = .run ∨ g.st = .wait ∨ g.st = .hold
  row : g.row < g.rows d

theorem FormsRows.awake {g : Eng} (h : FormsRows g a d) : (g.st == .faulted || g.st == .idle || g.st == .empty) = false := by
  rcases h.st with h | h | h
  · simp [h]
  · simp [h]
  · simp [h]

section

variable {i : Nat} {w : W64} (h : FormsRows (s.eng m e) a d) (hm : (s.eng m e).markAt d = some (i, w))
include h hm

theorem formNext_open (ho : s.markOpen m (s.eng m e) w = true) :
    s.formNext m e = (s.updEng m e fun g => g.takeMark i w, true) := by
  simp [State.formNext, h.desc, h.awake, Nat.not_le.mpr h.row, hm, ho]

theorem formNext_shut (ho : s.markOpen m (s.eng m e) w = false) : s.formNext m e = (s.engWait m e .hold 3, false) := by
  simp [State.formNext, h.desc, h.awake, Nat.not_le.mpr h.row, hm, ho]

end

theorem markOpen_step {g : Eng} {w : W64} (hk : w.bits 25 24 = 1) (hl : NatSet.mem g.latches (w.bits 39 32) = false) :
    s.markOpen m g w = false := by
  simp [State.markOpen, hk, hl]

theorem engRun_stops {n : Nat} (h : s.engMove m e = (t, false)) : s.engRun m e (n + 1) = t := by simp [State.engRun, h]

theorem engRun_goes {n : Nat} (h : s.engMove m e = (t, true)) : s.engRun m e (n + 1) = t.engRun m e n := by simp [State.engRun, h]

/-- An engine clear of earlier work forms its next row. -/
theorem engMove_clear (h : (s.eng m e).clear) : s.engMove m e = s.formNext m e := by
  obtain ⟨hj, ho, hw, -, -⟩ := h
  exact engMove_forms hj hw (settleOut_empty ho)

theorem fuel_clear {g : Eng} (hd : g.desc = some (a, d)) (h : g.clear) : g.fuel = 8 * (g.rows d + 4) := by
  obtain ⟨hj, ho, hw, -, -⟩ := h
  simp [Eng.fuel, hd, hj, ho, hw]

/-- An engine past its first mark, at a second one that is shut. -/
def heldAgain (s : State) (m e : Nat) (w : W64) : State := (s.updEng m e fun g => g.takeMark 0 w).engWait m e .hold 3

theorem heldAgain_eng {w : W64} : (heldAgain s m e w).eng m e =
    { (s.eng m e).takeMark 0 w with st := .hold, cnt := bump (s.eng m e).cnt 3 1 } := by
  rw [heldAgain, State.engWait, eng_updEng, eng_updEng]
  rfl

/-- A PEER mark that is open passes, and the engine goes on to the second mark of the same row. -/
theorem peerRelease_passes {w : W64} (h : FormsRows (s.eng m e) a d) (hc : (s.eng m e).clear)
    (hm : (s.eng m e).markAt d = some (0, w)) (hk : w.bits 25 24 = 2) (ho : s.markOpen m (s.eng m e) w = true)
    (hk1 : (dHold d 1).bits 25 24 = 1) (hat : (dHold d 1).bits 23 0 = (s.eng m e).row) (hp : (s.eng m e).passed1 = false)
    (hl : NatSet.mem (s.eng m e).latches ((dHold d 1).bits 39 32) = false) :
    exec (.peerRelease m e) s = .next (heldAgain s m e w) := by
  generalize hq : (s.updEng m e fun g => g.takeMark 0 w) = q
  have heng : q.eng m e = { s.eng m e with passed0 := true, st := .run } := by
    rw [← hq, eng_updEng, Eng.takeMark, if_neg (by omega)]
    rfl
  obtain ⟨hhit, -⟩ := markHits_of_markAt hm
  obtain ⟨-, -, -, hlast⟩ := markHits_iff.mp hhit
  have hm1 : (q.eng m e).markAt d = some (1, dHold d 1) := by
    have hno : markHits d (s.eng m e).row 0 true = false := rfl
    have hyes : markHits d (s.eng m e).row 1 (s.eng m e).passed1 = true := markHits_iff.mpr ⟨hp, by omega, hat, hlast⟩
    rw [heng, markAt_eq]
    dsimp only
    rw [hno, hyes]
    rfl
  have hforms : FormsRows (q.eng m e) a d := by
    rw [heng]
    exact ⟨h.desc, .inl rfl, h.row⟩
  have hshut : q.markOpen m (q.eng m e) (dHold d 1) = false := markOpen_step hk1 (by rw [heng]; exact hl)
  have hgoes : s.engMove m e = (q, true) := by rw [engMove_clear hc, formNext_open h hm ho, hq]
  have hstops : q.engMove m e = (heldAgain s m e w, false) := by
    rw [engMove_clear (by rw [heng]; exact hc), formNext_shut hforms hm1 hshut, heldAgain, hq]
  have hfuel : (s.eng m e).fuel = 8 * (s.eng m e).rows d + 30 + 2 := by rw [fuel_clear h.desc hc]; omega
  have hrun : exec (.peerRelease m e) s = .next (s.engGo m e) := by
    change execPeerRelease m e s = _
    simp [execPeerRelease, h.desc, hm, hk, ho]
  rw [hrun, State.engGo, hfuel, engRun_goes hgoes, engRun_stops hstops]

/-! ### Entries that retire (R157, R176) -/

theorem scoreboardRetire_exec {x : SbEntry} {rest : List SbEntry} (hsb : (s.mu m).sb = x :: rest) (he : x.eng = e) (hd : x.done = true) :
    exec (.scoreboardRetire m e) s = .next ((s.updMu m fun y => { y with sb := rest }).unpark m) := by
  change execScoreboardRetire m e s = _
  simp [execScoreboardRetire, updMu_eq, hsb, he, hd]

theorem unpark_none (h : (s.mu m).park = []) : s.unpark m = s.updMu m fun x => { x with park := [] } := by
  simp [State.unpark, updMu_eq, h]

theorem unpark_one {f : Flit} (h : (s.mu m).park = [f]) (hr : s.rowPending m f.addr = false) :
    s.unpark m = (s.updMu m fun x => { x with park := [] }).serveRld m f := by
  simp [State.unpark, updMu_eq, h, hr]

end

/-- Settles O31: each event at an engine by its lemma. -/
theorem streamEvents : Obligations.StreamEvents := by
  refine ⟨⟨fun m e a s hb => ⟨fun hd => ?_, fun hd => ?_⟩, fun m e s hst hend => ?_,
    fun m e a d w s hdesc hst hc hrow hm hk ho hk1 hat hp hl => ?_⟩, fun m e x rest s hsb he hx => ⟨fun hpark => ?_, fun f hpark hrest => ?_⟩⟩
  · have hread : (burstRead s m a).eng m = s.eng m := by rw [(burstRead_lineWork (s := s)).rest]; rfl
    have heng := burstTaken_eng (s := burstRead s m a) (m := m) (e := e) (got := fun i => (burstRead s m a).descAt (a + 64 * i))
    rw [hread] at heng
    refine ⟨_, descriptorBurstArrive_read hb hd, by rw [heng], fun j hj => ?_, by rw [heng]; rfl, by rw [heng]⟩
    rw [burstTaken, eng_updEng_ne hj, hread]
  · refine ⟨_, descriptorBurstArrive_down hb hd, ?_, ?_, fun r hr => burstDown_fstat hr⟩
    · rw [burstDown_regionsOnly.eq]
      rfl
    · rw [burstTaken_eng, burstDown_regionsOnly.eng]
  · obtain ⟨b, q, hex⟩ := listEnd_ends hst hend
    refine ⟨_, hex, rfl, ?_⟩
    rw [eng_updEng]
    exact ⟨rfl, rfl, rfl, rfl, fun j hj => eng_updEng_ne hj⟩
  · refine ⟨_, peerRelease_passes ⟨hdesc, .inr (.inr hst), hrow⟩ hc hm hk ho hk1 hat hp hl, rfl, ?_⟩
    rw [heldAgain_eng]
    exact ⟨rfl, hp, rfl, rfl⟩
  · have hex := scoreboardRetire_exec hsb he hx
    rw [unpark_none (by rw [mu_updMu]; exact hpark)] at hex
    refine ⟨_, hex, rfl, ?_, fun n hn => ?_⟩
    · rw [mu_updMu, mu_updMu]
    · rw [mu_updMu_ne hn, mu_updMu_ne hn]
  · have hex := scoreboardRetire_exec hsb he hx
    rw [unpark_one (f := f) (by rw [mu_updMu]; exact hpark) (by rw [State.rowPending, mu_updMu, hrest]; rfl)] at hex
    refine ⟨_, hex, ?_, ?_, serveRld_flits, ?_⟩
    · rw [serveRld_mu, mu_updMu, mu_updMu, hrest]
    · rw [serveRld_mu, mu_updMu]
    · rw [serveRld_rest]
      rfl

end Sys2Proof.Proofs
end

section
/-! PROOFS. How a stream engine begins a descriptor, waits with it, or takes a fault at it. -/

namespace Sys2Proof.Proofs

open Sys2Proof Sys2Proof.Machine Sys2Proof.Laws

section

variable {s t v : State} {k m e a : Nat} {d : Desc} {marks : BitVec 8} {rest : List (Nat × List W64 × BitVec 8)}

/-! ### A stream fault (R187, R188) -/

/-- The scratchpads are as they were, and the regions' counts, but for that of lost trace records. -/
structure CountsKept (s t : State) : Prop where
  spad : t.mem.spad = s.mem.spad
  ctr : ∀ r q, q ≠ ctrKey 26 1 → count (t.rgn r).ctr q = count (s.rgn r).ctr q

theorem CountsKept.refl : CountsKept s s := ⟨rfl, fun _ _ _ => rfl⟩

theorem CountsKept.trans (h : CountsKept s t) (k : CountsKept t v) : CountsKept s v :=
  ⟨k.spad.trans h.spad, fun r q hq => (k.ctr r q hq).trans (h.ctr r q hq)⟩

theorem updRgn_countsKept {r : Nat} {g : Region → Region}
    (hg : ∀ q, q ≠ ctrKey 26 1 → count (g (s.rgn r)).ctr q = count (s.rgn r).ctr q) : CountsKept s (s.updRgn r g) where
  spad := rfl
  ctr p q hq := by
    rw [rgn_updRgn]
    split
    next h => rw [hg q hq, h]
    · rfl

theorem putDevWords_countsKept {l : List W64} : CountsKept s (s.putDevWords a l) where
  spad := putDevWords_lineWork.spad
  ctr r q _ := by rw [State.rgn, putDevWords_rgns]; rfl

theorem emitTrace_countsKept {r dd kind x y ce data : Nat} {h : Option W64} : CountsKept s (s.emitTrace r dd kind x y ce data h) := by
  unfold State.emitTrace
  split
  · dsimp only
    split
    · exact ⟨rfl, fun _ _ _ => rfl⟩
    · refine .trans (updRgn_countsKept fun _ _ => rfl) (updRgn_countsKept fun q hq => ?_)
      rw [count_bump, if_neg hq]
  · exact .refl

theorem faultRecord_countsKept {r u ce w2 w3 w4 w5 w7 : Nat} : CountsKept s (s.faultRecord r u ce w2 w3 w4 w5 w7).2 := by
  unfold State.faultRecord
  dsimp only
  refine .trans (.trans ?_ (updRgn_countsKept fun _ _ => rfl)) emitTrace_countsKept
  split
  · exact putDevWords_countsKept
  · exact .refl

theorem regionFault_countsKept {r status seq : Nat} : CountsKept s (s.regionFault r status seq) := by
  unfold State.regionFault
  dsimp only
  split
  · split
    · exact .refl
    · exact updRgn_countsKept fun _ _ => rfl
  · exact ⟨rfl, fun _ _ _ => rfl⟩

/-- An engine made FAULTED. -/
def faultedEng (s : State) (m e : Nat) : State := s.updEng m e fun g => { g with st := .faulted }

theorem streamFault_none {cause detail : Nat} {idx : List Nat} (hr : s.regionOf m = none) :
    s.streamFault m e cause detail idx = faultedEng s m e := by
  have hr' : (faultedEng s m e).regionOf m = none := hr
  unfold faultedEng at hr' ⊢
  simp only [State.streamFault, hr']

/-- A stream fault in a region is counted once under its cause; besides, only what a record and a status change differs. -/
theorem streamFault_some {cause detail r : Nat} {idx : List Nat} (hr : s.regionOf m = some r) : ∃ b : State,
    (Recorded (faultedEng s m e) b ∧ CountsKept (faultedEng s m e) b) ∧
    Recorded (b.addCtr r 22 (cause - 1) 1) (s.streamFault m e cause detail idx) ∧
    CountsKept (b.addCtr r 22 (cause - 1) 1) (s.streamFault m e cause detail idx) := by
  have hr' : (faultedEng s m e).regionOf m = some r := hr
  unfold faultedEng at hr' ⊢
  simp only [State.streamFault, hr']
  exact ⟨_, ⟨faultRecord_recorded _ _ _ _ _ _ _ _, faultRecord_countsKept⟩, regionFault_recorded _ _ _, regionFault_countsKept⟩

theorem streamFault_faults {cause detail : Nat} {idx : List Nat} (hc : cause ≤ 8) :
    (s.streamFault m e cause detail idx).eng m e = { s.eng m e with st := .faulted } ∧
    (s.streamFault m e cause detail idx).flits = s.flits ∧
    (s.streamFault m e cause detail idx).mem.spad = s.mem.spad ∧
    ∀ r, s.regionOf m = some r → count ((s.streamFault m e cause detail idx).rgn r).ctr (ctrKey 22 (cause - 1)) =
      count (s.rgn r).ctr (ctrKey 22 (cause - 1)) + 1 := by
  have heng : (faultedEng s m e).eng m e = { s.eng m e with st := .faulted } := eng_updEng
  cases hr : s.regionOf m with
  | none =>
    rw [streamFault_none hr]
    exact ⟨heng, rfl, rfl, fun r h => nomatch h⟩
  | some r =>
    obtain ⟨b, ⟨hb, hbk⟩, ht, htk⟩ := streamFault_some (e := e) (cause := cause) (detail := detail) (idx := idx) hr
    have hmus : (s.streamFault m e cause detail idx).mus = (faultedEng s m e).mus := by
      rw [ht.rest]
      change b.mus = _
      rw [hb.rest]
    have hflits : (s.streamFault m e cause detail idx).flits = s.flits := by
      rw [ht.rest]
      change b.flits = _
      rw [hb.rest]
      rfl
    refine ⟨(eng_congr hmus).trans heng, hflits, htk.spad.trans hbk.spad, fun q hq => ?_⟩
    obtain rfl : r = q := Option.some.inj hq
    have hkey : ctrKey 22 (cause - 1) ≠ ctrKey 26 1 := by
      simp only [ctrKey]
      omega
    rw [htk.ctr r _ hkey, addCtr_eq, rgn_updRgn, if_pos rfl, count_bump, if_pos rfl, hbk.ctr r _ hkey]
    rfl

/-! ### The command (R161) -/

theorem exec_streamCmd (hk : k < 7) : exec (streamCmd k m e) s = .next (s.stream m e k) := by
  interval_cases k
  all_goals rfl

/-- Where the descriptor that an engine begins is of the command's kind, the engine goes on with it. -/
theorem stream_goes (hn : (s.eng m e).desc = none) (hd : ((s.beginDesc m e k).eng m e).desc = some (a, d)) (hk : dKind d = k) :
    s.stream m e k = (s.beginDesc m e k).engGo m e := by
  simp [State.stream, hn, hd, hk]

/-- Where it begins none, that is all. -/
theorem stream_stands (hn : (s.eng m e).desc = none) (hd : ((s.beginDesc m e k).eng m e).desc = none) :
    s.stream m e k = s.beginDesc m e k := by
  simp [State.stream, hn, hd]

/-! ### A descriptor begun (R164, R172, R173, R176, R184) -/

/-- An engine that has started its list and is neither stopped nor at rest. -/
structure Underway (g : Eng) : Prop where
  started : g.started = true
  st : g.st = .run ∨ g.st = .wait ∨ g.st = .hold

theorem Underway.awake {g : Eng} (h : Underway g) : (!g.started || g.st == .faulted || g.st == .idle || g.st == .empty) = false := by
  rcases h.st with hs | hs | hs
  · simp [h.started, hs]
  · simp [h.started, hs]
  · simp [h.started, hs]

/-- No engine of the MU keeps a CMP from its unit. -/
def CmpFree (s : State) (k m e : Nat) : Prop := k = 6 → (s.mu m).cmpOwner = none ∧ ∀ i, i < e → s.atCmp m i = false

theorem CmpFree.unheld (h : CmpFree s k m e) :
    (decide (k = 6) && ((s.mu m).cmpOwner.any (· != e) || (List.range e).any (s.atCmp m ·))) = false := by
  by_cases hk : k = 6
  · obtain ⟨hown, hat⟩ := h hk
    simpa [hown, hk] using hat
  · simp [hk]

/-- The MU's scoreboard and CMP unit as an engine begins a descriptor. -/
def begunMu (g : Eng) (k e : Nat) (d : Desc) (x : Mu) : Mu :=
  { x with
    sb := if dWritesSp d && dRv d then
      x.sb ++ [⟨e, g.nth + 1, winLo g.win + dRlo d, winLo g.win + dRhi d, dGroup d, false⟩] else x.sb,
    cmpOwner := if k = 6 then some e else x.cmpOwner }

/-- The engine as it begins a descriptor. -/
def begunEng (s : State) (k m a : Nat) (d : Desc) (rest : List (Nat × List W64 × BitVec 8)) (g : Eng) : Eng :=
  { g.fetchNext (s.muFenced m) (s.listStart m g g.list) a d rest with
    st := .run, desc := some (a, d), row := 0, passed0 := false, passed1 := false, queue := rest, nth := g.nth + 1,
    sstat := if dSclr d then 0 else g.sstat,
    gen := if dSeedkeep d || k = 6 then g.gen else if dSeed d = 0 then 1 else BitVec.ofNat 32 (dSeed d),
    cmp := if k = 6 then some ⟨[], 0, 0, 0, 0, 0, 0, false⟩ else none }

/-- The state once an engine has begun a descriptor. -/
def begun (s : State) (k m e a : Nat) (d : Desc) (rest : List (Nat × List W64 × BitVec 8)) : State :=
  (s.updMu m (begunMu (s.eng m e) k e d)).updEng m e (begunEng s k m a d rest)

theorem fetchNext_rest (g : Eng) (held : Bool) (start addr : Nat) (d : Desc) (rest : List (Nat × List W64 × BitVec 8)) :
    g.fetchNext held start addr d rest = { g with
      burst := (g.fetchNext held start addr d rest).burst, burstAsk := (g.fetchNext held start addr d rest).burstAsk } := by
  unfold Eng.fetchNext
  split
  · exact sendBurst_rest _ _ _
  · rfl

/-- What begins with a descriptor, and what of the engine stays. -/
theorem begunEng_rest (g : Eng) : begunEng s k m a d rest g = { g with
    burst := (begunEng s k m a d rest g).burst, burstAsk := (begunEng s k m a d rest g).burstAsk,
    st := .run, desc := some (a, d), row := 0, passed0 := false, passed1 := false, queue := rest, nth := g.nth + 1,
    sstat := if dSclr d then 0 else g.sstat, gen := (begunEng s k m a d rest g).gen, cmp := (begunEng s k m a d rest g).cmp } := by
  unfold begunEng
  rw [fetchNext_rest]

theorem begun_eng : (begun s k m e a d rest).eng m e = begunEng s k m a d rest (s.eng m e) := by
  rw [begun, eng_updEng, eng_updMu]
  rfl

section

variable (hu : Underway (s.eng m e)) (hq : (s.eng m e).queue = (a, d, 0) :: rest) (hk : dKind d = k)
  (hagp : (s.eng m e).agpLost d = false) (hcmp : CmpFree s k m e)
include hu hq hk hagp hcmp

theorem beginDesc_begins (hsb : sbBlocks (s.eng m e).win d (s.mu m).sb = false) : s.beginDesc m e k = begun s k m e a d rest := by
  unfold State.beginDesc
  dsimp only
  rw [hu.awake, hq, if_neg Bool.false_ne_true]
  dsimp only
  rw [if_neg (by simp), if_neg (not_not.mpr hk), hagp, if_neg Bool.false_ne_true, hcmp.unheld, if_neg Bool.false_ne_true, hsb,
    if_neg Bool.false_ne_true]
  rfl

/-- A descriptor whose rows meet an older range waits. -/
theorem beginDesc_waits (hsb : sbBlocks (s.eng m e).win d (s.mu m).sb = true) : s.beginDesc m e k = s.engWait m e .wait 0 := by
  unfold State.beginDesc
  dsimp only
  rw [hu.awake, hq, if_neg Bool.false_ne_true]
  dsimp only
  rw [if_neg (by simp), if_neg (not_not.mpr hk), hagp, if_neg Bool.false_ne_true, hcmp.unheld, if_neg Bool.false_ne_true, hsb, if_pos rfl]

end

/-- A poisoned word of a descriptor is a POISON fault. -/
theorem beginDesc_poisoned (hu : Underway (s.eng m e)) (hq : (s.eng m e).queue = (a, d, marks) :: rest) (hm : marks ≠ 0) : ∃ detail,
    s.beginDesc m e k = (s.countErr (48 + unitDie m) 3).streamFault m e 1 detail [] := by
  unfold State.beginDesc
  dsimp only
  rw [hu.awake, hq, if_neg Bool.false_ne_true]
  dsimp only
  rw [if_pos hm]
  exact ⟨_, rfl⟩

theorem engWait_eng {st : EngState} {n : Nat} :
    (s.engWait m e st n).eng m e = { s.eng m e with st := st, cnt := bump (s.eng m e).cnt n 1 } := eng_updEng

/-- The state of an engine that has begun a descriptor and stands at its first mark. -/
def begunHeld (s : State) (k m e a : Nat) (d : Desc) (rest : List (Nat × List W64 × BitVec 8)) : State :=
  (begun s k m e a d rest).engWait m e .hold 3

theorem begunHeld_mu : ((begunHeld s k m e a d rest).mu m).sb = (begunMu (s.eng m e) k e d (s.mu m)).sb ∧
    ((begunHeld s k m e a d rest).mu m).cmpOwner = (begunMu (s.eng m e) k e d (s.mu m)).cmpOwner := by
  rw [begunHeld, State.engWait, mu_updEng, begun, mu_updEng, mu_updMu]
  exact ⟨rfl, rfl⟩

theorem begunHeld_eng_ne {j : Nat} (h : j ≠ e) : (begunHeld s k m e a d rest).eng m j = s.eng m j := by
  rw [begunHeld, State.engWait, eng_updEng_ne h, begun, eng_updEng_ne h, eng_updMu]
  rfl

theorem begunHeld_mu_ne {n : Nat} (h : n ≠ m) : (begunHeld s k m e a d rest).mu n = s.mu n := by
  rw [begunHeld, State.engWait, begun, State.updEng, State.updEng, mu_updMu_ne h, mu_updMu_ne h, mu_updMu_ne h]

theorem begunHeld_eng : (begunHeld s k m e a d rest).eng m e =
    { begunEng s k m a d rest (s.eng m e) with st := .hold, cnt := bump (begunEng s k m a d rest (s.eng m e)).cnt 3 1 } := by
  rw [begunHeld, engWait_eng, begun_eng]

/-- A mark that is not open holds an engine before its first row. -/
theorem begun_holds (hc : (s.eng m e).clear) (hr : 0 < (s.eng m e).rows d) (hk1 : (dHold d 0).bits 25 24 = 1)
    (hat : (dHold d 0).bits 23 0 = 0) (hl : NatSet.mem (s.eng m e).latches ((dHold d 0).bits 39 32) = false) :
    (begun s k m e a d rest).engGo m e = begunHeld s k m e a d rest := by
  have heng := begun_eng (s := s) (k := k) (m := m) (e := e) (a := a) (d := d) (rest := rest)
  rw [begunEng_rest] at heng
  rw [begunHeld]
  generalize begun s k m e a d rest = q at heng
  have hforms : FormsRows (q.eng m e) a d := by
    rw [heng]
    exact ⟨rfl, .inl rfl, hr⟩
  have hmark : (q.eng m e).markAt d = some (0, dHold d 0) := by
    have hhit : markHits d 0 0 false = true := markHits_iff.mpr ⟨rfl, by omega, hat, by decide⟩
    rw [heng, markAt_eq]
    dsimp only
    rw [hhit]
    rfl
  have hclear : (q.eng m e).clear := by
    rw [heng]
    exact hc
  have hshut : q.markOpen m (q.eng m e) (dHold d 0) = false := markOpen_step hk1 (by rw [heng]; exact hl)
  have hstops : q.engMove m e = (q.engWait m e .hold 3, false) := by rw [engMove_clear hclear, formNext_shut hforms hmark hshut]
  have hfuel : (q.eng m e).fuel = 8 * (q.eng m e).rows d + 31 + 1 := by rw [fuel_clear hforms.desc hclear]; omega
  rw [State.engGo, hfuel, engRun_stops hstops]

end

/-- Settles O27: an engine that begins its descriptor stops at the mark; else it waits, or its word's poison is a fault. -/
theorem streamBegins : Obligations.StreamBegins := by
  refine ⟨fun k m e a d rest s hk hd hn hst hs hq hc hagp hrows hcmp hsb hk1 hat hl => ?_,
    fun k m e a d marks rest s hk hd hn hst hs hq => ⟨fun hm hagp hcmp hsb => ?_, fun hm => ?_⟩⟩
  · have hbegin := beginDesc_begins ⟨hst, hs⟩ hq hd hagp hcmp hsb
    have hdesc : ((s.beginDesc m e k).eng m e).desc = some (a, d) := by
      rw [hbegin, begun_eng]
      rfl
    have hex := exec_streamCmd (s := s) (m := m) (e := e) hk
    rw [stream_goes hn hdesc hd, hbegin, begun_holds hc hrows hk1 hat hl] at hex
    obtain ⟨hsbs, hown⟩ := begunHeld_mu (s := s) (k := k) (m := m) (e := e) (a := a) (d := d) (rest := rest)
    have heng := begunHeld_eng (s := s) (k := k) (m := m) (e := e) (a := a) (d := d) (rest := rest)
    refine ⟨_, hex, rfl, fun n hne => begunHeld_mu_ne hne, ?_, ?_, ?_, ?_, ?_, fun h6 => ?_, hsbs, fun j hj => begunHeld_eng_ne hj⟩
    · rw [heng]
      rfl
    · rw [heng]
      rfl
    · rw [heng]
      rfl
    · rw [heng]
    · rw [heng]
      rfl
    · rw [hown]
      exact if_pos h6
  · have hwait := beginDesc_waits ⟨hst, .inl hs⟩ (hm ▸ hq) hd hagp hcmp hsb
    have hex := exec_streamCmd (s := s) (m := m) (e := e) hk
    rw [stream_stands hn (by rw [hwait, engWait_eng]; exact hn), hwait] at hex
    refine ⟨_, hex, rfl, ?_, engWait_eng⟩
    rw [State.engWait, mu_updEng]
    rfl
  · obtain ⟨detail, hfault⟩ := beginDesc_poisoned (k := k) ⟨hst, .inl hs⟩ hq hm
    have hex := exec_streamCmd (s := s) (m := m) (e := e) hk
    have htally := countErr_tallied (s := s) (src := 48 + unitDie m) (k := 3)
    have hrgns := countErr_rgns (s := s) (48 + unitDie m) 3
    generalize s.countErr (48 + unitDie m) 3 = q at hfault htally hrgns
    obtain ⟨heng, hflits, hspad, hctr⟩ := streamFault_faults (s := q) (m := m) (e := e) (cause := 1) (detail := detail) (idx := []) (by decide)
    rw [htally.eng] at heng
    rw [stream_stands hn (by rw [hfault, heng]; exact hn), hfault] at hex
    refine ⟨_, hex, by rw [heng], by rw [heng], fun r hr => ?_, hspad.trans ?_, hflits.trans ?_⟩
    · rw [hctr r ((regionOf_congr (by rw [htally]) m).trans hr), State.rgn, hrgns]
      rfl
    · rw [htally]
    · rw [htally]

end Sys2Proof.Proofs
end

section
/-! PROOFS. A stream engine's only row: what forming it leaves alone, how its descriptor ends, and the read of a row from a device
window. -/

namespace Sys2Proof.Proofs

open Sys2Proof Sys2Proof.Machine Sys2Proof.Laws

section

variable {s t v : State} {k m e a : Nat} {d : Desc}

/-! ### What the regions' fences are kept by (R213) -/

/-- Every region is fenced as it was. -/
def FencesKept (s t : State) : Prop := ∀ r, (t.rgn r).fence = (s.rgn r).fence

theorem FencesKept.refl : FencesKept s s := fun _ => rfl

theorem FencesKept.trans (h : FencesKept s t) (k : FencesKept t v) : FencesKept s v := fun r => (k r).trans (h r)

theorem fencesKept_of_rgns (h : t.rgns = s.rgns) : FencesKept s t := fun r => by
  rw [State.rgn, h]
  rfl

theorem updRgn_fencesKept {r : Nat} {g : Region → Region} (h : (g (s.rgn r)).fence = (s.rgn r).fence) :
    FencesKept s (s.updRgn r g) := fun q => by
  rw [rgn_updRgn]
  split
  next hq => rw [h, hq]
  · rfl

theorem ite_fencesKept {c : Prop} [Decidable c] {a b : State} (ha : FencesKept s a) (hb : FencesKept s b) :
    FencesKept s (if c then a else b) := by
  split
  · exact ha
  · exact hb

theorem addCtr_fencesKept {r w p n : Nat} : FencesKept s (s.addCtr r w p n) := updRgn_fencesKept rfl

theorem addUnitCtr_fencesKept {u w p n : Nat} : FencesKept s (s.addUnitCtr u w p n) := by
  unfold State.addUnitCtr
  split
  · exact addCtr_fencesKept
  · exact .refl

theorem progressAt_fencesKept {u : Nat} : FencesKept s (s.progressAt u) := fun r => by rw [progressAt_rgn]

theorem latchEdge_fencesKept {r n : Nat} {b : Bool} : FencesKept s (s.latchEdge r n b) := by
  unfold State.latchEdge
  exact ite_fencesKept (updRgn_fencesKept rfl) .refl

theorem latchWhere_fencesKept {r : Nat} {f : W64 → Bool} {b : Bool} : FencesKept s (s.latchWhere r f b) :=
  foldl_keeps (FencesKept s) _ _ _ .refl fun _ _ h => h.trans latchEdge_fencesKept

theorem levelEdge_fencesKept {old new : Nat} : FencesKept s (s.levelEdge m e old new) := by
  unfold State.levelEdge
  split
  · exact .refl
  · exact latchWhere_fencesKept.trans latchWhere_fencesKept

theorem countWord_fencesKept {src u whr : Nat} {poi : Bool} {own : Option (Nat × Nat)} :
    FencesKept s (s.countWord src u poi whr own) := by
  unfold State.countWord
  extract_lets ecc
  have he : ∀ t p, FencesKept t (ecc t p) := by
    intro t p
    unfold ecc
    split
    · exact addCtr_fencesKept
    · exact .refl
  have hc : ∀ n, FencesKept s (s.countErr src n) := fun n => fencesKept_of_rgns (countErr_rgns _ _)
  exact ite_fencesKept ((hc 0).trans (he _ 0)) (ite_fencesKept ((hc 1).trans (he _ 0))
    (ite_fencesKept (((hc 2).trans (fencesKept_of_rgns (logRec_rgns _ _ _ _ _))).trans (he _ 1)) (ite_fencesKept ((hc 3).trans (he _ 1)) .refl)))

theorem decodeSpad_fencesKept {o n : Nat} : FencesKept s (s.decodeSpad m o n) :=
  foldl_keeps (FencesKept s) _ _ _ (ite_fencesKept .refl addUnitCtr_fencesKept) fun _ _ h => h.trans countWord_fencesKept

/-! ### What an engine's work inside its memory unit leaves alone -/

/-- Counters and memory units differ, and MU `m` keeps its tags and their use (R181); regions stay fenced as they were (R213). -/
structure MuWork (s t : State) (m : Nat) : Prop where
  rest : t = { s with regs := t.regs, log := t.log, rgns := t.rgns, mus := t.mus }
  busy : (t.mu m).busy = (s.mu m).busy
  gens : (t.mu m).gens = (s.mu m).gens
  tags : ∀ i, (t.eng m i).tags = (s.eng m i).tags
  fences : FencesKept s t

theorem MuWork.trans (h : MuWork s t m) (k : MuWork t v m) : MuWork s v m where
  rest := Eq.trans k.rest (by conv_lhs => rw [h.rest])
  busy := k.busy.trans h.busy
  gens := k.gens.trans h.gens
  tags i := (k.tags i).trans (h.tags i)
  fences := h.fences.trans k.fences

theorem Tallied.muWork (h : Tallied s t) (hf : FencesKept s t) : MuWork s t m := by
  have hmus : t.mus = s.mus := by rw [h]
  have hmu : t.mu m = s.mu m := by rw [State.mu, hmus]; rfl
  exact ⟨by rw [hmus]; exact h, by rw [hmu], by rw [hmu], fun i => by rw [State.eng, hmu]; rfl, hf⟩

theorem updEng_muWork {g : Eng → Eng} (h : (g (s.eng m e)).tags = (s.eng m e).tags) : MuWork s (s.updEng m e g) m where
  rest := rfl
  busy := by rw [mu_updEng]; rfl
  gens := by rw [mu_updEng]; rfl
  tags i := by
    rw [State.eng, mu_updEng, engAt_setEng]
    split
    next hi => rw [h, hi]
    · rfl
  fences := .refl

theorem progressAt_muWork {u : Nat} : MuWork s (s.progressAt u) m := progressAt_tallied.muWork progressAt_fencesKept

theorem addRc_muWork {n : Nat} : MuWork s (s.addRc m e n) m := by
  unfold State.addRc
  split
  · exact Tallied.refl.muWork .refl
  · exact (updEng_muWork rfl).trans progressAt_muWork

theorem closeDesc_muWork : MuWork s (closeDesc s m e d) m := by
  unfold closeDesc
  dsimp only
  split
  · exact (updEng_muWork rfl).trans (updEng_muWork rfl)
  · exact updEng_muWork rfl

theorem tagBase_congr {x y : Mu} (h : ∀ i, (y.engAt i).tags = (x.engAt i).tags) (e : Nat) : y.tagBase e = x.tagBase e := by
  unfold Mu.tagBase
  simp only [h]

theorem MuWork.freeTag (h : MuWork s t m) : (t.mu m).freeTag e = (s.mu m).freeTag e := by
  have htags : ∀ i, ((t.mu m).engAt i).tags = ((s.mu m).engAt i).tags := h.tags
  unfold Mu.freeTag
  rw [tagBase_congr htags, htags, h.busy]

theorem MuWork.muFenced (h : MuWork s t m) : t.muFenced m = s.muFenced m := by
  have hr : t.regionOf m = s.regionOf m := regionOf_congr (by rw [h.rest]) m
  unfold State.muFenced
  rw [hr]
  cases s.regionOf m with
  | none => rfl
  | some r => simp only [h.fences r]

theorem MuWork.sameWires (h : MuWork s t m) : SameWires s t := by
  rw [h.rest]
  exact ⟨rfl, rfl, rfl⟩

/-! ### A request under a free tag (R181, R198) -/

/-- The request that an MU sends under a tag just taken: what of the state it names. -/
theorem injectReq_rest {l tg : Nat} {mask : BitVec 16} {row : Row} (hm : t = { s with regs := t.regs, log := t.log, rgns := t.rgns, mus := t.mus })
    (hg : count (t.mu m).gens tg = (count (s.mu m).gens tg + 1) % 16) :
    t.injectReq m l mask row tg =
      { t with rgns := (t.injectReq m l mask row tg).rgns, flits := s.flits ++ [s.muRequest m l tg mask row] } := by
  have hflit : ({ t with flits := t.flits ++ [⟨if mask == 0 then .readReq else .writeReq, (t.regionOf m).getD 256, .unit m,
      .slice (t.requestSlice ((t.regionOf m).getD 256) l), l, mask, row, tg, count (t.mu m).gens tg, false, 1⟩] } : State) =
      { t with flits := s.flits ++ [s.muRequest m l tg mask row] } := by
    rw [hg, hm]
    rfl
  unfold State.injectReq
  dsimp only
  rw [addUnitCtr_rest, hflit]

theorem takeTag_gens (x : Mu) (tg : Nat) : count (x.takeTag tg).gens tg = (count x.gens tg + 1) % 16 := get_set_same _ _ _ _

theorem takeTag_busy (x : Mu) (tg : Nat) : FMap.get false (x.takeTag tg).busy tg = true :=
  get_set_same false x.busy tg true

/-! ### The descriptor in hand -/

/-- A command goes on with a descriptor of its kind. -/
theorem stream_inHand (hd : (s.eng m e).desc = some (a, d)) (hk : dKind d = k) : s.stream m e k = s.engGo m e := by
  simp [State.stream, hd, hk]

/-- What of an engine stays as its descriptor ends. -/
theorem closeDesc_engRest : (closeDesc s m e d).eng m e = { s.eng m e with
    desc := none, row := 0, passed0 := false, passed1 := false, cmp := none,
    started := ((closeDesc s m e d).eng m e).started, queue := ((closeDesc s m e d).eng m e).queue,
    burst := ((closeDesc s m e d).eng m e).burst, burstAsk := ((closeDesc s m e d).eng m e).burstAsk } := by
  unfold closeDesc
  dsimp only
  split
  · simp only [eng_updEng]
  · simp only [eng_updEng]

theorem nextRow_eng : (s.nextRow m e).eng m e = { s.eng m e with st := .run, row := (s.eng m e).row + 1 } := eng_updEng

theorem nextRow_muWork : MuWork s (s.nextRow m e) m := updEng_muWork rfl

/-- The state once an engine's last row is formed: its descriptor has left it. -/
def rowClosed (s : State) (m e : Nat) (d : Desc) : State := closeDesc (s.nextRow m e) m e d

theorem rowClosed_muWork : MuWork s (rowClosed s m e d) m := nextRow_muWork.trans closeDesc_muWork

theorem rowClosed_rest : rowClosed s m e d = { s with mus := (rowClosed s m e d).mus } := by
  rw [rowClosed, closeDesc_rest]
  rfl

theorem rowClosed_eng : (rowClosed s m e d).eng m e = { s.eng m e with
    st := .run, desc := none, row := 0, passed0 := false, passed1 := false, cmp := none,
    started := ((rowClosed s m e d).eng m e).started, queue := ((rowClosed s m e d).eng m e).queue,
    burst := ((rowClosed s m e d).eng m e).burst, burstAsk := ((rowClosed s m e d).eng m e).burstAsk } := by
  conv_lhs => rw [rowClosed, closeDesc_engRest, nextRow_eng]
  rfl

/-- After its last row, a descriptor that neither fills the scratchpad from a link nor compares has nothing more to do. -/
theorem rowDone_closes (hlast : (s.eng m e).rows d ≤ (s.eng m e).row + 1) (h4 : dKind d ≠ 4) (h6 : dKind d ≠ 6) :
    s.rowDone m e d = rowClosed s m e d := by
  have hres : resBeyond ((s.nextRow m e).eng m e).win d = false := by simp [resBeyond, h6]
  have h6' : (dKind d == 6) = false := by simp [h6]
  unfold State.rowDone
  dsimp only
  rw [if_pos (by rw [nextRow_eng]; exact hlast)]
  unfold State.endDesc
  dsimp only
  rw [hres, if_neg Bool.false_ne_true, if_neg h4, h6']
  rfl

/-- An engine that waits for nothing and has no descriptor stands still. -/
theorem engMove_none (hd : (s.eng m e).desc = none) (hw : s.settleWrite m e = none) (ho : s.settleOut m e = none)
    (hr : s.settleRead m e = none) (hs : s.sendWrite m e = none) : s.engMove m e = (s, false) := by
  simp only [State.engMove, hw, ho, hr, hs, formNext_none hd]

/-- An only row: no descriptor's row stands before it, and no mark. -/
theorem onlyRow_forms {g : Eng} (h : g.atOnlyRow a d) : FormsRows g a d ∧ g.row = 0 ∧ g.rows d = 1 ∧ g.markAt d = none ∧ g.clear := by
  obtain ⟨hd, hst, hrow, hrows, hmark, hc⟩ := h
  exact ⟨⟨hd, .inl hst, by omega⟩, hrow, hrows, hmark, hc⟩

theorem fuel_onlyRow {g : Eng} (h : g.atOnlyRow a d) : g.fuel = 37 + 3 := by
  obtain ⟨hforms, -, hrows, -, hc⟩ := onlyRow_forms h
  rw [fuel_clear hforms.desc hc, hrows]

theorem nextWrite_none (h : (s.eng m e).wq = []) : s.nextWrite m e = none := by simp [State.nextWrite, h]

theorem fillsAhead_none {g : Eng} (h : g.jobs = []) : g.fillsAhead = false := by simp [Eng.fillsAhead, h]

/-! ### A row from a device window (R161, R169, R175, R181) -/

section

variable {l tg : Nat} {x : RowAddr}

/-- The state once an MU has sent the read of a line under a free tag. -/
def lineAsked (s : State) (m l tg : Nat) : State := (s.updMu m fun x => x.takeTag tg).injectReq m l 0 Row.zero tg

theorem lineAsked_rest : lineAsked s m l tg = { s with
    mus := (s.updMu m fun x => x.takeTag tg).mus, rgns := (lineAsked s m l tg).rgns, flits := s.flits ++ [s.muRequest m l tg 0 Row.zero] } := by
  conv_lhs => rw [lineAsked, injectReq_rest (s := s) rfl (by rw [mu_updMu]; exact takeTag_gens _ _)]
  rfl

theorem lineAsked_mu : (lineAsked s m l tg).mu m = (s.mu m).takeTag tg := by
  rw [lineAsked_rest]
  change (s.updMu m fun x => x.takeTag tg).mu m = _
  exact mu_updMu

theorem lineAsked_eng : (lineAsked s m l tg).eng m e = s.eng m e := by
  rw [State.eng, lineAsked_mu]
  rfl

/-- The only line of a row is asked for under a free tag. -/
theorem readReqs_one (hj : (s.eng m e).jobs = []) (ht : (s.mu m).freeTag e = some tg) :
    s.readReqs m e [l] = some ([⟨l, tg, none, false⟩], lineAsked s m l tg) := by
  simp [State.readReqs, hj, ht, lineAsked]

/-- The row that waits for its line. -/
def loadJob (g : Eng) (d : Desc) (x : RowAddr) (l tg : Nat) : RowJob :=
  ⟨d, 0, winBase g.win (dDw d) + x.a.toNat, x.lanes, winBase g.win (dDw d) + x.b.toNat, winLo g.win + dRlo d, [⟨l, tg, none, false⟩],
    false, g.nth⟩

/-- The state in which an engine's row waits for its line. -/
def rowAsked (s : State) (m e : Nat) (d : Desc) (x : RowAddr) (l tg : Nat) : State :=
  (lineAsked s m l tg).updEng m e fun g => { g with jobs := g.jobs ++ [loadJob (s.eng m e) d x l tg] }

theorem rowAsked_eng : (rowAsked s m e d x l tg).eng m e =
    { s.eng m e with jobs := (s.eng m e).jobs ++ [loadJob (s.eng m e) d x l tg] } := by
  rw [rowAsked, eng_updEng, lineAsked_eng]

section

variable (hk : dKind d = 0 ∨ dKind d = 1) (hb : dBlock d = false) (hat : (s.eng m e).atOnlyRow a d)
  (hfence : s.muFenced m = false) (hf : s.formRow m (s.eng m e) d 0 = .row x) (hx : 0 < x.lanes)
  (ht : (s.mu m).freeTag e = some tg) (hl : linesOf (winBase (s.eng m e).win (dDw d) + x.a.toNat) (dElemBytes d x.lanes) = [l])
include hk hb hat hfence hf hx ht hl

theorem formNext_load : s.formNext m e = (rowClosed (rowAsked s m e d x l tg) m e d, true) := by
  obtain ⟨hforms, hrow, hrows, hmark, hjobs, hout, hwq, -, -⟩ := onlyRow_forms hat
  have hlines : (linesOf (winBase (s.eng m e).win (dDw d) + x.a.toNat) (dElemBytes d x.lanes) ++
      linesOf (winBase (s.eng m e).win (dDw d) + x.b.toNat) (dScaleBytes d)).eraseDups = [l] := by
    rw [hl, show dScaleBytes d = 0 by simp [dScaleBytes, hb]]
    rfl
  have htakes : ¬ dTakes d = true := by rcases hk with h | h <;> simp [dTakes, h]
  have hdev : dFromDev d = true := by rcases hk with h | h <;> simp [dFromDev, h]
  have hk3 : ¬ dKind d = 3 := by omega
  have hclose : (rowAsked s m e d x l tg).rowDone m e d = rowClosed (rowAsked s m e d x l tg) m e d := by
    refine rowDone_closes ?_ (by omega) (by omega)
    rw [rowAsked_eng]
    exact (show (s.eng m e).rows d ≤ (s.eng m e).row + 1 by omega)
  have hlanes : x.lanes ≠ 0 := by omega
  rw [← hclose]
  unfold State.formNext
  dsimp only
  rw [hforms.desc]
  dsimp only
  rw [hforms.awake, hrow, hrows, hmark, fillsAhead_none hjobs, hf]
  dsimp only
  rw [if_neg Bool.false_ne_true, if_neg (by decide), if_neg (by simp), if_neg htakes, if_neg hk3, if_pos hdev, hfence,
    if_neg (by simp), nextWrite_none hwq, if_neg (by simp), hout, if_neg (by simp), if_neg hlanes, hlines, readReqs_one hjobs ht]
  dsimp only
  rw [if_neg hlanes, lineAsked_eng]
  rfl

/-- A row of an engine asks for its line, and waits. -/
theorem load_runs : s.engGo m e = rowClosed (rowAsked s m e d x l tg) m e d := by
  obtain ⟨-, -, -, -, hclear⟩ := onlyRow_forms hat
  have hmove : s.engMove m e = (rowClosed (rowAsked s m e d x l tg) m e d, true) := by
    rw [engMove_clear hclear, formNext_load hk hb hat hfence hf hx ht hl]
  have heng := rowClosed_eng (s := rowAsked s m e d x l tg) (m := m) (e := e) (d := d)
  obtain ⟨hjobs, hout, hwq, -⟩ := hclear
  rw [rowAsked_eng, hjobs, List.nil_append] at heng
  generalize rowClosed (rowAsked s m e d x l tg) m e d = q at heng hmove
  have hstop : q.engMove m e = (q, false) := by
    have hj : (q.eng m e).jobs = [loadJob (s.eng m e) d x l tg] := by rw [heng]
    refine engMove_none (by rw [heng]) ?_ (settleOut_empty (by rw [heng]; exact hout)) ?_ ?_
    · simp [State.settleWrite, hj, loadJob]
    · simp [State.settleRead, hj, loadJob]
    · simp [State.sendWrite, nextWrite_none (show (q.eng m e).wq = [] by rw [heng]; exact hwq)]
  rw [State.engGo, fuel_onlyRow hat, engRun_goes hmove, engRun_stops hstop]

end

end

end

/-- Settles O28: the engine's one move, and what its state holds then. -/
theorem deviceRowsRequested : Obligations.DeviceRowsRequested := by
  intro k m e a l tg d x s hk hd hb hat hfence hf hx ht hl
  have hex := exec_streamCmd (s := s) (m := m) (e := e) (show k < 7 by omega)
  rw [stream_inHand hat.1 hd, load_runs (by omega) hb hat hfence hf hx ht hl] at hex
  obtain ⟨-, -, -, -, hjobs, -⟩ := onlyRow_forms hat
  have heng := rowClosed_eng (s := rowAsked s m e d x l tg) (m := m) (e := e) (d := d)
  rw [rowAsked_eng, hjobs, List.nil_append] at heng
  refine ⟨_, hex, ?_, ?_, by rw [heng], by rw [heng]; rfl, ?_, by rw [heng]⟩
  · rw [rowClosed_rest, rowAsked, lineAsked_rest]
    rfl
  · rw [rowClosed_rest, rowAsked, lineAsked_rest]
    rfl
  · rw [rowClosed_muWork.busy, rowAsked, mu_updEng, lineAsked_mu]
    exact takeTag_busy _ _

end Sys2Proof.Proofs
end

section
/-! PROOFS. Bytes laid along a scratchpad: the lines that they touch, and each byte as it stands afterwards. -/

namespace Sys2Proof.Proofs

open Sys2Proof Sys2Proof.Machine Sys2Proof.Laws

section

variable {a l m : Nat} {bs : List MByte}

/-! ### The part of bytes that lies in one line (R169) -/

/-- The data of that part, as a number. -/
def lineData (a l : Nat) (bs : List MByte) : Nat :=
  ((bs.zipIdx).filter fun e => lineOf (a + e.2) == l).foldl (fun n e => n + e.1.1.toNat * 256 ^ ((a + e.2) % 128)) 0

theorem lineChunk_data : (lineChunk a l bs).row.data = BitVec.ofNat 1024 (lineData a l bs) := rfl

theorem lineOf_eq_iff (hl : l % 128 = 0) (y : Nat) : lineOf y = l ↔ l ≤ y ∧ y < l + 128 := by
  unfold lineOf
  omega

theorem lineData_concat (b : MByte) : lineData a l (bs ++ [b]) =
    lineData a l bs + if lineOf (a + bs.length) = l then b.1.toNat * 256 ^ ((a + bs.length) % 128) else 0 := by
  unfold lineData
  rw [List.zipIdx_append, List.filter_append, List.foldl_append]
  by_cases h : lineOf (a + bs.length) = l
  · simp [h]
  · simp [h]

/-- One digit more than a number below it. -/
theorem digit_add {n q p b : Nat} (hn : n < 256 ^ q) (hb : b < 256) :
    (n + b * 256 ^ q) / 256 ^ p % 256 = if p < q then n / 256 ^ p % 256 else if p = q then b else 0 := by
  have hpos : 0 < 256 ^ q := by positivity
  split
  next h =>
    obtain ⟨r, rfl⟩ : ∃ r, q = p + 1 + r := ⟨q - (p + 1), by omega⟩
    have hsplit : b * 256 ^ (p + 1 + r) = 256 ^ p * (256 * (b * 256 ^ r)) := by ring
    rw [hsplit, Nat.add_mul_div_left _ _ (by positivity), Nat.add_mul_mod_self_left]
  next h =>
    split
    next h => rw [h, Nat.add_mul_div_right _ _ hpos, Nat.div_eq_of_lt hn, Nat.zero_add, Nat.mod_eq_of_lt hb]
    next h' =>
      have hle : 256 ^ (q + 1) ≤ 256 ^ p := Nat.pow_le_pow_right (by decide) (by omega)
      have hlt : n + b * 256 ^ q < 256 ^ (q + 1) := by
        have : b * 256 ^ q ≤ 255 * 256 ^ q := Nat.mul_le_mul_right _ (by omega)
        rw [pow_succ]
        omega
      rw [Nat.div_eq_of_lt (Nat.lt_of_lt_of_le hlt hle), Nat.zero_mod]

/-- Each byte of a line's data is the byte laid there, or zero. -/
theorem lineData_digit (hl : l % 128 = 0) (bs : List MByte) :
    lineData a l bs < 256 ^ min 128 (a + bs.length - l) ∧ ∀ p, p < 128 →
      lineData a l bs / 256 ^ p % 256 = if a ≤ l + p ∧ l + p < a + bs.length then (bs.getD (l + p - a) (0, false)).1.toNat else 0 := by
  induction bs using List.reverseRecOn with
  | nil =>
    have hz : lineData a l [] = 0 := rfl
    rw [hz]
    refine ⟨by positivity, fun p _ => ?_⟩
    rw [if_neg (by simp only [List.length_nil]; omega), Nat.zero_div, Nat.zero_mod]
  | append_singleton bs b ih =>
    obtain ⟨hlt, hdig⟩ := ih
    have hb : b.1.toNat < 256 := b.1.isLt
    have hold : ∀ p, l + p < a + bs.length → (bs ++ [b]).getD (l + p - a) (0, false) = bs.getD (l + p - a) (0, false) ∨ l + p < a := by
      intro p hp
      by_cases h : l + p < a
      · exact .inr h
      · exact .inl (List.getD_append _ _ _ _ (by omega))
    rw [lineData_concat, List.length_append, List.length_singleton]
    split
    next h =>
      obtain ⟨h1, h2⟩ := (lineOf_eq_iff hl _).mp h
      have hq : (a + bs.length) % 128 = a + bs.length - l := by omega
      have hmin : min 128 (a + bs.length - l) = a + bs.length - l := by omega
      have hmin' : min 128 (a + (bs.length + 1) - l) = a + bs.length - l + 1 := by omega
      rw [hmin] at hlt
      rw [hq, hmin']
      refine ⟨?_, fun p hp => ?_⟩
      · have : b.1.toNat * 256 ^ (a + bs.length - l) ≤ 255 * 256 ^ (a + bs.length - l) := Nat.mul_le_mul_right _ (by omega)
        rw [pow_succ]
        omega
      · rw [digit_add hlt hb]
        split
        next hpq =>
          rw [hdig p hp]
          by_cases hin : a ≤ l + p
          · rw [if_pos ⟨hin, by omega⟩, if_pos ⟨hin, by omega⟩, (hold p (by omega)).resolve_right (by omega)]
          · rw [if_neg (by omega), if_neg (by omega)]
        next hpq =>
          split
          next heq =>
            have hidx : l + p - a = bs.length := by omega
            rw [if_pos (by omega), hidx]
            simp
          next hne => rw [if_neg (by omega)]
    next h =>
      have hout : ¬(l ≤ a + bs.length ∧ a + bs.length < l + 128) := fun hin => h ((lineOf_eq_iff hl _).mpr hin)
      have hmin : min 128 (a + (bs.length + 1) - l) = min 128 (a + bs.length - l) := by omega
      rw [Nat.add_zero, hmin]
      refine ⟨hlt, fun p hp => ?_⟩
      rw [hdig p hp]
      by_cases hin : a ≤ l + p ∧ l + p < a + bs.length
      · rw [if_pos hin, if_pos (by omega), (hold p hin.2).resolve_right (by omega)]
      · rw [if_neg hin, if_neg (by omega)]

theorem toNat_byte_ofNat {w n : Nat} (h : n < 2 ^ w) (p : Nat) : ((BitVec.ofNat w n).extractLsb' (8 * p) 8).toNat = n / 256 ^ p % 256 := by
  have hpow : (2 : Nat) ^ (8 * p) = 256 ^ p := by rw [pow_mul]; rfl
  rw [BitVec.extractLsb'_toNat, BitVec.toNat_ofNat, Nat.mod_eq_of_lt h, Nat.shiftRight_eq_div_pow, hpow]

theorem lineChunk_byte (hl : l % 128 = 0) {p : Nat} (hp : p < 128) (h1 : a ≤ l + p) (h2 : l + p < a + bs.length) :
    (lineChunk a l bs).row.data.extractLsb' (8 * p) 8 = (bs.getD (l + p - a) (0, false)).1 := by
  obtain ⟨hlt, hdig⟩ := lineData_digit (a := a) hl bs
  have hfit : ∀ n, n = 8 * 128 → lineData a l bs < 2 ^ n := by
    rintro _ rfl
    rw [pow_mul]
    exact Nat.lt_of_lt_of_le hlt (Nat.pow_le_pow_right (by decide) (min_le_left _ _))
  refine BitVec.eq_of_toNat_eq ?_
  rw [lineChunk_data, toNat_byte_ofNat (hfit _ rfl), hdig p hp, if_pos ⟨h1, h2⟩]

/-- A word of a line is written where one of the bytes lies in it. -/
theorem lineChunk_mask {w : Nat} (hw : w < 16) : (lineChunk a l bs).mask.getLsbD w = true ↔
    ∃ i, i < bs.length ∧ lineOf (a + i) = l ∧ (a + i) % 128 / 8 = w := by
  have hbit : (lineChunk a l bs).mask.getLsbD w =
      ((bs.zipIdx).filter fun e => lineOf (a + e.2) == l).any fun e => (a + e.2) % 128 / 8 == w && true := by
    unfold lineChunk
    dsimp only
    rw [BitVec.getLsbD_ofNat, testBit_foldr_bits]
    simp [List.getD_eq_getElem?_getD, hw]
  rw [hbit]
  simp only [Bool.and_true, List.any_eq_true, List.mem_filter, beq_iff_eq, Prod.exists, List.mem_zipIdx_iff_getElem?]
  constructor
  · rintro ⟨b, mark, i, ⟨hi, hline⟩, hword⟩
    exact ⟨i, (List.getElem?_eq_some_iff.mp hi).1, hline, hword⟩
  · rintro ⟨i, hi, hline, hword⟩
    exact ⟨bs[i].1, bs[i].2, i, ⟨List.getElem?_eq_getElem hi, hline⟩, hword⟩

/-! ### Whole words laid along a scratchpad (R154) -/

variable {s : State} (ha : a % 8 = 0) (hn : bs.length % 8 = 0)

/-- The state once the part of the bytes in one line is written. -/
def lineLaid (m a : Nat) (bs : List MByte) (s : State) (l : Nat) : State :=
  s.putSpadRow m l (lineChunk a l bs).row (lineChunk a l bs).mask

include ha hn in
theorem byte_lineLaid (hl : l % 128 = 0) (y : Nat) : Mem.byte (lineLaid m a bs s l).mem.spad (spadKey m y) =
    if lineOf y = l ∧ a ≤ y ∧ y < a + bs.length then (bs.getD (y - a) (0, false)).1 else Mem.byte s.mem.spad (spadKey m y) := by
  have hline : lineOf l = l := by
    unfold lineOf
    omega
  change Mem.byte (putRow s.mem.spad (spadKey m (lineOf l)) _ _) _ = _
  rw [hline, byte_putRow]
  by_cases hin : l ≤ y ∧ y < l + 128
  · have hkey : spadKey m y - spadKey m l = y - l := by
      unfold spadKey
      omega
    have hw : (y - l) / 8 < 16 := by omega
    have hmask : (lineChunk a l bs).mask.getLsbD ((y - l) / 8) = true ↔ a ≤ y ∧ y < a + bs.length := by
      rw [lineChunk_mask hw]
      constructor
      · rintro ⟨i, hi, hli, hword⟩
        have := (lineOf_eq_iff hl _).mp hli
        omega
      · rintro ⟨h1, h2⟩
        exact ⟨y - a, by omega, (lineOf_eq_iff hl _).mpr (by omega), by omega⟩
    by_cases hb : a ≤ y ∧ y < a + bs.length
    · have hat : l + (y - l) = y := by omega
      rw [hkey, if_pos ⟨by unfold spadKey; omega, by unfold spadKey; omega, hmask.mpr hb⟩,
        if_pos ⟨(lineOf_eq_iff hl y).mpr hin, hb⟩, lineChunk_byte hl (by omega) (by omega) (by omega), hat]
    · rw [hkey, if_neg fun h => hb (hmask.mp h.2.2), if_neg fun h => hb h.2]
  · rw [if_neg fun h => hin (by unfold spadKey at h; omega), if_neg fun h => hin ((lineOf_eq_iff hl y).mp h.1)]

/-- A byte of another memory unit, or below the scratchpads of this one, is left alone. -/
theorem byte_lineLaid_below {b : Nat} (hb : b < spadKey m 0) : Mem.byte (lineLaid m a bs s l).mem.spad b = Mem.byte s.mem.spad b := by
  change Mem.byte (putRow s.mem.spad (spadKey m (lineOf l)) _ _) _ = _
  refine byte_putRow_outside _ _ _ _ _ (.inl ?_)
  unfold spadKey at hb ⊢
  omega

include ha hn in
theorem byte_linesLaid (ls : List Nat) (hls : ∀ l ∈ ls, l % 128 = 0) (y : Nat) :
    Mem.byte (ls.foldl (lineLaid m a bs) s).mem.spad (spadKey m y) =
      if lineOf y ∈ ls ∧ a ≤ y ∧ y < a + bs.length then (bs.getD (y - a) (0, false)).1 else Mem.byte s.mem.spad (spadKey m y) := by
  induction ls generalizing s with
  | nil => simp
  | cons l ls ih =>
    rw [List.foldl_cons, ih fun x hx => hls x (List.mem_cons_of_mem _ hx), byte_lineLaid ha hn (hls l List.mem_cons_self)]
    by_cases h : a ≤ y ∧ y < a + bs.length
    · by_cases hl : lineOf y = l
      · simp [h, hl]
      · simp [h, hl]
    · simp [h]

theorem mem_linesOf {y n : Nat} (h1 : a ≤ y) (h2 : y < a + n) : lineOf y ∈ linesOf a n := by
  unfold linesOf lineOf
  rw [if_neg (by omega), List.mem_map]
  exact ⟨y / 128 - a / 128, by rw [List.mem_range]; omega, by omega⟩

theorem linesOf_aligned {n l : Nat} (h : l ∈ linesOf a n) : l % 128 = 0 := by
  unfold linesOf at h
  split at h
  · simp at h
  · obtain ⟨i, -, rfl⟩ := List.mem_map.mp h
    omega

theorem writeSpad_mem : (s.writeSpad m a bs).mem = ((linesOf a bs.length).foldl (lineLaid m a bs) s).mem := by
  rw [State.writeSpad, spadWritten_rest]
  rfl

include ha hn in
/-- After whole aligned words are written at an offset, each of their bytes stands in its place, and every other byte is as before. -/
theorem byte_writeSpad (b : Nat) : Mem.byte (s.writeSpad m a bs).mem.spad b =
    if spadKey m a ≤ b ∧ b < spadKey m a + bs.length then (bs.getD (b - spadKey m a) (0, false)).1 else Mem.byte s.mem.spad b := by
  rw [writeSpad_mem]
  by_cases hb : b < spadKey m 0
  · rw [if_neg fun h => by unfold spadKey at h hb; omega]
    exact foldl_keeps (fun t : State => Mem.byte t.mem.spad b = Mem.byte s.mem.spad b) _ _ _ rfl
      fun t l h => (byte_lineLaid_below hb).trans h
  · obtain ⟨y, rfl⟩ : ∃ y, b = spadKey m y := ⟨b - spadKey m 0, by unfold spadKey at hb ⊢; omega⟩
    have hoff : spadKey m y - spadKey m a = y - a := by
      unfold spadKey
      omega
    have hin : (spadKey m a ≤ spadKey m y ∧ spadKey m y < spadKey m a + bs.length) ↔ a ≤ y ∧ y < a + bs.length := by
      unfold spadKey
      omega
    rw [byte_linesLaid ha hn _ fun l => linesOf_aligned, hoff]
    refine if_congr ?_ rfl rfl
    rw [hin, and_iff_right_iff_imp]
    exact fun h => mem_linesOf h.1 h.2

/-- What of the state a write of the scratchpad leaves alone. -/
theorem writeSpad_rest : s.writeSpad m a bs = { s with
      rgns := (s.writeSpad m a bs).rgns, feed := (s.writeSpad m a bs).feed, mem := (s.writeSpad m a bs).mem } ∧
    (s.writeSpad m a bs).mem.dram = s.mem.dram := by
  obtain ⟨hrest, hdram⟩ : (linesOf a bs.length).foldl (lineLaid m a bs) s =
        { s with mem := ((linesOf a bs.length).foldl (lineLaid m a bs) s).mem } ∧
      ((linesOf a bs.length).foldl (lineLaid m a bs) s).mem.dram = s.mem.dram := by
    refine foldl_keeps (fun t : State => t = { s with mem := t.mem } ∧ t.mem.dram = s.mem.dram) _ _ _ ⟨rfl, rfl⟩ fun t l h => ?_
    obtain ⟨h1, h2⟩ := h
    refine ⟨?_, h2⟩
    conv_lhs => rw [h1]
    rfl
  rw [show s.writeSpad m a bs = ((linesOf a bs.length).foldl (lineLaid m a bs) s).spadWritten m a bs.length from rfl]
  generalize (linesOf a bs.length).foldl (lineLaid m a bs) s = q at hrest hdram
  rw [spadWritten_rest]
  obtain ⟨mem, hq⟩ : ∃ mem, q = { s with mem := mem } := ⟨_, hrest⟩
  subst hq
  exact ⟨rfl, hdram⟩

end

end Sys2Proof.Proofs
end

section
/-! PROOFS. A stream engine's only row on its way out: as a token, as a write of a line, or into the scratchpad. -/

namespace Sys2Proof.Proofs

open Sys2Proof Sys2Proof.Machine Sys2Proof.Laws

section

variable {s t q : State} {m e a : Nat} {d : Desc} {x : RowAddr}

/-! ### A scratchpad row that becomes a token (R161, R174) -/

/-- The only row of a list ends its tile where the tile is one row. -/
theorem dEnd_only (d : Desc) : dEnd d 0 = decide (dTile d = 1) := by
  have hpos : 1 ≤ dTile d := Nat.le_add_left _ _
  unfold dEnd
  by_cases h : dTile d = 1
  · simp [h]
  · have hmod : (0 + 1) % dTile d = 1 := Nat.mod_eq_of_lt (by omega)
    simp [h, hmod]

theorem decodeSpad_muWork {o n : Nat} : MuWork s (s.decodeSpad m o n) m := decodeSpad_tallied.muWork decodeSpad_fencesKept

theorem cmpRead_muWork : MuWork s (cmpRead s m e d x) m := decodeSpad_muWork.trans decodeSpad_muWork

theorem pushOut_muWork {y : Token} : MuWork s (s.pushOut m e d y) m := updEng_muWork rfl

/-- The state once an engine's row waits at its output as a token. -/
def rowPushed (s : State) (m e : Nat) (d : Desc) (x : RowAddr) : State :=
  (((cmpRead s m e d x).updEng m e fun g => { g with sstat := g.sstat ||| (cmpLoad s m e d x).2 }).pushOut m e d
    ⟨(cmpLoad s m e d x).1, decide (dTile d = 1)⟩).addRc m e 1

theorem rowPushed_muWork : MuWork s (rowPushed s m e d x) m :=
  ((cmpRead_muWork.trans (updEng_muWork rfl)).trans pushOut_muWork).trans addRc_muWork

theorem rowPushed_eng : (rowPushed s m e d x).eng m e = { s.eng m e with
    sstat := (s.eng m e).sstat ||| (cmpLoad s m e d x).2,
    outbuf := (s.eng m e).outbuf ++ [⟨(cmpLoad s m e d x).1, decide (dTile d = 1)⟩],
    cnt := FMap.set 0 (s.eng m e).cnt 10 (4 * dLink d + dChan d),
    rc := ((s.eng m e).rc + 1) % 2 ^ 32 } := by
  rw [rowPushed, addRc_one_eng, State.pushOut, eng_updEng, eng_updEng, cmpRead_tallied.eng]

section

variable (hat : (s.eng m e).atOnlyRow a d) (hf : s.formRow m (s.eng m e) d 0 = .row x) (hx : 0 < x.lanes) (hb : dBlock d = false)
include hat hf hx hb

theorem formNext_token (hk : dKind d = 2) : s.formNext m e = (rowClosed (rowPushed s m e d x) m e d, true) := by
  obtain ⟨hforms, hrow, hrows, hmark, hjobs, hout, hwq, -, -⟩ := onlyRow_forms hat
  have hscales : s.spadBytes m (128 * winLo (s.eng m e).win + x.b.toNat) (dScaleBytes d) = [] := by simp [dScaleBytes, hb, State.spadBytes]
  have hfree : (s.eng m e).outFree d = true := by simp [Eng.outFree, hjobs, hout, outRoom]
  have htakes : ¬ dTakes d = true := by simp [dTakes, hk]
  have hdev : ¬ dFromDev d = true := by simp [dFromDev, hk]
  have hlanes : x.lanes ≠ 0 := by omega
  have hclose : (rowPushed s m e d x).rowDone m e d = rowClosed (rowPushed s m e d x) m e d := by
    refine rowDone_closes ?_ (by omega) (by omega)
    rw [rowPushed_eng]
    exact (show (s.eng m e).rows d ≤ (s.eng m e).row + 1 by omega)
  rw [← hclose, rowPushed, ← dEnd_only]
  unfold State.formNext
  dsimp only
  rw [hforms.desc]
  dsimp only
  rw [hforms.awake, hrow, hrows, hmark, fillsAhead_none hjobs, hfree, hf]
  dsimp only
  rw [hk, if_neg Bool.false_ne_true, if_neg (by decide), if_neg (by simp), if_neg htakes, if_neg (by decide), if_neg hdev,
    if_pos rfl, if_pos rfl, if_neg hlanes, if_neg hlanes, hscales]
  rfl

/-- The token waits where its link has no credit. -/
theorem token_runs (hk : dKind d = 2) (hc : s.credit m (dLink d) (dChan d) = false) :
    s.engGo m e = rowClosed (rowPushed s m e d x) m e d := by
  obtain ⟨-, -, -, -, hclear⟩ := onlyRow_forms hat
  have hmove : s.engMove m e = (rowClosed (rowPushed s m e d x) m e d, true) := by
    rw [engMove_clear hclear, formNext_token hat hf hx hb hk]
  have heng := rowClosed_eng (s := rowPushed s m e d x) (m := m) (e := e) (d := d)
  have hwork : MuWork s (rowClosed (rowPushed s m e d x) m e d) m := rowPushed_muWork.trans rowClosed_muWork
  obtain ⟨hjobs, hout, hwq, -⟩ := hclear
  rw [rowPushed_eng] at heng
  generalize rowClosed (rowPushed s m e d x) m e d = t at heng hmove hwork
  have hheld : t.settleOut m e = none :=
    settleOut_held (link := dLink d) (chan := dChan d) (Nat.mod_lt _ (by decide)) (by rw [heng]; exact get_set_same _ _ _ _)
      ((hwork.sameWires.credit _ _).trans hc)
  have hstop : t.engMove m e = (t, false) := by
    rw [engMove_forms (by rw [heng]; exact hjobs) (by rw [heng]; exact hwq) hheld, formNext_none (by rw [heng])]
  rw [State.engGo, fuel_onlyRow hat, engRun_goes hmove, engRun_stops hstop]

end

/-! ### A line's write under a free tag (R161, R169, R175, R181) -/

/-- The row that waits for its line's write. -/
def writeJob (d : Desc) (a lanes l nth : Nat) : RowJob := ⟨d, 0, a, lanes, 0, 0, [⟨l, 64, none, false⟩], true, nth⟩

/-- Bytes that lie in one line are queued as its write. -/
theorem queueWrite_eng {lanes o l : Nat} {bs : List MByte} (hl : linesOf o bs.length = [l]) (hj : (s.eng m e).jobs = [])
    (hw : (s.eng m e).wq = []) : (s.queueWrite m e d 0 lanes o bs).eng m e =
      { s.eng m e with wq := [lineChunk o l bs], jobs := [writeJob d o lanes l (s.eng m e).nth] } := by
  rw [State.queueWrite, eng_updEng, hl, hj, hw]
  rfl

theorem queueWrite_muWork {row lanes o : Nat} {bs : List MByte} : MuWork s (s.queueWrite m e d row lanes o bs) m := by
  unfold State.queueWrite
  exact updEng_muWork rfl

/-- A row's request for a line that is sent under a tag. -/
def sentReq (c : LineWrite) (tg : Nat) (r : LineReq) : LineReq := if r.line == c.line && r.tag == 64 then { r with tag := tg } else r

theorem sentReq_acked (c : LineWrite) (tg : Nat) (r : LineReq) : (sentReq c tg r).acked = r.acked := by
  unfold sentReq
  split
  · rfl
  · rfl

/-- The engine as the write of a line leaves it. -/
def sentEng (c : LineWrite) (tg : Nat) (g : Eng) : Eng :=
  { g with
    wq := g.wq.filter fun x => x.line != c.line,
    jobs := g.jobs.map fun j => if j.write then { j with reqs := j.reqs.map (sentReq c tg) } else j }

/-- The state once a line's write is in flight. -/
def writeSent (s : State) (m e : Nat) (c : LineWrite) (tg : Nat) : State :=
  ((s.updMu m fun x => x.takeTag tg).updEng m e (sentEng c tg)).injectReq m c.line c.mask c.row tg

theorem writeSent_rest {c : LineWrite} {tg : Nat} : writeSent s m e c tg = { s with
    mus := ((s.updMu m fun x => x.takeTag tg).updEng m e (sentEng c tg)).mus, rgns := (writeSent s m e c tg).rgns,
    flits := s.flits ++ [s.muRequest m c.line tg c.mask c.row] } := by
  have hgens : count (((s.updMu m fun x => x.takeTag tg).updEng m e (sentEng c tg)).mu m).gens tg = (count (s.mu m).gens tg + 1) % 16 := by
    rw [mu_updEng, mu_updMu]
    exact takeTag_gens _ _
  conv_lhs => rw [writeSent, injectReq_rest (s := s) rfl hgens]
  rfl

theorem writeSent_eng {c : LineWrite} {tg : Nat} : (writeSent s m e c tg).eng m e = sentEng c tg (s.eng m e) := by
  rw [writeSent_rest]
  change ((s.updMu m fun x => x.takeTag tg).updEng m e (sentEng c tg)).eng m e = _
  rw [eng_updEng, eng_updMu]
  rfl

theorem MuWork.muRequest {l tg : Nat} {mask : BitVec 16} {row : Row} (h : MuWork s t m) :
    t.muRequest m l tg mask row = s.muRequest m l tg mask row := by
  have hslice : t.requestSlice = s.requestSlice := by
    rw [h.rest]
    rfl
  have hregion : t.regionOf m = s.regionOf m := regionOf_congr (by rw [h.rest]) m
  unfold State.muRequest
  rw [h.gens, hregion, hslice]

/-- A queued write is sent under a free tag, and the engine then waits for its acknowledgement. -/
theorem queued_runs {c : LineWrite} {lanes o l nth tg n : Nat} (hd : (q.eng m e).desc = none) (hw : (q.eng m e).wq = [c])
    (hj : (q.eng m e).jobs = [writeJob d o lanes l nth]) (hout : (q.eng m e).outbuf = []) (hfence : q.muFenced m = false)
    (ht : (q.mu m).freeTag e = some tg) : q.engRun m e (n + 2) = writeSent q m e c tg := by
  have hnext : q.nextWrite m e = some c := by simp [State.nextWrite, State.heldLine, hd, hw]
  have hsend : q.sendWrite m e = some (writeSent q m e c tg) := by
    simp only [State.sendWrite, hfence, hnext, ht, Bool.false_eq_true, if_false]
    rfl
  have hmove : q.engMove m e = (writeSent q m e c tg, true) := by
    have hack : q.settleWrite m e = none := by simp [State.settleWrite, hj, writeJob]
    have hread : q.settleRead m e = none := by simp [State.settleRead, hj, writeJob]
    simp only [State.engMove, hack, settleOut_empty hout, hread, hsend]
  have heng := writeSent_eng (s := q) (m := m) (e := e) (c := c) (tg := tg)
  generalize writeSent q m e c tg = t at heng hmove
  have hwq : (t.eng m e).wq = [] := by simp [heng, sentEng, hw]
  have hstop : t.engMove m e = (t, false) := by
    refine engMove_none (by rw [heng]; exact hd) ?_ (settleOut_empty (by rw [heng]; exact hout)) ?_ ?_
    · simp [State.settleWrite, heng, sentEng, hj, writeJob, sentReq_acked]
    · simp [State.settleRead, heng, sentEng, hj, writeJob]
    · simp [State.sendWrite, nextWrite_none hwq]
  rw [engRun_goes hmove, engRun_stops hstop]

/-- The state once an only row's bytes are queued as a line's write. -/
def rowQueued (p : State) (m e : Nat) (d : Desc) (lanes o : Nat) (bs : List MByte) : State :=
  rowClosed (p.queueWrite m e d 0 lanes o bs) m e d

/-- The run of an engine whose only row, once formed, is queued as a line's write. -/
theorem queuedRow_runs {p : State} {lanes o l tg : Nat} {bs : List MByte} (hat : (s.eng m e).atOnlyRow a d) (hwork : MuWork s p m)
    (hform : s.formNext m e = (rowQueued p m e d lanes o bs, true)) (hj : (p.eng m e).jobs = []) (hw : (p.eng m e).wq = [])
    (hout : (p.eng m e).outbuf = []) (hl : linesOf o bs.length = [l]) (hfence : s.muFenced m = false)
    (ht : (s.mu m).freeTag e = some tg) :
    s.engGo m e = writeSent (rowQueued p m e d lanes o bs) m e (lineChunk o l bs) tg := by
  obtain ⟨-, -, -, -, hclear⟩ := onlyRow_forms hat
  have hwork' : MuWork s (rowQueued p m e d lanes o bs) m := (hwork.trans queueWrite_muWork).trans rowClosed_muWork
  have heng := rowClosed_eng (s := p.queueWrite m e d 0 lanes o bs) (m := m) (e := e) (d := d)
  rw [queueWrite_eng hl hj hw, ← rowQueued] at heng
  have hmove : s.engMove m e = (rowQueued p m e d lanes o bs, true) := by rw [engMove_clear hclear, hform]
  rw [State.engGo, fuel_onlyRow hat, engRun_goes hmove]
  exact queued_runs (by rw [heng]) (by rw [heng]) (by rw [heng]) (by rw [heng]; exact hout) (hwork'.muFenced.trans hfence)
    (hwork'.freeTag.trans ht)

/-- What that run leaves: the request in flight, the memory as it was, and the descriptor gone. -/
theorem queuedRow_after {p : State} {lanes o l tg : Nat} {bs : List MByte} (hwork : MuWork s p m) :
    (writeSent (rowQueued p m e d lanes o bs) m e (lineChunk o l bs) tg).mem = s.mem ∧
    ((writeSent (rowQueued p m e d lanes o bs) m e (lineChunk o l bs) tg).eng m e).desc = none ∧
    ((writeSent (rowQueued p m e d lanes o bs) m e (lineChunk o l bs) tg).eng m e).inbuf = (p.eng m e).inbuf ∧
    (writeSent (rowQueued p m e d lanes o bs) m e (lineChunk o l bs) tg).flits =
      s.flits ++ [s.muRequest m l tg (lineChunk o l bs).mask (lineChunk o l bs).row] := by
  have hwork' : MuWork s (rowQueued p m e d lanes o bs) m := (hwork.trans queueWrite_muWork).trans rowClosed_muWork
  have heng := rowClosed_eng (s := p.queueWrite m e d 0 lanes o bs) (m := m) (e := e) (d := d)
  rw [← rowQueued] at heng
  have hin : ((p.queueWrite m e d 0 lanes o bs).eng m e).inbuf = (p.eng m e).inbuf := by rw [State.queueWrite, eng_updEng]
  refine ⟨?_, ?_, ?_, ?_⟩
  · rw [writeSent_rest]
    exact hwork'.sameWires.1
  · rw [writeSent_eng, heng]
    rfl
  · rw [writeSent_eng, heng]
    exact hin
  · rw [writeSent_rest]
    change (rowQueued p m e d lanes o bs).flits ++ [(rowQueued p m e d lanes o bs).muRequest m l tg _ _] = _
    rw [hwork'.muRequest, show (rowQueued p m e d lanes o bs).flits = s.flits by rw [hwork'.rest]]

/-- A command whose row is queued as a line's write sends it, and the engine's descriptor is done. -/
theorem queuedRow_stored {k : Nat} {p : State} {lanes o l tg : Nat} {bs : List MByte} (hk : k < 7) (hd : dKind d = k)
    (hat : (s.eng m e).atOnlyRow a d) (hwork : MuWork s p m) (hform : s.formNext m e = (rowQueued p m e d lanes o bs, true))
    (hclear : (s.eng m e).clear → (p.eng m e).clear) (hl : linesOf o bs.length = [l]) (hfence : s.muFenced m = false)
    (ht : (s.mu m).freeTag e = some tg) :
    ∃ t, exec (streamCmd k m e) s = .next t ∧ t.mem = s.mem ∧ (t.eng m e).desc = none ∧ (t.eng m e).inbuf = (p.eng m e).inbuf ∧
      t.flits = s.flits ++ [s.muRequest m l tg (lineChunk o l bs).mask (lineChunk o l bs).row] := by
  obtain ⟨hforms, -, -, -, hc⟩ := onlyRow_forms hat
  obtain ⟨hjobs, hout, hwq, -⟩ := hclear hc
  refine ⟨_, ?_, queuedRow_after (d := d) (lanes := lanes) hwork⟩
  rw [exec_streamCmd hk, stream_inHand hforms.desc hd, queuedRow_runs hat hwork hform hjobs hwq hout hl hfence ht]

/-- A scratchpad row of an SP → DEV copy, read and counted. -/
def copyRead (s : State) (m e : Nat) (d : Desc) (lanes : Nat) : State :=
  (s.addRc m e 1).decodeSpad m (128 * (winLo (s.eng m e).win + dRlo d)) (4 * lanes)

theorem copyRead_muWork {lanes : Nat} : MuWork s (copyRead s m e d lanes) m := addRc_muWork.trans decodeSpad_muWork

theorem copyRead_eng {lanes : Nat} : (copyRead s m e d lanes).eng m e = { s.eng m e with rc := ((s.eng m e).rc + 1) % 2 ^ 32 } := by
  rw [copyRead, decodeSpad_tallied.eng, addRc_one_eng]

/-! ### A token that a store takes (R174) -/

/-- The state once an engine has taken the one token of its input buffer. -/
def tokenTaken (s : State) (m e : Nat) : State := ((s.updEng m e fun g => { g with inbuf := [] }).progressAt m).levelEdge m e 1 0

theorem levelEdge_muWork {old new : Nat} : MuWork s (s.levelEdge m e old new) m := by
  have h : Tallied s (s.levelEdge m e old new) := by
    rw [levelEdge_regionsOnly.eq]
    rfl
  exact h.muWork levelEdge_fencesKept

theorem tokenTaken_muWork : MuWork s (tokenTaken s m e) m := ((updEng_muWork rfl).trans progressAt_muWork).trans levelEdge_muWork

theorem tokenTaken_eng : (tokenTaken s m e).eng m e = { s.eng m e with inbuf := [] } := by
  rw [tokenTaken, levelEdge_regionsOnly.eng, progressAt_tallied.eng, eng_updEng]

/-- The state in which a store's row has left its events. -/
def rowEvents (s : State) (m e : Nat) (ev : Ev) : State := s.updEng m e fun g => { g with sstat := g.sstat ||| ev }

theorem rowEvents_muWork {ev : Ev} : MuWork s (rowEvents s m e ev) m := updEng_muWork rfl

/-- A row of a store in a format without blocks: a row that goes to the scratchpad is counted, and its bytes are stored. -/
theorem storeRow_plain (hx : 0 < x.lanes) (hb : dBlock d = false) (r : Row) : s.storeRow m e d x r =
    (rowEvents (if dToDev d then s else s.addRc m e 1) m e (storePlain d r x.lanes).2).storeBytes m e d (s.eng m e).row x.lanes x.a.toNat
      (storePlain d r x.lanes).1 := by
  have hlanes : x.lanes ≠ 0 := by omega
  unfold State.storeRow
  dsimp only
  rw [hb, if_pos (show (!false) = true from rfl), if_neg hlanes]
  cases dToDev d with
  | true => simp [hlanes, rowEvents]
  | false => simp [rowEvents]

/-- An engine that has taken its token and left its events. -/
theorem tokenEvents_eng {ev : Ev} : (rowEvents (tokenTaken s m e) m e ev).eng m e =
    { s.eng m e with inbuf := [], sstat := (s.eng m e).sstat ||| ev } := by
  rw [rowEvents, eng_updEng, tokenTaken_eng]

theorem storeBytes_dev {row lanes off : Nat} {bs : List MByte} (h : dToDev d = true) :
    s.storeBytes m e d row lanes off bs = s.queueWrite m e d row lanes (winBase (s.eng m e).win (dDw d) + off) bs := if_pos h

theorem storeBytes_sp {row lanes off : Nat} {bs : List MByte} (h : dToDev d = false) :
    s.storeBytes m e d row lanes off bs = s.writeSpad m (128 * winLo (s.eng m e).win + off) bs := if_neg (by simp [h])

/-! ### A token stored to the scratchpad (R154, R161, R174, R176) -/

/-- The state once an engine's last write of a fill is granted and its descriptor has left it. -/
def fillClosed (s : State) (m e : Nat) (d : Desc) : State :=
  closeDesc ((s.nextRow m e).updMu m fun x => { x with sb := sbDone e ((s.nextRow m e).eng m e).nth x.sb }) m e d

theorem fillClosed_rest : fillClosed s m e d = { s with mus := (fillClosed s m e d).mus } := by
  rw [fillClosed, closeDesc_rest]
  rfl

theorem fillClosed_eng : (fillClosed s m e d).eng m e = { s.eng m e with
    st := .run, desc := none, row := 0, passed0 := false, passed1 := false, cmp := none,
    started := ((fillClosed s m e d).eng m e).started, queue := ((fillClosed s m e d).eng m e).queue,
    burst := ((fillClosed s m e d).eng m e).burst, burstAsk := ((fillClosed s m e d).eng m e).burstAsk } := by
  have hsb : ((s.nextRow m e).updMu m fun x => { x with sb := sbDone e ((s.nextRow m e).eng m e).nth x.sb }).eng m e =
      { s.eng m e with st := .run, row := (s.eng m e).row + 1 } := by
    rw [eng_updMu]
    exact nextRow_eng
  conv_lhs => rw [fillClosed, closeDesc_engRest, hsb]
  rfl

theorem rowDone_fills (hk : dKind d = 4) (hlast : (s.eng m e).rows d ≤ (s.eng m e).row + 1) : s.rowDone m e d = fillClosed s m e d := by
  have hres : resBeyond ((s.nextRow m e).eng m e).win d = false := by simp [resBeyond, hk]
  have h6 : (dKind d == 6) = false := by simp [hk]
  unfold State.rowDone
  dsimp only
  rw [if_pos (by rw [nextRow_eng]; exact hlast)]
  unfold State.endDesc
  dsimp only
  rw [hres, if_neg Bool.false_ne_true, if_pos hk, h6]
  rfl

/-- The state in which a fill's row has been taken and counted. -/
def fillTaken (s : State) (m e : Nat) (ev : Ev) : State := rowEvents ((tokenTaken s m e).addRc m e 1) m e ev

theorem fillTaken_muWork {ev : Ev} : MuWork s (fillTaken s m e ev) m := (tokenTaken_muWork.trans addRc_muWork).trans rowEvents_muWork

theorem fillTaken_eng {ev : Ev} : (fillTaken s m e ev).eng m e =
    { s.eng m e with inbuf := [], rc := ((s.eng m e).rc + 1) % 2 ^ 32, sstat := (s.eng m e).sstat ||| ev } := by
  rw [fillTaken, rowEvents, eng_updEng, addRc_one_eng, tokenTaken_eng]

/-- The state once a fill's row stands in the scratchpad. -/
def rowFilled (s : State) (m e : Nat) (d : Desc) (x : RowAddr) (y : Token) : State :=
  (fillTaken s m e (storePlain d y.row x.lanes).2).writeSpad m (128 * winLo (s.eng m e).win + x.a.toNat) (storePlain d y.row x.lanes).1

theorem rowFilled_eng {y : Token} : (rowFilled s m e d x y).eng m e =
    { s.eng m e with inbuf := [], rc := ((s.eng m e).rc + 1) % 2 ^ 32, sstat := (s.eng m e).sstat ||| (storePlain d y.row x.lanes).2 } := by
  rw [← fillTaken_eng]
  refine eng_congr ?_
  rw [rowFilled, writeSpad_rest.1]

/-! ### The row formed (R161, R174, R175) -/

section

variable (hat : (s.eng m e).atOnlyRow a d) (hf : s.formRow m (s.eng m e) d 0 = .row x)
include hat hf

theorem formNext_copy (hx : 0 < x.lanes) (hk : dKind d = 3) : s.formNext m e = (rowQueued (copyRead s m e d x.lanes) m e d x.lanes
    (winBase (s.eng m e).win (dDw d) + x.a.toNat)
    (storePlain d (s.spadRow m (128 * (winLo (s.eng m e).win + dRlo d))) x.lanes).1, true) := by
  obtain ⟨hforms, hrow, hrows, hmark, hjobs, hout, hwq, -, -⟩ := onlyRow_forms hat
  have htakes : ¬ dTakes d = true := by simp [dTakes, hk]
  have hlanes : x.lanes ≠ 0 := by omega
  rw [rowQueued, ← rowDone_closes ?_ (by omega) (by omega)]
  · unfold State.formNext
    dsimp only
    rw [hforms.desc]
    dsimp only
    rw [hforms.awake, hrow, hrows, hmark, fillsAhead_none hjobs, hf]
    dsimp only
    rw [if_neg Bool.false_ne_true, if_neg (by decide), if_neg (by simp), if_neg htakes, if_pos hk, nextWrite_none hwq, if_neg (by simp),
      if_neg hlanes]
    rfl
  · rw [State.queueWrite, eng_updEng, copyRead_eng]
    exact (show (s.eng m e).rows d ≤ (s.eng m e).row + 1 by omega)

theorem formNext_takes {y : Token} (hk : dTakes d = true) (hin : (s.eng m e).inbuf = [y]) (hfin : y.fin = decide (dTile d = 1)) :
    s.formNext m e = (((tokenTaken s m e).storeRow m e d x y.row).rowDone m e d, true) := by
  obtain ⟨hforms, hrow, hrows, hmark, hjobs, hout, hwq, -, -⟩ := onlyRow_forms hat
  unfold State.formNext
  dsimp only
  rw [hforms.desc]
  dsimp only
  rw [hforms.awake, hrow, hrows, hmark, fillsAhead_none hjobs, hf, hin]
  dsimp only
  rw [if_neg Bool.false_ne_true, if_neg (by decide), if_neg (by simp), if_pos hk, nextWrite_none hwq, if_neg (by simp), dEnd_only, hfin,
    if_neg (by simp)]
  rfl

theorem formNext_linkToDev {y : Token} (hx : 0 < x.lanes) (hk : dKind d = 5) (hb : dBlock d = false) (hin : (s.eng m e).inbuf = [y])
    (hfin : y.fin = decide (dTile d = 1)) : s.formNext m e =
      (rowQueued (rowEvents (tokenTaken s m e) m e (storePlain d y.row x.lanes).2) m e d x.lanes
        (winBase (s.eng m e).win (dDw d) + x.a.toNat) (storePlain d y.row x.lanes).1, true) := by
  obtain ⟨-, hrow, hrows, -⟩ := onlyRow_forms hat
  have heng := tokenEvents_eng (s := s) (m := m) (e := e) (ev := (storePlain d y.row x.lanes).2)
  have hdev : dToDev d = true := by simp [dToDev, hk]
  have hstore : (tokenTaken s m e).storeRow m e d x y.row =
      (rowEvents (tokenTaken s m e) m e (storePlain d y.row x.lanes).2).queueWrite m e d 0 x.lanes
        (winBase (s.eng m e).win (dDw d) + x.a.toNat) (storePlain d y.row x.lanes).1 := by
    rw [storeRow_plain hx hb, if_pos hdev, storeBytes_dev hdev, heng, tokenTaken_eng]
    dsimp only
    rw [hrow]
    rfl
  rw [formNext_takes hat hf (by simp [dTakes, hk]) hin hfin, hstore, rowQueued, rowDone_closes ?_ (by omega) (by omega)]
  rw [State.queueWrite, eng_updEng, heng]
  exact (show (s.eng m e).rows d ≤ (s.eng m e).row + 1 by omega)

theorem linkToSp_runs {y : Token} (hx : 0 < x.lanes) (hk : dKind d = 4) (hb : dBlock d = false) (hin : (s.eng m e).inbuf = [y])
    (hfin : y.fin = decide (dTile d = 1)) : s.engGo m e = fillClosed (rowFilled s m e d x y) m e d := by
  obtain ⟨-, hrow, hrows, -, hclear⟩ := onlyRow_forms hat
  have hdev : dToDev d = false := by simp [dToDev, hk]
  have hstore : (tokenTaken s m e).storeRow m e d x y.row = rowFilled s m e d x y := by
    have heng := fillTaken_eng (s := s) (m := m) (e := e) (ev := (storePlain d y.row x.lanes).2)
    rw [storeRow_plain hx hb, hdev, if_neg Bool.false_ne_true, storeBytes_sp hdev, ← fillTaken, heng]
    rfl
  have hmove : s.engMove m e = (fillClosed (rowFilled s m e d x y) m e d, true) := by
    rw [engMove_clear hclear, formNext_takes hat hf (by simp [dTakes, hk]) hin hfin, hstore, rowDone_fills hk]
    rw [rowFilled_eng]
    exact (show (s.eng m e).rows d ≤ (s.eng m e).row + 1 by omega)
  have heng := fillClosed_eng (s := rowFilled s m e d x y) (m := m) (e := e) (d := d)
  obtain ⟨hjobs, hout, hwq, -⟩ := hclear
  rw [rowFilled_eng] at heng
  generalize fillClosed (rowFilled s m e d x y) m e d = t at heng hmove
  have hstop : t.engMove m e = (t, false) := by
    rw [engMove_forms (by rw [heng]; exact hjobs) (by rw [heng]; exact hwq) (settleOut_empty (by rw [heng]; exact hout)),
      formNext_none (by rw [heng])]
  rw [State.engGo, fuel_onlyRow hat, engRun_goes hmove, engRun_stops hstop]

end

/-! ### Whole words -/

theorem dWidth_even (d : Desc) : dWidth d % 2 = 0 := by
  unfold dWidth
  split
  · rfl
  · split
    all_goals rfl

theorem storePlain_length (d : Desc) (r : Row) (n : Nat) : (storePlain d r n).1.length = (min n 32 * dWidth d + 7) / 8 := by
  simp [storePlain, packElems, Row.lanes]

/-- A row of whole words is stored as whole words. -/
theorem storePlain_words (r : Row) {n : Nat} (h : dWidth d * n % 64 = 0) : (storePlain d r n).1.length % 8 = 0 := by
  have heven := dWidth_even d
  rw [storePlain_length]
  rcases Nat.le_total n 32 with hn | hn
  · rw [min_eq_left hn, Nat.mul_comm]
    omega
  · rw [min_eq_right hn]
    omega

/-- What a fill's row leaves once its descriptor is done: its bytes stand in the scratchpad, and no other byte has changed. -/
theorem fillClosed_after {y : Token} (ha : x.a.toNat % 8 = 0) (hw : dWidth d * x.lanes % 64 = 0) :
    (fillClosed (rowFilled s m e d x y) m e d).mem.dram = s.mem.dram ∧ (fillClosed (rowFilled s m e d x y) m e d).flits = s.flits ∧
    ∀ b, Mem.byte (fillClosed (rowFilled s m e d x y) m e d).mem.spad b =
      if spadKey m (128 * winLo (s.eng m e).win + x.a.toNat) ≤ b ∧
          b < spadKey m (128 * winLo (s.eng m e).win + x.a.toNat) + (storePlain d y.row x.lanes).1.length
      then ((storePlain d y.row x.lanes).1.getD (b - spadKey m (128 * winLo (s.eng m e).win + x.a.toNat)) (0, false)).1
      else Mem.byte s.mem.spad b := by
  have hmem : (fillTaken s m e (storePlain d y.row x.lanes).2).mem = s.mem := fillTaken_muWork.sameWires.1
  have hbytes := byte_writeSpad (s := fillTaken s m e (storePlain d y.row x.lanes).2) (m := m)
    (a := 128 * winLo (s.eng m e).win + x.a.toNat) (by omega) (storePlain_words y.row hw)
  rw [← rowFilled, hmem] at hbytes
  refine ⟨?_, ?_, ?_⟩
  · rw [fillClosed_rest]
    exact writeSpad_rest.2.trans (congrArg MemSt.dram hmem)
  · rw [fillClosed_rest, rowFilled, writeSpad_rest.1]
    change (fillTaken s m e (storePlain d y.row x.lanes).2).flits = _
    rw [fillTaken_muWork.rest]
  · rw [fillClosed_rest]
    exact hbytes

end

/-- Settles O29: each kind's run, and what its last state holds. -/
theorem streamRowsStored : Obligations.StreamRowsStored := by
  refine ⟨fun m e a d x s hk hb hat hf hx hc => ?_,
    fun m e a l tg d x s hb hat hfence hf hx ht => ⟨fun hk hl => ?_, fun y hk hin hfin hl => ?_⟩,
    fun m e a d x y s hk hb hat hf hx ha hw hin hfin => ?_⟩
  · have hex := exec_streamCmd (s := s) (m := m) (e := e) (show 2 < 7 by decide)
    rw [stream_inHand hat.1 hk, token_runs hat hf hx hb hk hc] at hex
    have hwork : MuWork s (rowClosed (rowPushed s m e d x) m e d) m := rowPushed_muWork.trans rowClosed_muWork
    have heng := rowClosed_eng (s := rowPushed s m e d x) (m := m) (e := e) (d := d)
    rw [rowPushed_eng, atOnlyRow_outbuf hat, List.nil_append] at heng
    generalize rowClosed (rowPushed s m e d x) m e d = t at hex hwork heng
    refine ⟨t, hex, hwork.sameWires.1, ?_, ?_, ?_, by rw [heng]; rfl, by rw [heng], by rw [heng]⟩
    · rw [hwork.rest]
    · rw [hwork.rest]
    · rw [hwork.rest]
  · obtain ⟨t, hex, hmem, hdesc, -, hflits⟩ := queuedRow_stored (k := 3) (by decide) hk hat copyRead_muWork (formNext_copy hat hf hx hk)
      (fun hc => by rw [copyRead_eng]; exact hc) hl hfence ht
    exact ⟨t, hex, hmem, hdesc, hflits⟩
  · obtain ⟨t, hex, hmem, hdesc, hinbuf, hflits⟩ := queuedRow_stored (k := 5) (by decide) hk hat (tokenTaken_muWork.trans rowEvents_muWork)
      (formNext_linkToDev hat hf hx hk hb hin hfin) (fun hc => by rw [tokenEvents_eng]; exact hc) hl hfence ht
    exact ⟨t, hex, hmem, hdesc, hinbuf.trans (by rw [tokenEvents_eng]), hflits⟩
  · have hex := exec_streamCmd (s := s) (m := m) (e := e) (show 4 < 7 by decide)
    rw [stream_inHand hat.1 hk, linkToSp_runs hat hf hx hk hb hin hfin] at hex
    obtain ⟨hdram, hflits, hbytes⟩ := fillClosed_after (s := s) (m := m) (e := e) (y := y) ha hw
    have heng := fillClosed_eng (s := rowFilled s m e d x y) (m := m) (e := e) (d := d)
    rw [rowFilled_eng] at heng
    refine ⟨_, hex, hdram, hflits, by rw [heng], by rw [heng], by rw [heng], fun i hi => ?_, fun b hb => ?_⟩
    · have hoff : spadKey m (128 * winLo (s.eng m e).win + x.a.toNat + i) = spadKey m (128 * winLo (s.eng m e).win + x.a.toNat) + i :=
        (Nat.add_assoc _ _ _).symm
      rw [hbytes, hoff, if_pos ⟨Nat.le_add_right _ _, Nat.add_lt_add_left hi _⟩, Nat.add_sub_cancel_left]
    · rw [hbytes, if_neg (by omega)]

end Sys2Proof.Proofs
end

section
/-! PROOFS. Staged tables: the four commits, what each brings into force at its boundary, and the grid change. -/

namespace Sys2Proof.Proofs

open Sys2Proof Sys2Proof.Machine Sys2Proof.Laws

section

variable {s t v : State}

/-! ### Folds -/

/-- Where a step settles something for its own element and leaves it settled for the others, a fold settles it for each. -/
theorem foldl_each {α β : Type} {p : α → β → Prop} {f : β → α → β} {l : List α} {x : α} (hset : ∀ b x, p x (f b x))
    (hkeep : ∀ b y x, p x b → p x (f b y)) (hx : x ∈ l) (b : β) : p x (l.foldl f b) := by
  induction l generalizing b with
  | nil => simp at hx
  | cons y l ih =>
    rcases List.mem_cons.mp hx with rfl | hx
    · exact foldl_keeps (p x) f l _ (hset b x) fun b y => hkeep b y x
    · exact ih hx _

/-! ### A commit is validated (R565, R570) -/

theorem ctlResult_refused {a : Nat} {z : Nat × Nat} (h : z.1 ≠ 0) :
    (s.ctlResult a z).reg a = BitVec.ofNat 64 (16 * z.1 + 256 * z.2) := by
  rw [State.ctlResult, reg_setReg_same, if_neg h]
  congr 1
  omega

theorem ctlResult_accepted {a : Nat} {z : Nat × Nat} (h : z.1 = 0) :
    (s.ctlResult a z).ctlBusy a = true ∧ ((s.ctlResult a z).reg a).bits 7 4 = 0 := by
  rw [State.ctlBusy, State.ctlResult, reg_setReg_same, if_pos h, h]
  constructor
  · rw [W64.bit, BitVec.getLsbD_ofNat, Nat.testBit_eq_decide_div_mod_eq]
    simp
    omega
  · rw [W64.bits, BitVec.toNat_ofNat, Nat.shiftRight_eq_div_pow]
    omega

/-- What a commit does: nothing while its table is busy; else it shows what the validation found, and an accepted one pends. -/
theorem commit_outcome {i : Instr} {a : Nat} {z : Nat × Nat} {p : Pending} (ho : s.pfOpen a = true)
    (hex : exec i s = s.pfWrite a (if s.ctlBusy a then s
      else if z.1 = 0 then { s.ctlResult a z with pend := p } else s.ctlResult a z)) :
    (s.ctlBusy a = true → exec i s = .next s) ∧
    (s.ctlBusy a = false →
      (z.1 ≠ 0 → ∃ t, exec i s = .next t ∧ t = { s with regs := t.regs } ∧ t.reg a = BitVec.ofNat 64 (16 * z.1 + 256 * z.2)) ∧
      (z.1 = 0 → ∃ t, exec i s = .next t ∧ t = { s with regs := t.regs, pend := p } ∧ t.ctlBusy a = true ∧ (t.reg a).bits 7 4 = 0)) := by
  rw [pfWrite_open ho] at hex
  refine ⟨fun hb => ?_, fun hb => ⟨fun hz => ?_, fun hz => ?_⟩⟩
  · rw [hex, if_pos hb]
  · rw [hb, if_neg Bool.false_ne_true, if_neg hz] at hex
    exact ⟨_, hex, rfl, ctlResult_refused hz⟩
  · rw [hb, if_neg Bool.false_ne_true, if_pos hz] at hex
    exact ⟨_, hex, rfl, ctlResult_accepted (s := s) hz⟩

theorem ctlBusy_ctlIdle (a : Nat) : (s.ctlIdle a).ctlBusy a = false := by
  rw [State.ctlBusy, State.ctlIdle, bit_setRegBits s a (le_refl 1) (by decide), if_pos ⟨le_refl 1, le_refl 1⟩, Nat.zero_testBit]

/-- What is due at a figure boundary waits for one, and does nothing where nothing is accepted. -/
theorem apply_waits {i : Instr} {b : State} {α : Type} {p : Option α}
    (hex : exec i s = .next (if s.onFigure s.time.now then b else s)) (hn : p = none → b = s)
    (h : p = none ∨ s.onFigure s.time.now = false) : exec i s = .next s := by
  rw [hex]
  rcases h with h | h
  · rw [hn h, ite_self]
  · rw [h, if_neg Bool.false_ne_true]

/-! ### Schedule ranges come into force (R262, R263) -/

theorem mem_del (l : NatSet) (k i : Nat) : NatSet.mem (NatSet.del l k) i = (NatSet.mem l i && decide (i ≠ k)) := by
  rw [Bool.eq_iff_iff]
  simp [NatSet.mem, NatSet.del, and_comm]

/-- Bank A made active for each region of a list. -/
def banksOff (s : State) (l : List Nat) : State := l.foldl (fun s r => s.selectBank r false) s

theorem banksOff_rest (l : List Nat) :
    banksOff s l = { s with cfg := { s.cfg with bankB := (banksOff s l).cfg.bankB }, regs := (banksOff s l).regs } :=
  foldl_keeps (fun t : State => t = { s with cfg := { s.cfg with bankB := t.cfg.bankB }, regs := t.regs }) _ l s rfl fun t r h => by
    conv_lhs => rw [h]
    rfl

theorem bankOf_selectBank (r q : Nat) : (s.selectBank r false).bankOf q = if q = r then 0 else s.bankOf q := by
  change (if NatSet.mem (NatSet.del s.cfg.bankB r) q then 1 else 0) = _
  rw [mem_del, State.bankOf]
  by_cases h : q = r
  · simp [h]
  · simp [h]

theorem bankOf_banksOff (l : List Nat) (q : Nat) : (banksOff s l).bankOf q = if q ∈ l then 0 else s.bankOf q := by
  induction l generalizing s with
  | nil => rfl
  | cons r l ih =>
    rw [banksOff, List.foldl_cons]
    refine Eq.trans ih ?_
    rw [bankOf_selectBank]
    by_cases hl : q ∈ l
    · simp [hl]
    · simp [hl]

theorem reg_banksOff (l : List Nat) {o : Nat} (h : ∀ k, o ≠ aBanksel k) : (banksOff s l).reg o = s.reg o :=
  foldl_keeps (fun t : State => t.reg o = s.reg o) _ l s rfl fun t r ht => by
    rw [State.selectBank, setRegBits_eq, reg_setReg, if_neg (h _)]
    exact ht

/-- The regions whose range a staged table changes. -/
def movedRanges (s : State) (a : FMap W64) : List Nat := (List.range 256).filter fun r => allotRange a r != s.allotOf r

theorem mem_movedRanges {a : FMap W64} {r : Nat} (hr : r < 256) : r ∈ movedRanges s a ↔ allotRange a r ≠ s.allotOf r := by
  simp [movedRanges, hr]

/-- The staged ranges in force. -/
def rangesSet (s : State) (a : FMap W64) : State :=
  ({ s with cfg := { s.cfg with allot := a }, pend := { s.pend with allot := none } } : State).ctlIdle aAllotCtl

theorem applyAllot_some {a : FMap W64} (h : s.pend.allot = some a) : s.applyAllot = banksOff (rangesSet s a) (movedRanges s a) := by
  simp only [State.applyAllot, h]
  rfl

theorem allotApply_applies {a : FMap W64} (h : s.pend.allot = some a) (hf : s.onFigure s.time.now = true) :
    ∃ t, exec .allotApply s = .next t ∧ t.pend = { s.pend with allot := none } ∧ t.ctlBusy aAllotCtl = false ∧ t.mem = s.mem ∧
      ∀ r, r < 256 → t.allotOf r = allotRange a r ∧ t.bankOf r = if allotRange a r = s.allotOf r then s.bankOf r else 0 := by
  have hex : exec .allotApply s = .next (if s.onFigure s.time.now then s.applyAllot else s) := rfl
  have hrest := banksOff_rest (s := rangesSet s a) (movedRanges s a)
  have hbank := bankOf_banksOff (s := rangesSet s a) (movedRanges s a)
  have hctl : (banksOff (rangesSet s a) (movedRanges s a)).ctlBusy aAllotCtl = false := by
    rw [State.ctlBusy, reg_banksOff _ fun k => by simp only [aAllotCtl, aBanksel]; omega]
    exact ctlBusy_ctlIdle _
  rw [hf, if_pos rfl, applyAllot_some h] at hex
  generalize banksOff (rangesSet s a) (movedRanges s a) = t at hex hrest hbank hctl
  refine ⟨t, hex, by rw [hrest]; rfl, hctl, by rw [hrest]; rfl, fun r hr => ⟨by rw [hrest]; rfl, ?_⟩⟩
  rw [hbank]
  by_cases he : allotRange a r = s.allotOf r
  · rw [if_neg (by simp [mem_movedRanges hr, he]), if_pos he]
    rfl
  · rw [if_pos ((mem_movedRanges hr).mpr he), if_neg he]

/-! ### Rings come into force (R341) -/

theorem fnringApply_applies {m : FMap W64} (h : s.pend.fnring = some m) (hf : s.onFigure s.time.now = true) :
    ∃ t, exec .fnringApply s = .next t ∧ t.ctlBusy aFnringCtl = false ∧
      t = { s with cfg := { s.cfg with fnring := m }, pend := { s.pend with fnring := none }, regs := t.regs } := by
  have hex : exec .fnringApply s = .next (if s.onFigure s.time.now then s.applyRings else s) := rfl
  rw [hf, if_pos rfl] at hex
  simp only [State.applyRings, h] at hex
  exact ⟨_, hex, ctlBusy_ctlIdle _, rfl⟩

/-! ### The partition map comes into force (R194, R393, R531, R535) -/

/-- A scratchpad byte after the units that a test picks are filled with zeros. -/
theorem byte_zeroSpad (p : Nat → Bool) (b : Nat) :
    Mem.byte (s.zeroSpad p).mem.spad b = if p (b / 2 ^ 19) then 0 else Mem.byte s.mem.spad b := by
  have h := get_filter (0 : Byte) s.mem.spad (fun k => !p (k / 2 ^ 19)) b
  refine Eq.trans h ?_
  cases p (b / 2 ^ 19)
  · rfl
  · rfl

/-- Only trace rings in force, registers, the error log, the regions, the memories and the slices differ; the scratchpads are as they
were. -/
structure PartWork (s t : State) : Prop where
  rest : t = { s with cfg := { s.cfg with trc0 := t.cfg.trc0, trc1 := t.cfg.trc1 }, regs := t.regs, log := t.log, rgns := t.rgns,
                      mem := t.mem, slices := t.slices }
  spad : t.mem.spad = s.mem.spad

theorem PartWork.trans (a : PartWork s t) (b : PartWork t v) : PartWork s v where
  rest := Eq.trans b.rest (by conv_lhs => rw [a.rest])
  spad := b.spad.trans a.spad

theorem LineWork.partWork (a : LineWork s t) : PartWork s t where
  rest := Eq.trans a.rest (by rw [a.rest])
  spad := a.spad

theorem ite_partWork {p : Prop} [Decidable p] {a b : State} (ha : PartWork s a) (hb : PartWork s b) : PartWork s (if p then a else b) := by
  split
  · exact ha
  · exact hb

theorem PartWork.refl : PartWork s s := ⟨rfl, rfl⟩

theorem setReg_partWork {o : Nat} {x : W64} : PartWork s (s.setReg o x) := ⟨rfl, rfl⟩

theorem updRgn_partWork {r : Nat} {f : Region → Region} : PartWork s (s.updRgn r f) := ⟨rfl, rfl⟩

theorem clearObs_partWork {r : Nat} : PartWork s (s.clearObs r) := by
  unfold State.clearObs
  extract_lets src s1 s2
  have h1 : PartWork s s1 := ⟨rfl, rfl⟩
  have h2 : PartWork s1 s2 := setReg_partWork.trans setReg_partWork
  exact (h1.trans h2).trans updRgn_partWork

theorem trcOff_partWork {r : Nat} : PartWork s (s.trcOff r) := by
  unfold State.trcOff
  extract_lets w src
  have h1 : PartWork s { s with cfg := { s.cfg with trc0 := FMap.set (pfReset (aObsTrc r 0)) s.cfg.trc0 r w } } := ⟨rfl, rfl⟩
  exact h1.trans setReg_partWork

theorem flushLines_lineWork {i : Nat} {p : Line → Bool} : LineWork s (s.flushLines i p) := by
  unfold State.flushLines
  exact (foldl_lineWork fun _ _ => ite_lineWork writeBack_lineWork .refl).trans updSlice_lineWork

theorem flushLost_lineWork : LineWork s s.flushLost := foldl_lineWork fun _ _ => flushLines_lineWork

/-- The tables of an accepted map in force. -/
def mapSet (s : State) (p : PartTables) : State :=
  { s with cfg := { s.cfg with part0 := p.part0, part1 := p.part1, tdiv0 := p.tdiv0, tdiv1 := p.tdiv1 }, pend := { s.pend with part := none } }

/-- The owner of the region that holds a unit. -/
def unitOwner (s : State) (u : Nat) : Option Nat := (s.regionOf u).map fun r => partOwner (s.part0 r)

/-- The MUs that a map takes from their region or from its owner. -/
def unitMoves (s t : State) (m : Nat) : Bool :=
  (s.regionOf m).isSome && (s.regionOf m != t.regionOf m || unitOwner s m != unitOwner t m)

theorem unitMoves_of_owner {m r : Nat} (h : s.regionOf m = some r) (ho : unitOwner t m ≠ some (partOwner (s.part0 r))) :
    unitMoves s t m = true := by
  have hs : unitOwner s m = some (partOwner (s.part0 r)) := by rw [unitOwner, h, Option.map_some]
  simp [unitMoves, h, hs, bne_iff_ne, ho.symm]

theorem applyPart_some {p : PartTables} (h : s.pend.part = some p) :
    ∃ t, PartWork ((mapSet s p).zeroSpad (unitMoves s (mapSet s p))) t ∧ s.applyPart = t.ctlIdle aPartCtl := by
  unfold State.applyPart
  split
  next hn => exact nomatch hn.symm.trans h
  next q hq =>
    obtain rfl : p = q := Option.some.inj (h.symm.trans hq)
    extract_lets old cfg pend s1 owner s2 s3 gone s4 blank s5
    have h3 : PartWork s2 s3 := flushLost_lineWork.partWork
    have h4 : PartWork s3 s4 := ⟨rfl, rfl⟩
    have h5 : PartWork s4 s5 := foldl_keeps (PartWork s4) _ _ _ .refl fun a r ha => ha.trans
      (ite_partWork .refl (ite_partWork ((ite_partWork clearObs_partWork trcOff_partWork).trans updRgn_partWork)
        (ite_partWork clearObs_partWork trcOff_partWork)))
    exact ⟨s5, (h3.trans h4).trans h5, rfl⟩

theorem partitionApply_applies {p : PartTables} (h : s.pend.part = some p) (hf : s.onFigure s.time.now = true) :
    ∃ t, exec .partitionApply s = .next t ∧ t.pend = { s.pend with part := none } ∧ t.ctlBusy aPartCtl = false ∧
      t.cfg.part0 = p.part0 ∧ t.cfg.part1 = p.part1 ∧ t.cfg.tdiv0 = p.tdiv0 ∧ t.cfg.tdiv1 = p.tdiv1 ∧ t.cfg.map = s.cfg.map ∧
      ∀ b r, s.regionOf (b / 2 ^ 19) = some r →
        ((t.regionOf (b / 2 ^ 19)).map fun q => partOwner (t.part0 q)) ≠ some (partOwner (s.part0 r)) → Mem.byte t.mem.spad b = 0 := by
  have hex : exec .partitionApply s = .next (if s.onFigure s.time.now then s.applyPart else s) := rfl
  obtain ⟨t, ht, ha⟩ := applyPart_some h
  rw [hf, if_pos rfl, ha] at hex
  refine ⟨_, hex, ?_, ctlBusy_ctlIdle _, ?_, ?_, ?_, ?_, ?_, fun b r hr ho => ?_⟩
  · change t.pend = _
    rw [ht.rest]
    rfl
  · change t.cfg.part0 = _
    rw [ht.rest]
    rfl
  · change t.cfg.part1 = _
    rw [ht.rest]
    rfl
  · change t.cfg.tdiv0 = _
    rw [ht.rest]
    rfl
  · change t.cfg.tdiv1 = _
    rw [ht.rest]
    rfl
  · change t.cfg.map = _
    rw [ht.rest]
    rfl
  · change unitOwner t (b / 2 ^ 19) ≠ _ at ho
    have hown : unitOwner t (b / 2 ^ 19) = unitOwner (mapSet s p) (b / 2 ^ 19) := by rw [ht.rest]; rfl
    rw [hown] at ho
    change Mem.byte t.mem.spad b = 0
    rw [ht.spad, byte_zeroSpad, if_pos (unitMoves_of_owner hr ho)]

/-! ### The function address map comes into force (R378, R394) -/

/-- What a list of stretches leaves of a stretch holds each address that is in none of them. -/
theorem mem_cutSpan {l : List (Nat × Nat)} {a n x : Nat} (ha : a ≤ x) (hn : x < a + n) (hl : ∀ y ∈ l, x < y.1 ∨ y.1 + y.2 ≤ x) :
    ∃ y ∈ cutSpan l a n, y.1 ≤ x ∧ x < y.1 + y.2 := by
  induction l generalizing a n with
  | nil =>
    rw [cutSpan, if_neg (by omega)]
    exact ⟨(a, n), List.mem_singleton.mpr rfl, ha, hn⟩
  | cons z l ih =>
    obtain ⟨b, k⟩ := z
    have hrest : ∀ y ∈ l, x < y.1 ∨ y.1 + y.2 ≤ x := fun y hy => hl y (List.mem_cons_of_mem _ hy)
    rw [cutSpan]
    split
    · next hov =>
      simp only [overlaps, Bool.and_eq_true, decide_eq_true_eq] at hov
      rcases hl (b, k) (List.mem_cons_self ..) with hx | hx
      · obtain ⟨y, hy, hin⟩ := ih ha (show x < a + (b - a) by dsimp only at hx; omega) hrest
        exact ⟨y, List.mem_append_left _ hy, hin⟩
      · obtain ⟨y, hy, hin⟩ := ih (a := max a (b + k)) (n := a + n - (b + k)) (by dsimp only at hx; omega) (by dsimp only at hx; omega) hrest
        exact ⟨y, List.mem_append_right _ hy, hin⟩
    · exact ih ha hn hrest

theorem zeroDram_rest (a n : Nat) : s.zeroDram a n = { s with mem := (s.zeroDram a n).mem, slices := (s.zeroDram a n).slices } := rfl

theorem byte_zeroDram (a n x : Nat) : Mem.byte (s.zeroDram a n).mem.dram x = if x < a ∨ a + n ≤ x then Mem.byte s.mem.dram x else 0 :=
  byte_clear _ _ _ _

/-- Stretches of DRAM cleared, one after another. -/
def zeroSpans (s : State) (l : List (Nat × Nat)) : State := l.foldl (fun s x => s.zeroDram x.1 x.2) s

theorem zeroSpans_rest (l : List (Nat × Nat)) :
    zeroSpans s l = { s with mem := (zeroSpans s l).mem, slices := (zeroSpans s l).slices } ∧ (zeroSpans s l).mem.spad = s.mem.spad :=
  foldl_keeps (fun t : State => t = { s with mem := t.mem, slices := t.slices } ∧ t.mem.spad = s.mem.spad) _ l s ⟨rfl, rfl⟩ fun t x h => by
    refine ⟨?_, h.2⟩
    rw [zeroDram_rest]
    conv_lhs => rw [h.1]
    rfl

theorem byte_zeroSpans {l : List (Nat × Nat)} {x : Nat} (h : ∃ y ∈ l, y.1 ≤ x ∧ x < y.1 + y.2) :
    Mem.byte (zeroSpans s l).mem.dram x = 0 := by
  obtain ⟨y, hy, hin⟩ := h
  have hz : ∀ (t : State) (y : Nat × Nat), y.1 ≤ x ∧ x < y.1 + y.2 → Mem.byte (t.zeroDram y.1 y.2).mem.dram x = 0 := by
    intro t y hin
    rw [byte_zeroDram, if_neg (by omega)]
  refine foldl_each (p := fun y (t : State) => y.1 ≤ x ∧ x < y.1 + y.2 → Mem.byte t.mem.dram x = 0) hz (fun t z y ht hin => ?_) hy s hin
  rw [byte_zeroDram, ht hin, ite_self]

/-- The stretches of DRAM that a map takes from their owner. -/
def lostSpans (s : State) (m : List MapEnt) : List (Nat × Nat) :=
  (s.cfg.map.filter (·.kind == 0)).flatMap fun e =>
    cutSpan ((m.filter fun x => x.kind == 0 && x.owner == e.owner).map fun x => (x.base, x.len)) e.base e.len

theorem mem_lostSpans {m : List MapEnt} {e : MapEnt} (he : e ∈ s.cfg.map) (hk : e.kind = 0) {a : Nat} (hb : e.base ≤ a) (hl : a < e.base + e.len)
    (ho : ∀ x ∈ m, x.kind = 0 → x.owner = e.owner → a < x.base ∨ x.base + x.len ≤ a) :
    ∃ y ∈ lostSpans s m, y.1 ≤ a ∧ a < y.1 + y.2 := by
  have hout : ∀ z ∈ (m.filter fun x => x.kind == 0 && x.owner == e.owner).map fun x => (x.base, x.len), a < z.1 ∨ z.1 + z.2 ≤ a := by
    intro z hz
    obtain ⟨x, hx, rfl⟩ := List.mem_map.mp hz
    simp only [List.mem_filter, Bool.and_eq_true, beq_iff_eq] at hx
    obtain ⟨hxm, hxk, hxo⟩ := hx
    exact ho x hxm hxk hxo
  obtain ⟨y, hy, hin⟩ := mem_cutSpan hb hl hout
  exact ⟨y, List.mem_flatMap.mpr ⟨e, List.mem_filter.mpr ⟨he, by simp [hk]⟩, hy⟩, hin⟩

/-- The entries of an accepted address map in force. -/
def entriesSet (s : State) (m : List MapEnt) : State :=
  ({ s with cfg := { s.cfg with map := m }, pend := { s.pend with map := none } } : State).ctlIdle aMapCtl

theorem applyMap_some {m : List MapEnt} (h : s.pend.map = some m) : s.applyMap = entriesSet (zeroSpans s (lostSpans s m)) m := by
  simp only [State.applyMap, h]
  rfl

theorem mapApply_applies {m : List MapEnt} (h : s.pend.map = some m) (hf : s.onFigure s.time.now = true) :
    ∃ t, exec .mapApply s = .next t ∧ t.pend = { s.pend with map := none } ∧ t.ctlBusy aMapCtl = false ∧ t.cfg = { s.cfg with map := m } ∧
      t.mem.spad = s.mem.spad ∧
      ∀ e ∈ s.cfg.map, e.kind = 0 → ∀ a, e.base ≤ a → a < e.base + e.len →
        (∀ x ∈ m, x.kind = 0 → x.owner = e.owner → a < x.base ∨ x.base + x.len ≤ a) → Mem.byte t.mem.dram a = 0 := by
  have hex : exec .mapApply s = .next (if s.onFigure s.time.now then s.applyMap else s) := rfl
  obtain ⟨hrest, hspad⟩ := zeroSpans_rest (s := s) (lostSpans s m)
  have hbyte : ∀ a, (∃ y ∈ lostSpans s m, y.1 ≤ a ∧ a < y.1 + y.2) → Mem.byte (zeroSpans s (lostSpans s m)).mem.dram a = 0 :=
    fun a => byte_zeroSpans
  rw [hf, if_pos rfl, applyMap_some h] at hex
  generalize zeroSpans s (lostSpans s m) = t at hex hrest hspad hbyte
  refine ⟨entriesSet t m, hex, ?_, ctlBusy_ctlIdle _, ?_, hspad, fun e he hk a hb hl ho => hbyte a (mem_lostSpans he hk hb hl ho)⟩
  · rw [hrest]
    rfl
  · rw [hrest]
    rfl

/-! ### The grid change (R252) -/

theorem exec_pavGridAt (v : W64) : exec (.pavGridAt v) s = s.pfWrite aPavGridAt (s.armGrid v.toNat) := rfl

theorem pavGridAt_armed {v : W64} (ho : s.pfOpen aPavGridAt = true) (hg : gridLegal s.gridNext = true)
    (hf : v.toNat % max s.figDt 1 = 0) (hn : v.toNat % max (s.gridNext.1 * s.gridNext.2.1) 1 = 0) (hl : s.time.now + s.figDt ≤ v.toNat) :
    exec (.pavGridAt v) s = .next { s with pend := { s.pend with gridAt := some v.toNat } } := by
  rw [exec_pavGridAt, pfWrite_open ho]
  simp [State.armGrid, hg, hf, hn, hl]

theorem bit_pavFlag {i : Nat} (h : i < 64) : ((s.pavFlag i).reg aPavStatus).bit i = true := bit_setRegBit_same s aPavStatus h

theorem pavGridAt_refused {v : W64} (ho : s.pfOpen aPavGridAt = true) (h : gridLegal s.gridNext = false ∨ v.toNat < s.time.now + s.figDt) :
    ∃ t, exec (.pavGridAt v) s = .next t ∧ t = { s with regs := t.regs } ∧ (t.reg aPavStatus).bit 10 = true := by
  refine ⟨s.pavFlag 10, ?_, rfl, bit_pavFlag (by decide)⟩
  rw [exec_pavGridAt, pfWrite_open ho, State.armGrid]
  dsimp only
  rw [if_neg]
  rcases h with h | h
  · simp [h]
  · simp [h]

/-- What follows the grid's new values: entries that no longer fit, counts of regions, and the digests; the status stays. -/
structure Regridded (s t : State) : Prop where
  rest : t = { s with banks := t.banks, rgns := t.rgns, regs := t.regs, digestBad := t.digestBad }
  status : t.reg aPavStatus = s.reg aPavStatus

theorem Regridded.trans (a : Regridded s t) (b : Regridded t v) : Regridded s v where
  rest := Eq.trans b.rest (by conv_lhs => rw [a.rest])
  status := b.status.trans a.status

theorem foldl_regridded {α : Type} {g : State → α → State} {l : List α} (hg : ∀ t x, Regridded t (g t x)) : Regridded s (l.foldl g s) :=
  foldl_keeps (Regridded s) g l s ⟨rfl, rfl⟩ fun _ _ a => a.trans (hg _ _)

theorem fitEntries_regridded : Regridded s s.fitEntries := by
  unfold State.fitEntries
  extract_lets bad s1
  have h1 : Regridded s s1 := ⟨rfl, rfl⟩
  refine h1.trans (foldl_regridded fun t e => ?_)
  split
  · exact ⟨rfl, rfl⟩
  · exact ⟨rfl, rfl⟩

theorem setReg_regridded {o : Nat} {x : W64} (h : aPavStatus ≠ o) : Regridded s (s.setReg o x) :=
  ⟨rfl, by rw [reg_setReg, if_neg h]⟩

theorem computeGrp_regridded {g : Nat} : Regridded s (s.computeGrp g) := by
  have hne : ∀ w, aPavStatus ≠ aCeGrp g w := fun w => by simp only [aPavStatus, aCeGrp, aLd]; omega
  unfold State.computeGrp
  extract_lets d t
  have ht : Regridded s t := ⟨rfl, rfl⟩
  exact (ht.trans (setReg_regridded (hne 4))).trans (setReg_regridded (hne 5))

theorem exec_gridChangeApply (h : s.pend.gridAt = some s.time.now) : exec .gridChangeApply s = .next s.applyGrid :=
  congrArg Host.Outcome.next (if_pos h)

/-- The grid's new values in force and shown. -/
def gridSet (s : State) : State :=
  let s : State := { s with pend := { s.pend with gridAt := none } }
  let s : State := { s with cfg := { s.cfg with stepdt := s.gridNext.1, steps := s.gridNext.2.1, cycle := s.gridNext.2.2 } }
  (s.setReg aPavGrid (mergeBits (s.reg aPavGrid) (s.reg aPavGridNext) (maskBits 45 0))).pavFlag 9

theorem applyGrid_fits (h : s.pend.gridAt = some s.time.now) (he : s.allEmpty = true) (hg : gridLegal s.gridNext = true)
    (hm : s.time.now % (s.gridNext.1 * s.gridNext.2.1) = 0) : Regridded (gridSet s) s.applyGrid := by
  have he' : State.allEmpty { s with pend := { s.pend with gridAt := none } } = true := he
  have hrun : s.applyGrid = (List.range 64).foldl (fun (s : State) g => if s.gValid g then s.computeGrp g else s) (gridSet s).fitEntries := by
    simp only [State.applyGrid, h, he', hg, hm]
    rfl
  rw [hrun]
  refine fitEntries_regridded.trans (foldl_regridded fun t g => ?_)
  split
  · exact computeGrp_regridded
  · exact ⟨rfl, rfl⟩

theorem gridChangeApply_applies (h : s.pend.gridAt = some s.time.now) (he : s.allEmpty = true) (hg : gridLegal s.gridNext = true)
    (hm : s.time.now % (s.gridNext.1 * s.gridNext.2.1) = 0) :
    ∃ t, exec .gridChangeApply s = .next t ∧ t.cfg = { s.cfg with stepdt := s.gridNext.1, steps := s.gridNext.2.1, cycle := s.gridNext.2.2 } ∧
      t.pend = { s.pend with gridAt := none } ∧ (t.reg aPavStatus).bit 9 = true ∧ t.mem = s.mem := by
  obtain ⟨hrest, hstat⟩ := applyGrid_fits h he hg hm
  refine ⟨_, exec_gridChangeApply h, ?_, ?_, ?_, ?_⟩
  · rw [hrest]
    rfl
  · rw [hrest]
    rfl
  · rw [hstat]
    exact bit_pavFlag (by decide)
  · rw [hrest]
    rfl

theorem gridChangeApply_refused (h : s.pend.gridAt = some s.time.now) (he : s.allEmpty = false) :
    ∃ t, exec .gridChangeApply s = .next t ∧ t.cfg = s.cfg ∧ t.pend = { s.pend with gridAt := none } ∧ (t.reg aPavStatus).bit 10 = true := by
  have he' : State.allEmpty { s with pend := { s.pend with gridAt := none } } = false := he
  refine ⟨State.pavFlag { s with pend := { s.pend with gridAt := none } } 10, ?_, rfl, rfl, bit_pavFlag (by decide)⟩
  rw [exec_gridChangeApply h]
  simp [State.applyGrid, h, he']

end

/-- Settles O48: each commit by the one lemma of what a commit does, each boundary by what it brings into force. -/
theorem stagedTables : Obligations.StagedTables := by
  refine ⟨fun s => ?_, fun p s h hf => partitionApply_applies h hf, fun a s h hf => allotApply_applies h hf,
    fun m s h hf => mapApply_applies h hf, fun m s h hf => fnringApply_applies h hf, fun s => ⟨?_, ?_, ?_, ?_, fun h => ?_⟩,
    fun v s ho => ⟨fun hg hf hn hl => pavGridAt_armed ho hg hf hn hl, fun h => pavGridAt_refused ho h⟩,
    fun s h => ⟨fun he hg hm => gridChangeApply_applies h he hg hm, fun he => gridChangeApply_refused h he⟩⟩
  · simp only [List.forall_mem_cons, List.not_mem_nil, false_implies, implies_true, and_true]
    exact ⟨fun ho => commit_outcome ho rfl, fun ho => commit_outcome ho rfl, fun ho => commit_outcome ho rfl,
      fun ho => commit_outcome ho rfl⟩
  · exact apply_waits rfl fun h => by simp [State.applyPart, h]
  · exact apply_waits rfl fun h => by simp [State.applyAllot, h]
  · exact apply_waits rfl fun h => by simp [State.applyMap, h]
  · exact apply_waits rfl fun h => by simp [State.applyRings, h]
  · exact congrArg Host.Outcome.next (if_neg h)

end Sys2Proof.Proofs
end

section
/-! PROOFS. The power-down sequence of a die, and its return. -/

namespace Sys2Proof.Proofs

open Sys2Proof Sys2Proof.Machine Sys2Proof.Laws

section

variable {s t v : State} {d r : Nat}

/-! ### Copies and fences (R216 row 1, R284) -/

/-- Only registers and memory differ, the bytes of DRAM and of the scratchpads not among it. -/
structure CopyWork (s t : State) : Prop where
  rest : t = { s with regs := t.regs, mem := t.mem }
  dram : t.mem.dram = s.mem.dram
  spad : t.mem.spad = s.mem.spad

theorem CopyWork.refl : CopyWork s s := ⟨rfl, rfl, rfl⟩

theorem CopyWork.trans (a : CopyWork s t) (b : CopyWork t v) : CopyWork s v where
  rest := Eq.trans b.rest (by conv_lhs => rw [a.rest])
  dram := b.dram.trans a.dram
  spad := b.spad.trans a.spad

theorem ite_copyWork {p : Prop} [Decidable p] {a b : State} (ha : CopyWork s a) (hb : CopyWork s b) : CopyWork s (if p then a else b) := by
  split
  · exact ha
  · exact hb

theorem foldl_copyWork {α : Type} {g : State → α → State} {l : List α} (hg : ∀ t x, CopyWork t (g t x)) : CopyWork s (l.foldl g s) :=
  foldl_keeps (CopyWork s) g l s .refl fun _ _ a => a.trans (hg _ _)

theorem updCopy_copyWork {dom sheet : Nat} {g : Copy → Copy} : CopyWork s (s.updCopy dom sheet g) := ⟨rfl, rfl, rfl⟩

theorem setReg_copyWork {o : Nat} {x : W64} : CopyWork s (s.setReg o x) := ⟨rfl, rfl, rfl⟩

theorem showWres_copyWork : CopyWork s (s.showWres r) := ite_copyWork .refl setReg_copyWork

theorem dropDieCopies_copyWork : CopyWork s (s.dropDieCopies d) := by
  unfold State.dropDieCopies State.showAllWres
  exact (foldl_copyWork fun _ _ => ite_copyWork updCopy_copyWork .refl).trans (foldl_copyWork fun _ _ => showWres_copyWork)

/-- A fence placed on each region of a list. -/
def fencesPlaced (s : State) (l : List Nat) : State := l.foldl (fun s r => s.updRgn r fun g => { g with fence := max g.fence 1 }) s

theorem fencesPlaced_rest (l : List Nat) : fencesPlaced s l = { s with rgns := (fencesPlaced s l).rgns } :=
  foldl_keeps (fun t : State => t = { s with rgns := t.rgns }) _ l s rfl fun t r h => by
    conv_lhs => rw [h]
    rfl

theorem fencesPlaced_fence {l : List Nat} (hr : r ∈ l) : 0 < ((fencesPlaced s l).rgn r).fence := by
  refine foldl_each (p := fun r (t : State) => 0 < (t.rgn r).fence) (fun t r => ?_) (fun t q r h => ?_) hr s
  · rw [rgn_updRgn, if_pos rfl]
    exact Nat.lt_of_lt_of_le Nat.zero_lt_one (le_max_right _ _)
  · rw [rgn_updRgn]
    split
    · exact Nat.lt_of_lt_of_le Nat.zero_lt_one (le_max_right _ _)
    · exact h

/-- A die marked as going down, its domains' die sets to change at the next figure boundary. -/
def fencingSet (s : State) (d : Nat) : State := { s.setDie d .fencing with pend := { s.pend with die := NatSet.ins s.pend.die d } }

theorem powerDown_powered (hd : d < 16) (hp : s.die d = .powered) :
    s.powerDown d = fencesPlaced ((fencingSet s d).dropDieCopies d) (s.rgnsOn d) := by
  rw [State.powerDown, if_neg (by simp [hp, hd])]
  rfl

theorem diePowerDown_unpowered (hp : s.die d ≠ .powered) : exec (.diePowerDown d) s = .next s :=
  congrArg Host.Outcome.next (if_pos (by simp [hp]))

theorem diePowerDown_fences (hd : d < 16) (hp : s.die d = .powered) :
    ∃ t, exec (.diePowerDown d) s = .next t ∧ t.die d = .fencing ∧ NatSet.mem t.pend.die d = true ∧ (∀ e, e ≠ d → t.die e = s.die e) ∧
      t.mem.dram = s.mem.dram ∧ t.mem.spad = s.mem.spad ∧ ∀ r ∈ s.rgnsOn d, 0 < (t.rgn r).fence := by
  have hex : exec (.diePowerDown d) s = .next (s.powerDown d) := rfl
  have hc : CopyWork (fencingSet s d) ((fencingSet s d).dropDieCopies d) := dropDieCopies_copyWork
  have hrest := fencesPlaced_rest (s := (fencingSet s d).dropDieCopies d) (s.rgnsOn d)
  have hfence : ∀ r ∈ s.rgnsOn d, 0 < ((fencesPlaced ((fencingSet s d).dropDieCopies d) (s.rgnsOn d)).rgn r).fence :=
    fun r hr => fencesPlaced_fence hr
  rw [powerDown_powered hd hp] at hex
  generalize (fencingSet s d).dropDieCopies d = u at hex hc hrest hfence
  generalize fencesPlaced u (s.rgnsOn d) = t at hex hrest hfence
  have hdie : ∀ e, t.die e = if e = d then .fencing else s.die e := by
    intro e
    rw [hrest]
    change u.die e = _
    rw [hc.rest]
    exact die_setDie s d e .fencing
  refine ⟨t, hex, by rw [hdie, if_pos rfl], ?_, fun e he => by rw [hdie, if_neg he], ?_, ?_, hfence⟩
  · rw [hrest]
    change NatSet.mem u.pend.die d = true
    rw [hc.rest]
    exact (mem_ins _ _ _).mpr (.inl rfl)
  · rw [hrest]
    exact hc.dram
  · rw [hrest]
    exact hc.spad

/-! ### The routers refuse (R216 row 2, R218) -/

/-- The opcodes that end with DOMAIN_DOWN: LOAD, RUN, STEP, FENCE, SCHED_WRITE and SCHED_SWAP. -/
def downOps : List Nat := [1, 3, 4, 7, 9, 0x0A]

/-- No command of region `r` that a power-down ends is at work. -/
def CmdsDown (r : Nat) (s : State) : Prop := ∀ c ∈ s.host.cmds, c.region = r → c.opcode ∈ downOps → c.phase ≠ .running

theorem CmdsDown.congr (h : CmdsDown r s) (hh : t.host = s.host) : CmdsDown r t := by
  unfold CmdsDown
  rw [hh]
  exact h

/-- A command of region `r` ended with DOMAIN_DOWN, where it is at work and of such an opcode. -/
def downCmd (r : Nat) (c : Cmd) : Cmd :=
  if c.region == r && c.phase == .running && downOps.contains c.opcode
  then { c with phase := .due, status := 6, detail := if c.opcode = 1 then 2 else 0 } else c

theorem downCmds_cmds : (s.downCmds r).host.cmds = s.host.cmds.map (downCmd r) := rfl

/-- A command still at work is one that was left alone. -/
theorem downCmd_running {c : Cmd} (h : (downCmd r c).phase = .running) :
    downCmd r c = c ∧ (c.region = r → c.opcode ∈ downOps → c.phase ≠ .running) := by
  unfold downCmd at h ⊢
  split at h
  · cases h
  next hn =>
    refine ⟨if_neg hn, fun hr ho hp => hn ?_⟩
    simp [hr, ho, hp]

theorem downCmds_down : CmdsDown r (s.downCmds r) := by
  intro c hc hr ho hp
  rw [downCmds_cmds] at hc
  obtain ⟨x, -, rfl⟩ := List.mem_map.mp hc
  obtain ⟨he, hn⟩ := downCmd_running hp
  rw [he] at hr ho hp
  exact hn hr ho hp

theorem CmdsDown.downCmds (h : CmdsDown r s) (q : Nat) : CmdsDown r (s.downCmds q) := by
  intro c hc hr ho hp
  rw [downCmds_cmds] at hc
  obtain ⟨x, hx, rfl⟩ := List.mem_map.mp hc
  obtain ⟨he, -⟩ := downCmd_running hp
  rw [he] at hr ho hp
  exact h x hx hr ho hp

theorem feedAnswer_host (q : FeedReq) : (s.feedAnswer q).host = s.host := by
  unfold State.feedAnswer
  extract_lets m n rows bytes bad u g
  have hu : u.host = s.host := foldl_host fun t e => by rw [show State.decodeSpad _ _ _ _ = _ from decodeSpad_tallied]
  split
  · exact hu
  · exact hu

theorem downReqs_host : (s.downReqs r).host = s.host := by
  unfold State.downReqs
  refine foldl_host fun t q => ?_
  split
  · exact feedAnswer_host q
  · rfl

/-- DOMAIN_DOWN reaches a region, its commands and its requests. -/
def regionEnded (s : State) (r : Nat) : State := ((s.regionDown r).downCmds r).downReqs r

theorem exec_refuseStateEntry : exec (.refuseStateEntry d) s =
    if s.die d == .fencing && (s.rgnsOn d).all fun r => s.fenceHolds r
    then .next (((s.rgnsOn d).foldl regionEnded (s.downStack d)).setDie d .refusing) else .next s := rfl

theorem refuseStateEntry_refuses (hd : s.die d = .fencing) (hf : ∀ r ∈ s.rgnsOn d, s.fenceHolds r = true) :
    ∃ t, exec (.refuseStateEntry d) s = .next t ∧ t.die d = .refusing ∧
      ∀ r ∈ s.rgnsOn d, ∀ c ∈ t.host.cmds, c.region = r → c.opcode ∈ downOps → c.phase ≠ .running := by
  have hend : ∀ r ∈ s.rgnsOn d, CmdsDown r ((s.rgnsOn d).foldl regionEnded (s.downStack d)) := fun r hr =>
    foldl_each (f := regionEnded) (fun _ _ => downCmds_down.congr downReqs_host)
      (fun t q r h => ((h.congr (t := t.regionDown q) rfl).downCmds q).congr downReqs_host) hr _
  exact ⟨_, exec_refuseStateEntry.trans (if_pos (by simpa [hd] using hf)), by rw [die_setDie, if_pos rfl], fun r hr => hend r hr⟩

theorem refuseStateEntry_waits (h : s.die d ≠ .fencing ∨ ∃ r ∈ s.rgnsOn d, s.fenceHolds r = false) :
    exec (.refuseStateEntry d) s = .next s := by
  refine exec_refuseStateEntry.trans (if_neg ?_)
  simp only [Bool.and_eq_true, beq_iff_eq, List.all_eq_true, not_and]
  intro hd hf
  rcases h with h | ⟨r, hr, hn⟩
  · exact h hd
  · exact Bool.false_ne_true (hn.symm.trans (hf r hr))

/-! ### Lines are written back and dropped (R216 row 3, R324) -/

theorem writeBack_slices (who a : Nat) (row : Row) (mask : BitVec 16) : (s.writeBack who a row mask).slices = s.slices := by
  have hc : ∀ (t : State) w n, (t.countT who w n).slices = t.slices := fun t w n => by
    unfold State.countT
    split
    · rfl
    · rfl
  have hh : ∀ (t : State) w n, (t.countHs a w n).slices = t.slices := fun t w n => by
    unfold State.countHs
    split
    · rfl
    · rfl
  rw [State.writeBack, hc, hh]
  rfl

theorem lines_flushLines (i j : Nat) (p : Line → Bool) :
    ((s.flushLines i p).slice j).lines = if j = i then (s.slice i).lines.filter fun l => !p l else (s.slice j).lines := by
  unfold State.flushLines
  extract_lets out u
  have hu : u.slices = s.slices := foldl_keeps (fun t : State => t.slices = s.slices) _ out s rfl fun t l h => by
    split
    · exact (writeBack_slices _ _ _ _).trans h
    · exact h
  rw [slice_updSlice]
  have hs : ∀ k, u.slice k = s.slice k := fun k => by rw [State.slice, hu]; rfl
  split
  · rw [hs]
  · rw [hs]

/-- Lines that a test picks flushed from every slice that is listed. -/
def slicesFlushed (s : State) (p : Nat → Line → Bool) : State := s.slices.foldl (fun (t : State) e => t.flushLines e.1 (p e.1)) s

theorem slicesFlushed_lineWork {p : Nat → Line → Bool} : LineWork s (slicesFlushed s p) := foldl_lineWork fun _ _ => flushLines_lineWork

theorem slice_unlisted {i : Nat} (h : ∀ e ∈ s.slices, e.1 ≠ i) : s.slice i = Slice.empty := by
  rw [State.slice]
  generalize s.slices = m at h
  induction m with
  | nil => rfl
  | cons e m ih =>
    rw [get_cons, if_neg (h e (List.mem_cons_self ..))]
    exact ih fun x hx => h x (List.mem_cons_of_mem _ hx)

/-- No picked line is left in any slice: one that is not listed holds no line. -/
theorem slicesFlushed_none {p : Nat → Line → Bool} {i : Nat} {x : Line} (hx : x ∈ ((slicesFlushed s p).slice i).lines) : p i x = false := by
  have hkeep : ∀ (t : State) (e : Nat × Slice), (∀ x ∈ (t.slice i).lines, p i x = false) →
      ∀ x ∈ ((t.flushLines e.1 (p e.1)).slice i).lines, p i x = false := by
    intro t e h x hx
    rw [lines_flushLines] at hx
    split at hx
    next he => exact h x (he ▸ (List.mem_filter.mp hx).1)
    · exact h x hx
  by_cases hl : ∃ e ∈ s.slices, e.1 = i
  · obtain ⟨e, he, rfl⟩ := hl
    refine foldl_each (p := fun (e : Nat × Slice) (t : State) => ∀ x ∈ (t.slice e.1).lines, p e.1 x = false) (fun t e x hx => ?_)
      (fun t y e h x hx => ?_) he s x hx
    · rw [lines_flushLines, if_pos rfl] at hx
      simpa using (List.mem_filter.mp hx).2
    · rw [lines_flushLines] at hx
      split at hx
      next hy => exact h x (hy ▸ (List.mem_filter.mp hx).1)
      · exact h x hx
  · have h0 : ∀ x ∈ (s.slice i).lines, p i x = false := by
      rw [slice_unlisted fun e he hi => hl ⟨e, he, hi⟩]
      simp [Slice.empty]
    exact foldl_keeps (fun t : State => ∀ x ∈ (t.slice i).lines, p i x = false) _ _ s h0 hkeep x hx

theorem heldFor_congr (hv : t.power.variant = s.power.variant) (i : Nat) (l : Line) : t.heldFor d i l = s.heldFor d i l := by
  unfold State.heldFor State.isDram State.stackPresent
  rw [hv]

/-- What a slice holds for a die is read afresh as each slice is flushed, and is the same each time. -/
theorem foldl_flushLines_heldFor (l : List (Nat × Slice)) (hv : t.power.variant = s.power.variant) :
    l.foldl (fun (t : State) e => t.flushLines e.1 (t.heldFor d e.1)) t = l.foldl (fun (t : State) e => t.flushLines e.1 (s.heldFor d e.1)) t := by
  induction l generalizing t with
  | nil => rfl
  | cons e l ih =>
    have hp : (t.flushLines e.1 (s.heldFor d e.1)).power = t.power := by rw [flushLines_lineWork.rest]
    rw [List.foldl_cons, List.foldl_cons, show t.heldFor d e.1 = s.heldFor d e.1 from funext (heldFor_congr hv e.1)]
    exact ih ((congrArg PowerSt.variant hp).trans hv)

/-- The optimiser's passes on a die's unit stopped, DOMAIN_DOWN for their regions. -/
def passesStopped (s : State) (d : Nat) : State :=
  (s.passes.filter fun x => x.q == d).foldl (fun (s : State) x => (s.stopPass x).regionDown x.region) s

theorem exec_powerDownWritebackDone : exec (.powerDownWritebackDone d) s =
    if s.die d == .refusing && (List.range 16).all fun k => (s.slice (16 * d + k)).miss.isEmpty && (s.slice (16 * d + k)).park.isEmpty
    then .next ((slicesFlushed (passesStopped s d) ((passesStopped s d).heldFor d)).setDie d .selfRefresh) else .next s := by
  rw [slicesFlushed, ← foldl_flushLines_heldFor _ rfl]
  rfl

theorem powerDownWritebackDone_drops (hd : s.die d = .refusing)
    (hq : ∀ k, k < 16 → (s.slice (16 * d + k)).miss = [] ∧ (s.slice (16 * d + k)).park = []) :
    ∃ t, exec (.powerDownWritebackDone d) s = .next t ∧ t.die d = .selfRefresh ∧
      ∀ i x, x ∈ (t.slice i).lines → t.heldFor d i x = false := by
  have hcond : (s.die d == .refusing && (List.range 16).all fun k =>
      (s.slice (16 * d + k)).miss.isEmpty && (s.slice (16 * d + k)).park.isEmpty) = true := by
    simpa [hd] using hq
  refine ⟨_, exec_powerDownWritebackDone.trans (if_pos hcond), by rw [die_setDie, if_pos rfl], fun i x hx => ?_⟩
  have hp := slicesFlushed_none hx
  have hv : (slicesFlushed (passesStopped s d) ((passesStopped s d).heldFor d)).power = (passesStopped s d).power := by
    rw [slicesFlushed_lineWork.rest]
  rw [← hp]
  exact heldFor_congr (congrArg PowerSt.variant hv) i x

theorem powerDownWritebackDone_waits (h : s.die d ≠ .refusing ∨ ∃ k, k < 16 ∧ (s.slice (16 * d + k)).miss ≠ []) :
    exec (.powerDownWritebackDone d) s = .next s := by
  refine exec_powerDownWritebackDone.trans (if_neg ?_)
  simp only [Bool.and_eq_true, beq_iff_eq, List.all_eq_true, List.mem_range, List.isEmpty_iff, not_and]
  intro hd hq
  rcases h with h | ⟨k, hk, hm⟩
  · exact h hd
  · exact hm (hq k hk).1

/-! ### Self-refresh (R216 row 4, R521) -/

theorem exec_selfRefreshConfirmed : exec (.selfRefreshConfirmed d) s =
    .next (if s.die d == .selfRefresh && count s.power.retrain d == 0 then s.setDie d .holding else s) := rfl

theorem selfRefreshConfirmed_holds (hd : s.die d = .selfRefresh) (hc : count s.power.retrain d = 0) :
    ∃ t, exec (.selfRefreshConfirmed d) s = .next t ∧ t = { s with power := t.power } ∧ t.die d = .holding :=
  ⟨s.setDie d .holding, exec_selfRefreshConfirmed.trans (congrArg _ (if_pos (by simp [hd, hc]))), rfl, by rw [die_setDie, if_pos rfl]⟩

theorem selfRefreshConfirmed_waits (h : s.die d ≠ .selfRefresh ∨ count s.power.retrain d ≠ 0) :
    exec (.selfRefreshConfirmed d) s = .next s := by
  refine exec_selfRefreshConfirmed.trans (congrArg _ (if_neg ?_))
  simp only [Bool.and_eq_true, beq_iff_eq, not_and]
  exact fun hd hc => h.elim (· hd) (· hc)

/-! ### Power is removed, and given again (R216 row 6, R219, R454) -/

/-- The power state is as it was, and a region without an image has none. -/
structure UnloadWork (s t : State) : Prop where
  power : t.power = s.power
  img : ∀ r, (s.rgn r).img = none → (t.rgn r).img = none

theorem UnloadWork.refl : UnloadWork s s := ⟨rfl, fun _ => id⟩

theorem UnloadWork.trans (a : UnloadWork s t) (b : UnloadWork t v) : UnloadWork s v :=
  ⟨b.power.trans a.power, fun r h => b.img r (a.img r h)⟩

theorem LineWork.unloadWork (a : LineWork s t) : UnloadWork s t where
  power := by rw [a.rest]
  img r h := by
    have hi := a.img r
    rw [h] at hi
    exact Option.isSome_eq_false_iff.mp hi |> Option.isNone_iff_eq_none.mp

theorem foldl_unloadWork {α : Type} {g : State → α → State} {l : List α} (hg : ∀ t x, UnloadWork t (g t x)) :
    UnloadWork s (l.foldl g s) :=
  foldl_keeps (UnloadWork s) g l s .refl fun _ _ a => a.trans (hg _ _)

theorem ite_unloadWork {p : Prop} [Decidable p] {a b : State} (ha : UnloadWork s a) (hb : UnloadWork s b) :
    UnloadWork s (if p then a else b) := by
  split
  · exact ha
  · exact hb

theorem updRgn_unloadWork {f : Region → Region} (hf : (s.rgn r).img = none → (f (s.rgn r)).img = none) : UnloadWork s (s.updRgn r f) where
  power := rfl
  img q h := by
    rw [rgn_updRgn]
    split
    next e => exact hf (e ▸ h)
    · exact h

theorem addUnitCtr_lineWork {u w p n : Nat} : LineWork s (s.addUnitCtr u w p n) := by
  unfold State.addUnitCtr
  split
  · exact addCtr_lineWork
  · exact .refl

theorem decodeSpad_lineWork {m o n : Nat} : LineWork s (s.decodeSpad m o n) :=
  (ite_lineWork .refl addUnitCtr_lineWork).trans (foldl_lineWork fun _ _ => countWord_lineWork)

theorem serveRld_unloadWork {m : Nat} {f : Flit} : UnloadWork s (s.serveRld m f) := by
  have hr : UnloadWork (s.decodeSpad m (lineOf f.addr) 128) ((s.decodeSpad m (lineOf f.addr) 128).reply f (s.spadRow m f.addr)) :=
    ⟨rfl, fun _ => id⟩
  exact (decodeSpad_lineWork.unloadWork.trans hr).trans addUnitCtr_lineWork.unloadWork

theorem updMu_unloadWork {m : Nat} {f : Mu → Mu} : UnloadWork s (s.updMu m f) := ⟨rfl, fun _ => id⟩

theorem unpark_unloadWork {m : Nat} : UnloadWork s (s.unpark m) := by
  unfold State.unpark
  exact updMu_unloadWork.trans (foldl_unloadWork fun _ _ => serveRld_unloadWork)

theorem forgetNacked_unloadWork : UnloadWork s (s.forgetNacked r) := by
  unfold State.forgetNacked
  extract_lets keep s1
  have h1 : UnloadWork s s1 := foldl_unloadWork fun _ _ => ite_unloadWork .refl ⟨rfl, fun _ => id⟩
  exact h1.trans (foldl_unloadWork fun _ _ => ite_unloadWork .refl updMu_unloadWork)

theorem updCu_unloadWork {u : Nat} {f : Cu → Cu} : UnloadWork s (s.updCu u f) := ⟨rfl, fun _ => id⟩

theorem newGens_unloadWork {u : Nat} : UnloadWork s (s.newGens u) := by
  unfold State.newGens
  generalize List.foldl _ s.net.gens _ = g
  exact ⟨rfl, fun _ => id⟩

theorem updFab_unloadWork {u : Nat} {f : Fabric → Fabric} : UnloadWork s (s.updFab u f) := ⟨rfl, fun _ => id⟩

theorem clearBank_unloadWork {bank : Nat} : UnloadWork s (s.clearBank r bank) := ⟨rfl, fun _ => id⟩

theorem emptyRegion_unloadWork : UnloadWork s (s.emptyRegion r) := by
  unfold State.emptyRegion
  extract_lets blank s1 s2 s3 s4 s5 s6 s7 s8
  have h1 : UnloadWork s s1 := foldl_unloadWork fun _ _ => updCu_unloadWork
  have h2 : UnloadWork s1 s2 := foldl_unloadWork fun _ _ => newGens_unloadWork
  have h3 : UnloadWork s2 s3 := foldl_unloadWork fun _ _ => updMu_unloadWork
  have h4 : UnloadWork s3 s4 := foldl_unloadWork fun _ _ => updFab_unloadWork
  have h5 : UnloadWork s4 s5 := ⟨rfl, fun _ => id⟩
  have h6 : UnloadWork s5 s6 := clearBank_unloadWork.trans clearBank_unloadWork
  have h7 : UnloadWork s6 s7 := foldl_unloadWork fun _ _ => unpark_unloadWork
  have h8 : UnloadWork s7 s8 := forgetNacked_unloadWork
  clear_value s8 s7 s6 s5 s4 s3 s2 s1
  exact (h1.trans (h2.trans (h3.trans (h4.trans (h5.trans (h6.trans (h7.trans h8))))))).trans (updRgn_unloadWork id)

theorem unloadRegion_unloadWork : UnloadWork s (s.unloadRegion r) := by
  unfold State.unloadRegion
  exact ((emptyRegion_unloadWork.trans unpinBy_lineWork.unloadWork).trans setReg_lineWork.unloadWork).trans
    (updRgn_unloadWork fun _ => rfl)

theorem downCmds_unloadWork : UnloadWork s (s.downCmds r) := by
  unfold State.downCmds
  extract_lets inFl s1 down
  have h1 : UnloadWork s s1 := updRgn_unloadWork id
  exact h1.trans ⟨rfl, fun _ => id⟩

/-- The regions of a list unloaded, their commands ended with DOMAIN_DOWN. -/
def regionsUnloaded (s : State) (l : List Nat) : State := l.foldl (fun (s : State) r => (s.downCmds r).unloadRegion r) s

theorem regionsUnloaded_power (l : List Nat) : (regionsUnloaded s l).power = s.power :=
  UnloadWork.power (foldl_unloadWork fun _ _ => downCmds_unloadWork.trans unloadRegion_unloadWork)

theorem regionsUnloaded_img {l : List Nat} (hr : r ∈ l) : ((regionsUnloaded s l).rgn r).img = none :=
  foldl_each (p := fun r (t : State) => (t.rgn r).img = none) (fun _ _ => unloadRegion_img _ _)
    (fun _ _ r => (downCmds_unloadWork.trans unloadRegion_unloadWork).img r) hr s

theorem die_fillDie (e : Nat) : (s.fillDie d).die e = if e = d then .poweringUp else s.die e := die_setDie s d e .poweringUp

theorem exec_refuseHoldExpiry : exec (.refuseHoldExpiry d) s =
    if s.die d == .holding then
      .next (if NatSet.mem ((regionsUnloaded s (s.rgnsOn d)).setDie d .gated).power.upAsk d
        then ((regionsUnloaded s (s.rgnsOn d)).setDie d .gated).fillDie d else (regionsUnloaded s (s.rgnsOn d)).setDie d .gated)
    else .next s := rfl

theorem refuseHoldExpiry_unloads (hd : s.die d = .holding) :
    ∃ t, exec (.refuseHoldExpiry d) s = .next t ∧
      t.die d = (if NatSet.mem s.power.upAsk d then .poweringUp else .gated) ∧ ∀ r ∈ s.rgnsOn d, (t.rgn r).img = none := by
  have hex := (exec_refuseHoldExpiry (s := s) (d := d)).trans (if_pos (by simp [hd]))
  have hup := regionsUnloaded_power (s := s) (s.rgnsOn d)
  have himg : ∀ r ∈ s.rgnsOn d, ((regionsUnloaded s (s.rgnsOn d)).rgn r).img = none := fun r hr => regionsUnloaded_img hr
  generalize regionsUnloaded s (s.rgnsOn d) = u at hex hup himg
  have hask : (u.setDie d .gated).power.upAsk = s.power.upAsk := by
    change u.power.upAsk = _
    rw [hup]
  rw [hask] at hex
  refine ⟨_, hex, ?_, fun r hr => ?_⟩
  · split
    · rw [die_fillDie, if_pos rfl]
    · rw [die_setDie, if_pos rfl]
  · split
    · exact himg r hr
    · exact himg r hr

theorem diePowerUp_gated (hd : s.die d = .gated) :
    ∃ t, exec (.diePowerUp d) s = .next t ∧ t = { s with power := t.power, mem := t.mem } ∧ t.die d = .poweringUp ∧
      t.mem.dram = s.mem.dram ∧ ∀ b, Mem.byte t.mem.spad b = if unitDie (b / 2 ^ 19) = d then 0 else Mem.byte s.mem.spad b := by
  have hex : exec (.diePowerUp d) s = .next (s.powerUp d) := rfl
  simp only [State.powerUp, hd] at hex
  refine ⟨_, hex, rfl, by rw [die_fillDie, if_pos rfl], rfl, fun b => ?_⟩
  have h : Mem.byte (s.fillDie d).mem.spad b = _ := byte_zeroSpad (s := s.setDie d .poweringUp) (fun m => unitDie m == d) b
  rw [h]
  simp only [beq_iff_eq]
  rfl

theorem diePowerUp_later (hd : s.die d ∈ [DiePhase.fencing, .refusing, .selfRefresh, .holding]) :
    ∃ t, exec (.diePowerUp d) s = .next t ∧ t = { s with power := t.power } ∧ NatSet.mem t.power.upAsk d = true ∧ t.die d = s.die d := by
  refine ⟨s.updPower fun p => { p with upAsk := NatSet.ins p.upAsk d }, ?_, rfl, (mem_ins _ _ _).mpr (.inl rfl), rfl⟩
  change Host.Outcome.next (s.powerUp d) = _
  simp only [List.mem_cons, List.not_mem_nil, or_false] at hd
  rcases hd with h | h | h | h
  all_goals simp only [State.powerUp, h]

theorem diePowerUp_powered (hd : s.die d = .powered) : exec (.diePowerUp d) s = .next s := by
  change Host.Outcome.next (s.powerUp d) = _
  simp only [State.powerUp, hd]

theorem exec_powerUpDone : exec (.powerUpDone d) s =
    .next (if s.die d == .poweringUp && s.onFigure s.time.now then s.setDie d .powered else s) := rfl

theorem powerUpDone_powers (hd : s.die d = .poweringUp) (hf : s.onFigure s.time.now = true) :
    ∃ t, exec (.powerUpDone d) s = .next t ∧ t = { s with power := t.power } ∧ t.die d = .powered :=
  ⟨s.setDie d .powered, exec_powerUpDone.trans (congrArg _ (if_pos (by simp [hd, hf]))), rfl, by rw [die_setDie, if_pos rfl]⟩

theorem powerUpDone_waits (h : s.die d ≠ .poweringUp ∨ s.onFigure s.time.now = false) : exec (.powerUpDone d) s = .next s := by
  refine exec_powerUpDone.trans (congrArg _ (if_neg ?_))
  simp only [Bool.and_eq_true, beq_iff_eq, not_and]
  exact fun hd hf => h.elim (· hd) fun hn => Bool.false_ne_true (hn.symm.trans hf)

end

/-- Settles O46: each row of the sequence by what it does where its turn has come, and by what keeps it waiting. -/
theorem diePower : Obligations.DiePower :=
  ⟨fun _ _ => ⟨diePowerDown_unpowered, diePowerDown_fences⟩,
    fun _ _ => ⟨refuseStateEntry_refuses, refuseStateEntry_waits⟩,
    fun _ _ => ⟨powerDownWritebackDone_drops, powerDownWritebackDone_waits⟩,
    fun _ _ => ⟨selfRefreshConfirmed_holds, selfRefreshConfirmed_waits⟩,
    fun d s => ⟨fun hd => exec_refuseHoldExpiry.trans (if_neg (by simp [hd])), refuseHoldExpiry_unloads⟩,
    fun _ _ => ⟨diePowerUp_gated, diePowerUp_later, diePowerUp_powered⟩,
    fun _ _ => ⟨powerUpDone_powers, powerUpDone_waits⟩⟩

end Sys2Proof.Proofs
end

section
/-! PROOFS. What a boundary brings: the step boundary itself, fences, drains, the watchdog, the reset of a region and redirection. -/

namespace Sys2Proof.Proofs

open Sys2Proof Sys2Proof.Machine Sys2Proof.Laws

section

variable {s t v : State} {r : Nat}

/-! ### The next step boundary (R250, R251, R269) -/

theorem lt_nextStep (h : 0 < s.stepDt) : s.time.now < s.nextStep := (Nat.div_lt_iff_lt_mul h).mp (Nat.lt_succ_self _)

theorem onStep_nextStep (h : 0 < s.stepDt) : s.onStep s.nextStep = true := by
  rw [State.onStep, State.nextStep, Nat.mul_mod_left]
  simpa using h

theorem nextStep_le {b : Nat} (h : 0 < s.stepDt) (hlt : s.time.now < b) (hb : s.onStep b = true) : s.nextStep ≤ b := by
  simp only [State.onStep, Bool.and_eq_true, beq_iff_eq] at hb
  obtain ⟨q, rfl⟩ := Nat.dvd_of_mod_eq_zero hb.2
  rw [Nat.mul_comm] at hlt ⊢
  exact Nat.mul_le_mul_right _ ((Nat.div_lt_iff_lt_mul h).mpr hlt)

theorem stepBoundary_sweeps (ha : s.awake = true) (hr : s.time.running = true) (h : 0 < s.stepDt) :
    exec .stepBoundary s = .next (s.passTo s.nextStep).sweep :=
  congrArg Host.Outcome.next (if_pos (by simp [ha, hr, h]))

/-! ### Fences (R213, R216) -/

theorem exec_fenceRelease : exec (.fenceRelease r) s = .next (if s.onStep s.time.now then s.tryFence r else s) := rfl

theorem fenceRelease_releases (ho : s.onStep s.time.now = true) (hf : 0 < (s.rgn r).fence) (hs : s.rgnStopped r = false)
    (hh : s.fenceHolds r = true) (hm : s.regionMus r = []) :
    ∃ t, exec (.fenceRelease r) s = .next t ∧ t = { s with rgns := t.rgns } ∧ t.rgn r = { s.rgn r with fence := 0 } ∧
      ∀ q, q ≠ r → t.rgn q = s.rgn q := by
  refine ⟨s.updRgn r fun g => { g with fence := 0 }, ?_, rfl, by rw [rgn_updRgn, if_pos rfl], fun q hq => by rw [rgn_updRgn, if_neg hq]⟩
  rw [exec_fenceRelease, if_pos ho, State.tryFence, if_pos (by simp [hf, hs, hh]), State.releaseFence, hm]
  rfl

theorem fenceRelease_waits (h : s.onStep s.time.now = false ∨ s.fenceHolds r = false ∨ s.rgnStopped r = true) :
    exec (.fenceRelease r) s = .next s := by
  rw [exec_fenceRelease]
  rcases h with h | h
  · rw [h, if_neg Bool.false_ne_true]
  · have hn : s.tryFence r = s := if_neg (by rcases h with h | h <;> simp [h])
    rw [hn, ite_self]

/-! ### What the declaration of a drain brings besides (R245, R298) -/

theorem makeRoom_copyWork {dom q need a n : Nat} (hm : s.makeRoom dom q need a n = some t) : CopyWork s t := by
  induction n generalizing s with
  | zero => cases hm
  | succ n ih =>
    rw [State.makeRoom] at hm
    split at hm
    · cases hm
      exact .refl
    · split at hm
      · exact updCopy_copyWork.trans (ih hm)
      · cases hm

theorem startFetch_copyWork {dom sheet prio a : Nat} : CopyWork s (s.startFetch dom sheet prio a).1 := by
  unfold State.startFetch
  dsimp only
  split
  · exact .refl
  · split
    · dsimp only
      exact updCopy_copyWork
    · split
      · exact .refl
      · split
        next u hm =>
          dsimp only
          exact (makeRoom_copyWork hm).trans updCopy_copyWork
        · exact ⟨rfl, rfl, rfl⟩

theorem pinSheet_copyWork {pin prio sheet : Nat} : CopyWork s (s.pinSheet r pin prio sheet).1 :=
  updCopy_copyWork.trans startFetch_copyWork

theorem pinWin_copyWork {w : Nat} : CopyWork s (s.pinWin r w) :=
  foldl_copyWork fun _ _ => ite_copyWork (pinSheet_copyWork.trans setReg_copyWork) pinSheet_copyWork

theorem unpinBy_copyWork {p : Nat → Bool} : CopyWork s (s.unpinBy p) := ⟨rfl, rfl, rfl⟩

theorem pinAhead_copyWork : CopyWork s (s.pinAhead r) :=
  (unpinBy_copyWork.trans (foldl_copyWork fun _ _ => pinWin_copyWork)).trans showWres_copyWork

/-- Only registers, memory, trace records and the regions' counts differ. -/
structure Announced (s t : State) : Prop where
  rest : t = { s with regs := t.regs, mem := t.mem, rgns := t.rgns, traces := t.traces }
  rgns : ∀ q, t.rgn q = { s.rgn q with ctr := (t.rgn q).ctr, trLost := (t.rgn q).trLost }

theorem Announced.trans (a : Announced s t) (b : Announced t v) : Announced s v where
  rest := Eq.trans b.rest (by conv_lhs => rw [a.rest])
  rgns q := (b.rgns q).trans (by conv_lhs => rw [a.rgns q])

theorem CopyWork.announced (a : CopyWork s t) : Announced s t where
  rest := Eq.trans a.rest (by rw [a.rest])
  rgns q := by
    rw [a.rest]
    rfl

theorem updRgn_announced {f : Region → Region} (hf : f (s.rgn r) = { s.rgn r with ctr := (f (s.rgn r)).ctr, trLost := (f (s.rgn r)).trLost }) :
    Announced s (s.updRgn r f) where
  rest := rfl
  rgns q := by
    rw [rgn_updRgn]
    split
    next e => rw [e]; exact hf
    · rfl

theorem emitTrace_announced {d kind x y ce data : Nat} {h : Option W64} : Announced s (s.emitTrace r d kind x y ce data h) := by
  unfold State.emitTrace
  split
  · dsimp only
    split
    · exact ⟨rfl, fun _ => rfl⟩
    · exact .trans (updRgn_announced rfl) (updRgn_announced rfl)
  · exact ⟨rfl, fun _ => rfl⟩

/-- The region's pending group declared, for everything that began before. -/
def groupDeclared (s : State) (r : Nat) : State :=
  s.updRgn r fun x => { x with
    insts := x.insts.map fun i => if i.t0 < s.time.now then { i with drains := NatSet.ins i.drains (s.rgn r).group } else i,
    absDrain := FMap.set 0 x.absDrain (2 * (s.rgn r).group) (s.time.now + 1), declared := NatSet.ins x.declared (s.rgn r).group,
    group := (s.rgn r).group + 1,
    run := x.run.map fun y => if y.begun && decide (s.ngrp r ≤ (s.rgn r).group + 1) then { y with drained := true } else y }

/-- Where no command, pass or MU waits for it, a declaration is all that happens, but for pins, counts and trace records. -/
theorem declareDrain_announced (hm : s.regionMus r = []) (hr : (s.rgn r).run = none) (hc : s.host.cmds = []) (hp : s.passes = []) :
    Announced (groupDeclared s r) (s.declareDrain r) := by
  unfold State.declareDrain
  extract_lets g now s1 s2 s3 s4 s5
  have h3 : Announced s1 s3 := ((updRgn_announced rfl).trans emitTrace_announced).trans pinAhead_copyWork.announced
  have hpass : s3.passes = [] := by rw [h3.rest]; exact hp
  have hcmds : s3.host.cmds = [] := by rw [h3.rest]; exact hc
  have hmus : s3.regionMus r = [] := by rw [h3.rest]; exact hm
  have hrun : (s3.rgn r).run = none := by
    rw [h3.rgns, show s1.rgn r = _ from rgn_updRgn _ _ _ _, if_pos rfl]
    simp [hr]
  have h4 : s4 = s3 := by
    have hdue : s3.duePasses r g = s3 := by simp [State.duePasses, hpass]
    unfold s4
    rw [hdue]
    simp [State.trigColl, hcmds]
  have h5 : s5 = s3 := by
    unfold s5
    rw [h4, hrun]
  rw [h5, hmus]
  exact h3

theorem drainDeclare_declares {g : Nat} (hg : (s.rgn r).group = g) (ho : s.onStep s.time.now = true) (hd : s.drainDue r = true)
    (hm : s.regionMus r = []) (hr : (s.rgn r).run = none) (hc : s.host.cmds = []) (hp : s.passes = []) :
    ∃ t, exec (.drainDeclare r g) s = .next t ∧ (t.rgn r).group = g + 1 ∧ NatSet.mem (t.rgn r).declared g = true ∧
      count (t.rgn r).absDrain (2 * g) = s.time.now + 1 ∧
      (t.rgn r).insts = (s.rgn r).insts.map (fun i => if i.t0 < s.time.now then { i with drains := NatSet.ins i.drains g } else i) ∧
      t.cus = s.cus ∧ t.flits = s.flits := by
  subst hg
  have hex : exec (.drainDeclare r (s.rgn r).group) s = .next (s.declareDrain r) := congrArg Host.Outcome.next (if_pos (by simp [ho, hd]))
  obtain ⟨hrest, hrgns⟩ := declareDrain_announced hm hr hc hp
  have hrgn := (hrgns r).trans (by rw [show (groupDeclared s r).rgn r = _ from rgn_updRgn _ _ _ _, if_pos rfl])
  generalize s.declareDrain r = t at hex hrest hrgn
  refine ⟨t, hex, ?_, ?_, ?_, ?_, ?_, ?_⟩
  · rw [hrgn]
  · rw [hrgn]
    exact (mem_ins _ _ _).mpr (.inl rfl)
  · rw [hrgn]
    rw [count, get_set_same]
  · rw [hrgn]
  · rw [hrest]
    rfl
  · rw [hrest]
    rfl

theorem drainDeclare_waits {g : Nat} (h : s.onStep s.time.now = false ∨ s.drainDue r = false) : exec (.drainDeclare r g) s = .next s := by
  refine congrArg Host.Outcome.next (if_neg ?_)
  rcases h with h | h
  · simp [h]
  · simp [h]

/-! ### The faults of a wedged region (R144, R152, R186, R241) -/

/-- Only what units hold and what their faults record differ; what the regions have begun is as it was. -/
structure FaultWork (s t : State) : Prop where
  rest : t = { s with cus := t.cus, mus := t.mus, regs := t.regs, log := t.log, rgns := t.rgns, mem := t.mem, slices := t.slices,
                      traces := t.traces, feed := t.feed, host := t.host }
  insts : ∀ q, (t.rgn q).insts = (s.rgn q).insts

theorem FaultWork.refl : FaultWork s s := ⟨rfl, fun _ => rfl⟩

theorem FaultWork.trans (a : FaultWork s t) (b : FaultWork t v) : FaultWork s v where
  rest := Eq.trans b.rest (by conv_lhs => rw [a.rest])
  insts q := (b.insts q).trans (a.insts q)

theorem ite_faultWork {p : Prop} [Decidable p] {a b : State} (ha : FaultWork s a) (hb : FaultWork s b) : FaultWork s (if p then a else b) := by
  split
  · exact ha
  · exact hb

theorem updRgn_faultWork {f : Region → Region} (hf : (f (s.rgn r)).insts = (s.rgn r).insts) : FaultWork s (s.updRgn r f) where
  rest := rfl
  insts q := by
    rw [rgn_updRgn]
    split
    next e => rw [hf, e]
    · rfl

theorem putDevWords_faultWork {a : Nat} {l : List W64} : FaultWork s (s.putDevWords a l) where
  rest := by
    rw [(putDevWords_lineWork (s := s) (a := a) (l := l)).rest]
  insts q := by
    rw [State.rgn, putDevWords_rgns]
    rfl

theorem emitTrace_faultWork {d kind x y ce data : Nat} {h : Option W64} : FaultWork s (s.emitTrace r d kind x y ce data h) := by
  obtain ⟨hrest, hrgns⟩ := emitTrace_announced (s := s) (r := r) (d := d) (kind := kind) (x := x) (y := y) (ce := ce) (data := data) (h := h)
  exact ⟨hrest.trans (by rw [hrest]), fun q => by rw [hrgns]⟩

theorem faultRecord_faultWork {u ce w2 w3 w4 w5 w7 : Nat} : FaultWork s (s.faultRecord r u ce w2 w3 w4 w5 w7).2 := by
  unfold State.faultRecord
  dsimp only
  refine .trans (.trans ?_ (updRgn_faultWork rfl)) emitTrace_faultWork
  split
  · exact putDevWords_faultWork
  · exact .refl

theorem regionFault_faultWork {status seq : Nat} : FaultWork s (s.regionFault r status seq) := by
  unfold State.regionFault
  dsimp only
  split
  · exact ite_faultWork .refl (updRgn_faultWork rfl)
  · exact ⟨rfl, fun _ => rfl⟩

theorem cuFault_faultWork {u k cause detail : Nat} : FaultWork s (s.cuFault u k cause detail) := by
  unfold State.cuFault
  extract_lets c on sw c1 x c2 c3 c4 s1
  have h1 : FaultWork s s1 := ⟨rfl, fun _ => rfl⟩
  split
  · exact h1
  · exact (h1.trans faultRecord_faultWork).trans (((updRgn_faultWork rfl).trans (updRgn_faultWork rfl)).trans regionFault_faultWork)

theorem streamFault_faultWork {m e cause detail : Nat} {idx : List Nat} : FaultWork s (s.streamFault m e cause detail idx) := by
  unfold State.streamFault
  extract_lets g at_ s1
  have h1 : FaultWork s s1 := ⟨rfl, fun _ => rfl⟩
  split
  · exact h1
  · exact (h1.trans faultRecord_faultWork).trans ((updRgn_faultWork rfl).trans regionFault_faultWork)

theorem cuFault_cus {u k cause detail : Nat} :
    (s.cuFault u k cause detail).cus = (s.setCu u (faultCu (s.cu u) k cause s.time.now).promote).cus := by
  cases hr : s.regionOf u with
  | none => rw [cuFault_none hr]
  | some q =>
    obtain ⟨a, ha, hb⟩ := cuFault_some (k := k) (cause := cause) hr detail
    rw [hb.rest]
    change a.cus = _
    rw [ha.rest]

theorem streamFault_cus {m e cause detail : Nat} {idx : List Nat} : (s.streamFault m e cause detail idx).cus = s.cus := by
  cases hr : s.regionOf m with
  | none => rw [streamFault_none hr]; rfl
  | some q =>
    obtain ⟨b, ⟨hb, -⟩, ht, -⟩ := streamFault_some (e := e) (cause := cause) (detail := detail) (idx := idx) hr
    rw [ht.rest]
    change b.cus = _
    rw [hb.rest]
    rfl

/-! ### The watchdog's declaration (R150, R240, R241) -/

theorem FaultWork.dueNow (a : FaultWork s t) (r : Nat) : t.dueNow r = s.dueNow r := by
  have ht : t.time = s.time := by rw [a.rest]
  have hc : t.cfg = s.cfg := by rw [a.rest]
  have hb : t.banks = s.banks := by rw [a.rest]
  unfold State.dueNow State.rgnEnts State.bankOf State.allotOf State.figDt
  rw [ht, hc, hb, a.insts]

theorem wedgeUnit_idle {u : Nat} (hu : isMu u = false) (ha : (s.cu u).active = none) (figs : Nat) : s.wedgeUnit r figs u = s := by
  rw [State.wedgeUnit, hu, if_neg Bool.false_ne_true, ha]

/-- Where no start action is due, a unit of a wedged region takes its ACTIVE context's fault and nothing else. -/
theorem wedgeUnit_active (h : s.dueNow r = []) {u k : Nat} (hu : isMu u = false) (ha : (s.cu u).active = some k) (figs : Nat) :
    s.wedgeUnit r figs u = s.cuFault u k 4 (figs % 65536) := by
  rw [State.wedgeUnit, hu, if_neg Bool.false_ne_true, ha]
  simp [State.startsNow, h]

theorem wedgeUnit_mu {m : Nat} (hm : isMu m = true) (figs : Nat) : FaultWork s (s.wedgeUnit r figs m) ∧ (s.wedgeUnit r figs m).cus = s.cus := by
  rw [State.wedgeUnit, if_pos hm]
  refine foldl_keeps (fun t : State => FaultWork s t ∧ t.cus = s.cus) _ _ s ⟨.refl, rfl⟩ fun t e h => ?_
  obtain ⟨hw, hc⟩ := h
  dsimp only
  split
  · exact ⟨hw.trans streamFault_faultWork, streamFault_cus.trans hc⟩
  · exact ⟨hw, hc⟩

theorem wedgeUnit_faultWork (h : s.dueNow r = []) (w figs : Nat) : FaultWork s (s.wedgeUnit r figs w) := by
  cases hw : isMu w with
  | true => exact (wedgeUnit_mu hw figs).1
  | false =>
    cases ha : (s.cu w).active with
    | none =>
      rw [wedgeUnit_idle hw ha]
      exact .refl
    | some k =>
      rw [wedgeUnit_active h hw ha]
      exact cuFault_faultWork

/-- A CU whose ACTIVE context takes the watchdog's fault. -/
def wedgedCu (c : Cu) (now : Nat) : Cu := match c.active with | some k => (faultCu c k 4 now).promote | none => c

theorem cu_wedgeUnit (h : s.dueNow r = []) {u : Nat} (hu : isMu u = false) (w figs : Nat) :
    (s.wedgeUnit r figs w).cu u = if u = w then wedgedCu (s.cu u) s.time.now else s.cu u := by
  have hcu : ∀ {a b : State}, a.cus = b.cus → a.cu u = b.cu u := fun e => by rw [State.cu, e]; rfl
  cases hw : isMu w with
  | true =>
    rw [hcu (wedgeUnit_mu hw figs).2, if_neg]
    rintro rfl
    exact Bool.false_ne_true (hu.symm.trans hw)
  | false =>
    cases ha : (s.cu w).active with
    | none =>
      rw [wedgeUnit_idle hw ha]
      split
      next e => rw [wedgedCu, e, ha]
      · rfl
    | some k =>
      rw [wedgeUnit_active h hw ha, hcu cuFault_cus, cu_setCu]
      split
      next e => rw [wedgedCu, e, ha]
      · rfl

/-- Context `k` is FAULTED, on a unit that has no ACTIVE context. -/
def CtxStopped (k : Nat) (c : Cu) : Prop := (c.ctxAt k).st = .faulted ∧ c.active = none

theorem wedgedCu_stopped {c : Cu} {k : Nat} (h : c.active = some k) (now : Nat) : CtxStopped k (wedgedCu c now) := by
  rw [wedgedCu, h]
  refine ⟨((faultCu_ctxAt c k 4 now).places promote_placesOnly).st, ?_⟩
  dsimp only
  rw [promote_placesOnly.rest]
  exact faultCu_active h

theorem wedgedCu_of_stopped {c : Cu} {k : Nat} (h : CtxStopped k c) (now : Nat) : wedgedCu c now = c := by rw [wedgedCu, h.2]

/-- The units of a list take the watchdog's faults, one after another. -/
def unitsWedged (s : State) (r figs : Nat) (l : List Nat) : State := l.foldl (fun (s : State) u => s.wedgeUnit r figs u) s

theorem unitsWedged_faultWork (h : s.dueNow r = []) (figs : Nat) (l : List Nat) : FaultWork s (unitsWedged s r figs l) :=
  foldl_keeps (FaultWork s) _ l s .refl fun _ w a => a.trans (wedgeUnit_faultWork ((a.dueNow r).trans h) w figs)

/-- A unit's ACTIVE context stops at the unit's turn, and no other unit's turn changes that. -/
theorem unitsWedged_stopped (h : s.dueNow r = []) (figs : Nat) {l : List Nat} {u k : Nat} (hl : u ∈ l) (hu : isMu u = false)
    (ha : (s.cu u).active = some k) : CtxStopped k ((unitsWedged s r figs l).cu u) := by
  induction l generalizing s with
  | nil => cases hl
  | cons w l ih =>
    have hw : FaultWork s (s.wedgeUnit r figs w) := wedgeUnit_faultWork h w figs
    have hcu := cu_wedgeUnit h hu w figs
    have hdue := (hw.dueNow r).trans h
    rw [unitsWedged, List.foldl_cons]
    by_cases e : u = w
    · rw [if_pos e] at hcu
      refine (foldl_keeps (fun t : State => t.dueNow r = [] ∧ CtxStopped k (t.cu u)) _ l _ ⟨hdue, hcu ▸ wedgedCu_stopped ha _⟩ ?_).2
      intro t x ht
      obtain ⟨hd, hs⟩ := ht
      refine ⟨((wedgeUnit_faultWork hd x figs).dueNow r).trans hd, ?_⟩
      rw [cu_wedgeUnit hd hu, wedgedCu_of_stopped hs, ite_self]
      exact hs
    · rw [if_neg e] at hcu
      exact ih hdue ((List.mem_cons.mp hl).resolve_left e) (hcu ▸ ha)

theorem mem_foldl_ins {l : List Nat} {u : Nat} (h : u ∈ l) : u ∈ l.foldl NatSet.ins [] := by
  have hm : NatSet.mem (l.foldl NatSet.ins []) u = true :=
    foldl_each (p := fun u (m : NatSet) => NatSet.mem m u = true) (fun m u => (mem_ins m u u).mpr (.inl rfl))
      (fun m w u hu => (mem_ins m w u).mpr (.inr hu)) h []
  simpa [NatSet.mem] using hm

theorem exec_wedgeDeclare : exec (.wedgeDeclare r) s =
    .next (if s.onFigure s.time.now && (s.rgn r).img.isSome && (s.rgn r).wedged = 0 && decide (0 < s.wdogOf r) &&
      decide (s.wdogOf r ≤ (s.rgn r).idle) then s.declareWedge r else s) := rfl

theorem wedgeDeclare_stops (hf : s.onFigure s.time.now = true) (hd : s.dueNow r = []) (hi : (s.rgn r).img.isSome = true)
    (hw : (s.rgn r).wedged = 0) (h0 : 0 < s.wdogOf r) (hn : s.wdogOf r ≤ (s.rgn r).idle) :
    ∃ t, exec (.wedgeDeclare r) s = .next t ∧ (t.rgn r).wedged = 1 ∧ (t.rgn r).idle = 0 ∧ t.flits = s.flits ∧
      ∀ u k, u ∈ s.regionCus r → isMu u = false → (s.cu u).active = some k → (t.cx u k).st = .faulted ∧ (t.cu u).active = none := by
  refine ⟨s.declareWedge r, exec_wedgeDeclare.trans (congrArg _ (if_pos (by simp [hf, hi, hw, h0, hn]))), ?_⟩
  change (((unitsWedged s r (s.rgn r).idle _).updRgn r _).rgn r).wedged = 1 ∧ _
  have hwork := unitsWedged_faultWork hd (s.rgn r).idle ((s.regionCus r ++ s.regionMus r).foldl NatSet.ins [])
  refine ⟨by rw [rgn_updRgn, if_pos rfl], ?_, ?_, fun u k hu hm ha => ?_⟩
  · change (((unitsWedged s r (s.rgn r).idle _).updRgn r _).rgn r).idle = 0
    rw [rgn_updRgn, if_pos rfl]
  · change (unitsWedged s r (s.rgn r).idle _).flits = _
    rw [hwork.rest]
  · exact unitsWedged_stopped hd _ (mem_foldl_ins (List.mem_append_left _ hu)) hm ha

/-! ### The reset of a wedged region (R241) -/

theorem emptyRegion_rgn (s : State) (r : Nat) :
    ((s.emptyRegion r).rgn r).slots = [] ∧ ((s.emptyRegion r).rgn r).dets = [] ∧ ((s.emptyRegion r).rgn r).fence = 0 := by
  unfold State.emptyRegion
  extract_lets blank s1 s2 s3 s4 s5 s6 s7 s8
  clear_value s8
  rw [rgn_updRgn, if_pos rfl]
  exact ⟨rfl, rfl, rfl⟩

theorem exec_regionReset : exec (.regionReset r) s =
    .next (if (s.rgn r).wedged = 1 then (s.emptyRegion r).updRgn r fun g => { g with wedged := 2 } else s) := rfl

theorem regionReset_empties (hw : (s.rgn r).wedged = 1) :
    ∃ t, exec (.regionReset r) s = .next t ∧ (t.rgn r).wedged = 2 ∧ (t.rgn r).slots = [] ∧ (t.rgn r).dets = [] ∧ (t.rgn r).fence = 0 ∧
      t.mem.dram = s.mem.dram ∧ ∀ u k, u ∈ s.regionCus r → t.cx u k = Ctx.empty := by
  have hex := (exec_regionReset (s := s) (r := r)).trans (congrArg _ (if_pos hw))
  obtain ⟨hslots, hdets, hfence⟩ := emptyRegion_rgn s r
  obtain ⟨hcus, -, hdram, -⟩ := emptyRegion_unitsKept s r
  rw [emptyCus_mem] at hdram
  generalize s.emptyRegion r = t at hex hslots hdets hfence hcus hdram
  have hrgn : (t.updRgn r fun g => { g with wedged := 2 }).rgn r = { t.rgn r with wedged := 2 } := by rw [rgn_updRgn, if_pos rfl]
  refine ⟨_, hex, by rw [hrgn], by rw [hrgn]; exact hslots, by rw [hrgn]; exact hdets, by rw [hrgn]; exact hfence, hdram, fun u k hu => ?_⟩
  change (FMap.get Cu.empty t.cus u).ctxAt k = _
  rw [hcus]
  exact cx_emptyCus hu k

theorem regionReset_unwedged (hw : (s.rgn r).wedged ≠ 1) : exec (.regionReset r) s = .next s :=
  exec_regionReset.trans (congrArg _ (if_neg hw))

/-! ### Redirection (R303) -/

theorem exec_redirectionStart : exec (.redirectionStart r) s = .next (if s.onStep s.time.now then s.startRedir r else s) := rfl

theorem redirectionStart_redirects (ho : s.onStep s.time.now = true) (ha : (s.rgn r).redirAsk = true) :
    ∃ t, exec (.redirectionStart r) s = .next t ∧ t = { s with rgns := t.rgns } ∧ (t.rgn r).redir = true ∧ (t.rgn r).redirAsk = false ∧
      (t.rgn r).insts = (s.rgn r).insts.map fun i => if i.kind < 2 then { i with fb := true } else i := by
  have hex := (exec_redirectionStart (s := s) (r := r)).trans (congrArg _ (if_pos ho))
  rw [State.startRedir, if_pos ha] at hex
  refine ⟨_, hex, rfl, ?_, ?_, ?_⟩
  all_goals rw [rgn_updRgn, if_pos rfl]
  rfl

theorem redirectionStart_waits (ho : s.onStep s.time.now = false) : exec (.redirectionStart r) s = .next s :=
  exec_redirectionStart.trans (congrArg _ (if_neg (by simp [ho])))

end

/-- Settles O35: each event by what it brings at its boundary, and by what keeps it from coming. -/
theorem boundaryEvents : Obligations.BoundaryEvents :=
  ⟨fun _ ha hr h => ⟨⟨_, stepBoundary_sweeps ha hr h, rfl⟩, passTo_now _ _, lt_nextStep h, onStep_nextStep h, fun _ => nextStep_le h⟩,
    fun _ _ => ⟨fenceRelease_releases, fenceRelease_waits⟩,
    fun _ _ _ hg => ⟨drainDeclare_declares hg, drainDeclare_waits⟩,
    fun _ _ => wedgeDeclare_stops,
    fun _ _ => ⟨regionReset_empties, regionReset_unwedged⟩,
    fun _ _ => ⟨redirectionStart_redirects, redirectionStart_waits⟩⟩

end Sys2Proof.Proofs
end

section
/-! PROOFS. Pavane: writes of its mode, time loads and edges, and the loss and return of its reference. -/

namespace Sys2Proof.Proofs

open Sys2Proof Sys2Proof.Machine Sys2Proof.Laws

section

variable {s t : State}

/-! ### Fields of PAV_CTL, PAV_STATUS and PAV_SRC -/

/-- A field inside the bits that are written reads as the value written. -/
theorem bits_mergeMask_in (old v : W64) {hi lo p q : Nat} (h : lo ≤ hi + 1) (hp : p < 64) (hin : lo ≤ q ∧ p ≤ hi) :
    (mergeBits old v (maskBits hi lo)).bits p q = v.bits p q := by
  refine Nat.eq_of_testBit_eq fun i => ?_
  rw [testBit_bits, testBit_bits]
  by_cases hi' : i < p + 1 - q
  · rw [bit_mergeBits _ _ _ (by omega), testBit_maskBits h, if_pos (decide_eq_true (by omega))]
  · simp [hi']

/-- A field apart from the bits that are written reads as before. -/
theorem bits_mergeMask_out (old v : W64) {hi lo p q : Nat} (h : lo ≤ hi + 1) (hp : p < 64) (hout : p < lo ∨ hi < q) :
    (mergeBits old v (maskBits hi lo)).bits p q = old.bits p q := by
  refine Nat.eq_of_testBit_eq fun i => ?_
  rw [testBit_bits, testBit_bits]
  by_cases hi' : i < p + 1 - q
  · rw [bit_mergeBits _ _ _ (by omega), testBit_maskBits h, if_neg (by simp; omega)]
  · simp [hi']

theorem reg_setRegBits_ne {o p hi lo n : Nat} (h : p ≠ o) : (s.setRegBits o hi lo n).reg p = s.reg p := by
  rw [setRegBits_eq, reg_setReg, if_neg h]

theorem pavCtl_congr (hp : t.pend.pavCtl = s.pend.pavCtl) (hr : t.reg aPavCtl = s.reg aPavCtl) : t.pavCtl = s.pavCtl := by
  rw [State.pavCtl, State.pavCtl, hp, hr]

theorem pavState_setPav {n : Nat} (h : n < 8) : (s.setPav n).pavState = n := by
  rw [State.pavState, State.regBits, State.setPav, bits_setRegBits_same s _ (by decide) (by decide)]
  exact Nat.mod_eq_of_lt h

theorem bit_setPav {n i : Nat} (h : 2 < i) : ((s.setPav n).reg aPavStatus).bit i = (s.reg aPavStatus).bit i := by
  rw [State.setPav, bit_setRegBits s _ (by decide) (by decide), if_neg (by omega)]

theorem bit_pavFlag_keeps {i j : Nat} (hj : j < 64) (h : (s.reg aPavStatus).bit i = true) : ((s.pavFlag j).reg aPavStatus).bit i = true := by
  rw [State.pavFlag, State.setRegBit, bit_setRegBits s _ (le_refl j) hj]
  split
  next he => simp [show i = j by omega]
  · exact h

theorem pavState_pavFlag {i : Nat} (h : 2 < i) (hi : i < 64) : (s.pavFlag i).pavState = s.pavState :=
  bits_setRegBit_apart s aPavStatus hi (.inl h)

theorem reg_pavFlag {i o : Nat} (h : o ≠ aPavStatus) : (s.pavFlag i).reg o = s.reg o := reg_setRegBits_ne h

/-! ### Writes of PAV_CTL (R253) -/

/-- The bits of PAV_CTL that a write changes: MODE 3 leaves the MODE field. -/
theorem reg_pavWrite (w : W64) :
    (s.pavWrite w).reg aPavCtl = mergeBits (s.reg aPavCtl) w (if w.bits 1 0 = 3 then maskBits 3 2 else maskBits 3 0) := by
  have hmask : (maskBits 3 2 + if w.bits 1 0 = 3 then 0 else maskBits 1 0) = if w.bits 1 0 = 3 then maskBits 3 2 else maskBits 3 0 := by
    split
    · rfl
    · decide
  rw [← hmask]
  exact reg_setReg_same s _ _

theorem pavCtl_pavWrite (w : W64) : (s.pavWrite w).pavCtl = s.pavCtl := by
  have hpend : (s.pavWrite w).pend.pavCtl = if (s.pavWrite w).reg aPavCtl = s.pavCtl then none else some s.pavCtl := by
    rw [show (s.pavWrite w).reg aPavCtl = _ from reg_setReg_same s _ _]
    rfl
  rw [State.pavCtl, hpend]
  split
  next he =>
    split at he
    · cases he
    · cases he
      rfl
  next he =>
    split at he
    · assumption
    · cases he

theorem pavCtlWrite_pends {w : W64} (ho : s.pfOpen aPavCtl = true) (hb : w.bit 4 = false) :
    ∃ t, exec (.pavCtlWrite w) s = .next t ∧ t = { s with regs := t.regs, pend := t.pend } ∧ t.pavCtl = s.pavCtl ∧
      (t.reg aPavCtl).bits 3 2 = w.bits 3 2 ∧ (t.reg aPavCtl).bits 1 0 = if w.bits 1 0 = 3 then (s.reg aPavCtl).bits 1 0 else w.bits 1 0 := by
  have hex : exec (.pavCtlWrite w) s = s.pfWrite aPavCtl (if w.bit 4 then (s.pavWrite w).timeLoad else s.pavWrite w) := rfl
  rw [pfWrite_open ho, hb, if_neg Bool.false_ne_true] at hex
  refine ⟨_, hex, rfl, pavCtl_pavWrite w, ?_, ?_⟩
  · rw [reg_pavWrite]
    split
    · exact bits_mergeMask_in _ _ (by decide) (by decide) (by decide)
    · exact bits_mergeMask_in _ _ (by decide) (by decide) (by decide)
  · rw [reg_pavWrite]
    split
    · exact bits_mergeMask_out _ _ (by decide) (by decide) (by decide)
    · exact bits_mergeMask_in _ _ (by decide) (by decide) (by decide)

/-! ### Device time is set (R249, R252, R256) -/

theorem cancelGrid_rest : s.cancelGrid = { s with regs := s.cancelGrid.regs, pend := { s.pend with gridAt := none } } := by
  unfold State.cancelGrid
  split
  · rfl
  next h =>
    rw [Option.not_isSome_iff_eq_none] at h
    rw [← h]

theorem reg_cancelGrid {o : Nat} (h : o ≠ aPavStatus) : s.cancelGrid.reg o = s.reg o := by
  unfold State.cancelGrid
  split
  · exact reg_pavFlag h
  · rfl

theorem bit_cancelGrid_keeps {i : Nat} (h : (s.reg aPavStatus).bit i = true) : (s.cancelGrid.reg aPavStatus).bit i = true := by
  unfold State.cancelGrid
  split
  · exact bit_pavFlag_keeps (by decide) h
  · exact h

theorem pavCtl_cancelGrid : s.cancelGrid.pavCtl = s.pavCtl :=
  pavCtl_congr (by rw [cancelGrid_rest]) (reg_cancelGrid (by decide))

theorem setTime_rest (x : Nat) : s.setTime x =
    { s with time := { s.time with now := x % 2 ^ 64 / 8 * 8 }, regs := (s.setTime x).regs, pend := { s.pend with gridAt := none } } := by
  rw [State.setTime]
  exact cancelGrid_rest

theorem setTime_done (x : Nat) : ((s.setTime x).reg aPavStatus).bit 7 = true :=
  bit_cancelGrid_keeps (bit_pavFlag (by decide))

/-- The value of a time load is loadable: everything is EMPTY, Pavane follows no source, and an EPOCH edge can fall on it. -/
theorem timeLoad_eq : s.timeLoad =
    if !s.allEmpty || s.pavMode == 1 || (s.pavEpoch && (s.reg aPavTlval).toNat % max (s.regBits aPavPer 47 0) 1 != 0)
    then s.cancelGrid.pavFlag 8
    else if s.pavMode = 0 && s.pavEpoch then { s.cancelGrid with pend := { s.cancelGrid.pend with tload := true } }
    else s.cancelGrid.setTime (s.reg aPavTlval).toNat := by
  have hempty : s.cancelGrid.allEmpty = s.allEmpty := by rw [cancelGrid_rest]; rfl
  unfold State.timeLoad State.pavMode State.pavEpoch State.regBits
  dsimp only
  rw [hempty, pavCtl_cancelGrid, reg_cancelGrid (by decide), reg_cancelGrid (by decide)]

theorem exec_tload (ho : s.pfOpen aPavCtl = true) : exec .tload s = .next s.timeLoad := pfWrite_open ho _

theorem tload_refused (ho : s.pfOpen aPavCtl = true) (h : s.allEmpty = false ∨ s.pavMode = 1) :
    ∃ t, exec .tload s = .next t ∧ t = { s with regs := t.regs, pend := { s.pend with gridAt := none } } ∧
      (t.reg aPavStatus).bit 8 = true := by
  rw [exec_tload ho, timeLoad_eq, if_pos (by rcases h with h | h <;> simp [h])]
  refine ⟨_, rfl, ?_, bit_pavFlag (by decide)⟩
  conv_lhs => rw [cancelGrid_rest]
  rfl

theorem tload_sets (ho : s.pfOpen aPavCtl = true) (ha : s.allEmpty = true) (hm : s.pavMode ≠ 1) (he : s.pavEpoch = false) :
    ∃ t, exec .tload s = .next t ∧ t.time = { s.time with now := (s.reg aPavTlval).toNat / 8 * 8 } ∧ (t.reg aPavStatus).bit 7 = true ∧
      t.pend = { s.pend with gridAt := none } ∧ t.mem = s.mem ∧ t.cus = s.cus := by
  rw [exec_tload ho, timeLoad_eq, if_neg (by simp [ha, hm, he]), if_neg (by simp [he])]
  have hlt : (s.reg aPavTlval).toNat % 2 ^ 64 = (s.reg aPavTlval).toNat := Nat.mod_eq_of_lt (BitVec.isLt _)
  refine ⟨_, rfl, ?_, setTime_done _, ?_, ?_, ?_⟩
  · rw [setTime_rest, cancelGrid_rest, hlt]
  all_goals rw [setTime_rest, cancelGrid_rest]

theorem tload_pends (ho : s.pfOpen aPavCtl = true) (ha : s.allEmpty = true) (hm : s.pavMode = 0) (he : s.pavEpoch = true)
    (hv : (s.reg aPavTlval).toNat % max (s.regBits aPavPer 47 0) 1 = 0) :
    ∃ t, exec .tload s = .next t ∧ t.time = s.time ∧ t.pend.tload = true := by
  rw [exec_tload ho, timeLoad_eq, if_neg (by simp [ha, hm, hv]), if_pos (by simp [hm, he])]
  exact ⟨_, rfl, by rw [cancelGrid_rest], rfl⟩

theorem followerStep_steps {x : Nat} (hm : s.pavMode = 1) (hp : s.pavState = 0) (hu : s.sourceUp = true) (ha : s.allEmpty = true) :
    ∃ t, exec (.followerStep x) s = .next t ∧ t.time = { s.time with now := x % 2 ^ 64 / 8 * 8 } ∧ (t.reg aPavStatus).bit 7 = true := by
  refine ⟨s.setTime x, congrArg Host.Outcome.next (if_pos (by simp [hm, hp, hu, ha])), by rw [setTime_rest], setTime_done x⟩

theorem followerStep_waits {x : Nat} (h : s.allEmpty = false ∨ s.pavMode ≠ 1) : exec (.followerStep x) s = .next s :=
  congrArg Host.Outcome.next (if_neg (by rcases h with h | h <;> simp [h]))

/-! ### The loss and return of the reference (R254, R257, R258) -/

theorem refLost_lost (hm : s.pavMode ≠ 2) (hp : s.pavState = 1 ∨ s.pavState = 2) (hb : s.pavMode ≠ 1 ∨ s.bakFit = false) :
    s.refLost.pavState = 3 ∧ (s.refLost.reg aPavStatus).bit 3 = true ∧
      s.refLost = { s with regs := s.refLost.regs, time := { s.time with lostFor := some 0 } } := by
  have he : s.refLost = ((s.pavFlag 3).setPav 3).updTime fun t => { t with lostFor := some 0 } := by
    rw [State.refLost, if_neg (by rcases hp with hp | hp <;> simp [hm, hp]), if_neg (by rcases hb with hb | hb <;> simp [hb])]
  rw [he]
  refine ⟨pavState_setPav (s := s.pavFlag 3) (by decide), ?_, rfl⟩
  exact (bit_setPav (s := s.pavFlag 3) (by decide)).trans (bit_pavFlag (by decide))

theorem exec_referenceLoss : exec .referenceLoss s = .next s.refLost := rfl

theorem referenceLoss_ignored (h : s.pavMode = 2 ∨ s.pavState = 0 ∨ 3 ≤ s.pavState) : exec .referenceLoss s = .next s := by
  rw [exec_referenceLoss, State.refLost, if_pos]
  rcases h with h | h
  · simp [h]
  · simp [show s.pavState ≠ 1 by omega, show s.pavState ≠ 2 by omega]

theorem referenceLoss_toBackup (hp : s.pavState = 1 ∨ s.pavState = 2) (hm : s.pavMode = 1) (hb : s.bakFit = true) :
    exec .referenceLoss s = .next { s with time := { s.time with toBak := true } } := by
  rw [exec_referenceLoss, State.refLost, if_neg (by rcases hp with hp | hp <;> simp [hm, hp]), if_pos (by simp [hm, hb])]
  rfl

theorem referenceLoss_lost (hm : s.pavMode ≠ 2) (hp : s.pavState = 1 ∨ s.pavState = 2) (hb : s.pavMode ≠ 1 ∨ s.bakFit = false) :
    ∃ t, exec .referenceLoss s = .next t ∧ t.pavState = 3 ∧ (t.reg aPavStatus).bit 3 = true ∧
      t = { s with regs := t.regs, time := { s.time with lostFor := some 0 } } :=
  ⟨_, rfl, refLost_lost hm hp hb⟩

theorem holdoverExpiry_freeRuns (h : s.pavState = 3) :
    ∃ t, exec .holdoverExpiry s = .next t ∧ t = { s with regs := t.regs } ∧ t.pavState = 4 :=
  ⟨_, congrArg Host.Outcome.next (if_pos h), rfl, pavState_setPav (by decide)⟩

theorem holdoverExpiry_ignored (h : s.pavState ≠ 3) : exec .holdoverExpiry s = .next s := congrArg Host.Outcome.next (if_neg h)

theorem referenceRequalify_slews (hm : s.pavMode ≠ 2) (hl : s.lossHolds = false) (hp : s.pavState = 3 ∨ s.pavState = 4) :
    ∃ t, exec .referenceRequalify s = .next t ∧ t = { s with regs := t.regs } ∧ t.pavState = 2 :=
  ⟨_, congrArg Host.Outcome.next (if_pos (by rcases hp with hp | hp <;> simp [hm, hl, hp])), rfl, pavState_setPav (by decide)⟩

theorem referenceRequalify_waits (h : s.pavMode = 2 ∨ s.lossHolds = true) : exec .referenceRequalify s = .next s :=
  congrArg Host.Outcome.next (if_neg (by rcases h with h | h <;> simp [h]))

/-- When PAV_LOCK takes effect: what R254 asks of ACQUIRE, or of SLEW, in the mode. -/
def LockHolds (s : State) : Prop :=
  s.pavMode = 0 ∧ s.pavState = 0 ∧ (s.pavEpoch = true → 16 ≤ s.time.epochGood) ∨
    s.pavMode = 0 ∧ s.pavState = 2 ∧ (s.pavEpoch = true → (s.reg aPavOffset).toInt.natAbs ≤ 2) ∨
    s.pavMode = 1 ∧ (s.pavState = 0 ∨ s.pavState = 2) ∧ s.sourceUp = true ∧ (s.reg aPavOffset).toInt.natAbs ≤ 2

theorem pavLock_locks (h : LockHolds s) : ∃ t, exec .pavLock s = .next t ∧ t = { s with regs := t.regs } ∧ t.pavState = 1 := by
  refine ⟨s.setPav 1, congrArg Host.Outcome.next (if_pos ?_), rfl, pavState_setPav (by decide)⟩
  rcases h with ⟨hm, hp, he⟩ | ⟨hm, hp, he⟩ | ⟨hm, hp, hu, hn⟩
  · cases hb : s.pavEpoch
    · simp [hm, hp]
    · simp [hm, hp, he hb]
  · cases hb : s.pavEpoch
    · simp [hm, hp]
    · simp [hm, hp, he hb]
  · rcases hp with hp | hp
    · simp [hm, hp, hu, hn]
    · simp [hm, hp, hu, hn]

theorem pavLock_waits (hm : s.pavMode = 0) (hp : s.pavState = 0) (he : s.pavEpoch = true) (hg : s.time.epochGood < 16) :
    exec .pavLock s = .next s :=
  congrArg Host.Outcome.next (if_neg (by simp [hm, hp, he, hg]))

theorem pavLock_ignored (h0 : s.pavState ≠ 0) (h2 : s.pavState ≠ 2) : exec .pavLock s = .next s :=
  congrArg Host.Outcome.next (if_neg (by simp [h0, h2]))

/-! ### EPOCH edges (R253–R257, R268) -/

theorem epochRise_regionsOnly : RegionsOnly s s.epochRise := by
  unfold State.epochRise
  split
  · exact List.foldlRecOn (motive := RegionsOnly s) _ _ rfl fun _ h _ _ => h.trans latchWhere_regionsOnly
  · rfl

/-- The error of an edge at device time `x` against the nearest multiple of `per`. -/
def edgeError (per x : Nat) : Int := if 2 * (x % per) ≤ per then (x % per : Nat) else (x % per : Nat) - (per : Int)

/-- What an edge whose error is measured does. -/
def edgeMeasured (s : State) (x : Nat) : State :=
  let err := edgeError (max (s.regBits aPavPer 47 0) 1) x
  let u := s.setReg aPavOffset (BitVec.ofInt 64 err)
  if err.natAbs ≤ 32 then u.updTime fun x => { x with epochMiss := 0, epochGood := min (x.epochGood + 1) 16 }
  else
    let v := (u.pavFlag 4).updTime fun x => { x with epochMiss := x.epochMiss + 1, epochGood := 0 }
    if 3 ≤ v.time.epochMiss then v.refLost else v

theorem exec_epochEdge (x : Nat) : exec (.epochEdge x) s = .next (
    if !(s.pavMode == 0 && s.pavEpoch) then s.epochRise
    else if s.pend.tload then
      let u : State := { s.epochRise with pend := { s.pend with tload := false } }
      if s.allEmpty then u.setTime (s.reg aPavTlval).toNat else u.pavFlag 8
    else edgeMeasured s.epochRise x) := by
  have h := (epochRise_regionsOnly (s := s)).eq
  have hex : exec (.epochEdge x) s = execEpochEdge x s := rfl
  rw [hex]
  unfold execEpochEdge
  generalize s.epochRise = u at h
  have hm : u.pavMode = s.pavMode := by rw [h]; rfl
  have he : u.pavEpoch = s.pavEpoch := by rw [h]; rfl
  have hp : u.pend = s.pend := by rw [h]
  have ha : u.allEmpty = s.allEmpty := by rw [h]; rfl
  have hr : u.reg aPavTlval = s.reg aPavTlval := by rw [h]; rfl
  dsimp only
  rw [hm, he, hp]
  split
  · rfl
  · split
    · rw [← ha, ← hr]; rfl
    · unfold edgeMeasured edgeError
      exact (apply_ite Host.Outcome.next _ _ _).symm

theorem epochEdge_unused {x : Nat} (he : s.pavEpoch = false) : exec (.epochEdge x) s = .next s := by
  rw [exec_epochEdge, if_pos (by simp [he]), State.epochRise, if_neg (by simp [he])]

theorem epochEdge_noRoot {x : Nat} (hm : s.pavMode ≠ 0) : exec (.epochEdge x) s = .next s.epochRise := by
  rw [exec_epochEdge, if_pos (by simp [hm])]

theorem epochEdge_loads {x : Nat} (hm : s.pavMode = 0) (he : s.pavEpoch = true) (ht : s.pend.tload = true) (ha : s.allEmpty = true) :
    ∃ t, exec (.epochEdge x) s = .next t ∧ t.time = { s.time with now := (s.reg aPavTlval).toNat / 8 * 8 } ∧ t.pend.tload = false := by
  rw [exec_epochEdge, if_neg (by simp [hm, he]), if_pos ht, if_pos ha]
  have hlt : (s.reg aPavTlval).toNat % 2 ^ 64 = (s.reg aPavTlval).toNat := Nat.mod_eq_of_lt (BitVec.isLt _)
  refine ⟨_, rfl, ?_, ?_⟩
  · rw [setTime_rest, hlt, epochRise_regionsOnly.eq]
  · rw [setTime_rest]

theorem epochEdge_measures {x : Nat} (hm : s.pavMode = 0) (he : s.pavEpoch = true) (ht : s.pend.tload = false) :
    exec (.epochEdge x) s = .next (edgeMeasured s.epochRise x) := by
  rw [exec_epochEdge, if_neg (by simp [hm, he]), if_neg (by simp [ht])]

theorem edgeMeasured_good {x : Nat} (h : (edgeError (max (s.regBits aPavPer 47 0) 1) x).natAbs ≤ 32) :
    edgeMeasured s x = { s with
        regs := (edgeMeasured s x).regs, time := { s.time with epochMiss := 0, epochGood := min (s.time.epochGood + 1) 16 } } ∧
      (edgeMeasured s x).reg aPavOffset = BitVec.ofInt 64 (edgeError (max (s.regBits aPavPer 47 0) 1) x) := by
  rw [edgeMeasured, if_pos h]
  exact ⟨rfl, reg_setReg_same s _ _⟩

/-- The state after an edge that misses, before the third one loses the reference. -/
def edgeMissed (s : State) (x : Nat) : State :=
  ((s.setReg aPavOffset (BitVec.ofInt 64 (edgeError (max (s.regBits aPavPer 47 0) 1) x))).pavFlag 4).updTime fun x =>
    { x with epochMiss := x.epochMiss + 1, epochGood := 0 }

theorem edgeMeasured_missed {x : Nat} (h : 32 < (edgeError (max (s.regBits aPavPer 47 0) 1) x).natAbs) :
    edgeMeasured s x = if 3 ≤ s.time.epochMiss + 1 then (edgeMissed s x).refLost else edgeMissed s x := by
  rw [edgeMeasured, if_neg (Nat.not_le.mpr h)]
  rfl

theorem pavCtl_edgeMissed (x : Nat) : (edgeMissed s x).pavCtl = s.pavCtl :=
  pavCtl_congr rfl ((reg_pavFlag (by decide)).trans (by rw [reg_setReg, if_neg (by decide)]))

theorem pavState_edgeMissed (x : Nat) : (edgeMissed s x).pavState = s.pavState := by
  refine (pavState_pavFlag (by decide) (by decide)).trans ?_
  rw [State.pavState, State.regBits, reg_setReg, if_neg (by decide)]
  rfl

theorem RegionsOnly.reg (h : RegionsOnly s t) (o : Nat) : t.reg o = s.reg o := by rw [h.eq]; rfl

theorem RegionsOnly.time (h : RegionsOnly s t) : t.time = s.time := by rw [h.eq]

theorem RegionsOnly.pavCtl (h : RegionsOnly s t) : t.pavCtl = s.pavCtl := by rw [h.eq]; rfl

/-- The error of the edge does not depend on the detectors that the edge reaches. -/
theorem per_epochRise : s.epochRise.regBits aPavPer 47 0 = s.regBits aPavPer 47 0 := by
  rw [State.regBits, State.regBits, epochRise_regionsOnly.reg]

theorem epochEdge_good {x : Nat} (hm : s.pavMode = 0) (he : s.pavEpoch = true) (ht : s.pend.tload = false)
    (h : (edgeError (max (s.regBits aPavPer 47 0) 1) x).natAbs ≤ 32) :
    ∃ t, exec (.epochEdge x) s = .next t ∧ t = { s.epochRise with
        regs := t.regs, time := { s.time with epochMiss := 0, epochGood := min (s.time.epochGood + 1) 16 } } ∧
      t.reg aPavOffset = BitVec.ofInt 64 (edgeError (max (s.regBits aPavPer 47 0) 1) x) := by
  rw [← per_epochRise] at h ⊢
  obtain ⟨hrest, hreg⟩ := edgeMeasured_good h
  rw [epochRise_regionsOnly.time] at hrest
  exact ⟨_, epochEdge_measures hm he ht, hrest, hreg⟩

theorem epochEdge_misses {x : Nat} (hm : s.pavMode = 0) (he : s.pavEpoch = true) (ht : s.pend.tload = false)
    (h : 32 < (edgeError (max (s.regBits aPavPer 47 0) 1) x).natAbs) (hn : s.time.epochMiss < 2) :
    ∃ t, exec (.epochEdge x) s = .next t ∧ (t.reg aPavStatus).bit 4 = true ∧
      t = { s.epochRise with regs := t.regs, time := { s.time with epochMiss := s.time.epochMiss + 1, epochGood := 0 } } := by
  rw [← per_epochRise] at h
  have htime := epochRise_regionsOnly.time (s := s)
  refine ⟨edgeMissed s.epochRise x, ?_, bit_pavFlag (by decide), ?_⟩
  · rw [epochEdge_measures hm he ht, edgeMeasured_missed h, htime, if_neg (by omega)]
  · rw [← htime]
    rfl

theorem epochEdge_loses {x : Nat} (hm : s.pavMode = 0) (he : s.pavEpoch = true) (ht : s.pend.tload = false)
    (h : 32 < (edgeError (max (s.regBits aPavPer 47 0) 1) x).natAbs) (hn : 2 ≤ s.time.epochMiss)
    (hp : s.pavState = 1 ∨ s.pavState = 2) :
    ∃ t, exec (.epochEdge x) s = .next t ∧ t.pavState = 3 ∧ (t.reg aPavStatus).bit 3 = true ∧ t.time.now = s.time.now := by
  rw [← per_epochRise] at h
  have htime := epochRise_regionsOnly.time (s := s)
  have hmode : (edgeMissed s.epochRise x).pavMode = 0 := by
    rw [State.pavMode, pavCtl_edgeMissed, epochRise_regionsOnly.pavCtl]
    exact hm
  have hstate : (edgeMissed s.epochRise x).pavState = s.pavState := by
    rw [pavState_edgeMissed, State.pavState, State.regBits, epochRise_regionsOnly.reg]
    rfl
  obtain ⟨h3, hlost, hrest⟩ := refLost_lost (s := edgeMissed s.epochRise x) (by simp [hmode]) (by rwa [hstate]) (.inl (by simp [hmode]))
  refine ⟨(edgeMissed s.epochRise x).refLost, ?_, h3, hlost, ?_⟩
  · rw [epochEdge_measures hm he ht, edgeMeasured_missed h, htime, if_pos (by omega)]
  · rw [hrest, ← htime]
    rfl

/-! ### Writes of PAV_SRC (R255) -/

theorem exec_pavSrcWrite (w : W64) (ho : s.pfOpen aPavSrc = true) : exec (.pavSrcWrite w) s = .next (s.pavSrcWrite w) := pfWrite_open ho _

theorem pavSrcWrite_refused {w : W64} (ho : s.pfOpen aPavSrc = true) (h6 : w.bit 6 = true)
    (h : s.linkFused (w.bits 5 0) = true ∨ w.bit 13 = true ∧ w.bits 5 0 = w.bits 12 7) :
    ∃ t, exec (.pavSrcWrite w) s = .next t ∧ t = { s with regs := t.regs } ∧ t.reg aPavSrc = s.reg aPavSrc ∧
      (t.reg aPavStatus).bit 11 = true := by
  refine ⟨s.pavFlag 11, ?_, rfl, reg_pavFlag (by decide), bit_pavFlag (by decide)⟩
  rw [exec_pavSrcWrite w ho, State.pavSrcWrite, if_pos]
  rcases h with h | ⟨h, he⟩
  · simp [h6, h]
  · simp [h6, h, he]

theorem pavSrcWrite_taken {w : W64} (ho : s.pfOpen aPavSrc = true) (hp : s.linkFused (w.bits 5 0) = false)
    (hb : s.linkFused (w.bits 12 7) = false) (hne : w.bits 5 0 ≠ w.bits 12 7) :
    ∃ t, exec (.pavSrcWrite w) s = .next t ∧ t = { s with regs := t.regs } ∧ (t.reg aPavSrc).bits 13 0 = w.bits 13 0 ∧
      (t.reg aPavSrc).bit 14 = (w.bit 13 && (s.reg aPavSrc).bit 14) := by
  have hmask : (maskBits 13 0 + if w.bit 13 then 0 else maskBits 14 14) = if w.bit 13 then maskBits 13 0 else maskBits 14 0 := by
    split
    · rfl
    · decide
  have hlow : (w &&& BitVec.ofNat 64 (maskBits 13 0)).bits 13 0 = w.bits 13 0 := by
    refine Nat.eq_of_testBit_eq fun i => ?_
    rw [testBit_bits, testBit_bits]
    by_cases hi : i < 14
    · have hm : (BitVec.ofNat 64 (maskBits 13 0)).getLsbD i = true := by
        rw [BitVec.getLsbD_ofNat, testBit_maskBits (by decide)]
        simp
        omega
      simp [W64.bit, hm, hi]
    · simp [hi]
  have h14 : (w &&& BitVec.ofNat 64 (maskBits 13 0)).bit 14 = false := by
    simp [W64.bit, maskBits]
  refine ⟨_, exec_pavSrcWrite w ho, ?_⟩
  rw [State.pavSrcWrite, if_neg (by simp [hp, hb, hne]), hmask]
  refine ⟨rfl, ?_, ?_⟩
  · rw [reg_setReg_same]
    split
    · exact (bits_mergeMask_in _ _ (by decide) (by decide) (by decide)).trans hlow
    · exact (bits_mergeMask_in _ _ (by decide) (by decide) (by decide)).trans hlow
  · rw [reg_setReg_same]
    cases hw : w.bit 13
    · rw [if_neg Bool.false_ne_true, bit_mergeBits _ _ _ (by decide), testBit_maskBits (by decide), if_pos (by decide), h14]
      rfl
    · rw [if_pos rfl, bit_mergeBits _ _ _ (by decide), testBit_maskBits (by decide), if_neg (by decide)]
      simp

end

/-- Settles O47: each event by what it does where it is taken, refused, pending or ignored. -/
theorem pavaneClock : Obligations.PavaneClock :=
  ⟨fun _ _ => pavCtlWrite_pends,
    fun _ ho => ⟨tload_refused ho, tload_sets ho, tload_pends ho⟩,
    fun _ _ => ⟨epochEdge_unused, epochEdge_noRoot, epochEdge_loads,
      fun hm he ht => ⟨epochEdge_good hm he ht, epochEdge_misses hm he ht, epochEdge_loses hm he ht⟩⟩,
    fun _ => ⟨pavLock_locks, pavLock_waits, pavLock_ignored⟩,
    fun _ => ⟨referenceLoss_ignored, fun hm hp => ⟨referenceLoss_toBackup hp, referenceLoss_lost hm hp⟩⟩,
    fun _ => ⟨holdoverExpiry_freeRuns, holdoverExpiry_ignored, referenceRequalify_slews, referenceRequalify_waits⟩,
    fun _ _ => ⟨followerStep_steps, followerStep_waits⟩,
    fun _ _ ho => ⟨pavSrcWrite_refused ho, pavSrcWrite_taken ho⟩⟩

end Sys2Proof.Proofs
end

section
/-! PROOFS. The schedule's actions on time: deadlines, detectors and their instances, phase marks, slot windows, and the swap of banks. -/

namespace Sys2Proof.Proofs

open Sys2Proof Sys2Proof.Machine Sys2Proof.Laws

section

variable {s t v : State} {r : Nat}

/-! ### Trace records, and the entries that are read (R455, R530) -/

theorem emitTrace_rest (s : State) (r d kind x y ce data : Nat) (h : Option W64) : s.emitTrace r d kind x y ce data h =
    { s with rgns := (s.emitTrace r d kind x y ce data h).rgns, traces := (s.emitTrace r d kind x y ce data h).traces } := by
  unfold State.emitTrace
  split
  · dsimp only
    split
    · rfl
    · rfl
  · rfl

/-- Only registers, the error log, trace records and the regions differ. -/
def RecordsOnly (s t : State) : Prop := t = { s with regs := t.regs, log := t.log, rgns := t.rgns, traces := t.traces }

theorem RecordsOnly.eq (a : RecordsOnly s t) : t = { s with regs := t.regs, log := t.log, rgns := t.rgns, traces := t.traces } := a

theorem RecordsOnly.trans (a : RecordsOnly s t) (b : RecordsOnly t v) : RecordsOnly s v :=
  Eq.trans b.eq (by conv_lhs => rw [a.eq])

theorem RegionsOnly.recordsOnly (a : RegionsOnly s t) : RecordsOnly s t := by
  rw [a.eq]
  rfl

theorem updRgn_recordsOnly {f : Region → Region} : RecordsOnly s (s.updRgn r f) := rfl

/-- Only registers, the error log, trace records and the regions' counts differ. -/
structure Noted (s t : State) : Prop where
  rest : RecordsOnly s t
  rgns : ∀ q, t.rgn q = { s.rgn q with ctr := (t.rgn q).ctr, trLost := (t.rgn q).trLost }

theorem Noted.refl : Noted s s := ⟨rfl, fun _ => rfl⟩

theorem Noted.trans (a : Noted s t) (b : Noted t v) : Noted s v where
  rest := a.rest.trans b.rest
  rgns q := (b.rgns q).trans (by conv_lhs => rw [a.rgns q])

theorem emitTrace_noted {d kind x y ce data : Nat} {h : Option W64} : Noted s (s.emitTrace r d kind x y ce data h) where
  rest := by
    rw [emitTrace_rest]
    rfl
  rgns := emitTrace_announced.rgns

theorem logRec_noted {src kind synd whr : Nat} {own : Option (Nat × Nat)} : Noted s (s.logRec src kind synd whr own) where
  rest := by
    rw [logRec_rest]
    rfl
  rgns q := by rw [State.rgn, logRec_rgns]; rfl

theorem readEnt_noted {i : Nat} : Noted s (s.readEnt r i).2 := by
  have hn : Noted s (s.noopSched r) := ⟨rfl, (updRgn_announced rfl).rgns⟩
  unfold State.readEnt
  dsimp only
  split
  · exact hn.trans logRec_noted
  · exact .refl

theorem armTimers_noted {kind det t0 : Nat} : Noted s (s.armTimers r kind det t0).2 :=
  foldl_keeps (fun z : List Timer × State => Noted s z.2) _ _ _ .refl fun _ _ h => h.trans readEnt_noted

/-! ### Instances (R268, R270) -/

/-- What becomes of one of a region's instances where a change leaves it in its place. -/
theorem inst_updInst {id : Nat} {f : Inst → Inst} (hf : ∀ i, (f i).id = i.id) : (s.updInst r id f).inst r id = (s.inst r id).map f := by
  have hp : (fun i : Inst => i.id == id) ∘ (fun i => if i.id == id then f i else i) = fun i => i.id == id := funext fun i => by
    rw [Function.comp_apply]
    split
    · rw [hf]
    · rfl
  rw [State.inst, State.updInst, rgn_updRgn, if_pos rfl, List.find?_map, hp, State.inst]
  cases hi : (s.rgn r).insts.find? fun i => i.id == id with
  | none => rfl
  | some i => exact congrArg some (if_pos (List.find?_some hi))

theorem Noted.inst (h : Noted s t) (id : Nat) : t.inst r id = s.inst r id := by
  rw [State.inst, h.rgns]
  rfl

/-- Instance `i` began in region `r`; besides, only counts, records and the regions differ, the region's detectors not among it. -/
structure InstBegun (r : Nat) (i : Inst) (s t : State) : Prop where
  rest : RecordsOnly s t
  insts : (t.rgn r).insts = (s.rgn r).insts ++ [i]
  dets : (t.rgn r).dets = (s.rgn r).dets

theorem beginWave_regionsOnly : RegionsOnly s (s.beginWave r) := by
  unfold State.beginWave
  split
  · rfl
  · rfl

theorem beginWave_keeps : ((s.beginWave r).rgn r).insts = (s.rgn r).insts ∧ ((s.beginWave r).rgn r).dets = (s.rgn r).dets := by
  unfold State.beginWave
  split
  · rw [rgn_updRgn, if_pos rfl]
    exact ⟨rfl, rfl⟩
  · exact ⟨rfl, rfl⟩

theorem InstBegun.beginWave {i : Inst} (h : InstBegun r i s t) : InstBegun r i s (t.beginWave r) where
  rest := h.rest.trans beginWave_regionsOnly.recordsOnly
  insts := beginWave_keeps.1.trans h.insts
  dets := beginWave_keeps.2.trans h.dets

/-- A new one begins now, behind the other instances of its region. -/
theorem beginInst_begins (s : State) (r kind : Nat) (h : W64) (d : Option Nat) (det : Nat) :
    ∃ i, InstBegun r i s (s.beginInst r kind h d det) ∧ i.kind = kind ∧ i.handle = h ∧ i.deadline = d ∧ i.t0 = s.time.now := by
  unfold State.beginInst
  extract_lets t0 z s1 g i
  have h1 : Noted s s1 := armTimers_noted
  clear_value s1
  refine ⟨i, ⟨?_, ?_, ?_⟩, rfl, rfl, rfl, rfl⟩
  · exact (h1.rest.trans updRgn_recordsOnly).trans emitTrace_noted.rest
  · rw [emitTrace_noted.rgns, rgn_updRgn, if_pos rfl, h1.rgns]
  · rw [emitTrace_noted.rgns, rgn_updRgn, if_pos rfl, h1.rgns]

/-! ### DEADLINE (R270, R303) -/

/-- The latest device time at which the check of a DEADLINE may stand, as the check reads it. -/
def deadlineReach (s : State) (f : Fire) : Nat := s.time.now + f.op.bits 31 16 * s.cfg.stepdt + 8 * f.op.bits 47 32

/-- The DEADLINE of one of the instances has failed: it is traced and marked, and redirection is asked for where the operand says so. -/
def deadlineMissed (s : State) (f : Fire) (id : Nat) : State :=
  let u := (s.emitTrace f.region (s.traceDie f.region) 6 0 0 0 f.index (s.flightHandle f.region)).updInst f.region id (failInst (f.op.bits 3 2))
  if f.op.bits 3 2 % 2 = 1 then u.askRedirect f.region else u

theorem exec_deadline {f : Fire} {id d : Nat} {i : Inst} (hid : f.inst = some id) (hb : f.base = 2) (hi : s.inst f.region id = some i)
    (hd : i.deadline = some d) (hc : f.op.bits 1 0 = 0) :
    exec (.deadline f) s = .next (if d < deadlineReach s f then deadlineMissed s f id else s) := by
  have hex : exec (.deadline f) s = .next (s.actDeadline f) := rfl
  have hcond : s.deadlineCond f = true := by simp [State.deadlineCond, hc]
  rw [hex, State.actDeadline, hcond, hid, hb]
  simp only [Option.bind_some, hi, hd]
  by_cases hlt : d < deadlineReach s f
  · rw [if_pos hlt, if_neg (by simpa [deadlineReach] using hlt)]
    rfl
  · rw [if_neg hlt, if_pos (by simpa [deadlineReach] using hlt)]
    rfl

theorem deadlineMissed_marks {f : Fire} {id : Nat} {i : Inst} (hi : s.inst f.region id = some i) :
    deadlineMissed s f id = { s with rgns := (deadlineMissed s f id).rgns, traces := (deadlineMissed s f id).traces } ∧
      (deadlineMissed s f id).inst f.region id = some (if f.op.bits 3 2 = 0 then { i with late := true } else { i with fb := true }) ∧
      (((deadlineMissed s f id).rgn f.region).redirAsk = true ↔ f.op.bits 3 2 % 2 = 1 ∨ (s.rgn f.region).redirAsk = true) := by
  have hrest := emitTrace_rest s f.region (s.traceDie f.region) 6 0 0 0 f.index (s.flightHandle f.region)
  have hnote := emitTrace_noted (s := s) (r := f.region) (d := s.traceDie f.region) (kind := 6) (x := 0) (y := 0) (ce := 0)
    (data := f.index) (h := s.flightHandle f.region)
  unfold deadlineMissed
  generalize s.emitTrace f.region (s.traceDie f.region) 6 0 0 0 f.index (s.flightHandle f.region) = u at hrest hnote
  have hinst : (u.updInst f.region id (failInst (f.op.bits 3 2))).inst f.region id =
      some (if f.op.bits 3 2 = 0 then { i with late := true } else { i with fb := true }) := by
    rw [inst_updInst (fun i => by unfold failInst; split <;> rfl), hnote.inst, hi]
    rfl
  have hask : ((u.updInst f.region id (failInst (f.op.bits 3 2))).rgn f.region).redirAsk = (s.rgn f.region).redirAsk := by
    rw [State.updInst, rgn_updRgn, if_pos rfl, hnote.rgns]
  have hupd : u.updInst f.region id (failInst (f.op.bits 3 2)) =
      { s with rgns := (u.updInst f.region id (failInst (f.op.bits 3 2))).rgns, traces := u.traces } := by
    conv_lhs => rw [hrest]
    rfl
  generalize u.updInst f.region id (failInst (f.op.bits 3 2)) = w at hinst hask hupd
  dsimp only
  split
  next h =>
    refine ⟨by rw [hupd]; rfl, ?_, ?_⟩
    · rw [← hinst, State.inst, State.inst, State.askRedirect, rgn_updRgn, if_pos rfl]
    · rw [State.askRedirect, rgn_updRgn, if_pos rfl]
      simp [h]
  next h =>
    refine ⟨by rw [hupd], hinst, ?_⟩
    rw [hask]
    simp [h]

/-! ### Detectors (R268) -/

theorem exec_arm (f : Fire) (s : State) : exec (.arm f) s = .next (s.actArm f (s.bankEnt (s.bankOf f.region) f.index).det) := rfl

theorem actArm_arms {f : Fire} {k : Nat} (h : (FMap.get Det.idle (s.rgn f.region).dets k).st = 0) :
    s.actArm f k = { s with rgns := (s.actArm f k).rgns } ∧ FMap.get Det.idle ((s.actArm f k).rgn f.region).dets k = ⟨1, f.op⟩ := by
  rw [State.actArm, if_neg (by simp [h])]
  refine ⟨rfl, ?_⟩
  rw [rgn_updRgn, if_pos rfl, get_set_same]

theorem actArm_busy {f : Fire} {k : Nat} (h : (FMap.get Det.idle (s.rgn f.region).dets k).st ≠ 0) :
    ((s.actArm f k).rgn f.region).dets = (s.rgn f.region).dets := by
  rw [State.actArm, if_pos h, State.noopSched, State.addCtr, rgn_updRgn, if_pos rfl]

/-- The stage at which a detector latches a first or a second edge. -/
theorem latchEdge_latches {d : Nat} {second : Bool} (h : (FMap.get Det.idle (s.rgn r).dets d).st = if second then 2 else 1) :
    s.latchEdge r d second = { s with rgns := (s.latchEdge r d second).rgns } ∧
      FMap.get Det.idle ((s.latchEdge r d second).rgn r).dets d =
        { FMap.get Det.idle (s.rgn r).dets d with st := (FMap.get Det.idle (s.rgn r).dets d).st + 1 } := by
  refine ⟨latchEdge_regionsOnly, ?_⟩
  rw [State.latchEdge, if_pos h, rgn_updRgn, if_pos rfl, get_set_same]

theorem latchEdge_other {d : Nat} {second : Bool} (h : (FMap.get Det.idle (s.rgn r).dets d).st ≠ if second then 2 else 1) :
    s.latchEdge r d second = s := if_neg h

/-- The buffer level that a detector names, where it names one, stands as an edge of the kind leaves it. -/
def EdgeStands (s : State) (r d : Nat) (second : Bool) : Prop :=
  let op := (FMap.get Det.idle (s.rgn r).dets d).op
  let n := (s.eng (op.bits 7 2 + 64 * op.bits 13 8) (op.bits 15 14)).inbuf.length
  op.bits 1 0 ≠ 1 ∨ (if second then n < op.bits 19 16 else op.bits 19 16 ≤ n)

theorem detectorEdge_stands {d : Nat} {second : Bool} (h : EdgeStands s r d second) :
    exec (.detectorEdge r d second) s = .next (s.latchEdge r d second) := by
  refine congrArg Host.Outcome.next (if_pos ?_)
  cases second
  all_goals simpa [EdgeStands] using h

theorem detectorEdge_ignored {d : Nat} {second : Bool}
    (h : (FMap.get Det.idle (s.rgn r).dets d).st ≠ (if second then 2 else 1) ∨ ¬EdgeStands s r d second) :
    exec (.detectorEdge r d second) s = .next s := by
  rcases h with h | h
  · exact congrArg Host.Outcome.next (by rw [latchEdge_other h, ite_self])
  · refine congrArg Host.Outcome.next (if_neg ?_)
    cases second
    all_goals simpa [EdgeStands] using h

theorem completeDet_begins {d : Nat} (h : (FMap.get Det.idle (s.rgn r).dets d).st = 3) :
    ∃ i, RecordsOnly s (s.completeDet r d) ∧
      FMap.get Det.idle ((s.completeDet r d).rgn r).dets d = Det.idle ∧ ((s.completeDet r d).rgn r).insts = (s.rgn r).insts ++ [i] ∧
      i.kind = 2 ∧ i.t0 = s.time.now := by
  rw [State.completeDet, if_pos h]
  have hrgn : (s.updRgn r fun g => { g with dets := FMap.set Det.idle g.dets d Det.idle }).rgn r =
      { s.rgn r with dets := FMap.set Det.idle (s.rgn r).dets d Det.idle } := by rw [rgn_updRgn, if_pos rfl]
  obtain ⟨i, hbegun, hkind, -, -, ht0⟩ := beginInst_begins (s.updRgn r fun g => { g with dets := FMap.set Det.idle g.dets d Det.idle }) r 2 0
    none d
  obtain ⟨hrest, hinsts, hdets⟩ := hbegun.beginWave
  rw [hrgn] at hinsts hdets
  exact ⟨i, updRgn_recordsOnly.trans hrest, by rw [hdets, get_set_same], hinsts, hkind, ht0⟩

/-! ### MARK and SLOT (R266, R529) -/

/-- The stamp of a MARK at device time `now`: the latest end, or the earliest begin. -/
def markStamp (now : Nat) (f : Fire) (i : Inst) : Inst :=
  if f.op.bit 3 = true then { i with ends := FMap.set 0 i.ends (f.op.bits 2 0) (now + 1) }
  else if count i.begins (f.op.bits 2 0) = 0 then { i with begins := FMap.set 0 i.begins (f.op.bits 2 0) (now + 1) } else i

theorem markStamp_id (now : Nat) (f : Fire) (i : Inst) : (markStamp now f i).id = i.id := by
  unfold markStamp
  split
  · rfl
  · split
    · rfl
    · rfl

theorem markAction_stamps {f : Fire} {id : Nat} {i : Inst} (hid : f.inst = some id) (hi : s.inst f.region id = some i) :
    ∃ t, exec (.markAction f) s = .next t ∧ t = { s with rgns := t.rgns, traces := t.traces } ∧
      t.inst f.region id = some (markStamp s.time.now f i) := by
  have hex : exec (.markAction f) s = .next (s.actMark f) := rfl
  rw [State.actMark, hid] at hex
  refine ⟨_, hex, ?_, ?_⟩
  · rw [emitTrace_rest]
    rfl
  · rw [emitTrace_noted.inst]
    exact (inst_updInst (markStamp_id s.time.now f)).trans (by rw [hi]; rfl)

theorem slotOpen_opens (f : Fire) (s : State) : ∃ t, exec (.slotOpen f) s = .next t ∧ t = { s with rgns := t.rgns } ∧
    (f.op.bits 5 0, s.time.now + f.op.bits 23 8 * s.cfg.stepdt) ∈ (t.rgn f.region).slots ∧
    ∀ x : Nat × Nat, x.1 ≠ f.op.bits 5 0 → (x ∈ (t.rgn f.region).slots ↔ x ∈ (s.rgn f.region).slots) := by
  have hex : exec (.slotOpen f) s = .next (s.actSlot f) := rfl
  have hslots : ((s.actSlot f).rgn f.region).slots =
      ((s.rgn f.region).slots.filter fun x => x.1 != f.op.bits 5 0) ++ [(f.op.bits 5 0, s.time.now + f.op.bits 23 8 * s.cfg.stepdt)] := by
    rw [State.actSlot, rgn_updRgn, if_pos rfl]
  refine ⟨_, hex, rfl, by rw [hslots]; simp, fun x hx => ?_⟩
  have hne : x ≠ (f.op.bits 5 0, s.time.now + f.op.bits 23 8 * s.cfg.stepdt) := fun h => hx (by rw [h])
  rw [hslots]
  simp [hx, hne]

theorem slotWindowClose_closes (r link : Nat) (s : State) : ∃ t, exec (.slotWindowClose r link) s = .next t ∧ t = { s with rgns := t.rgns } ∧
    ∀ x : Nat × Nat, x ∈ (t.rgn r).slots ↔ x ∈ (s.rgn r).slots ∧ (x.1 = link → s.time.now < x.2) := by
  refine ⟨_, rfl, rfl, fun x => ?_⟩
  rw [rgn_updRgn, if_pos rfl]
  simp [imp_iff_not_or]

/-! ### The swap of banks (R263, R274) -/

theorem mem_put (l : NatSet) (k : Nat) (b : Bool) : NatSet.mem (NatSet.put l k b) k = b := by
  cases b
  · exact (mem_del l k k).trans (by simp)
  · exact (mem_ins l k k).mpr (.inl rfl)

theorem bankOf_selected (b : Bool) : (s.selectBank r b).bankOf r = b.toNat := by
  change (if NatSet.mem (NatSet.put s.cfg.bankB r b) r then 1 else 0) = _
  rw [mem_put]
  cases b <;> rfl

theorem banksel_selected (b : Bool) : ((s.selectBank r b).reg (aBanksel (r / 64))).bit (r % 64) = b := by
  rw [State.selectBank, bit_setRegBits _ _ (le_refl _) (Nat.mod_lt _ (by decide)), if_pos ⟨le_refl _, le_refl _⟩, Nat.sub_self]
  cases b <;> rfl

theorem bankOf_eq : s.bankOf r = (NatSet.mem s.cfg.bankB r).toNat := by
  rw [State.bankOf]
  cases NatSet.mem s.cfg.bankB r <;> rfl

theorem rgn_due (h : W64) (status detail : Nat) : (s.due h status detail).rgn r = s.rgn r := rfl

theorem schedSwapCommit_swaps {h : W64} (hf : s.onFigure s.time.now = true) (hs : (s.rgn r).swap = some h)
    (hc : ∀ c, s.cmd h = some c → c.at swapStage ≤ s.time.now) :
    ∃ t, exec (.schedSwapCommit r) s = .next t ∧ t.bankOf r = 1 - s.bankOf r ∧ (t.rgn r).swap = none ∧ (t.rgn r).copying = true ∧
      ((t.reg (aBanksel (r / 64))).bit (r % 64) = true ↔ t.bankOf r = 1) ∧ t.banks = s.banks ∧
      (∀ c, s.cmd h = some c → t.cmd h = some { c with phase := .due, status := 0, detail := 0 }) := by
  have hex : exec (.schedSwapCommit r) s = .next (s.commitSwap r) := congrArg Host.Outcome.next (if_pos hf)
  have hearly : (s.cmd h).any (fun c => decide (s.time.now < c.at swapStage)) = false := by
    cases hcmd : s.cmd h with
    | none => rfl
    | some c => simpa using hc c hcmd
  simp only [State.commitSwap, hs, hearly, Bool.false_eq_true, if_false] at hex
  have hbank := bankOf_selected (s := s) (r := r) (!(NatSet.mem s.cfg.bankB r))
  have hsel := banksel_selected (s := s) (r := r) (!(NatSet.mem s.cfg.bankB r))
  have hcmd : (s.selectBank r (!(NatSet.mem s.cfg.bankB r))).cmd h = s.cmd h := rfl
  have hbanks : (s.selectBank r (!(NatSet.mem s.cfg.bankB r))).banks = s.banks := rfl
  generalize s.selectBank r (!(NatSet.mem s.cfg.bankB r)) = u at hex hbank hsel hcmd hbanks
  refine ⟨_, hex, ?_, ?_, ?_, ?_, hbanks, fun c hc => ?_⟩
  · refine hbank.trans ?_
    rw [bankOf_eq]
    cases NatSet.mem s.cfg.bankB r <;> rfl
  · rw [rgn_due, rgn_updRgn, if_pos rfl]
  · rw [rgn_due, rgn_updRgn, if_pos rfl]
  · refine Iff.trans (b := (!(NatSet.mem s.cfg.bankB r)) = true) (by rw [← hsel]; rfl) ?_
    refine Iff.trans ?_ (b := u.bankOf r = 1) Iff.rfl
    rw [hbank]
    cases NatSet.mem s.cfg.bankB r <;> simp
  · exact cmd_due (s := u.updRgn r _) (hcmd.trans hc) 0 0

/-! ### The copy of the active range (R263, R274) -/

/-- Entries written at keys of their own leave every other key alone. -/
theorem get_foldl_set_other {α : Type} [DecidableEq α] (d : α) (key : Nat × α → Nat) {l : FMap α} {k : Nat} (h : ∀ e ∈ l, key e ≠ k)
    (m : FMap α) : FMap.get d (l.foldl (fun m e => FMap.set d m (key e) e.2) m) k = FMap.get d m k := by
  induction l generalizing m with
  | nil => rfl
  | cons e l ih =>
    rw [List.foldl_cons, ih fun x hx => h x (List.mem_cons_of_mem _ hx), get_set_ne d m e.2 (h e List.mem_cons_self).symm]

/-- The entries of a map from `lo` on, written from `hi` on where nothing stands, read there as they do in the map. -/
theorem get_foldl_set_shifted {α : Type} [DecidableEq α] (d : α) {l : FMap α} {lo hi i : Nat} (hl : l.Pairwise fun a b => a.1 < b.1)
    (hlo : ∀ e ∈ l, lo ≤ e.1) {m : FMap α} (hm : FMap.get d m (hi + i) = d) :
    FMap.get d (l.foldl (fun m e => FMap.set d m (hi + (e.1 - lo)) e.2) m) (hi + i) = FMap.get d l (lo + i) := by
  induction l generalizing m with
  | nil => exact hm
  | cons e l ih =>
    obtain ⟨hlt, hl⟩ := List.pairwise_cons.mp hl
    have he := hlo e List.mem_cons_self
    rw [List.foldl_cons, get_cons]
    split
    next hk =>
      have hkey : hi + (e.1 - lo) = hi + i := by omega
      rw [get_foldl_set_other d (fun x => hi + (x.1 - lo)) (fun x hx => by have := hlt x hx; omega), hkey, get_set_same]
    next hk => exact ih hl (fun x hx => hlo x (List.mem_cons_of_mem _ hx)) (by rw [get_set_ne _ _ _ (by omega)]; exact hm)

/-- Listed entries written into a bank, each at its place from `lo` on. -/
def entsWritten (bank lo : Nat) (s : State) (l : FMap (W64 × W64)) : State :=
  l.foldl (fun (s : State) e => s.setBankEnt bank (e.1 - lo) e.2) s

/-- Only the regions, the banks and the state of their entries' check bits differ. -/
def BanksOnly (s t : State) : Prop := t = { s with rgns := t.rgns, banks := t.banks, mem := { s.mem with ecc := t.mem.ecc } }

theorem BanksOnly.trans (a : BanksOnly s t) (b : BanksOnly t v) : BanksOnly s v := Eq.trans b (by conv_lhs => rw [show t = _ from a])

theorem entsWritten_banksOnly (bank lo : Nat) (l : FMap (W64 × W64)) : BanksOnly s (entsWritten bank lo s l) :=
  foldl_keeps (BanksOnly s) _ l s rfl fun _ _ h => h.trans rfl

theorem entsWritten_banks (bank lo : Nat) (l : FMap (W64 × W64)) : (entsWritten bank lo s l).banks =
    l.foldl (fun m e => FMap.set (0, 0) m (4096 * bank + (e.1 - lo)) e.2) s.banks := by
  unfold entsWritten
  induction l generalizing s with
  | nil => rfl
  | cons e l ih =>
    rw [List.foldl_cons, ih]
    rfl

/-- The entries of region `r`'s active range. -/
def liveEnts (s : State) (r : Nat) : FMap (W64 × W64) :=
  s.banks.filter fun e => decide (4096 * s.bankOf r + (s.allotOf r).1 ≤ e.1) &&
    decide (e.1 < 4096 * s.bankOf r + (s.allotOf r).1 + (s.allotOf r).2)

/-- The active range of region `r` in its shadow bank. -/
def rangeCopied (s : State) (r : Nat) : State :=
  entsWritten (1 - s.bankOf r) (4096 * s.bankOf r) (s.clearBank r (1 - s.bankOf r)) (liveEnts s r)

theorem exec_bankCopyDone (hc : (s.rgn r).copying = true) :
    exec (.bankCopyDone r) s = .next ((rangeCopied s r).updRgn r fun g => { g with copying := false }) :=
  if_neg (by simp [hc])

theorem mem_liveEnts {e : Nat × (W64 × W64)} (h : e ∈ liveEnts s r) :
    4096 * s.bankOf r + (s.allotOf r).1 ≤ e.1 ∧ e.1 < 4096 * s.bankOf r + (s.allotOf r).1 + (s.allotOf r).2 := by
  simpa using (List.mem_filter.mp h).2

theorem bankOf_le (s : State) (r : Nat) : s.bankOf r ≤ 1 := by
  rw [bankOf_eq]
  exact Bool.toNat_le _

/-- The words of entry `i` of a bank. -/
def bankWords (s : State) (b i : Nat) : W64 × W64 := FMap.get (0, 0) s.banks (4096 * b + i)

/-- A place outside the shadow range holds what it held. -/
theorem rangeCopied_keeps {b i : Nat} (hi : i < 4096) (ha : (s.allotOf r).1 + (s.allotOf r).2 ≤ 4096)
    (hout : b = s.bankOf r ∨ i < (s.allotOf r).1 ∨ (s.allotOf r).1 + (s.allotOf r).2 ≤ i) :
    bankWords (rangeCopied s r) b i = bankWords s b i := by
  have hbank := bankOf_le s r
  have hclear : bankWords (s.clearBank r (1 - s.bankOf r)) b i = bankWords s b i := by
    refine (get_filter _ s.banks (fun k => decide (k < 4096 * (1 - s.bankOf r) + (s.allotOf r).1) ||
      decide (4096 * (1 - s.bankOf r) + (s.allotOf r).1 + (s.allotOf r).2 ≤ k)) _).trans (if_pos ?_)
    rw [Bool.or_eq_true, decide_eq_true_eq, decide_eq_true_eq]
    omega
  rw [← hclear, bankWords, rangeCopied, entsWritten_banks,
    get_foldl_set_other _ (fun e => 4096 * (1 - s.bankOf r) + (e.1 - 4096 * s.bankOf r))]
  · rfl
  · intro e he
    obtain ⟨h1, h2⟩ := mem_liveEnts he
    omega

/-- A place of the shadow range holds what the active range holds there. -/
theorem rangeCopied_copies {i : Nat} (hw : FMap.wf (0, 0) s.banks = true) (h1 : (s.allotOf r).1 ≤ i)
    (h2 : i < (s.allotOf r).1 + (s.allotOf r).2) : bankWords (rangeCopied s r) (1 - s.bankOf r) i = bankWords s (s.bankOf r) i := by
  have hsorted : (liveEnts s r).Pairwise fun a b => a.1 < b.1 := ((wf_iff _ _).mp hw).1.filter _
  have hclear : FMap.get (0, 0) (s.clearBank r (1 - s.bankOf r)).banks (4096 * (1 - s.bankOf r) + i) = (0, 0) := by
    refine (get_filter _ s.banks (fun k => decide (k < 4096 * (1 - s.bankOf r) + (s.allotOf r).1) ||
      decide (4096 * (1 - s.bankOf r) + (s.allotOf r).1 + (s.allotOf r).2 ≤ k)) _).trans (if_neg ?_)
    rw [Bool.or_eq_true, decide_eq_true_eq, decide_eq_true_eq]
    omega
  rw [bankWords, rangeCopied, entsWritten_banks,
    get_foldl_set_shifted _ hsorted (fun e he => by have := mem_liveEnts he; omega) hclear]
  refine (get_filter _ s.banks (fun k => decide (4096 * s.bankOf r + (s.allotOf r).1 ≤ k) &&
    decide (k < 4096 * s.bankOf r + (s.allotOf r).1 + (s.allotOf r).2)) _).trans (if_pos ?_)
  rw [Bool.and_eq_true, decide_eq_true_eq, decide_eq_true_eq]
  omega

theorem bankEnt_congr {b c i : Nat} (h : bankWords t b i = bankWords s c i) : t.bankEnt b i = s.bankEnt c i := by
  change SchedEnt.mk i (bankWords t b i).1 (bankWords t b i).2 = SchedEnt.mk i (bankWords s c i).1 (bankWords s c i).2
  rw [h]

theorem bankCopyDone_copies (hc : (s.rgn r).copying = true) (hw : FMap.wf (0, 0) s.banks = true)
    (ha : (s.allotOf r).1 + (s.allotOf r).2 ≤ 4096) :
    ∃ t, exec (.bankCopyDone r) s = .next t ∧ t = { s with rgns := t.rgns, banks := t.banks, mem := { s.mem with ecc := t.mem.ecc } } ∧
      (t.rgn r).copying = false ∧
      (∀ i, (s.allotOf r).1 ≤ i → i < (s.allotOf r).1 + (s.allotOf r).2 →
        t.bankEnt (1 - s.bankOf r) i = s.bankEnt (s.bankOf r) i ∧ t.bankEnt (s.bankOf r) i = s.bankEnt (s.bankOf r) i) ∧
      ∀ b i, b < 2 → i < 4096 → i < (s.allotOf r).1 ∨ (s.allotOf r).1 + (s.allotOf r).2 ≤ i → t.bankEnt b i = s.bankEnt b i := by
  have hbank := bankOf_le s r
  have hrest : BanksOnly s (rangeCopied s r) := BanksOnly.trans (t := s.clearBank r (1 - s.bankOf r)) rfl (entsWritten_banksOnly _ _ _)
  refine ⟨_, exec_bankCopyDone hc, hrest.trans rfl, by rw [rgn_updRgn, if_pos rfl], fun i h1 h2 => ⟨?_, ?_⟩, fun b i _ hi hout => ?_⟩
  · exact bankEnt_congr (t := rangeCopied s r) (rangeCopied_copies hw h1 h2)
  · exact bankEnt_congr (t := rangeCopied s r) (rangeCopied_keeps (by omega) ha (.inl rfl))
  · exact bankEnt_congr (t := rangeCopied s r) (rangeCopied_keeps hi ha (.inr hout))

end

/-- Settles O37: each action by what it does to the instances, detectors, windows or banks that it names. -/
theorem timedActions : Obligations.TimedActions := by
  refine ⟨fun f id d i s hid hb hi hd hc => ⟨fun hle => ?_, fun hlt => ?_⟩, fun f s => ⟨fun h => ?_, fun h => ?_⟩,
    fun r d second s => ⟨fun h hs => ?_, fun h => ?_⟩, fun r d s ho h => ?_, fun f id i s => markAction_stamps, slotOpen_opens,
    slotWindowClose_closes, fun r h s => schedSwapCommit_swaps, fun r s => bankCopyDone_copies⟩
  · exact (exec_deadline hid hb hi hd hc).trans (congrArg _ (if_neg (Nat.not_lt.mpr hle)))
  · exact ⟨_, (exec_deadline hid hb hi hd hc).trans (congrArg _ (if_pos hlt)), deadlineMissed_marks hi⟩
  · exact ⟨_, exec_arm f s, actArm_arms h⟩
  · exact ⟨_, exec_arm f s, actArm_busy h⟩
  · exact ⟨_, detectorEdge_stands hs, latchEdge_latches h⟩
  · exact detectorEdge_ignored h
  · obtain ⟨i, hi⟩ := completeDet_begins h
    exact ⟨_, i, congrArg Host.Outcome.next (if_pos ho), hi⟩

end Sys2Proof.Proofs
end

section
/-! PROOFS. A request of the feed: its frame, its dispatch, its answer or backstop, and its response. -/

namespace Sys2Proof.Proofs

open Sys2Proof Sys2Proof.Machine Sys2Proof.Laws

section

variable {s t v : State} {p i arrival : Nat} {bytes : List Byte} {q : FeedReq}

/-! ### A frame that fails a check (R367, R534) -/

theorem slotEdge_regionsOnly {n : Nat} {b : Bool} : RegionsOnly s (s.slotEdge n b) := latchWhere_regionsOnly

/-- The model slot that a frame names. -/
def frameSlot (s : State) (p : Nat) (bytes : List Byte) : Nat := (reqHead bytes (s.feedHead p)).mslot

theorem feedFrame_discards {k : Nat} (hr : s.power.st = .ready) (hl : NatSet.mem s.feed.link p = true)
    (h : s.feedReason p bytes arrival = some k) : exec (.feedFrame p bytes arrival) s =
      .next ((if 3 < k then s.slotEdge (frameSlot s p bytes) false else s).feedDiscard p k bytes) := by
  have hex : exec (.feedFrame p bytes arrival) s = execFeedFrame p bytes arrival s := rfl
  rw [hex, execFeedFrame, if_pos (by simp [hr, hl])]
  simp only [h]
  rfl

theorem feedDiscard_counts (s : State) (p k : Nat) (bytes : List Byte) :
    s.feedDiscard p k bytes = { s with regs := (s.feedDiscard p k bytes).regs, host := (s.feedDiscard p k bytes).host } ∧
      (s.feedDiscard p k bytes).reg (aFeedDisc p k) = s.reg (aFeedDisc p k) + 1 ∧ (s.feedDiscard p k bytes).host.cmds = s.host.cmds := by
  have hreg : (s.addReg (aFeedDisc p k) 1).reg (aFeedDisc p k) = s.reg (aFeedDisc p k) + 1 := reg_addReg_same s _ 1
  unfold State.feedDiscard
  dsimp only
  split
  · exact ⟨rfl, hreg, rfl⟩
  · exact ⟨rfl, hreg, rfl⟩

theorem feedFrame_discarded {k : Nat} (hr : s.power.st = .ready) (hl : NatSet.mem s.feed.link p = true)
    (h : s.feedReason p bytes arrival = some k) :
    ∃ t, exec (.feedFrame p bytes arrival) s = .next t ∧ t = { s with regs := t.regs, host := t.host, rgns := t.rgns } ∧
      t.reg (aFeedDisc p k) = s.reg (aFeedDisc p k) + 1 ∧ t.host.cmds = s.host.cmds := by
  have hu : RegionsOnly s (if 3 < k then s.slotEdge (frameSlot s p bytes) false else s) := by
    split
    · exact slotEdge_regionsOnly
    · rfl
  have hex := feedFrame_discards hr hl h
  generalize (if 3 < k then s.slotEdge (frameSlot s p bytes) false else s) = u at hu hex
  obtain ⟨hrest, hreg, hcmds⟩ := feedDiscard_counts u p k bytes
  refine ⟨_, hex, ?_, by rw [hreg, hu.reg], by rw [hcmds, hu.eq]⟩
  generalize u.feedDiscard p k bytes = w at hrest
  rw [hrest]
  conv_lhs => rw [hu.eq]

/-! ### Payloads are delivered (R268, R369) -/

/-- What a delivery does to the requests: a buffer, and marks. -/
def BufferOnly (g : FeedReq → FeedReq) : Prop := ∀ q, g q = { q with k := (g q).k, written := (g q).written, marks := (g q).marks }

theorem BufferOnly.comp {f g : FeedReq → FeedReq} (hf : BufferOnly f) (hg : BufferOnly g) : BufferOnly (f ∘ g) := fun q => by
  have h := hf (g q)
  have h' := hg q
  rw [Function.comp_apply]
  generalize f (g q) = b at h
  generalize g q = a at h h'
  rw [h, h']

/-- Registers and the host interface are as they were, and each request but for its buffer and its marks. -/
structure Delivered (s t : State) : Prop where
  regs : t.regs = s.regs
  host : t.host = s.host
  reqs : ∃ g, BufferOnly g ∧ t.feed.reqs = s.feed.reqs.map g

theorem Delivered.ofFeed (hr : t.regs = s.regs) (hh : t.host = s.host) (hf : t.feed = s.feed) : Delivered s t :=
  ⟨hr, hh, id, fun _ => rfl, by rw [hf, List.map_id]⟩

theorem Delivered.refl : Delivered s s := .ofFeed rfl rfl rfl

theorem Delivered.trans (a : Delivered s t) (b : Delivered t v) : Delivered s v := by
  obtain ⟨hr, hh, f, hf, hq⟩ := a
  obtain ⟨hr', hh', g, hg, hq'⟩ := b
  exact ⟨hr'.trans hr, hh'.trans hh, g ∘ f, hg.comp hf, by rw [hq', hq, List.map_map]⟩

theorem spadWritten_delivered {m o n : Nat} : Delivered s (s.spadWritten m o n) := by
  unfold State.spadWritten
  extract_lets u mark
  have hu : Delivered s u := by
    unfold u
    split
    · exact .refl
    · rw [addUnitCtr_rest]
      exact .ofFeed rfl rfl rfl
  split
  · exact hu
  · refine hu.trans ⟨rfl, rfl, mark, fun q => ?_, rfl⟩
    unfold mark
    split
    · rfl
    · rfl

theorem deliverInput_delivered {k : Nat} : Delivered s (s.deliverInput q k) := by
  unfold State.deliverInput
  dsimp only
  split
  · exact .ofFeed rfl rfl rfl
  · refine foldl_keeps (Delivered s) _ _ _ .refl fun t _ h => h.trans ?_
    exact Delivered.trans (t := t.putSpadRow _ _ _ _) (.ofFeed rfl rfl rfl) spadWritten_delivered

theorem giveBuffers_delivered {r : Nat} : Delivered s (s.giveBuffers r) := by
  refine foldl_keeps (Delivered s) _ _ _ .refl fun t x h => h.trans ?_
  split
  · exact .refl
  next k _ =>
    refine deliverInput_delivered.trans ⟨rfl, rfl, fun y => if y.handle == x.handle then { y with k := some k, written := true } else y,
      fun y => ?_, rfl⟩
    dsimp only
    split
    · rfl
    · rfl

/-! ### A frame that passes (R346, R367–R369) -/

theorem feedFrame_accepts (hr : s.power.st = .ready) (hl : NatSet.mem s.feed.link p = true)
    (h : s.feedReason p bytes arrival = none) : exec (.feedFrame p bytes arrival) s =
      .next (((s.slotEdge (frameSlot s p bytes) false).slotEdge (frameSlot s p bytes) true).feedAccept p bytes arrival) := by
  have hex : exec (.feedFrame p bytes arrival) s = execFeedFrame p bytes arrival s := rfl
  rw [hex, execFeedFrame, if_pos (by simp [hr, hl])]
  simp only [h]
  rfl

theorem reg_congr (h : t.regs = s.regs) (a : Nat) : t.reg a = s.reg a := by rw [State.reg, State.reg, h]

/-- Registers, requests and commands are as they were: what taking a command's number, slot and completion record leaves. -/
def SlotsOnly (s t : State) : Prop := t.regs = s.regs ∧ t.feed = s.feed ∧ t.host.cmds = s.host.cmds

theorem SlotsOnly.trans (a : SlotsOnly s t) (b : SlotsOnly t v) : SlotsOnly s v :=
  ⟨b.1.trans a.1, b.2.1.trans a.2.1, b.2.2.trans a.2.2⟩

theorem takeSeq_slotsOnly (s : State) (fn : Nat) : SlotsOnly s (s.takeSeq fn).2 := ⟨rfl, rfl, rfl⟩

theorem takeSlot_slotsOnly (s : State) (fn : Nat) : SlotsOnly s (s.takeSlot fn).2.2 := ⟨rfl, rfl, rfl⟩

theorem reserveCq_slotsOnly (s : State) (fn cq : Nat) : SlotsOnly s ((s.reserveCq fn cq).fnCount fn 21 1) := ⟨rfl, rfl, rfl⟩

/-- An accepted frame has a command under its handle, a record, and is counted. -/
theorem feedAccept_accepts (s : State) (p : Nat) (bytes : List Byte) (arrival : Nat) :
    ∃ c q, (s.feedAccept p bytes arrival).host.cmds = s.host.cmds ++ [c] ∧ q ∈ (s.feedAccept p bytes arrival).feed.reqs ∧
      (s.feedAccept p bytes arrival).feed.reqs.length = s.feed.reqs.length + 1 ∧ c.handle = q.handle ∧
      c.fn = (s.feedWord (frameSlot s p bytes) 0).bits 11 0 ∧ c.words = [] ∧ c.ntfy = true ∧ q.port = p ∧
      q.reqid = (reqHead bytes (s.feedHead p)).reqid ∧ q.arrival = arrival ∧
      q.deadline = arrival + 16 * (s.feedWord (frameSlot s p bytes) 0).bits 35 20 ∧ q.sent = false ∧
      (s.feedAccept p bytes arrival).reg (aObsFeed p) = s.reg (aObsFeed p) + 1 := by
  unfold State.feedAccept
  extract_lets o h w0 w1 fn r d w win z z' hd s1 c answered q s2 f s3
  obtain ⟨u, ⟨hregs, hfeed, hcmds⟩, hs1⟩ : ∃ u, SlotsOnly s u ∧ s1 = u.addReg (aObsFeed p) 1 :=
    ⟨_, ((takeSeq_slotsOnly s fn).trans (takeSlot_slotsOnly _ fn)).trans (reserveCq_slotsOnly _ fn _), rfl⟩
  clear_value s1
  have hreg : s3.reg (aObsFeed p) = s.reg (aObsFeed p) + 1 := by
    rw [show s3.reg (aObsFeed p) = s1.reg (aObsFeed p) from rfl, hs1, reg_addReg_same, reg_congr hregs]
    rfl
  have hreqs : s3.feed.reqs = s.feed.reqs ++ [q] := by
    rw [← hfeed, show u.feed = s1.feed by rw [hs1]; rfl]
    rfl
  have hnew : s3.host.cmds = s.host.cmds ++ [c] := by
    rw [← hcmds, show u.host = s1.host by rw [hs1]; rfl]
    rfl
  obtain ⟨hregs', hhost, g, hg, hmap⟩ : Delivered s3 (s3.giveBuffers r) := giveBuffers_delivered
  have hgq := hg q
  rw [hreqs] at hmap
  refine ⟨c, g q, by rw [hhost, hnew], by rw [hmap]; simp, by rw [hmap]; simp, ?_⟩
  refine ⟨by rw [hgq], rfl, rfl, rfl, by rw [hgq], by rw [hgq], by rw [hgq], by rw [hgq]; rfl, by rw [hgq], ?_⟩
  rw [reg_congr hregs', hreg]

theorem feedFrame_accepted (hr : s.power.st = .ready) (hl : NatSet.mem s.feed.link p = true) (h : s.feedReason p bytes arrival = none) :
    ∃ t c q, exec (.feedFrame p bytes arrival) s = .next t ∧ t.host.cmds = s.host.cmds ++ [c] ∧ q ∈ t.feed.reqs ∧
      t.feed.reqs.length = s.feed.reqs.length + 1 ∧ c.handle = q.handle ∧
      c.fn = (s.feedWord (frameSlot s p bytes) 0).bits 11 0 ∧ c.words = [] ∧ c.ntfy = true ∧ q.port = p ∧
      q.reqid = (reqHead bytes (s.feedHead p)).reqid ∧ q.arrival = arrival ∧
      q.deadline = arrival + 16 * (s.feedWord (frameSlot s p bytes) 0).bits 35 20 ∧ q.sent = false ∧
      t.reg (aObsFeed p) = s.reg (aObsFeed p) + 1 := by
  have hu : RegionsOnly s ((s.slotEdge (frameSlot s p bytes) false).slotEdge (frameSlot s p bytes) true) :=
    slotEdge_regionsOnly.trans slotEdge_regionsOnly
  have hex := feedFrame_accepts hr hl h
  generalize (s.slotEdge (frameSlot s p bytes) false).slotEdge (frameSlot s p bytes) true = u at hu hex
  obtain ⟨c, q, hacc⟩ := feedAccept_accepts u p bytes arrival
  have hhead : u.feedHead p = s.feedHead p := by rw [hu.eq]; rfl
  have hword : u.feedWord (frameSlot u p bytes) 0 = s.feedWord (frameSlot s p bytes) 0 := by rw [hu.eq]; rfl
  rw [hu.reg, hhead, hword, show u.host = s.host by rw [hu.eq], show u.feed = s.feed by rw [hu.eq]] at hacc
  exact ⟨_, c, q, hex, hacc⟩

/-! ### Dispatch (R268, R369) -/

theorem mem_of_feedReq (h : s.feedReq i = some q) : q ∈ s.feed.reqs := List.mem_of_find?_eq_some h

theorem filter_feedReq {P : FeedReq → Bool} (hq : s.feedReq i = some q) (h : P q = true) : (s.feedReq i).filter P = some q := by
  rw [hq, Option.filter_some, if_pos h]

theorem mem_updReq {f : FeedReq → FeedReq} (h : q ∈ s.feed.reqs) : f q ∈ (s.updReq q.handle f).feed.reqs :=
  List.mem_map.mpr ⟨q, h, if_pos (beq_self_eq_true _)⟩

theorem requestDispatch_begins (hq : s.feedReq i = some q) (hw : q.written = true) (hi : q.inst = none) (ha : q.answered = none)
    (hs : q.sent = false) (ho : s.onStep s.time.now = true) (hl : s.loaded q.region = true) (hg : (s.rgn q.region).graded.length < 4) :
    ∃ t x, exec (.requestDispatch i) s = .next t ∧
      t = { s with rgns := t.rgns, feed := t.feed, traces := t.traces, regs := t.regs, log := t.log } ∧
      (t.rgn q.region).insts = (s.rgn q.region).insts ++ [x] ∧ x.kind = 1 ∧ x.handle = q.handle ∧ x.deadline = some q.deadline ∧
      x.t0 = s.time.now := by
  have hex : exec (.requestDispatch i) s = .next (s.dispatch q) := by
    have h : exec (.requestDispatch i) s = execRequestDispatch i s := rfl
    rw [h, execRequestDispatch, filter_feedReq hq ho]
  obtain ⟨x, hbegun, hkind, hhandle, hdeadline, ht0⟩ := beginInst_begins s q.region 1 q.handle (some q.deadline) 0
  obtain ⟨hrest, hinsts, -⟩ := hbegun.beginWave
  rw [State.dispatch] at hex
  dsimp only at hex
  rw [if_neg (by simp [hw, hi, ha, hs]), if_neg (by simp [hl]), if_neg (Nat.not_le.mpr hg)] at hex
  generalize (s.beginInst q.region 1 q.handle (some q.deadline) 0).beginWave q.region = u at hex hrest hinsts
  refine ⟨_, x, hex, ?_, hinsts, hkind, hhandle, hdeadline, ht0⟩
  generalize hw : u.updReq q.handle _ = w
  have hfeed : w = { u with feed := w.feed } := by rw [← hw]; rfl
  rw [hfeed]
  conv_lhs => rw [hrest.eq]

/-! ### What decoding of a scratchpad leaves alone (R451, R467) -/

theorem addCtr_noted {r w a n : Nat} : Noted s (s.addCtr r w a n) := ⟨rfl, (updRgn_announced rfl).rgns⟩

theorem addUnitCtr_noted {u w a n : Nat} : Noted s (s.addUnitCtr u w a n) := by
  unfold State.addUnitCtr
  split
  · exact addCtr_noted
  · exact .refl

theorem ite_noted {c : Prop} [Decidable c] {a b : State} (ha : Noted s a) (hb : Noted s b) : Noted s (if c then a else b) := by
  split
  · exact ha
  · exact hb

theorem countErr_noted {src k : Nat} : Noted s (s.countErr src k) := ite_noted ⟨rfl, fun _ => rfl⟩ .refl

theorem countWord_noted {src u : Nat} {poi : Bool} {whr : Nat} {own : Option (Nat × Nat)} : Noted s (s.countWord src u poi whr own) := by
  unfold State.countWord
  extract_lets ecc
  have he : ∀ t a, Noted t (ecc t a) := by
    intro t a
    unfold ecc
    split
    · exact addCtr_noted
    · exact .refl
  exact ite_noted (countErr_noted.trans (he _ 0)) (ite_noted (countErr_noted.trans (he _ 0))
    (ite_noted ((countErr_noted.trans logRec_noted).trans (he _ 1)) (ite_noted (countErr_noted.trans (he _ 1)) .refl)))

theorem decodeSpad_noted {m o n : Nat} : Noted s (s.decodeSpad m o n) :=
  foldl_keeps (Noted s) _ _ _ (ite_noted .refl addUnitCtr_noted) fun _ _ h => h.trans countWord_noted

theorem Noted.reqGrade (h : Noted s t) (q : FeedReq) : t.reqGrade q = s.reqGrade q := by
  have hents : t.rgnEnts q.region (t.bankOf q.region) = s.rgnEnts q.region (s.bankOf q.region) := by rw [h.rest.eq]; rfl
  have hinst : t.inst q.region = s.inst q.region := funext fun _ => h.inst _
  rw [State.reqGrade, State.reqGrade, State.declaresFallback, State.declaresFallback, hents, hinst, h.rgns]

/-! ### The bytes of an answer (R370) -/

/-- A number read from memory, written out again, is the bytes. -/
theorem leBytes_readNat (m : Mem) (a n : Nat) : leBytes (Mem.readNat m a n) n = Mem.readBytes m a n := by
  induction n generalizing a with
  | zero => rfl
  | succ n ih =>
    have hb := (Mem.byte m a).isLt
    rw [Mem.readNat, leBytes, Mem.readBytes, ← ih]
    congr 1
    · refine BitVec.eq_of_toNat_eq ?_
      rw [BitVec.toNat_ofNat]
      omega
    · congr 1
      omega

theorem readBytes_append (m : Mem) (a n k : Nat) : Mem.readBytes m a (n + k) = Mem.readBytes m a n ++ Mem.readBytes m (a + n) k := by
  induction n generalizing a with
  | zero => rw [Nat.zero_add]; rfl
  | succ n ih => rw [Nat.succ_add, Mem.readBytes, ih, Mem.readBytes, List.cons_append, Nat.add_assoc a 1 n, Nat.add_comm 1 n]

theorem length_readBytes (m : Mem) (a n : Nat) : (Mem.readBytes m a n).length = n := by
  induction n generalizing a with
  | zero => rfl
  | succ n ih => rw [Mem.readBytes, List.length_cons, ih]

theorem getD_readBytes (m : Mem) (a : Nat) {n j : Nat} (h : j < n) : (Mem.readBytes m a n).getD j 0 = Mem.byte m (a + j) := by
  obtain ⟨k, rfl⟩ : ∃ k, n = j + (k + 1) := ⟨n - j - 1, by omega⟩
  rw [readBytes_append, List.getD_append_right _ _ _ _ (by rw [length_readBytes]), length_readBytes, Nat.sub_self]
  rfl

theorem flatMap_readBytes (m : Mem) (a w r : Nat) :
    (List.range r).flatMap (fun i => Mem.readBytes m (a + w * i) w) = Mem.readBytes m a (w * r) := by
  induction r with
  | zero => rfl
  | succ r ih => rw [List.range_succ, List.flatMap_append, ih, Nat.mul_succ, readBytes_append, List.flatMap_singleton]

/-- The place of a request's first output row. -/
def outFirst (q : FeedReq) : Nat := q.w1.bits 47 36 + 8 * q.k.getD 0

/-- The bytes of a request's output rows, as many as its OUTLEN. -/
def answerBytes (s : State) (q : FeedReq) : List Byte :=
  (q.outRows.zipIdx.flatMap fun e => leBytes (s.spadRow (q.w1.bits 35 24) (128 * e.1)).data.toNat 128).take (q.w1.bits 61 51)

theorem toNat_ofNat_readNat (m : Mem) (a : Nat) {n w : Nat} (hw : w = 8 * n) :
    (BitVec.ofNat w (Mem.readNat m a n)).toNat = Mem.readNat m a n := by
  rw [hw, BitVec.toNat_ofNat, pow_mul]
  exact Nat.mod_eq_of_lt (readNat_lt m a n)

theorem leBytes_spadRow (s : State) (m n : Nat) :
    leBytes (s.spadRow m (128 * n)).data.toNat 128 = Mem.readBytes s.mem.spad (spadKey m (128 * n)) 128 := by
  have hline : lineOf (128 * n) = 128 * n := by unfold lineOf; omega
  rw [State.spadRow, hline, ← leBytes_readNat]
  exact congrArg (leBytes · 128) (toNat_ofNat_readNat _ _ rfl)

theorem answerBytes_eq (s : State) (q : FeedReq) :
    answerBytes s q = Mem.readBytes s.mem.spad (spadKey (q.w1.bits 35 24) (128 * outFirst q)) (q.w1.bits 61 51) := by
  have hrows : q.outRows.zipIdx.flatMap (fun e => leBytes (s.spadRow (q.w1.bits 35 24) (128 * e.1)).data.toNat 128) =
      Mem.readBytes s.mem.spad (spadKey (q.w1.bits 35 24) (128 * outFirst q)) (128 * ((q.w1.bits 61 51 + 127) / 128)) := by
    rw [← flatMap_readBytes, ← List.flatMap_map Prod.fst fun e => leBytes (s.spadRow (q.w1.bits 35 24) (128 * e)).data.toNat 128,
      List.zipIdx_map_fst, FeedReq.outRows, List.flatMap_map]
    refine List.flatMap_congr fun i _ => ?_
    rw [leBytes_spadRow, spadKey, spadKey, outFirst]
    congr 1
    omega
  obtain ⟨k, hk⟩ : ∃ k, 128 * ((q.w1.bits 61 51 + 127) / 128) = q.w1.bits 61 51 + k := ⟨_, (Nat.add_sub_cancel' (by omega)).symm⟩
  rw [answerBytes, hrows, hk, readBytes_append, List.take_left' (length_readBytes _ _ _)]

/-! ### An answer is read and graded, or withheld (R37, R370, R458) -/

/-- A word among the bytes of the answer is poison-marked. -/
def answerPoisoned (s : State) (q : FeedReq) : Bool :=
  q.outRows.zipIdx.any fun e => (List.range 16).any fun w =>
    decide (128 * e.2 + 8 * w < q.w1.bits 61 51) && (s.spadRow (q.w1.bits 35 24) (128 * e.1)).poison.getLsbD w

/-- The answer that a request is given where it is not withheld. -/
def gradedAnswer (s : State) (q : FeedReq) : Nat × List Byte := (s.reqGrade q, if s.reqGrade q < 2 then answerBytes s q else [])

theorem feedAnswer_answers (hq : q ∈ s.feed.reqs) :
    (s.feedAnswer q).mem = s.mem ∧
      ({ q with answered := some (if answerPoisoned s q then (9, []) else gradedAnswer s q) } : FeedReq) ∈ (s.feedAnswer q).feed.reqs := by
  unfold State.feedAnswer
  extract_lets m n rows bytes bad u g
  have hu : Noted s u := foldl_keeps (Noted s) _ _ _ .refl fun _ _ h => h.trans decodeSpad_noted
  have hmem : u.mem = s.mem := by rw [hu.rest.eq]
  have hfeed : u.feed = s.feed := by rw [hu.rest.eq]
  have hg : g = s.reqGrade q := hu.reqGrade q
  have hbad : bad = answerPoisoned s q := rfl
  have hin : q ∈ u.feed.reqs := hfeed ▸ hq
  rw [hbad, hg]
  split
  · exact ⟨hmem, mem_updReq (s := u.addReg aMemFeedpois 1) hin⟩
  · exact ⟨hmem, mem_updReq hin⟩

theorem answerReady_answers (hq : s.feedReq i = some q) (ha : q.answered = none) (hi : s.answerIn q = true) :
    exec (.answerReady i) s = .next (s.feedAnswer q) := by
  have h : exec (.answerReady i) s = execAnswerReady i s := rfl
  rw [h, execAnswerReady, filter_feedReq hq (by simp [ha, hi])]

theorem answerReady_graded (hq : s.feedReq i = some q) (ha : q.answered = none) (hi : s.answerIn q = true)
    (hp : ∀ e ∈ q.outRows, (s.spadRow (q.w1.bits 35 24) (128 * e)).poison = 0) :
    ∃ t y bs, exec (.answerReady i) s = .next t ∧ t.mem = s.mem ∧ y ∈ t.feed.reqs ∧ y.handle = q.handle ∧
      y.answered = some (s.reqGrade q, bs) ∧
      (s.reqGrade q < 2 → bs.length = q.w1.bits 61 51 ∧ ∀ j, j < q.w1.bits 61 51 →
        bs.getD j 0 = Mem.byte s.mem.spad (spadKey (q.w1.bits 35 24) (128 * (q.w1.bits 47 36 + 8 * q.k.getD 0) + j))) ∧
      (2 ≤ s.reqGrade q → bs = []) := by
  have hclean : answerPoisoned s q = false := by
    refine List.any_eq_false.mpr fun e he => ?_
    rw [hp e.1 (List.fst_mem_of_mem_zipIdx he)]
    simp
  obtain ⟨hmem, hin⟩ := feedAnswer_answers (mem_of_feedReq hq)
  rw [hclean, if_neg Bool.false_ne_true] at hin
  refine ⟨_, _, _, answerReady_answers hq ha hi, hmem, hin, rfl, rfl, fun hg => ?_, fun hg => if_neg (Nat.not_lt.mpr hg)⟩
  rw [if_pos hg, answerBytes_eq]
  refine ⟨length_readBytes _ _ _, fun j hj => ?_⟩
  rw [getD_readBytes _ _ hj, spadKey, spadKey, Nat.add_assoc]
  rfl

theorem answerReady_withheld (hq : s.feedReq i = some q) (ha : q.answered = none) (hi : s.answerIn q = true) {w : Nat} (hw : w < 16)
    (hn : 8 * w < q.w1.bits 61 51)
    (hp : (s.spadRow (q.w1.bits 35 24) (128 * (q.w1.bits 47 36 + 8 * q.k.getD 0))).poison.getLsbD w = true) :
    ∃ t y, exec (.answerReady i) s = .next t ∧ t.mem = s.mem ∧ y ∈ t.feed.reqs ∧ y.handle = q.handle ∧ y.answered = some (9, []) := by
  have hfirst : (outFirst q, 0) ∈ q.outRows.zipIdx := by
    rw [List.mk_mem_zipIdx_iff_getElem?, FeedReq.outRows, List.getElem?_map, List.getElem?_range (by omega)]
    rfl
  have hbad : answerPoisoned s q = true :=
    List.any_eq_true.mpr ⟨_, hfirst, List.any_eq_true.mpr ⟨w, List.mem_range.mpr hw, by simp [hn, outFirst, hp]⟩⟩
  obtain ⟨hmem, hin⟩ := feedAnswer_answers (mem_of_feedReq hq)
  rw [hbad, if_pos rfl] at hin
  exact ⟨_, _, answerReady_answers hq ha hi, hmem, hin, rfl, rfl⟩

/-! ### The backstop (R271, R370) -/

theorem backstop_late (hq : s.feedReq i = some q) (ha : q.answered = none) (hi : s.answerIn q = false)
    (hb : s.backstopAt q ≤ s.time.now) :
    ∃ t y, exec (.backstop i) s = .next t ∧ t = { s with rgns := t.rgns, feed := t.feed } ∧ y ∈ t.feed.reqs ∧ y.handle = q.handle ∧
      y.answered = some (9, []) := by
  have hex : exec (.backstop i) s = .next (s.backstop q) := by
    have h : exec (.backstop i) s = execBackstop i s := rfl
    rw [h, execBackstop, filter_feedReq hq (decide_eq_true hb)]
  have hin := mem_of_feedReq hq
  rw [State.backstop, if_neg (by simp [ha]), if_neg (by simp [hi])] at hex
  dsimp only at hex
  cases hinst : q.inst with
  | none =>
    rw [hinst] at hex
    exact ⟨_, _, hex, rfl, mem_updReq hin, rfl, rfl⟩
  | some id =>
    rw [hinst] at hex
    exact ⟨_, _, hex, rfl, mem_updReq hin, rfl, rfl⟩

/-! ### The response (R37, R364, R370) -/

theorem responseSend_sends {a : Nat × List Byte} {c : Cmd} (hq : s.feedReq i = some q) (hl : s.mayLeave q = true)
    (ha : q.answered = some a) (hc : s.cmd q.handle = some c) (hp : c.phase = .running) :
    ∃ t, exec (.responseSend i) s = .next t ∧ t = { s with feed := t.feed, host := t.host } ∧
      t.feed.out = s.feed.out ++ [(q.port, s.response q (frameStatus a.1) a.2)] ∧
      t.cmd q.handle = some { c with phase := .due, status := a.1 } ∧ (∀ y ∈ t.feed.reqs, y.handle = q.handle → y.sent = true) := by
  have hex : exec (.responseSend i) s = .next (s.sendResponse q) := by
    have h : exec (.responseSend i) s = execResponseSend i s := rfl
    rw [h, execResponseSend, filter_feedReq hq hl]
  unfold State.sendResponse at hex
  rw [ha] at hex
  dsimp only at hex
  generalize hu : State.updReq _ q.handle (fun y => { y with sent := true }) = u at hex
  have hcu : u.cmd q.handle = some c := by rw [← hu]; exact hc
  rw [hcu] at hex
  dsimp only at hex
  rw [if_pos (by simp [hp])] at hex
  refine ⟨_, hex, by rw [← hu]; rfl, by rw [← hu]; rfl, cmd_updCmd hcu, fun y hy hh => ?_⟩
  subst hu
  obtain ⟨x, -, rfl⟩ := List.mem_map.mp hy
  split
  · rfl
  next hx =>
    rw [if_neg hx] at hh
    exact absurd (beq_iff_eq.mpr hh) hx

/-! ### The links of the feed (R362) -/

theorem feedLinkUp_trains (p : Nat) (ha : s.awake = true) :
    ∃ t, exec (.feedLinkUp p) s = .next t ∧ t = { s with feed := t.feed, regs := t.regs } ∧
      NatSet.mem t.feed.link p = true ∧ (t.reg (aFeedStat p)).bit 0 = true ∧ t.feed.reqs = s.feed.reqs :=
  ⟨_, congrArg Host.Outcome.next (if_pos ha), rfl, (mem_ins _ _ _).mpr (.inl rfl), bit_setRegBit_same _ _ (by decide), rfl⟩

theorem feedLinkDown_drops (p : Nat) (s : State) :
    ∃ t, exec (.feedLinkDown p) s = .next t ∧ t = { s with feed := t.feed, regs := t.regs } ∧
      NatSet.mem t.feed.link p = false ∧ (t.reg (aFeedStat p)).bit 0 = false ∧ t.feed.reqs = s.feed.reqs := by
  refine ⟨_, rfl, rfl, ?_, ?_, rfl⟩
  · exact (mem_del _ _ _).trans (by simp)
  · exact (bit_setRegBits _ _ (le_refl 0) (by decide) 0 0).trans rfl

end

/-- Settles O38: the request followed from its frame to its response, each event by what it does to the record and the command. -/
theorem feedRequests : Obligations.FeedRequests :=
  ⟨fun _ _ _ _ hr hl => ⟨fun _ => feedFrame_discarded hr hl, feedFrame_accepted hr hl⟩,
    fun _ _ _ => requestDispatch_begins,
    fun _ _ _ hq ha hi => ⟨answerReady_graded hq ha hi, fun _ => answerReady_withheld hq ha hi⟩,
    fun _ _ _ => backstop_late,
    fun _ _ _ _ _ => responseSend_sends,
    fun p s => ⟨feedLinkUp_trains p, feedLinkDown_drops p s⟩⟩

end Sys2Proof.Proofs
end

section
/-! PROOFS. The couch layer: sheets fetched, leaves read, and blocks refreshed. -/

namespace Sys2Proof.Proofs

open Sys2Proof Sys2Proof.Machine Sys2Proof.Laws

section

variable {s t v : State} {dom sheet leaf i fd block : Nat}

/-! ### What the couch layer's own counts change (R304–R308) -/

/-- Registers, region counts, and the couch layer's blocks, refresh list and journal may differ. -/
def CouchWork (s t : State) : Prop :=
  t = { s with regs := t.regs, rgns := t.rgns,
               mem := { s.mem with blocks := t.mem.blocks, refresh := t.mem.refresh, journal := t.mem.journal } }

theorem CouchWork.eq (h : CouchWork s t) :
    t = { s with regs := t.regs, rgns := t.rgns,
                 mem := { s.mem with blocks := t.mem.blocks, refresh := t.mem.refresh, journal := t.mem.journal } } := h

theorem CouchWork.refl : CouchWork s s := rfl

theorem CouchWork.trans (h : CouchWork s t) (k : CouchWork t v) : CouchWork s v := Eq.trans k (by conv_lhs => rw [h.eq])

theorem CouchWork.ite {c : Prop} [Decidable c] {a b : State} (ha : CouchWork s a) (hb : CouchWork s b) : CouchWork s (if c then a else b) := by
  split
  · exact ha
  · exact hb

theorem CouchWork.foldl {α : Type} {g : State → α → State} (hg : ∀ t x, CouchWork t (g t x)) (l : List α) : CouchWork s (l.foldl g s) :=
  foldl_keeps (CouchWork s) g l s .refl fun _ _ h => h.trans (hg _ _)

theorem setReg_couchWork {o : Nat} {x : W64} : CouchWork s (s.setReg o x) := rfl

theorem showFlash_mem (s : State) (n : Nat) : (s.showFlash n).mem = s.mem := by
  unfold State.showFlash
  split
  · rfl
  · rfl

theorem showFlash_couchWork {n : Nat} : CouchWork s (s.showFlash n) := by
  unfold State.showFlash
  split
  · rfl
  · rfl

theorem toRefresh_couchWork : CouchWork s (s.toRefresh fd block) :=
  CouchWork.trans (t := s.updMem fun m => { m with refresh := NatSet.ins m.refresh (2 ^ 20 * fd + block) }) rfl showFlash_couchWork

theorem updBlock_couchWork {f : NandBlock → NandBlock} : CouchWork s (s.updBlock fd block f) := rfl

theorem unitRead_couchWork {n : Nat} : CouchWork s (s.unitRead i n) :=
  updBlock_couchWork.trans (.ite toRefresh_couchWork .refl)

theorem countT_couchWork {r w n : Nat} : CouchWork s (s.countT r w n) := .ite rfl .refl

theorem countT2_couchWork {w n : Nat} : CouchWork s (s.countT2 dom sheet w n) :=
  CouchWork.trans (.ite setReg_couchWork .refl) countT_couchWork

theorem countT3_couchWork {n : Nat} : CouchWork s (s.countT3 dom sheet fd n) := rfl

/-! ### A fetched sheet (R286, R290, R298, R299) -/

/-- No slice waits for a line. -/
def NoMiss (s : State) : Prop := ∀ e ∈ s.slices, e.2.miss = []

/-- What the default and every listed value satisfy, every value satisfies. -/
theorem get_of_forall {α : Type} {d : α} {p : α → Prop} (hd : p d) {m : FMap α} (h : ∀ e ∈ m, p e.2) (k : Nat) : p (FMap.get d m k) := by
  induction m with
  | nil => exact hd
  | cons e m ih =>
    rw [get_cons]
    split
    · exact h e List.mem_cons_self
    · exact ih fun x hx => h x (List.mem_cons_of_mem _ hx)

theorem NoMiss.slice (h : NoMiss s) (i : Nat) : (s.slice i).miss = [] := get_of_forall (p := fun c : Slice => c.miss = []) rfl h i

theorem mem_set {α : Type} [DecidableEq α] {d : α} {m : FMap α} {k : Nat} {x : α} {e : Nat × α} (h : e ∈ FMap.set d m k x) :
    e = (k, x) ∨ e ∈ m := by
  unfold FMap.set at h
  split at h
  · exact .inr (List.mem_of_mem_filter h)
  · exact Laws.mem_ins m k x e h

theorem NoMiss.updSlice {g : Slice → Slice} (h : NoMiss s) (hg : ∀ c, (g c).miss = c.miss) : NoMiss (s.updSlice i g) := fun _ he => by
  obtain rfl | he := mem_set he
  · exact (hg _).trans (h.slice i)
  · exact h _ he

/-- Copies, the flash window and scratchpads are as they were, and no slice comes to wait for a line. -/
structure Upkept (s t : State) : Prop where
  copies : t.mem.copies = s.mem.copies
  flash : t.mem.flash = s.mem.flash
  spad : t.mem.spad = s.mem.spad
  miss : NoMiss s → NoMiss t

theorem Upkept.refl : Upkept s s := ⟨rfl, rfl, rfl, id⟩

theorem Upkept.trans (a : Upkept s t) (b : Upkept t v) : Upkept s v :=
  ⟨b.copies.trans a.copies, b.flash.trans a.flash, b.spad.trans a.spad, b.miss ∘ a.miss⟩

theorem Upkept.ite {c : Prop} [Decidable c] {a b : State} (ha : Upkept s a) (hb : Upkept s b) : Upkept s (if c then a else b) := by
  split
  · exact ha
  · exact hb

theorem Upkept.foldl {α : Type} {g : State → α → State} (hg : ∀ t x, Upkept t (g t x)) (l : List α) : Upkept s (l.foldl g s) :=
  foldl_keeps (Upkept s) g l s .refl fun _ _ h => h.trans (hg _ _)

theorem CouchWork.upkept (h : CouchWork s t) : Upkept s t where
  copies := by rw [h.eq]
  flash := by rw [h.eq]
  spad := by rw [h.eq]
  miss := by rw [h.eq]; exact id

theorem updSlice_upkept {g : Slice → Slice} (hg : ∀ c, (g c).miss = c.miss) : Upkept s (s.updSlice i g) := ⟨rfl, rfl, rfl, (·.updSlice hg)⟩

theorem writeBack_upkept {who a : Nat} {r : Row} {mask : BitVec 16} : Upkept s (s.writeBack who a r mask) :=
  Upkept.trans (t := s.updMem fun m => m.putDramRow a r mask) ⟨rfl, rfl, rfl, id⟩
    (CouchWork.trans (.ite setReg_couchWork .refl) countT_couchWork).upkept

theorem allocLine_upkept {who a : Nat} {part : Option Nat} {dirty : Bool} {row : Row} : Upkept s (s.allocLine who i part a dirty row) := by
  unfold State.allocLine
  dsimp only
  split
  · exact updSlice_upkept fun _ => rfl
  · split
    · exact .ite writeBack_upkept .refl
    · exact (Upkept.ite writeBack_upkept .refl).trans (updSlice_upkept fun _ => rfl)

theorem fillT1_upkept : Upkept s (s.fillT1 dom sheet) :=
  countT2_couchWork.upkept.trans (.foldl (fun _ _ => .ite .refl allocLine_upkept) _)

theorem showAllWres_upkept : Upkept s s.showAllWres :=
  (CouchWork.foldl (fun _ _ => .ite .refl setReg_couchWork) _).upkept

/-- Where nothing waits for a line, an arrival fills none. -/
theorem fillFlash_noMiss (h : NoMiss s) (dom a n : Nat) : s.fillFlash dom a n = s :=
  foldl_self fun e he => by rw [h e he, List.foldl_nil]

theorem copyOf_updCopy (f : Copy → Copy) : (s.updCopy dom sheet f).copyOf dom sheet = f (s.copyOf dom sheet) := get_set_same _ _ _ _

theorem sheetFetchDone_copies (hf : (s.copyOf dom sheet).fetch.isSome = true) (hp : s.plcOn = true) (hm : NoMiss s) (weak : List Nat) :
    ∃ t, exec (.sheetFetchDone dom ⟨sheet, [], weak⟩) s = .next t ∧ (t.copyOf dom sheet).t2 = true ∧ (t.copyOf dom sheet).fetch = none ∧
      t.mem.flash = s.mem.flash ∧ t.mem.spad = s.mem.spad := by
  have hex : exec (.sheetFetchDone dom ⟨sheet, [], weak⟩) s = execSheetFetchDone dom ⟨sheet, [], weak⟩ s := rfl
  rw [hex, execSheetFetchDone, if_neg (by simp [Option.isSome_iff_ne_none.mp hf]), if_neg (by simp [hp])]
  extract_lets pins p2 s1 n units s2 s3 s4 s5 p1 wt1 s6 s7
  have h3 : Upkept s1 s3 := (CouchWork.foldl (fun _ _ => unitRead_couchWork.trans countT3_couchWork) _).upkept
  have h5 : Upkept s3 s5 := ((CouchWork.foldl (fun _ _ => toRefresh_couchWork) _).trans countT2_couchWork).upkept
  have h6 : Upkept s1 s6 := (h3.trans h5).trans (.ite fillT1_upkept .refl)
  have h7 : Upkept s1 s7.showAllWres := by
    unfold s7
    rw [fillFlash_noMiss (h6.miss hm)]
    exact h6.trans showAllWres_upkept
  have hcopy : s7.showAllWres.copyOf dom sheet = s1.copyOf dom sheet := by rw [State.copyOf, h7.copies]; rfl
  rw [copyOf_updCopy] at hcopy
  exact ⟨_, rfl, by rw [hcopy], by rw [hcopy], h7.flash, h7.spad⟩

theorem sheetFetchDone_off (hf : (s.copyOf dom sheet).fetch.isSome = true) (hp : s.plcOn = false) (weak : List Nat) :
    ∃ t, exec (.sheetFetchDone dom ⟨sheet, [], weak⟩) s = .next t ∧ t = { s with mem := t.mem } ∧
      t.copyOf dom sheet = { s.copyOf dom sheet with fetch := none, win := false } := by
  have hex : exec (.sheetFetchDone dom ⟨sheet, [], weak⟩) s = execSheetFetchDone dom ⟨sheet, [], weak⟩ s := rfl
  rw [hex, execSheetFetchDone, if_neg (by simp [Option.isSome_iff_ne_none.mp hf]), if_pos (by simp [hp])]
  exact ⟨_, rfl, rfl, copyOf_updCopy _⟩

/-! ### A leaf that a miss waits for (R280, R299, R304) -/

theorem flashLeafRead_unwanted (hw : s.leafWanted dom leaf = false) (b : LeafEcc) (c : Bool) :
    exec (.flashLeafRead dom leaf b c) s = .next s := by
  have hex : exec (.flashLeafRead dom leaf b c) s = execFlashLeafRead dom leaf b c s := rfl
  rw [hex, execFlashLeafRead, if_pos (by simp [hw])]

/-- Where placement is off, sending for a sheet changes no more than its entry, and no granule is asked for. -/
theorem startFetch_off (hp : s.plcOn = false) (prio h : Nat) :
    (∃ m, (s.startFetch dom sheet prio h).1 = s.updMem fun x => { x with copies := m }) ∧ (s.startFetch dom sheet prio h).2 ≠ .short := by
  unfold State.startFetch
  dsimp only
  split
  · exact ⟨⟨s.mem.copies, rfl⟩, nofun⟩
  · split
    · exact ⟨⟨_, rfl⟩, nofun⟩
    · rw [if_pos (by simp [hp])]
      exact ⟨⟨s.mem.copies, rfl⟩, nofun⟩

section

variable {part : Option Nat} {who a : Nat} {c : Slice} {m : Miss} {f : Flit}

theorem flashRow_congr (hf : t.mem.flash = s.mem.flash) (hb : t.mem.flashBad = s.mem.flashBad) : t.flashRow a = s.flashRow a := by
  rw [State.flashRow, State.flashRow, hf, hb]

theorem lineNow_flash (h : ∀ x ∈ (s.slice i).lines, x.addr ≠ a) (ha : isFlash a 1 = true) : s.lineNow i part a = s.flashRow a := by
  unfold State.lineNow
  rw [find_absent h]
  exact if_pos ha

/-- The copy of a flash-window line put into a partition that held none is what the slice delivers. -/
theorem lineNow_allocLine_flash (h : ∀ x ∈ (s.slice i).lines, x.addr ≠ a) (ha : isFlash a 1 = true) :
    (s.allocLine who i part a false (s.flashRow a)).lineNow i part a = s.flashRow a := by
  obtain ⟨w, use, l, hl, hsub⟩ | ⟨-, hs⟩ := allocLine_cases s who i part a false (s.flashRow a)
  · have hold : l.find? (fun x => x.addr == a && x.part == part) = none :=
      List.find?_eq_none.mpr fun y hy => by simp [h y (hsub y hy)]
    unfold State.lineNow Slice.find
    rw [hl, List.find?_append, hold]
    simp only [Option.none_or, List.find?_cons, beq_self_eq_true, Bool.and_self]
    exact shown_eq fun _ _ => by simp [count]
  · rw [hs, if_neg Bool.false_ne_true, lineNow_flash h ha]

/-- The flash-window line of the only entry arrives, and no copy of it is held: its one read is answered with the presented row. -/
theorem fillMiss_answers_flash (hm : (s.slice i).miss = [m]) (hr : m.reqs = [f]) (hf : m.filled = false) (hk : f.kind = .readReq)
    (hp : (s.slice i).park = []) (ho : (s.slice i).order = [f]) (hfl : isFlash m.line 1 = true)
    (hl : ∀ x ∈ (s.slice i).lines, x.addr ≠ m.line) :
    (s.fillMiss i m).flits = s.flits ++ [answerOf f .readReply (s.flashRow m.line) false] ∧ ((s.fillMiss i m).slice i).miss = [] ∧
      (s.fillMiss i m).mem.flash = s.mem.flash := by
  unfold State.fillMiss
  extract_lets flash t u row v
  have ht : t.slice i = { s.slice i with miss := [{ m with filled := true }] } := by
    unfold t
    rw [slice_updSlice, if_pos rfl, hm]
    simp [hf]
  have hu : u = t := if_pos hfl
  have hrow : row = t.flashRow m.line := by
    unfold row
    rw [if_pos hfl, hu]
  have htl : ∀ x ∈ (t.slice i).lines, x.addr ≠ m.line := by
    rw [ht]
    exact hl
  obtain ⟨hvl, hvf, hnow⟩ : LinesOnly t v ∧ v.mem.flash = t.mem.flash ∧ v.lineNow i m.part m.line = t.flashRow m.line := by
    unfold v
    rw [hrow, hu]
    split
    · exact ⟨.refl, rfl, lineNow_flash htl hfl⟩
    · exact ⟨allocLine_linesOnly, allocLine_lineWork.flash, lineNow_allocLine_flash htl hfl⟩
  obtain ⟨hvo, hvp, hvm, -⟩ := hvl.queues i
  rw [ht] at hvo hvp hvm
  obtain ⟨hflits, hmem, hmiss⟩ := sliceRun_answers hvm hr rfl hk (hvp.trans hp) (hvo.trans ho)
  refine ⟨?_, hmiss, ?_⟩
  · rw [hflits, hvl.flits, ← flashRow_congr (s := s) (t := t) rfl rfl, ← hnow]
    rfl
  · rw [hmem, hvf]
    rfl

theorem slice_single (hs : s.slices = [(i, c)]) : s.slice i = c := by rw [State.slice, hs, get_cons, if_pos rfl]

theorem fillFlash_single {n : Nat} (hs : s.slices = [(i, c)]) (hm : c.miss = [m]) (h1 : a ≤ m.line) (h2 : m.line < a + n)
    (hf : m.filled = false) (hd : s.domainOf m.rtag = dom) : s.fillFlash dom a n = s.fillMiss i m := by
  simp [State.fillFlash, hs, hm, h1, h2, hf, hd]

theorem flashLeafRead_answers (hs : s.slices = [(i, c)]) (hm : c.miss = [m]) (hl : c.lines = []) (hp : c.park = []) (ho : c.order = [f])
    (hr : m.reqs = [f]) (hf : m.filled = false) (hk : f.kind = .readReq) (hline : m.line / 4096 = flashBase / 4096 + leaf)
    (hfl : isFlash m.line 1 = true) (hd : s.domainOf m.rtag = dom) (hoff : s.plcOn = false) (hbad : s.leafBad leaf = false) :
    ∃ t, exec (.flashLeafRead dom leaf ⟨false, false⟩ false) s = .next t ∧
      t.flits = s.flits ++ [answerOf f .readReply (s.flashRow m.line) false] ∧ (t.slice i).miss = [] ∧ t.mem.flash = s.mem.flash := by
  have hw : s.leafWanted dom leaf = true := by simp [State.leafWanted, hs, hm, hline, hf, hd]
  have hex : exec (.flashLeafRead dom leaf ⟨false, false⟩ false) s = execFlashLeafRead dom leaf ⟨false, false⟩ false s := rfl
  rw [hex, execFlashLeafRead, if_neg (by simp [hw])]
  extract_lets sheet z clsL fails reads u1 u2 u3 u4 u5 deliver
  obtain ⟨⟨cs, hz⟩, hshort⟩ : (∃ x, z.1 = s.updMem fun y => { y with copies := x }) ∧ z.2 ≠ .short := startFetch_off hoff _ _
  have hfails : fails = false := by simp [fails, hbad]
  have h2 : u2 = u1 := if_neg (by simpa using hshort)
  have hwork : CouchWork z.1 u5 := by
    have h3 : CouchWork u1 u3 := h2 ▸ .ite .refl countT3_couchWork
    exact unitRead_couchWork.trans h3
  rw [if_neg (by simp [hfails])]
  clear_value u5
  rw [hz] at hwork
  have hslices : u5.slices = [(i, c)] := by rw [hwork.eq]; exact hs
  have hslice := slice_single hslices
  have hdom : u5.domainOf m.rtag = dom := by rw [hwork.eq]; exact hd
  have hrow : u5.flashRow m.line = s.flashRow m.line := flashRow_congr (by rw [hwork.eq]; rfl) (by rw [hwork.eq]; rfl)
  have hbase : 4096 * (flashBase / 4096) = flashBase := rfl
  have hfill : deliver u5 = u5.fillMiss i m := fillFlash_single hslices hm (by omega) (by omega) hf hdom
  rw [hfill]
  have hlines : ∀ x ∈ (u5.slice i).lines, x.addr ≠ m.line := by
    rw [hslice, hl]
    exact List.forall_mem_nil _
  rw [← hslice] at hm hp ho
  obtain ⟨hflits, hmiss, hflash⟩ := fillMiss_answers_flash hm hr hf hk hp ho hfl hlines
  refine ⟨_, rfl, ?_, hmiss, ?_⟩
  · rw [hflits, hrow, show u5.flits = s.flits by rw [hwork.eq]; rfl]
  · rw [hflash, hwork.eq]
    rfl

end

/-! ### Retention and relocation (R260, R306) -/

theorem retentionTrigger_lists (s : State) (fd block : Nat) :
    ∃ t, exec (.retentionTrigger fd block) s = .next t ∧ (FMap.get NandBlock.fresh t.mem.blocks (2 ^ 20 * fd + block)).old = true ∧
      NatSet.mem t.mem.refresh (2 ^ 20 * fd + block) = true ∧ t.mem.flash = s.mem.flash := by
  refine ⟨_, rfl, ?_⟩
  unfold State.toRefresh
  rw [showFlash_mem]
  refine ⟨?_, (mem_ins _ _ _).mpr (.inl rfl), rfl⟩
  exact congrArg NandBlock.old (get_set_same NandBlock.fresh s.mem.blocks _ _)

theorem refreshRelocation_waits {n : Nat} {fails : Bool} (h : s.inWindow 0 983 = false) :
    exec (.refreshRelocation fd ⟨block, n, fails⟩) s = .next s := by
  have hex : exec (.refreshRelocation fd ⟨block, n, fails⟩) s = execRefreshRelocation fd ⟨block, n, fails⟩ s := rfl
  rw [hex, execRefreshRelocation, if_pos (by simp [h])]

theorem journal_addJournal_same (s : State) (n k x : Nat) : (s.addJournal n k x).journal n k = s.journal n k + x :=
  (count_bump _ _ _ _).trans (if_pos rfl)

theorem journal_addJournal_ne {n j k x : Nat} (h : j ≠ k) : (s.addJournal n k x).journal n j = s.journal n j :=
  (count_bump _ _ _ _).trans (if_neg (by omega))

theorem refreshRelocation_relocates (n : Nat) (fails : Bool) (hl : NatSet.mem s.mem.refresh (2 ^ 20 * fd + block) = true)
    (h : s.inWindow 0 983 = true) :
    ∃ t, exec (.refreshRelocation fd ⟨block, n, fails⟩) s = .next t ∧ NatSet.mem t.mem.refresh (2 ^ 20 * fd + block) = false ∧
      t.mem.flash = s.mem.flash ∧ FMap.get NandBlock.fresh t.mem.blocks (2 ^ 20 * fd + block) = NandBlock.fresh ∧
      t.journal fd 2 = s.journal fd 2 + (n + if (FMap.get NandBlock.fresh s.mem.blocks (2 ^ 20 * fd + block)).hard || fails then 1 else 0) := by
  have hex : exec (.refreshRelocation fd ⟨block, n, fails⟩) s = execRefreshRelocation fd ⟨block, n, fails⟩ s := rfl
  rw [hex, execRefreshRelocation, if_neg (by rw [hl, h]; exact Bool.false_ne_true)]
  extract_lets b u v
  refine ⟨_, rfl, ?_⟩
  have hblock : FMap.get NandBlock.fresh v.mem.blocks (2 ^ 20 * fd + block) = NandBlock.fresh :=
    get_set_same NandBlock.fresh s.mem.blocks (2 ^ 20 * fd + block) NandBlock.fresh
  have hjournal : (v.addJournal fd 2 (n + if b.hard || fails then 1 else 0)).journal fd 2 =
      s.journal fd 2 + (n + if b.hard || fails then 1 else 0) := by
    rw [journal_addJournal_same, journal_addJournal_ne (by decide)]
    rfl
  rw [State.journal, showFlash_mem]
  exact ⟨(mem_del _ _ _).trans (by simp), rfl, hblock, hjournal⟩

end

end Sys2Proof.Proofs
end

section
/-! PROOFS. Patrols, digests and retraining. -/

namespace Sys2Proof.Proofs

open Sys2Proof Sys2Proof.Machine Sys2Proof.Laws

section

variable {s t v : State} {q m g i chan : Nat}

/-! ### What calender reads leave alone (R451, R460, R461) -/

/-- DRAM's and the scratchpads' data, the CUs and the patrols' places are as they were, and a stored word is upset as it was or no more. -/
structure Calendered (s t : State) : Prop where
  dram : t.mem.dram = s.mem.dram
  spad : t.mem.spad = s.mem.spad
  patrol : t.mem.patrol = s.mem.patrol
  cus : t.cus = s.cus
  upset : ∀ k, count t.mem.upset k = count s.mem.upset k ∨ count t.mem.upset k = 0

theorem Calendered.refl : Calendered s s := ⟨rfl, rfl, rfl, rfl, fun _ => .inl rfl⟩

theorem Calendered.trans (a : Calendered s t) (b : Calendered t v) : Calendered s v where
  dram := b.dram.trans a.dram
  spad := b.spad.trans a.spad
  patrol := b.patrol.trans a.patrol
  cus := b.cus.trans a.cus
  upset k := (b.upset k).elim (fun h => h ▸ a.upset k) .inr

/-- The word with a key is not upset. -/
def Unset (k : Nat) (s : State) : Prop := count s.mem.upset k = 0

/-- Every stored word is in a state of R451. -/
def LowUpsets (s : State) : Prop := ∀ k, count s.mem.upset k ≤ 3

theorem Calendered.clear {k : Nat} (h : Calendered s t) (hk : Unset k s) : Unset k t := (h.upset k).elim (·.trans hk) id

theorem Calendered.low (h : Calendered s t) (hs : LowUpsets s) : LowUpsets t := fun k =>
  (h.upset k).elim (· ▸ hs k) (· ▸ Nat.zero_le 3)

theorem Calendered.foldl {α : Type} {f : State → α → State} (hf : ∀ t x, Calendered t (f t x)) (l : List α) : Calendered s (l.foldl f s) :=
  foldl_keeps (Calendered s) f l s .refl fun _ _ h => h.trans (hf _ _)

theorem Noted.calendered (h : Noted s t) : Calendered s t := by
  refine ⟨?_, ?_, ?_, ?_, fun _ => .inl ?_⟩ <;> rw [h.rest.eq]

theorem setReg_calendered {o : Nat} {x : W64} : Calendered s (s.setReg o x) := ⟨rfl, rfl, rfl, rfl, fun _ => .inl rfl⟩

/-- The word with a key is corrected, or poison-encoded. -/
def clearUpset (s : State) (k : Nat) : State := s.updMem fun x => { x with upset := FMap.set 0 x.upset k 0 }

theorem clearUpset_clears (s : State) (k : Nat) : Unset k (clearUpset s k) := get_set_same 0 s.mem.upset k 0

theorem clearUpset_calendered {k : Nat} : Calendered s (clearUpset s k) := by
  refine ⟨rfl, rfl, rfl, rfl, fun j => ?_⟩
  have h : count (clearUpset s k).mem.upset j = if j = k then 0 else count s.mem.upset j := get_set 0 s.mem.upset k 0 j
  rw [h]
  split
  · exact .inr rfl
  · exact .inl rfl

theorem dramPoison_calendered {a : Nat} : Calendered s (s.updMem fun x => { x with dramPoison := NatSet.ins x.dramPoison a }) :=
  ⟨rfl, rfl, rfl, rfl, fun _ => .inl rfl⟩

theorem spadPoison_calendered {a : Nat} : Calendered s (s.updMem fun x => { x with spadPoison := NatSet.ins x.spadPoison a }) :=
  ⟨rfl, rfl, rfl, rfl, fun _ => .inl rfl⟩

/-! ### A word of DRAM -/

theorem scrubWord_calendered {kind a : Nat} : Calendered s (s.scrubWord kind a).2 := by
  unfold State.scrubWord
  dsimp only
  split
  · exact countErr_noted.calendered.trans clearUpset_calendered
  · split
    · exact countErr_noted.calendered.trans clearUpset_calendered
    · split
      · exact ((countErr_noted.trans logRec_noted).calendered.trans clearUpset_calendered).trans dramPoison_calendered
      · split
        · exact countErr_noted.calendered
        · exact .refl

theorem scrubWord_clears {kind a : Nat} (h : count s.mem.upset (upsetDram a) ≤ 3) :
    Unset (upsetDram a) (s.scrubWord kind a).2 := by
  unfold State.scrubWord
  dsimp only
  split
  · exact clearUpset_clears _ _
  · split
    · exact clearUpset_clears _ _
    · split
      · exact dramPoison_calendered.clear (clearUpset_clears _ _)
      · have h0 : Unset (upsetDram a) s := by
          unfold Unset
          omega
        split
        · exact countErr_noted.calendered.clear h0
        · exact h0

theorem scrubCopy_calendered {kind w : Nat} {x : Line} : Calendered s (s.scrubCopy kind i x w).2 := by
  unfold State.scrubCopy
  extract_lets src a u fix clear
  have hfix : ∀ t f, Calendered t (fix t f) := fun _ _ => ⟨rfl, rfl, rfl, rfl, fun _ => .inl rfl⟩
  split
  · exact countErr_noted.calendered.trans (hfix _ _)
  · split
    · exact countErr_noted.calendered.trans (hfix _ _)
    · split
      · exact (countErr_noted.trans logRec_noted).calendered.trans (hfix _ _)
      · split
        · exact countErr_noted.calendered
        · exact .refl

/-! ### A scrub window (R260, R460, R461) -/

/-- What one step of a fold brings about, and the other steps keep, holds at its end. -/
theorem foldl_reaches {α β : Type} {p r : β → Prop} {f : β → α → β} (hp : ∀ b y, p b → p (f b y)) (hr : ∀ b y, r b → r (f b y)) {x : α}
    (hx : ∀ b, p b → r (f b x)) {l : List α} (h : x ∈ l) {b : β} (hb : p b) : r (l.foldl f b) := by
  induction l generalizing b with
  | nil => exact absurd h List.not_mem_nil
  | cons y l ih =>
    obtain rfl | h := List.mem_cons.mp h
    · exact foldl_keeps r f l _ (hx b hb) hr
    · exact ih h (hp b y hb)

/-- The line at an address of half-stack `q` is read. -/
def patrolLine (s : State) (q l : Nat) : State :=
  (List.range 16).foldl (fun (s : State) w => (s.scrubWord 2 (l + 8 * w)).2) (s.addReg (aObsHs q 0) 128)

theorem patrolLine_calendered {l : Nat} : Calendered s (patrolLine s q l) :=
  setReg_calendered.trans (.foldl (fun _ _ => scrubWord_calendered) _)

theorem patrolLine_clears {l w : Nat} (h : LowUpsets s) (hw : w < 16) :
    Unset (upsetDram (l + 8 * w)) (patrolLine s q l) := by
  unfold patrolLine
  refine foldl_reaches (p := LowUpsets) (r := Unset (upsetDram (l + 8 * w))) ?_ ?_ (x := w) ?_ (List.mem_range.mpr hw) ?_
  · exact fun _ _ => scrubWord_calendered.low
  · exact fun _ _ => scrubWord_calendered.clear
  · exact fun _ h => scrubWord_clears (h _)
  · exact setReg_calendered.low h

/-- Line `i` of a window that begins at place `p`. -/
def windowLine (q p i : Nat) : Nat := halfStack * q + 128 * ((p + i) % stackLines)

/-- The lines of a window are read. -/
def patrolLines (s : State) (q p : Nat) : State := (List.range 152).foldl (fun s i => patrolLine s q (windowLine q p i)) s

theorem patrolLines_calendered {p : Nat} : Calendered s (patrolLines s q p) := .foldl (fun _ _ => patrolLine_calendered) _

theorem patrolLines_clears {p w : Nat} (h : LowUpsets s) (hi : i < 152) (hw : w < 16) :
    Unset (upsetDram (windowLine q p i + 8 * w)) (patrolLines s q p) := by
  unfold patrolLines
  exact foldl_reaches (p := LowUpsets) (r := Unset (upsetDram (windowLine q p i + 8 * w))) (fun _ _ => patrolLine_calendered.low)
    (fun _ _ => patrolLine_calendered.clear) (fun _ h => patrolLine_clears h hw) (List.mem_range.mpr hi) h

theorem count_setPatrol (s : State) (k x j : Nat) : count (s.setPatrol k x).mem.patrol j = if j = k then x else count s.mem.patrol j :=
  get_set _ _ _ _ _

/-- The patrol of a half-stack and of its die's slices: all but the places they leave behind. -/
theorem patrolDram_reads (hp : s.stackPresent q = true) (hd : s.die q = .powered) :
    ∃ u, Calendered (patrolLines s q (count s.mem.patrol q)) u ∧
      s.patrolDram q = u.setPatrol q ((count s.mem.patrol q + 152) % stackLines) := by
  unfold State.patrolDram
  rw [if_pos (by simp [hp, State.dieRefuses, hd])]
  refine ⟨_, ?_, rfl⟩
  split
  · exact setReg_calendered
  · exact .refl

theorem patrolSlices_reads (s : State) (d : Nat) : ∃ u x, Calendered s u ∧ s.patrolSlices d = u.setPatrol (16 + d) x := by
  unfold State.patrolSlices
  extract_lets p read u v
  have hread : ∀ t j n, Calendered t (read t j n) := fun _ _ _ => .foldl (fun _ _ => .foldl (fun _ _ => scrubCopy_calendered) _) _
  have hu : Calendered s u := .foldl (fun _ _ => (hread _ _ _).trans (hread _ _ _)) _
  refine ⟨v, _, hu.trans ?_, rfl⟩
  unfold v
  split
  · exact setReg_calendered
  · exact .refl

theorem patrolWindow_waits (h : (s.reg aMemCtl).bit 0 = false ∨ s.inWindow 0 255 = false) : exec (.patrolWindow q) s = .next s := by
  have hex : exec (.patrolWindow q) s = execPatrolWindow q s := rfl
  rw [hex, execPatrolWindow, if_neg]
  obtain h | h := h
  · simp [h]
  · simp [h]

theorem patrolWindow_reads (hc : (s.reg aMemCtl).bit 0 = true) (hw : s.inWindow 0 255 = true) (hr : s.power.st = .ready)
    (he : s.dieExists q = true) (hd : s.die q = .powered) (hp : s.stackPresent q = true) (hlow : LowUpsets s) :
    ∃ t, exec (.patrolWindow q) s = .next t ∧ count t.mem.patrol q = (count s.mem.patrol q + 152) % stackLines ∧
      t.mem.dram = s.mem.dram ∧ t.cus = s.cus ∧
      ∀ i w, i < 152 → w < 16 →
        count t.mem.upset (upsetDram (halfStack * q + 128 * ((count s.mem.patrol q + i) % stackLines) + 8 * w)) = 0 := by
  have hex : exec (.patrolWindow q) s = execPatrolWindow q s := rfl
  rw [hex, execPatrolWindow, if_pos (by simp [hc, hw, hr, he, hd])]
  obtain ⟨u, hu, hdram⟩ := patrolDram_reads hp hd
  obtain ⟨v, x, hv, hslices⟩ := patrolSlices_reads (s.patrolDram q) q
  have hsu := patrolLines_calendered.trans hu
  refine ⟨_, rfl, ?_, ?_, ?_, fun i w hi hw => ?_⟩
  · rw [hslices, count_setPatrol, if_neg (by omega), hv.patrol, hdram, count_setPatrol, if_pos rfl]
  · rw [hslices, State.setPatrol]
    exact hv.dram.trans (by rw [hdram]; exact hsu.dram)
  · rw [hslices]
    exact hv.cus.trans (by rw [hdram]; exact hsu.cus)
  · rw [hslices]
    refine hv.clear ?_
    rw [hdram]
    exact hu.clear (patrolLines_clears hlow hi hw)

/-! ### The patrol of a scratchpad (R460, R462) -/

theorem spPatrol_waits (h : (s.reg aMemCtl).bit 1 = false) : exec (.spPatrol m) s = .next s := by
  have hex : exec (.spPatrol m) s = execSpPatrol m s := rfl
  rw [hex, execSpPatrol]
  exact if_neg (by simp [h])

theorem spPatrol_reads (hc : (s.reg aMemCtl).bit 1 = true) (hr : s.power.st = .ready) (hd : s.die (unitDie m) = .powered)
    (he : s.dieExists (unitDie m) = true) :
    ∃ t, exec (.spPatrol m) s = .next t ∧ t.mem.spad = s.mem.spad ∧ t.cus = s.cus ∧
      count t.mem.patrol (64 + m) = if count s.mem.patrol (64 + m) + 1 = 4096 then 0 else count s.mem.patrol (64 + m) + 1 := by
  have hex : exec (.spPatrol m) s = execSpPatrol m s := rfl
  rw [hex, execSpPatrol]
  rw [if_pos (by simp [hc, hr, hd, he])]
  extract_lets p u
  have hu : Calendered s u := by
    refine .foldl (fun t j => ?_) _
    extract_lets k n clear whr x
    split
    · exact countErr_noted.calendered.trans clearUpset_calendered
    · split
      · exact countErr_noted.calendered.trans clearUpset_calendered
      · split
        · exact ((countErr_noted.trans logRec_noted).calendered.trans clearUpset_calendered).trans spadPoison_calendered
        · split
          · exact countErr_noted.calendered
          · exact .refl
  clear_value u
  split
  · refine ⟨_, rfl, hu.spad, hu.cus, ?_⟩
    refine (count_setPatrol _ _ _ _).trans ?_
    rw [if_neg (by omega), count_setPatrol, if_pos rfl]
  · refine ⟨_, rfl, hu.spad, hu.cus, ?_⟩
    rw [count_setPatrol, if_pos rfl]

/-! ### Digests (R446, R495, R496, R498) -/

/-- Without a run and without commands a group has nothing to go on with. -/
theorem collGo_idle (hr : (s.group g).run = none) (hc : s.host.cmds = []) : s.collGo g = s := by
  have hhead : s.collHead g = none := by rw [State.collHead, hc, List.find?_nil]
  rw [State.collGo, hc, List.length_nil, State.collSettle, hr, hhead]
  rfl

theorem append_halves (d : BitVec 128) : (d.extractLsb' 64 64 ++ d.extractLsb' 0 64 : BitVec 128) = d := by
  refine BitVec.eq_of_getLsbD_eq fun i hi => ?_
  rw [BitVec.getLsbD_append]
  split
  next h => simp [h]
  next h =>
    rw [BitVec.getLsbD_extractLsb', decide_eq_true (show i - 64 < 64 by omega), Bool.true_and, Nat.add_sub_cancel' (Nat.le_of_not_lt h)]

/-- A digest of the module is entered. -/
def wmSet (s : State) (d : BitVec 128) : State :=
  ((({ s with wmDigest := d, digestBad := NatSet.del s.digestBad 64 } : State).setReg aWmLo (d.extractLsb' 0 64)).setReg aWmHi
    (d.extractLsb' 64 64)).setReg aWmTime (BitVec.ofNat 64 s.time.now)

theorem wmSet_rest (s : State) (d : BitVec 128) : (wmSet s d).wmDigest = d ∧
    wmSet s d = { s with wmDigest := (wmSet s d).wmDigest, digestBad := (wmSet s d).digestBad, regs := (wmSet s d).regs } := ⟨rfl, rfl⟩

theorem computeWm_eq (s : State) : s.computeWm = wmSet s (digestOf s.wmBlock) := rfl

/-- A digest of a group entry is entered. -/
def grpSet (s : State) (g : Nat) (d : BitVec 128) : State :=
  (({ s with digestBad := NatSet.del s.digestBad g } : State).setReg (aCeGrp g 4) (d.extractLsb' 0 64)).setReg (aCeGrp g 5)
    (d.extractLsb' 64 64)

theorem grpSet_rest (s : State) (g : Nat) (d : BitVec 128) :
    grpSet s g d = { s with digestBad := (grpSet s g d).digestBad, regs := (grpSet s g d).regs } := rfl

theorem computeGrp_eq (s : State) (g : Nat) : s.computeGrp g = grpSet s g (digestOf (s.grpBlock g)) := rfl

theorem grpDigest_grpSet (s : State) (g : Nat) (d : BitVec 128) : (grpSet s g d).grpDigest g = d := by
  have hne : aCeGrp g 4 ≠ aCeGrp g 5 := by
    unfold aCeGrp
    omega
  rw [State.grpDigest, grpSet, reg_setReg_same, reg_setReg, if_neg hne, reg_setReg_same, append_halves]

theorem watermarkRecompute_enters (s : State) : ∃ t, exec .watermarkRecompute s = .next t ∧ t.wmDigest = digestOf s.wmBlock ∧
    t = { s with wmDigest := t.wmDigest, digestBad := t.digestBad, regs := t.regs } := by
  refine ⟨s.computeWm, rfl, ?_⟩
  rw [computeWm_eq]
  exact wmSet_rest s _

theorem digestRecompute_module (s : State) : ∃ t, exec (.digestRecompute 64) s = .next t ∧ t.wmDigest = digestOf s.wmBlock := by
  refine ⟨s.computeWm, congrArg Host.Outcome.next (if_pos rfl), ?_⟩
  rw [computeWm_eq]
  exact (wmSet_rest s _).1

theorem digestRecompute_group (hg : g < 64) (hv : s.gValid g = true) (hr : (s.group g).run = none) (hc : s.host.cmds = []) :
    ∃ t, exec (.digestRecompute g) s = .next t ∧ t.grpDigest g = digestOf (s.grpBlock g) ∧
      t = { s with digestBad := t.digestBad, regs := t.regs } := by
  have hex : exec (.digestRecompute g) s = execDigestRecompute g s := rfl
  have hgo : ∀ d, (grpSet s g d).collGo g = grpSet s g d := fun _ => collGo_idle hr hc
  refine ⟨grpSet s g (digestOf (s.grpBlock g)), ?_, grpDigest_grpSet s g _, grpSet_rest s g _⟩
  rw [hex, execDigestRecompute, if_neg (by omega), if_pos (by simp [hg, hv]), computeGrp_eq, hgo]

/-! ### Retraining (R493) -/

theorem memTrainGo_refused (ho : s.pfOpen (aMemTrain q) = true)
    (h : (s.reg (aMemTrain q)).bit 5 = true ∨ s.die q ≠ .powered ∨ s.stackPresent q = false) :
    ∃ t, exec (.memTrainGo q chan) s = .next t ∧ t = { s with regs := t.regs } ∧ (t.reg (aMemTrain q)).bit 6 = true := by
  have hgo : s.trainGo q chan = s.setRegBit (aMemTrain q) 6 := by
    refine if_pos ?_
    obtain h | h | h := h
    · simp [h]
    · simp [h]
    · simp [h]
  exact ⟨_, pfWrite_open ho _, by rw [hgo]; rfl, by rw [hgo]; exact bit_setRegBit_same _ _ (by decide)⟩

theorem memTrainGo_begins (ho : s.pfOpen (aMemTrain q) = true) (hb : (s.reg (aMemTrain q)).bit 5 = false) (hd : s.die q = .powered)
    (hs : s.stackPresent q = true) (hp : s.cfg.part0 = []) :
    ∃ t, exec (.memTrainGo q chan) s = .next t ∧ (t.reg (aMemTrain q)).bit 5 = true ∧ (t.reg (aMemTrain q)).bits 3 0 = chan % 16 ∧
      count t.power.retrain q = chan % 16 + 1 ∧ t.mem = s.mem := by
  have hvalid : ∀ r, partValid (s.part0 r) = false := fun r => by
    rw [State.part0, hp, get_nil]
    decide
  have hgo : s.trainGo q chan = ((s.setRegBits (aMemTrain q) 3 0 (chan % 16)).setRegBit (aMemTrain q) 5).updPower
      fun p => { p with retrain := FMap.set 0 p.retrain q (chan % 16 + 1) } := if_neg (by simp [hb, hd, hs, hvalid])
  refine ⟨_, pfWrite_open ho _, ?_⟩
  rw [hgo, reg_updPower, bits_setRegBit_apart _ _ (by decide) (.inl (by decide)), bits_setRegBits_same _ _ (by decide) (by decide)]
  exact ⟨bit_setRegBit_same _ _ (by decide), Nat.mod_eq_of_lt (Nat.mod_lt _ (by decide)),
    get_set_same 0 s.power.retrain q (chan % 16 + 1), rfl⟩

theorem retrainDone_idle {ok : Bool} (h : count s.power.retrain q = 0) : exec (.retrainDone q ok) s = .next s := by
  have hex : exec (.retrainDone q ok) s = execRetrainDone q ok s := rfl
  rw [hex, execRetrainDone]
  exact if_pos h

theorem retrainDone_ends {ok : Bool} (h : count s.power.retrain q ≠ 0) :
    ∃ t, exec (.retrainDone q ok) s = .next t ∧ (t.reg (aMemTrain q)).bit 5 = false ∧
      count t.power.retrain q = 0 ∧ (ok = true → NatSet.mem t.power.ifSettings q = true) ∧
      (ok = false → (t.reg (aMemTrain q)).bit 7 = true ∧ t.power.ifSettings = s.power.ifSettings) := by
  have hex : exec (.retrainDone q ok) s = execRetrainDone q ok s := rfl
  rw [hex, execRetrainDone]
  rw [if_neg h]
  extract_lets u
  have hbit : (u.reg (aMemTrain q)).bit 5 = false := (bit_setRegBits _ _ (le_refl 5) (by decide) 0 5).trans rfl
  have hcount : count u.power.retrain q = 0 := get_set_same 0 s.power.retrain q 0
  cases ok
  · refine ⟨_, rfl, ?_, hcount, nofun, fun _ => ⟨bit_setRegBit_same _ _ (by decide), rfl⟩⟩
    exact (bit_setRegBits _ _ (le_refl 7) (by decide) 1 5).trans hbit
  · exact ⟨_, rfl, hbit, hcount, fun _ => (mem_ins _ _ _).mpr (.inl rfl), nofun⟩

end

/-- Settles O45: each event of the memories' upkeep by what it changes, the patrol by what each word it reads becomes. -/
theorem memoryUpkeep : Obligations.MemoryUpkeep :=
  ⟨fun _ _ weak _ hf => ⟨fun hp hm => sheetFetchDone_copies hf hp hm weak, fun hp => sheetFetchDone_off hf hp weak⟩,
    fun _ _ b c _ hw => flashLeafRead_unwanted hw b c,
    fun _ _ _ _ _ _ _ hs hm hl hp ho hr hf hk hline hfl hd hoff hbad => flashLeafRead_answers hs hm hl hp ho hr hf hk hline hfl hd hoff hbad,
    fun fd block s => ⟨retentionTrigger_lists s fd block, fun n fails => ⟨refreshRelocation_waits, refreshRelocation_relocates n fails⟩⟩,
    fun _ _ => ⟨patrolWindow_waits, patrolWindow_reads⟩,
    fun _ _ => ⟨spPatrol_waits, spPatrol_reads⟩,
    fun s => ⟨watermarkRecompute_enters s, digestRecompute_module s, fun _ => digestRecompute_group⟩,
    fun _ _ _ ho => ⟨memTrainGo_refused ho, memTrainGo_begins ho⟩,
    fun _ _ _ => ⟨retrainDone_idle, retrainDone_ends⟩,
    fun _ _ _ => rfl⟩

end Sys2Proof.Proofs
end
